-- ==== Sys2Proof/Word.lean ====
section
/-!
DEFINITION. The word types of the H12 and the plainest arithmetic on them (R2, R3, R7).
-/
namespace Sys2Proof

/-- One byte of a byte-addressed store (R3). -/
abbrev Byte := BitVec 8
/-- A 16-bit switch word or element. -/
abbrev W16 := BitVec 16
/-- A scalar register, an op word or a 32-bit element. -/
abbrev W32 := BitVec 32
/-- A control-core register, a scalar pair or an address. -/
abbrev W64 := BitVec 64
/-- A vector register or a token payload: 512 bits (R105, R148). -/
abbrev Vec := BitVec 512
/-- One 128-bit bundle of four op words (R42). -/
abbrev Bundle := BitVec 128

/-- A site of the package, laid out as TILEID[11:0]: die, column, row (R15). -/
abbrev Site := BitVec 12
/-- A program leaf of a tile (R27). -/
abbrev Leaf := Fin 2
/-- A bank of a tile (R19). -/
abbrev BankId := Fin 4
/-- A die of the package (R10). -/
abbrev DieId := Fin 4
/-- A control core by its package-wide number (R14). -/
abbrev CoreId := Fin 16

end Sys2Proof
end

