-- ==== Sys2Proof/Machine/Map.lean ====
section
/-!
DEFINITION. The map of the package: which sites exist, of what kind they are, and which site serves which (R10-R15).
A site is TILEID[11:0]: die in [11:10], column in [9:5], row in [4:0].
-/
namespace Sys2Proof.Machine

/-- The die of a site (R15). -/
def siteDie (t : Site) : DieId := (t.extractLsb' 10 2).toFin

/-- The column of a site (R15). -/
def siteCol (t : Site) : Nat := (t.extractLsb' 5 5).toNat

/-- The row of a site (R15); rows 24-31 name no site (R12). -/
def siteRow (t : Site) : Nat := (t.extractLsb' 0 5).toNat

/-- The site of a die at a column and a row (R15). -/
def siteAt (d : DieId) (c r : Nat) : Site :=
  BitVec.ofNat 2 d.val ++ BitVec.ofNat 5 c ++ BitVec.ofNat 5 r

/-- Kinds of site (R12). -/
inductive SiteKind where
  | compute
  | memory
  | l2
  | none
  deriving DecidableEq, Repr

/-- The kind of a site depends on its column only; a row above 23 names no site (R12, R397). -/
def siteKind (t : Site) : SiteKind :=
  if 23 < siteRow t then .none
  else if siteCol t % 8 = 7 then .l2
  else if siteCol t % 8 = 6 then .memory
  else .compute

/-- The site is a compute tile (R12). -/
def isCompute (t : Site) : Bool := siteKind t == .compute

/-- The site is a memory tile (R12). -/
def isMemory (t : Site) : Bool := siteKind t == .memory

/-- The home memory tile of a compute tile (R13). -/
def homeMemTile (t : Site) : Site := siteAt (siteDie t) (8 * (siteCol t / 8) + 6) (siteRow t)

/-- The number of a memory tile within its die: 24 per column group, by row (R222). -/
def memTileIndex (t : Site) : Nat := 24 * (siteCol t / 8) + siteRow t

/-- The memory tile of a die with an index below 96 (R222). -/
def memTileSite (d : DieId) (m : Nat) : Site := siteAt d (8 * (m / 24) + 6) (m % 24)

/-- The dies that share an edge with a die: its column neighbour and its row neighbour (R10). -/
def adjacentDies (a b : DieId) : Bool := a != b && a.val + b.val != 3

/-- The die of a control core: core k of die d has number 4·d + k (R14). -/
def coreDie (k : CoreId) : DieId := ⟨k.val / 4, by omega⟩

/-- The control core of a die with an index on that die (R14). -/
def coreOf (d : DieId) (k : Fin 4) : CoreId := ⟨4 * d.val + k.val, by omega⟩

end Sys2Proof.Machine
end

