-- ==== Sys2Proof/Syntax.lean ====
section
/-!
DEFINITION. The syntax of the H12: one constructor of `Instr` for every row of the opcode table, tile ops,
control-core instructions and events alike. Operands are the fields that the op's format names (R47, R55-R58, R68),
already cut to the width in which the op reads them (R49-R51): a vector register has four bits, a scalar pair is the
number of the pair. An event has no encoding: its operands name the unit it concerns.
-/
namespace Sys2Proof

/-- The predicate field of an op word: sense PS and register PR (R45). -/
structure Pg where
  ps : Bool
  pr : BitVec 3
  deriving DecidableEq, Repr, Inhabited

/-- Where an mdrain takes its drain-route entry from (R200): a scalar, or the head token of an input channel. -/
inductive DrainSel where
  | scalar (a : BitVec 5)
  | head (ch : BitVec 3)
  deriving DecidableEq, Repr, Inhabited

/-- A register named by a write that has no behaviour of its own (R6): a tile-state register by the selector of R397,
a CSR of a control core (R395), or a BAR0 register (R401). -/
inductive RegSel where
  | tileState (sel : W64)
  | csr (k : CoreId) (num : BitVec 12)
  | bar0 (off : Nat)
  deriving DecidableEq, Repr, Inhabited

/-- How a PCI Express read completes (R241). -/
inductive PcieStatus where
  | success
  | unsupportedOrAbort
  | poisoned
  deriving DecidableEq, Repr, Inhabited

/-- A host access to device memory through BAR4 (R400): a read of `n` bytes, or a write. -/
inductive Bar4Access where
  | read (off n : Nat)
  | write (off : Nat) (bytes : List Byte)
  deriving DecidableEq, Repr, Inhabited

/-- What a link message carries (R403, R404). A request names the SYSTEM binding of its partition, when it has one; a
response names the request by its source and serial, and gives 64 bytes and a cause code, 0 for none. -/
inductive LinkBody where
  | barrierArrive (sysid : BitVec 12)
  | read (binding : Option (BitVec 12)) (va : W64)
  | write (binding : Option (BitVec 12)) (va : W64) (data : Vec)
  | amo (binding : Option (BitVec 12)) (va : W64) (fn : BitVec 4) (op nw : W32) (serial : BitVec 12)
  | redc (binding : Option (BitVec 12)) (va : W64) (data : Vec)
  | fillc (binding : Option (BitVec 12)) (va : W64) (count : W32) (leaf : Leaf) (bank : BankId) (ch : Fin 8)
  | token (part : BitVec 6) (tile : Site) (leaf : Leaf) (bank : BankId) (ch : Fin 8) (pred : Bool) (payload : Vec)
  | response (unit : Nat) (serial : BitVec 12) (data : Vec) (fault : BitVec 8)
  deriving DecidableEq, Repr, Inhabited

/-- A message on a link: its source (a module and a unit there), the module it goes to, the partition whose credits it takes,
its 12-bit serial, its contents (R403). -/
structure LinkMsg where
  module : BitVec 8
  unit : Nat
  dest : BitVec 8
  part : BitVec 6
  serial : BitVec 12
  body : LinkBody
  deriving DecidableEq, Repr, Inhabited

/-- A flit as a port receives it (R403): intact with its messages and the messages that it acknowledges (the module
they went to, unit and serial), failing its CRC, or lost after eight replays. -/
inductive Flit where
  | intact (acks : List (BitVec 8 × Nat × BitVec 12)) (msgs : List LinkMsg)
  | badCrc
  | lost
  deriving DecidableEq, Repr, Inhabited

/-- The unit that runs an instruction: a slot of the bundle (R42), a control core (R68), or the machine itself. -/
inductive Slot where
  | s
  | v
  | m
  | c
  | core
  deriving DecidableEq, Repr, Inhabited

/-- The instructions and events of the H12, one constructor for each row of the opcode table. -/
inductive Instr where
  -- S slot: alu (R82), cmp (R85), immediates (R83, R84, R85), plog (R86), div (R87)
  | nop
  | add (g : Pg) (d a b : BitVec 5)
  | sub (g : Pg) (d a b : BitVec 5)
  | and (g : Pg) (d a b : BitVec 5)
  | or (g : Pg) (d a b : BitVec 5)
  | xor (g : Pg) (d a b : BitVec 5)
  | shl (g : Pg) (d a b : BitVec 5)
  | shr (g : Pg) (d a b : BitVec 5)
  | sra (g : Pg) (d a b : BitVec 5)
  | mul (g : Pg) (d a b : BitVec 5)
  | mulh (g : Pg) (d a b : BitVec 5)
  | mulhn (g : Pg) (d a b : BitVec 5)
  | min (g : Pg) (d a b : BitVec 5)
  | max (g : Pg) (d a b : BitVec 5)
  | minn (g : Pg) (d a b : BitVec 5)
  | maxn (g : Pg) (d a b : BitVec 5)
  | clz (g : Pg) (d a : BitVec 5)
  | cmp (g : Pg) (d : BitVec 3) (a b : BitVec 5) (cond : BitVec 3)
  | addi (g : Pg) (d a : BitVec 5) (imm : BitVec 12)
  | andi (g : Pg) (d a : BitVec 5) (imm : BitVec 12)
  | ori (g : Pg) (d a : BitVec 5) (imm : BitVec 12)
  | xori (g : Pg) (d a : BitVec 5) (imm : BitVec 12)
  | shli (g : Pg) (d a : BitVec 5) (count : BitVec 5)
  | shri (g : Pg) (d a : BitVec 5) (count : BitVec 5)
  | srai (g : Pg) (d a : BitVec 5) (count : BitVec 5)
  | cmpi (g : Pg) (d : BitVec 3) (cond : BitVec 2) (a : BitVec 5) (imm : BitVec 12)
  | li (g : Pg) (d : BitVec 5) (imm : BitVec 17)
  | lui (g : Pg) (d : BitVec 5) (imm : BitVec 17)
  | pand (g : Pg) (d a b : BitVec 3)
  | por (g : Pg) (d a b : BitVec 3)
  | pxor (g : Pg) (d a b : BitVec 3)
  | pandn (g : Pg) (d a b : BitVec 3)
  | div (g : Pg) (d a b : BitVec 5)
  | divn (g : Pg) (d a b : BitVec 5)
  | rem (g : Pg) (d a b : BitVec 5)
  | remn (g : Pg) (d a b : BitVec 5)
  -- S slot: flow (R89-R94), spill stack (R95), state registers (R98, R99), ends (R100, R101)
  | br (g : Pg) (off : BitVec 22)
  | call (g : Pg) (off : BitVec 22)
  | jr (g : Pg) (a : BitVec 5)
  | loop (g : Pg) (a : BitVec 5) (len : BitVec 12)
  | pushm (g : Pg) (a b : BitVec 5)
  | popm (g : Pg) (a b : BitVec 5)
  | vpushm (g : Pg) (a b : BitVec 4)
  | vpopm (g : Pg) (a b : BitVec 4)
  | rdsr (g : Pg) (d : BitVec 5) (num : BitVec 12)
  | wrsr (g : Pg) (a : BitVec 5) (num : BitVec 12)
  | yield (g : Pg)
  | halt (g : Pg)
  | trap (g : Pg) (code : BitVec 12)
  -- V slot (R129-R147)
  | vadd (g : Pg) (d a b : BitVec 4) (t : BitVec 4) (m : BitVec 3)
  | vsub (g : Pg) (d a b : BitVec 4) (t : BitVec 4) (m : BitVec 3)
  | vmul (g : Pg) (d a b : BitVec 4) (t : BitVec 4) (m : BitVec 3)
  | vfma (g : Pg) (d a b : BitVec 4) (t : BitVec 4) (m : BitVec 3)
  | vmin (g : Pg) (d a b : BitVec 4) (t : BitVec 4)
  | vmax (g : Pg) (d a b : BitVec 4) (t : BitVec 4)
  | vabs (g : Pg) (d a : BitVec 4) (t : BitVec 4) (sat : Bool)
  | vneg (g : Pg) (d a : BitVec 4) (t : BitVec 4) (sat : Bool)
  | vand (g : Pg) (d a b : BitVec 4) (t : BitVec 4)
  | vor (g : Pg) (d a b : BitVec 4) (t : BitVec 4)
  | vxor (g : Pg) (d a b : BitVec 4) (t : BitVec 4)
  | vshl (g : Pg) (d a b : BitVec 4) (t : BitVec 4)
  | vshr (g : Pg) (d a b : BitVec 4) (t : BitVec 4)
  | vcvt (g : Pg) (d a : BitVec 4) (src dst : BitVec 4) (ovf : Bool) (m : BitVec 3)
  | vcmp (g : Pg) (d a b : BitVec 4) (t : BitVec 4) (cond : BitVec 3)
  | vsel (g : Pg) (d a b c : BitVec 4)
  | vbcast (g : Pg) (d : BitVec 4) (a : BitVec 5) (t : BitVec 4)
  | vext (g : Pg) (d : BitVec 5) (a : BitVec 4) (b : BitVec 5) (t : BitVec 4)
  | vins (g : Pg) (d : BitVec 4) (a b : BitVec 5) (t : BitVec 4)
  | vperm (g : Pg) (d a b : BitVec 4) (t : BitVec 4)
  | vred (g : Pg) (d a : BitVec 4) (t : BitVec 4) (fn : BitVec 3) (rnd : BitVec 3)
  | vscan (g : Pg) (d a : BitVec 4) (t : BitVec 4) (fn : BitVec 3) (rnd : BitVec 3)
  | vfn (g : Pg) (d a : BitVec 4) (fn : BitVec 3)
  | vdot (g : Pg) (d a b : BitVec 4) (t : BitVec 4) (m : BitVec 3)
  -- V slot, graphics (R324-R338)
  | vedge (g : Pg) (d a b : BitVec 4) (m : BitVec 3)
  | vbary (g : Pg) (d a b : BitVec 4) (m : BitVec 3)
  | vdedup (g : Pg) (d a b : BitVec 4)
  | vblend (g : Pg) (d a b : BitVec 4) (t : BitVec 4) (fn : BitVec 3)
  | vdepth (g : Pg) (d a b : BitVec 4) (t : BitVec 4) (m : BitVec 3)
  | vrbox (g : Pg) (d a b : BitVec 4)
  | vrtri (g : Pg) (d a b : BitVec 4) (m : BitVec 3)
  | vsort (g : Pg) (d a b : BitVec 4) (m : BitVec 3)
  | vcomp (g : Pg) (d a b : BitVec 4) (m : BitVec 3)
  | vsig (g : Pg) (d a b : BitVec 4)
  | vsigChk (g : Pg) (d a b : BitVec 4)
  -- M slot, matrix (R196-R203)
  | mlat (g : Pg) (a : BitVec 5) (t : BitVec 4) (latch : Bool) (gather : Option (BitVec 4))
  | mlatc (g : Pg) (ch : BitVec 3) (t : BitVec 4) (latch : Bool)
  | mma (g : Pg) (d : Bool) (t : BitVec 4) (bt : Bool)
  | mzero (g : Pg) (d : Bool)
  | mdrain (g : Pg) (d : Bool) (u : BitVec 4) (sh : Bool) (steer : DrainSel)
  | msav (g : Pg) (d : Bool) (a : BitVec 5)
  | mrst (g : Pg) (d : Bool) (a : BitVec 5)
  | msync (g : Pg)
  -- M slot, Carder (R212-R219)
  | cmap (g : Pg) (k : BitVec 4) (a : BitVec 5)
  | cdif (g : Pg) (k : BitVec 4) (a : BitVec 5)
  | cact (g : Pg) (h : Bool) (a : BitVec 5) (t : BitVec 4) (sc : Bool)
  | cstep (g : Pg) (d : BitVec 2) (k : BitVec 4) (h : Bool)
  | cclr (g : Pg) (d : BitVec 2)
  | cout (g : Pg) (d : BitVec 4) (a : BitVec 2) (b : BitVec 5) (hi : Bool) (h : Bool) (m : BitVec 3)
  | csav (g : Pg) (d : BitVec 2) (a : BitVec 5)
  | crst (g : Pg) (d : BitVec 2) (a : BitVec 5)
  -- C slot, channels (R157-R160)
  | pop (g : Pg) (ch : BitVec 3) (d : BitVec 4) (cap : Option (BitVec 3))
  | peek (g : Pg) (ch : BitVec 3) (d : BitVec 4) (k : BitVec 6) (cap : Option (BitVec 3))
  | pops (g : Pg) (ch : BitVec 3) (d : BitVec 5) (e : BitVec 4)
  | hdr (g : Pg) (ch : BitVec 3) (d : BitVec 5)
  | adv (g : Pg) (ch : BitVec 3) (n : BitVec 6)
  | waitf (g : Pg) (ch : BitVec 3) (n : BitVec 6)
  | push (g : Pg) (ch : BitVec 3) (a : BitVec 4)
  | poke (g : Pg) (ch : BitVec 3) (a : BitVec 4) (k : BitVec 6)
  | pub (g : Pg) (ch : BitVec 3) (n : BitVec 6)
  | waite (g : Pg) (ch : BitVec 3) (n : BitVec 6)
  | pushs (g : Pg) (ch : BitVec 3) (a : BitVec 5) (e : BitVec 4)
  | null (g : Pg) (ch : BitVec 3)
  | markRe (g : Pg) (ch : BitVec 3) (a : BitVec 5)
  | markEos (g : Pg) (ch : BitVec 3) (a : BitVec 5)
  -- C slot, scratch and global memory (R226, R234, R236), atomics (R273), ordering (R261, R265)
  | lds (g : Pg) (d : BitVec 4) (b : BitVec 5) (imm : BitVec 12)
  | sts (g : Pg) (d : BitVec 4) (b : BitVec 5) (imm : BitVec 12)
  | ldsw (g : Pg) (d : BitVec 5) (b : BitVec 5) (imm : BitVec 12)
  | stsw (g : Pg) (d : BitVec 5) (b : BitVec 5) (imm : BitVec 12)
  | ldg (g : Pg) (ch : BitVec 3) (pair : BitVec 4) (imm : BitVec 12)
  | stg (g : Pg) (d : BitVec 4) (pair : BitVec 4) (imm : BitVec 12)
  | ldw (g : Pg) (ch : BitVec 3) (b : BitVec 5) (imm : BitVec 12)
  | amo (g : Pg) (pair : BitVec 4) (b : BitVec 5) (fn : BitVec 4) (ret : Option (BitVec 3))
  | fence (g : Pg) (scope : BitVec 3)
  | bar (g : Pg) (scope : BitVec 3)
  -- C slot, umbra (R293), copy (R316, R317, R319), classes (R184, R188), reductions (R280, R281), launch (R347)
  | umen (g : Pg) (a b : BitVec 5)
  | umlv (g : Pg) (a : BitVec 5)
  | umsk (g : Pg) (a b : BitVec 5)
  | umini (g : Pg) (a b : BitVec 5)
  | umabt (g : Pg) (a : BitVec 5)
  | arm (g : Pg) (pair : BitVec 4) (b : BitVec 5)
  | fire (g : Pg) (d a b : BitVec 5)
  | cfgt (g : Pg) (ch : BitVec 3) (a b : BitVec 5)
  | send (g : Pg) (b : BitVec 4) (cls : BitVec 4) (tag : BitVec 2)
  | cmask (g : Pg) (cls : BitVec 4)
  | cunm (g : Pg) (cls : BitVec 4)
  | redc (g : Pg) (d : BitVec 4) (pair : BitVec 4) (imm : BitVec 12)
  | fillc (g : Pg) (d : BitVec 5) (pair : BitVec 4) (imm : BitVec 12)
  | lnch (g : Pg) (a : BitVec 5) (range : Option (BitVec 4)) (ret : Option (BitVec 3))
  -- Control cores (R390-R399)
  | ccAdd (d a b : BitVec 5)
  | ccSub (d a b : BitVec 5)
  | ccAnd (d a b : BitVec 5)
  | ccOr (d a b : BitVec 5)
  | ccXor (d a b : BitVec 5)
  | ccShl (d a b : BitVec 5)
  | ccShr (d a b : BitVec 5)
  | ccSra (d a b : BitVec 5)
  | ccSlt (d a b : BitVec 5)
  | ccSltn (d a b : BitVec 5)
  | ccMul (d a b : BitVec 5)
  | ccAddi (d a : BitVec 5) (imm : BitVec 16)
  | ccAndi (d a : BitVec 5) (imm : BitVec 16)
  | ccOri (d a : BitVec 5) (imm : BitVec 16)
  | ccXori (d a : BitVec 5) (imm : BitVec 16)
  | ccShli (d a : BitVec 5) (count : BitVec 6)
  | ccShri (d a : BitVec 5) (count : BitVec 6)
  | ccSrai (d a : BitVec 5) (count : BitVec 6)
  | ccSlti (d a : BitVec 5) (imm : BitVec 16)
  | ccLui (d : BitVec 5) (imm : BitVec 16)
  | ccLdD (d a : BitVec 5) (imm : BitVec 16)
  | ccLdW (d a : BitVec 5) (imm : BitVec 16)
  | ccLdB (d a : BitVec 5) (imm : BitVec 16)
  | ccStD (d a : BitVec 5) (imm : BitVec 16)
  | ccStW (d a : BitVec 5) (imm : BitVec 16)
  | ccStB (d a : BitVec 5) (imm : BitVec 16)
  | ccBeq (a b : BitVec 5) (off : BitVec 16)
  | ccBne (a b : BitVec 5) (off : BitVec 16)
  | ccBlt (a b : BitVec 5) (off : BitVec 16)
  | ccBge (a b : BitVec 5) (off : BitVec 16)
  | ccBltn (a b : BitVec 5) (off : BitVec 16)
  | ccBgen (a b : BitVec 5) (off : BitVec 16)
  | ccJal (d : BitVec 5) (off : BitVec 21)
  | ccJalr (d a : BitVec 5) (imm : BitVec 16)
  | csrr (d : BitVec 5) (num : BitVec 12)
  | csrw (a : BitVec 5) (num : BitVec 12)
  | eret
  | wfe
  | tinv (d a b : BitVec 5)
  | cfgw (d a b : BitVec 5)
  | tload (a b : BitVec 5)
  | tsr (d a : BitVec 5)
  | tsw (a b : BitVec 5)
  | frd (d a : BitVec 5)
  | frzFreeze (d a b : BitVec 5)
  | frzSwapOut (d a b : BitVec 5)
  | frzSwapOutMemory (d a b : BitVec 5)
  | frzKill (d a b : BitVec 5)
  | thwThaw (d a b : BitVec 5)
  | thwRestore (d a b : BitVec 5)
  | thwRestoreMemory (d a b : BitVec 5)
  | gtw (a b : BitVec 5)
  -- Events: control cores and registers (R394, R395, R6)
  | wfeEnd (k : CoreId)
  | timerExpiry (k : CoreId)
  | msgWrite (v : W64)
  | registerWrite (r : RegSel) (v : W64)
  -- Events: banks (R19, R187, R64, R62, R366, R368, R369)
  | actorFiring (t : Site)
  | classHandlerStart (t : Site)
  | bankBecomesIdle (t : Site) (b : BankId)
  | pendingWriteLanding (t : Site) (b : BankId)
  | asyncReportArrival (i : Nat)
  | freezeReachesBank (t : Site) (l : Leaf) (b : BankId)
  | bstatResumeWrite (t : Site) (l : Leaf) (b : BankId)
  -- Events: channels and the fabric (R149, R155, R166, R177, R178, R182, R186, R354)
  | tokenArrival (t : Site) (l : Leaf) (ch : Fin 8)
  | faultDrainArrival (t : Site) (l : Leaf) (ch : Fin 8)
  | preEmptMarkerArrival (t : Site) (l : Leaf) (ch : Fin 8)
  | slotReleaseArrival (i : Nat)
  | tokenHop (t : Site) (src : Fin 64) (ph : Fin 2)
  | bridgeCrossing (t : Site) (w : Fin 64)
  | classPacketHop (t : Site) (from_ : Fin 5) (ph : Fin 2)
  | classPacketArrival (t : Site) (l : Leaf)
  -- Events: macro sequencer and Carder (R192, R197, R200, R214)
  | msEntryStart (t : Site)
  | msEntryEnd (t : Site) (i : Nat)
  | mlatcTokenTake (t : Site) (i : Nat)
  | mdrainTokenPublish (t : Site) (i : Nat)
  | cactRunEnd (t : Site)
  -- Events: memory system (R228-R241, R256)
  | memoryPortSend (t : Site)
  | portQueueDispatch (mt : Site) (t : Site)
  | pageWalk (mt : Site) (i : Nat)
  | sramBankAccess (i : Nat)
  | responseDelivery (mt : Site) (i : Nat)
  | l2Request (i : Nat) (evict : Option Nat)
  | l2FillArrival (i : Nat)
  | gddr7WriteAccept (i : Nat)
  | gatewayRequest (i : Nat)
  | gatewayInvalidation (i : Nat)
  | hostReadCompletion (i : Nat) (st : PcieStatus)
  | hostCompletionTimeout (i : Nat)
  | weightStoreRead (i : Nat)
  | weightStoreRefresh (d : DieId)
  | writeAcknowledgement (i : Nat)
  -- Events: owners and counters (R272-R283)
  | ownerRequest (i : Nat)
  | amoApply (i : Nat)
  | fillcAtOwner (i : Nat)
  | redcAtOwner (i : Nat)
  | readyTokenDelivery (i : Nat)
  | counterTimeout (mt : Site) (l : Leaf) (i : Nat)
  -- Events: umbra hosts (R290-R303)
  | umbraEnterAtHost (i : Nat)
  | umbraLeaveAtHost (i : Nat)
  | umbraSkipAtHost (i : Nat)
  | umbraInitAtHost (i : Nat)
  | umbraGrantArrival (i : Nat)
  | umbraRefusalRetry (mt : Site) (t : Site)
  | umbstall (mt : Site) (l : Leaf) (key seq : W32)
  | deadlockProbeAnswer (i : Nat)
  | umrelWrite (mt : Site) (l : Leaf) (v : W64)
  -- Events: copy engines and edge buffers (R246, R247, R306-R323)
  | templateQueueHead (mt : Site) (l : Leaf) (u : Fin 4)
  | copyRunStart (mt : Site) (l : Leaf) (u : Fin 4)
  | copyBeat (mt : Site) (l : Leaf) (u : Fin 4)
  | copyChunkAck (i : Nat)
  | completionTokenPublish (mt : Site) (l : Leaf) (tag : Fin 16)
  | armAtMemoryTile (i : Nat)
  | fireTokenEnqueue (i : Nat)
  | tplfireWrite (k : CoreId) (mt : Site) (l : Leaf) (u : Fin 4) (v : W64)
  | tplstWrite (mt : Site) (l : Leaf) (u : Fin 4) (v : W32)
  | edgeBufferPass (mt : Site) (l : Leaf) (x : Fin 8)
  | edgeBufferRelease (mt : Site) (l : Leaf) (x : Fin 8)
  -- Events: barriers, launch, placement (R265, R341-R351)
  | barrierEpisodeComplete (t : Site) (l : Leaf) (scope : Fin 5)
  | entryStart
  | indexTokenPublish (i : Nat)
  | dieShareReport (d : DieId) (i : Nat)
  | graphEnd (i : Nat)
  | launchAtMaster (i : Nat)
  | notifyTokenDelivery (i : Nat)
  | masterElection
  | millinerSample (d : DieId) (e : Fin 16)
  | tileActivation (d : DieId) (e : Fin 16)
  | tileDeactivation (d : DieId) (e : Fin 16)
  | elasticQueuePass (d : DieId) (e : Fin 16)
  -- Events: pre-emption and notices (R353-R359, R374, R371, R383, R386, R385)
  | swapDecision (d : DieId) (part : BitVec 6)
  | tileSave (t : Site) (l : Leaf)
  | swapComplete (part : BitVec 6)
  | restoreAtTile (t : Site) (l : Leaf)
  | noticeRecordWrite (d : DieId) (part : BitVec 6)
  | nqsizeWrite (d : DieId) (part : BitVec 6) (v : W64)
  | tinvAcknowledgement (k : CoreId)
  | heldWriteRetranslate (mt : Site)
  | counterIncrement (i : Nat)
  -- Events: host, links, power, identity (R39, R400-R409)
  | doorbellWrite (v : W32)
  | pwrTargetWrite (v : W32)
  | powerStateChangeComplete
  | fenceWrite (v : W32)
  | dierstWrite (v : W32)
  | moduleReset
  | attctlGoWrite
  | attnonceWrite (w : Fin 8) (v : W32)
  | attestationReportDone
  | tempAlarm (d : DieId) (temp : W16)
  | hostBar4Access (acc : Bar4Access)
  | launchWindowWrite (off : Nat) (v : W32)
  | linkFlitReceive (port : Fin 18) (f : Flit)
  | linkRetrainComplete (port : Fin 18)
  | powerRemoval
  | firmwareCheckEnd (d : DieId)
  | umbraHostMarker (mt : Site) (l : Leaf)
  deriving DecidableEq, Repr, Inhabited

end Sys2Proof
end

