-- ==== Sys2Proof/WellFormed.lean ====
section
/-!
DEFINITION. Which operand values an instruction accepts. A tile op word whose T, M, condition, scope or register
number is not accepted faults ILLOP at issue and so stands for no instruction (R53, R60, R129, R191, R200, R324);
an event concerns a site of the kind that it names (R12).
-/
namespace Sys2Proof

/-- The integer type codes of R103 that an op computes on: I8, N8, I16, N16, I32 and I4. -/
def intT (t : BitVec 4) : Bool := t == 0x1 || t == 0x2 || t == 0x3 || t == 0x4 || t == 0x5 || t == 0xC

/-- The float type codes of R103. -/
def floatT (t : BitVec 4) : Bool := t == 0x6 || t == 0x7 || t == 0x8 || t == 0x9 || t == 0xA || t == 0xB

/-- ARITH of R129: I8, N8, I16, N16, I32, F32, BF16 and F16. -/
def arithT (t : BitVec 4) : Bool :=
  t == 0x1 || t == 0x2 || t == 0x3 || t == 0x4 || t == 0x5 || t == 0x6 || t == 0x7 || t == 0x8

/-- "Any" of R129: every code except BP and DF. -/
def anyT (t : BitVec 4) : Bool := t != 0xD && t != 0xE

/-- The types of `vshl` and `vshr` (R129). -/
def shiftT (t : BitVec 4) : Bool := t == 0x1 || t == 0x2 || t == 0x3 || t == 0x4 || t == 0x5

/-- The source and destination types of `vcvt`: every code except BP and DF (R129). -/
def cvtT (t : BitVec 4) : Bool := t != 0xD && t != 0xE

/-- The FP8 and FP4 destinations that take `.nsat` (R136). -/
def narrowFloatT (t : BitVec 4) : Bool := t == 0x9 || t == 0xA || t == 0xB

/-- The types of `vperm`: those of 8 bits or more, BP and DF apart (R129). -/
def permT (t : BitVec 4) : Bool := t != 0xB && t != 0xC && t != 0xD && t != 0xE

/-- The source types of `vdot` (R129). -/
def dotT (t : BitVec 4) : Bool := t == 0x7 || t == 0x8 || t == 0x3 || t == 0x4

/-- The types of `vblend` (R324). -/
def blendT (t : BitVec 4) : Bool := t == 0x6 || t == 0x7 || t == 0x8

/-- The types of the matrix array (R191). -/
def arrayT (t : BitVec 4) : Bool :=
  t == 0x7 || t == 0x8 || t == 0x9 || t == 0xA || t == 0x1 || t == 0xB || t == 0xC

/-- The output types of `mdrain` (R200). -/
def drainT (t : BitVec 4) : Bool :=
  t == 0x0 || t == 0x5 || t == 0x6 || t == 0x7 || t == 0x8 || t == 0x3 || t == 0x9 || t == 0xA || t == 0x1 ||
    t == 0xB || t == 0xC

/-- The output types of `mdrain` that accept `.sh` (R200). -/
def scaleHeadT (t : BitVec 4) : Bool := t == 0x7 || t == 0x8 || t == 0x9 || t == 0xA || t == 0xB

/-- A rounding code: 5-7 fault ILLOP (R53). -/
def roundOk (m : BitVec 3) : Bool := m.ult 5

/-- The M field of an arithmetic op: a rounding code for a float T, wrap or `.sat` for an integer T (R56). -/
def modeOk (t : BitVec 4) (m : BitVec 3) : Bool := if floatT t then roundOk m else m.ult 2

/-- The state-register numbers of R77, and GDEPTH (R345). -/
def srAssigned (n : BitVec 12) : Bool := n.ult 0x014 || (0x020#12).ule n && n.ult 0x030

/-- The instruction's operands are ones that the spec accepts. -/
def Instr.wf : Instr → Bool
  | .nop => true
  | .add .. => true
  | .sub .. => true
  | .and .. => true
  | .or .. => true
  | .xor .. => true
  | .shl .. => true
  | .shr .. => true
  | .sra .. => true
  | .mul .. => true
  | .mulh .. => true
  | .mulhn .. => true
  | .min .. => true
  | .max .. => true
  | .minn .. => true
  | .maxn .. => true
  | .clz .. => true
  | .cmp _ _ _ _ cond => cond != 6 && cond != 7
  | .addi .. => true
  | .andi .. => true
  | .ori .. => true
  | .xori .. => true
  | .shli .. => true
  | .shri .. => true
  | .srai .. => true
  | .cmpi .. => true
  | .li .. => true
  | .lui .. => true
  | .pand .. => true
  | .por .. => true
  | .pxor .. => true
  | .pandn .. => true
  | .div .. => true
  | .divn .. => true
  | .rem .. => true
  | .remn .. => true
  | .br .. => true
  | .call .. => true
  | .jr .. => true
  | .loop .. => true
  | .pushm .. => true
  | .popm .. => true
  | .vpushm .. => true
  | .vpopm .. => true
  | .rdsr _ _ num => srAssigned num
  | .wrsr _ _ num => srAssigned num
  | .yield .. => true
  | .halt .. => true
  | .trap .. => true
  | .vadd _ _ _ _ t m => arithT t && modeOk t m
  | .vsub _ _ _ _ t m => arithT t && modeOk t m
  | .vmul _ _ _ _ t m => arithT t && modeOk t m
  | .vfma _ _ _ _ t m => arithT t && modeOk t m
  | .vmin _ _ _ _ t => arithT t
  | .vmax _ _ _ _ t => arithT t
  | .vabs _ _ _ t sat => arithT t && (!sat || !floatT t)
  | .vneg _ _ _ t sat => arithT t && (!sat || !floatT t)
  | .vand _ _ _ _ t => anyT t
  | .vor _ _ _ _ t => anyT t
  | .vxor _ _ _ _ t => anyT t
  | .vshl _ _ _ _ t => shiftT t
  | .vshr _ _ _ _ t => shiftT t
  | .vcvt _ _ _ src dst ovf m => cvtT src && cvtT dst && roundOk m && (!ovf || narrowFloatT dst || intT dst)
  | .vcmp _ _ _ _ t cond => arithT t && cond != 7
  | .vsel .. => true
  | .vbcast _ _ _ t => anyT t
  | .vext _ _ _ _ t => anyT t
  | .vins _ _ _ _ t => anyT t
  | .vperm _ _ _ _ t => permT t
  | .vred _ _ _ t fn rnd => arithT t && (fn == 0 || fn == 1 || fn == 2) && (if floatT t && fn == 0 then roundOk rnd else rnd == 0)
  | .vscan _ _ _ t fn rnd => arithT t && (fn == 0 || fn == 1 || fn == 2) && (if floatT t && fn == 0 then roundOk rnd else rnd == 0)
  | .vfn _ _ _ fn => fn != 6 && fn != 7
  | .vdot _ _ _ _ t m => dotT t && modeOk t m
  | .vedge _ _ _ _ m => m == 0 || m == 1 || m == 2
  | .vbary _ _ _ _ m => roundOk m
  | .vdedup .. => true
  | .vblend _ _ _ _ t fn => blendT t && roundOk fn
  | .vdepth _ _ _ _ t _ => t == 0x6 || t == 0x4
  | .vrbox .. => true
  | .vrtri _ _ _ _ m => m == 0 || m == 1 || m == 2
  | .vsort _ _ _ _ m => m == 0 || m == 1 || m == 2
  | .vcomp _ _ _ _ m => roundOk m
  | .vsig .. => true
  | .vsigChk .. => true
  | .mlat _ _ t latch gather => arrayT t && (gather.isNone || !latch)
  | .mlatc _ _ t _ => arrayT t
  | .mma _ _ t _ => arrayT t
  | .mzero .. => true
  | .mdrain _ _ u sh _ => drainT u && (!sh || scaleHeadT u)
  | .msav .. => true
  | .mrst .. => true
  | .msync .. => true
  | .cmap .. => true
  | .cdif .. => true
  | .cact _ _ _ t _ => t == 0x1 || t == 0x3
  | .cstep .. => true
  | .cclr .. => true
  | .cout _ _ _ _ _ _ m => roundOk m
  | .csav .. => true
  | .crst .. => true
  | .pop .. => true
  | .peek .. => true
  | .pops .. => true
  | .hdr .. => true
  | .adv .. => true
  | .waitf .. => true
  | .push .. => true
  | .poke .. => true
  | .pub .. => true
  | .waite .. => true
  | .pushs .. => true
  | .null .. => true
  | .markRe .. => true
  | .markEos .. => true
  | .lds .. => true
  | .sts .. => true
  | .ldsw .. => true
  | .stsw .. => true
  | .ldg .. => true
  | .stg .. => true
  | .ldw .. => true
  | .amo _ _ b fn _ => fn.ult 9 && (fn != 8 || !b.getLsbD 0)
  | .fence _ scope => scope.ult 5
  | .bar _ scope => scope.ult 5
  | .umen .. => true
  | .umlv .. => true
  | .umsk .. => true
  | .umini .. => true
  | .umabt .. => true
  | .arm .. => true
  | .fire .. => true
  | .cfgt .. => true
  | .send .. => true
  | .cmask .. => true
  | .cunm .. => true
  | .redc .. => true
  | .fillc .. => true
  | .lnch .. => true
  | .ccAdd .. => true
  | .ccSub .. => true
  | .ccAnd .. => true
  | .ccOr .. => true
  | .ccXor .. => true
  | .ccShl .. => true
  | .ccShr .. => true
  | .ccSra .. => true
  | .ccSlt .. => true
  | .ccSltn .. => true
  | .ccMul .. => true
  | .ccAddi .. => true
  | .ccAndi .. => true
  | .ccOri .. => true
  | .ccXori .. => true
  | .ccShli .. => true
  | .ccShri .. => true
  | .ccSrai .. => true
  | .ccSlti .. => true
  | .ccLui .. => true
  | .ccLdD .. => true
  | .ccLdW .. => true
  | .ccLdB .. => true
  | .ccStD .. => true
  | .ccStW .. => true
  | .ccStB .. => true
  | .ccBeq .. => true
  | .ccBne .. => true
  | .ccBlt .. => true
  | .ccBge .. => true
  | .ccBltn .. => true
  | .ccBgen .. => true
  | .ccJal .. => true
  | .ccJalr .. => true
  | .csrr .. => true
  | .csrw .. => true
  | .eret => true
  | .wfe => true
  | .tinv .. => true
  | .cfgw .. => true
  | .tload .. => true
  | .tsr .. => true
  | .tsw .. => true
  | .frd .. => true
  | .frzFreeze .. => true
  | .frzSwapOut .. => true
  | .frzSwapOutMemory .. => true
  | .frzKill .. => true
  | .thwThaw .. => true
  | .thwRestore .. => true
  | .thwRestoreMemory .. => true
  | .gtw .. => true
  | .wfeEnd .. => true
  | .timerExpiry .. => true
  | .msgWrite .. => true
  | .registerWrite .. => true
  | .actorFiring t => Machine.isCompute t
  | .classHandlerStart t => Machine.isCompute t
  | .bankBecomesIdle t _ => Machine.isCompute t
  | .pendingWriteLanding t _ => Machine.isCompute t
  | .asyncReportArrival .. => true
  | .freezeReachesBank t _ _ => Machine.isCompute t
  | .bstatResumeWrite t _ _ => Machine.isCompute t
  | .tokenArrival t _ _ => Machine.isCompute t
  | .faultDrainArrival t _ _ => Machine.isCompute t
  | .preEmptMarkerArrival t _ _ => Machine.isCompute t
  | .slotReleaseArrival .. => true
  | .tokenHop t _ _ => Machine.siteKind t != .none
  | .bridgeCrossing t _ => Machine.siteKind t != .none
  | .classPacketHop t _ _ => Machine.siteKind t != .none
  | .classPacketArrival t _ => Machine.isCompute t
  | .msEntryStart t => Machine.isCompute t
  | .msEntryEnd t _ => Machine.isCompute t
  | .mlatcTokenTake t _ => Machine.isCompute t
  | .mdrainTokenPublish t _ => Machine.isCompute t
  | .cactRunEnd t => Machine.isCompute t
  | .memoryPortSend t => Machine.isCompute t
  | .portQueueDispatch mt t => Machine.isMemory mt && Machine.isCompute t && Machine.homeMemTile t == mt
  | .pageWalk mt _ => Machine.isMemory mt
  | .sramBankAccess .. => true
  | .responseDelivery mt _ => Machine.isMemory mt
  | .l2Request .. => true
  | .l2FillArrival .. => true
  | .gddr7WriteAccept .. => true
  | .gatewayRequest .. => true
  | .gatewayInvalidation .. => true
  | .hostReadCompletion .. => true
  | .hostCompletionTimeout .. => true
  | .weightStoreRead .. => true
  | .weightStoreRefresh .. => true
  | .writeAcknowledgement .. => true
  | .ownerRequest .. => true
  | .amoApply .. => true
  | .fillcAtOwner .. => true
  | .redcAtOwner .. => true
  | .readyTokenDelivery .. => true
  | .counterTimeout mt _ _ => Machine.isMemory mt
  | .umbraEnterAtHost .. => true
  | .umbraLeaveAtHost .. => true
  | .umbraSkipAtHost .. => true
  | .umbraInitAtHost .. => true
  | .umbraGrantArrival .. => true
  | .umbraRefusalRetry mt t => Machine.isMemory mt && Machine.isCompute t && Machine.homeMemTile t == mt
  | .umbstall mt _ _ _ => Machine.isMemory mt
  | .deadlockProbeAnswer .. => true
  | .umrelWrite mt _ _ => Machine.isMemory mt
  | .templateQueueHead mt _ _ => Machine.isMemory mt
  | .copyRunStart mt _ _ => Machine.isMemory mt
  | .copyBeat mt _ _ => Machine.isMemory mt
  | .copyChunkAck .. => true
  | .completionTokenPublish mt _ _ => Machine.isMemory mt
  | .armAtMemoryTile .. => true
  | .fireTokenEnqueue .. => true
  | .tplfireWrite _ mt _ _ _ => Machine.isMemory mt
  | .tplstWrite mt _ _ _ => Machine.isMemory mt
  | .edgeBufferPass mt _ _ => Machine.isMemory mt
  | .edgeBufferRelease mt _ _ => Machine.isMemory mt
  | .barrierEpisodeComplete t _ _ => Machine.isCompute t
  | .entryStart => true
  | .indexTokenPublish .. => true
  | .dieShareReport .. => true
  | .graphEnd .. => true
  | .launchAtMaster .. => true
  | .notifyTokenDelivery .. => true
  | .masterElection => true
  | .millinerSample .. => true
  | .tileActivation .. => true
  | .tileDeactivation .. => true
  | .elasticQueuePass .. => true
  | .swapDecision .. => true
  | .tileSave t _ => (Machine.isCompute t || Machine.isMemory t)
  | .swapComplete .. => true
  | .restoreAtTile t _ => (Machine.isCompute t || Machine.isMemory t)
  | .noticeRecordWrite .. => true
  | .nqsizeWrite .. => true
  | .tinvAcknowledgement .. => true
  | .heldWriteRetranslate mt => Machine.isMemory mt
  | .counterIncrement .. => true
  | .doorbellWrite .. => true
  | .pwrTargetWrite .. => true
  | .powerStateChangeComplete => true
  | .fenceWrite .. => true
  | .dierstWrite .. => true
  | .moduleReset => true
  | .attctlGoWrite => true
  | .attnonceWrite .. => true
  | .attestationReportDone => true
  | .tempAlarm .. => true
  | .hostBar4Access .. => true
  | .launchWindowWrite .. => true
  | .linkFlitReceive .. => true
  | .linkRetrainComplete .. => true
  | .powerRemoval => true
  | .firmwareCheckEnd .. => true
  | .umbraHostMarker mt _ => Machine.isMemory mt

end Sys2Proof
end

