-- ==== Sys2Proof/Decode.lean ====
section
/-!
DEFINITION. Decoding of op words and control-core words, total and rejecting by answering `none`, which is the ILLOP
of R60 (tile slots) and of R68-R69 (control cores); then the encoder, written from the same tables (R47-R58, R68-R69).
-/
namespace Sys2Proof

/-! ## Fields of an op word (R45, R47) -/

/-- PS and PR (R45). -/
def opGuard (w : W32) : Pg := ⟨w.getLsbD 31, w.extractLsb' 28 3⟩
/-- OP, bits [27:22]. -/
def opCode (w : W32) : BitVec 6 := w.extractLsb' 22 6
/-- D, bits [21:17]. -/
def fD (w : W32) : BitVec 5 := w.extractLsb' 17 5
/-- A, bits [16:12]; B of format CM. -/
def fA (w : W32) : BitVec 5 := w.extractLsb' 12 5
/-- B, bits [11:7]. -/
def fB (w : W32) : BitVec 5 := w.extractLsb' 7 5
/-- X, bits [6:0]. -/
def fX (w : W32) : BitVec 7 := w.extractLsb' 0 7
/-- T, X[6:3] (R56). -/
def fT (w : W32) : BitVec 4 := w.extractLsb' 3 4
/-- M, X[2:0] (R56). -/
def fM (w : W32) : BitVec 3 := w.extractLsb' 0 3
/-- IMM12. -/
def fImm12 (w : W32) : BitVec 12 := w.extractLsb' 0 12
/-- IMM17. -/
def fImm17 (w : W32) : BitVec 17 := w.extractLsb' 0 17
/-- OFF22. -/
def fOff22 (w : W32) : BitVec 22 := w.extractLsb' 0 22
/-- H of format C, bits [21:18]. -/
def fH (w : W32) : BitVec 4 := w.extractLsb' 18 4
/-- G of format C, bits [17:13]. -/
def fG (w : W32) : BitVec 5 := w.extractLsb' 13 5
/-- N of format C, bits [12:7]. -/
def fN (w : W32) : BitVec 6 := w.extractLsb' 7 6

/-- A predicate, response channel or `cfgt` channel field: bits [2:0] of the field, upper bits ignored (R49, R51). -/
def low3 (f : BitVec 5) : BitVec 3 := f.extractLsb' 0 3
/-- A batt register field: bits [1:0] (R49). -/
def low2 (f : BitVec 5) : BitVec 2 := f.extractLsb' 0 2
/-- An accumulator field: bit [0] (R49). -/
def low1 (f : BitVec 5) : Bool := f.getLsbD 0
/-- A vector register field: the top bit has to be 0 (R49). -/
def vreg (f : BitVec 5) : Option (BitVec 4) := if f.getLsbD 4 then none else some (f.extractLsb' 0 4)
/-- A scalar pair field: the even register of the pair (R50). -/
def pairReg (f : BitVec 5) : Option (BitVec 4) := if f.getLsbD 0 then none else some (f.extractLsb' 1 4)
/-- An input channel handle (R51). -/
def inHandle (h : BitVec 4) : Option (BitVec 3) := if h.getLsbD 3 then none else some (h.extractLsb' 0 3)
/-- An output channel handle (R51). -/
def outHandle (h : BitVec 4) : Option (BitVec 3) := if h.getLsbD 3 then some (h.extractLsb' 0 3) else none

/-- The instruction stands when the reserved bits are zero (R48). -/
def whenB (ok : Bool) (i : Instr) : Option Instr := if ok then some i else none

/-- The instruction stands when its operands are accepted (R60). -/
def accept (i : Option Instr) : Option Instr :=
  match i with
  | some j => whenB j.wf j
  | none => none

/-! ## The S slot (R55) -/

/-- The alu functions by X[3:0] (R55). -/
def decodeAlu (w : W32) : Instr :=
  let g := opGuard w
  let d := fD w
  let a := fA w
  let b := fB w
  match (w.extractLsb' 0 4).toNat with
  | 0 => .add g d a b
  | 1 => .sub g d a b
  | 2 => .and g d a b
  | 3 => .or g d a b
  | 4 => .xor g d a b
  | 5 => .shl g d a b
  | 6 => .shr g d a b
  | 7 => .sra g d a b
  | 8 => .mul g d a b
  | 9 => .mulh g d a b
  | 10 => .mulhn g d a b
  | 11 => .min g d a b
  | 12 => .max g d a b
  | 13 => .minn g d a b
  | 14 => .maxn g d a b
  | _ => .clz g d a

/-- The predicate logic functions by X[1:0] (R55). -/
def decodePlog (w : W32) : Instr :=
  let g := opGuard w
  let d := low3 (fD w)
  let a := low3 (fA w)
  let b := low3 (fB w)
  match (w.extractLsb' 0 2).toNat with
  | 0 => .pand g d a b
  | 1 => .por g d a b
  | 2 => .pxor g d a b
  | _ => .pandn g d a b

/-- The divide functions by X[1:0] (R55). -/
def decodeDiv (w : W32) : Instr :=
  let g := opGuard w
  let d := fD w
  let a := fA w
  let b := fB w
  match (w.extractLsb' 0 2).toNat with
  | 0 => .div g d a b
  | 1 => .divn g d a b
  | 2 => .rem g d a b
  | _ => .remn g d a b

/-- The fields of an S-slot word, before the checks on accepted values (R54, R55). -/
def decodeSRaw (w : W32) : Option Instr :=
  let g := opGuard w
  let d := fD w
  let a := fA w
  let imm := fImm12 w
  match (opCode w).toNat with
  | 0x00 => some .nop
  | 0x01 => whenB (w.extractLsb' 4 3 == 0) (decodeAlu w)
  | 0x02 => whenB (w.extractLsb' 3 4 == 0) (.cmp g (low3 d) a (fB w) (fM w))
  | 0x03 => some (.addi g d a imm)
  | 0x04 => some (.andi g d a imm)
  | 0x05 => some (.ori g d a imm)
  | 0x06 => some (.xori g d a imm)
  | 0x07 => some (.shli g d a (w.extractLsb' 0 5))
  | 0x08 => some (.shri g d a (w.extractLsb' 0 5))
  | 0x09 => some (.srai g d a (w.extractLsb' 0 5))
  | 0x0A => some (.cmpi g (low3 d) (w.extractLsb' 20 2) a imm)
  | 0x0B => some (.li g d (fImm17 w))
  | 0x0C => some (.lui g d (fImm17 w))
  | 0x0D => whenB (w.extractLsb' 2 5 == 0) (decodePlog w)
  | 0x0E => whenB (w.extractLsb' 2 5 == 0) (decodeDiv w)
  | 0x10 => some (.br g (fOff22 w))
  | 0x11 => some (.call g (fOff22 w))
  | 0x12 => whenB (fX w == 0) (.jr g a)
  | 0x13 => some (.loop g a imm)
  | 0x14 =>
    if w.extractLsb' 1 6 != 0 then none
    else if w.getLsbD 0 then do some (.vpushm g (← vreg a) (← vreg (fB w)))
    else some (.pushm g a (fB w))
  | 0x15 =>
    if w.extractLsb' 1 6 != 0 then none
    else if w.getLsbD 0 then do some (.vpopm g (← vreg a) (← vreg (fB w)))
    else some (.popm g a (fB w))
  | 0x16 => some (.rdsr g d imm)
  | 0x17 => some (.wrsr g a imm)
  | 0x18 => whenB (fX w == 0) (.yield g)
  | 0x19 => whenB (fX w == 0) (.halt g)
  | 0x1A => some (.trap g imm)
  | _ => none

/-- The instruction of an S-slot word, or `none` where it faults ILLOP. -/
def decodeS (w : W32) : Option Instr := accept (decodeSRaw w)

/-! ## The V slot (R56, R324) -/

/-- The three vector registers of an op that reads vA and vB. -/
def vvv (w : W32) (f : BitVec 4 → BitVec 4 → BitVec 4 → Instr) : Option Instr := do
  some (f (← vreg (fD w)) (← vreg (fA w)) (← vreg (fB w)))

/-- The two vector registers of an op whose B names none. -/
def vv (w : W32) (f : BitVec 4 → BitVec 4 → Instr) : Option Instr := do
  some (f (← vreg (fD w)) (← vreg (fA w)))

/-- The rounding code in B[2:0] of a float sum; elsewhere B is ignored (R144). -/
def sumRound (w : W32) : BitVec 3 := if floatT (fT w) && fM w == 0 then w.extractLsb' 7 3 else 0

/-- The fields of a V-slot word, before the checks on accepted values (R54, R56). -/
def decodeVRaw (w : W32) : Option Instr :=
  let g := opGuard w
  let t := fT w
  let m := fM w
  match (opCode w).toNat with
  | 0x00 => some .nop
  | 0x01 => vvv w (fun d a b => .vadd g d a b t m)
  | 0x02 => vvv w (fun d a b => .vsub g d a b t m)
  | 0x03 => vvv w (fun d a b => .vmul g d a b t m)
  | 0x04 => vvv w (fun d a b => .vfma g d a b t m)
  | 0x05 => if m == 0 then vvv w (fun d a b => .vmin g d a b t) else none
  | 0x06 => if m == 0 then vvv w (fun d a b => .vmax g d a b t) else none
  | 0x07 =>
    if m.getLsbD 2 then none
    else if m.getLsbD 0 then vv w (fun d a => .vneg g d a t (m.getLsbD 1))
    else vv w (fun d a => .vabs g d a t (m.getLsbD 1))
  | 0x08 => if m == 0 then vvv w (fun d a b => .vand g d a b t) else none
  | 0x09 => if m == 0 then vvv w (fun d a b => .vor g d a b t) else none
  | 0x0A => if m == 0 then vvv w (fun d a b => .vxor g d a b t) else none
  | 0x0B => if m == 0 then vvv w (fun d a b => .vshl g d a b t) else none
  | 0x0C => if m == 0 then vvv w (fun d a b => .vshr g d a b t) else none
  | 0x0D => vv w (fun d a => .vcvt g d a t (w.extractLsb' 7 4) (w.getLsbD 11) m)
  | 0x0E => vvv w (fun d a b => .vcmp g d a b t m)
  | 0x0F => if m == 0 then vvv w (fun d a b => .vsel g d a b t) else none
  | 0x10 => if m == 0 then do some (.vbcast g (← vreg (fD w)) (fA w) t) else none
  | 0x11 => if m == 0 then do some (.vext g (fD w) (← vreg (fA w)) (fB w) t) else none
  | 0x12 => if m == 0 then do some (.vins g (← vreg (fD w)) (fA w) (fB w) t) else none
  | 0x13 => if m == 0 then vvv w (fun d a b => .vperm g d a b t) else none
  | 0x14 => vv w (fun d a => .vred g d a t m (sumRound w))
  | 0x15 => vv w (fun d a => .vscan g d a t m (sumRound w))
  | 0x16 => if t == 0x6 then vv w (fun d a => .vfn g d a m) else none
  | 0x17 => vvv w (fun d a b => .vdot g d a b t m)
  | 0x20 => if t == 0x5 then vvv w (fun d a b => .vedge g d a b m) else none
  | 0x21 => if t == 0x6 then vvv w (fun d a b => .vbary g d a b m) else none
  | 0x22 => if t == 0x5 && m == 0 then vvv w (fun d a b => .vdedup g d a b) else none
  | 0x23 => vvv w (fun d a b => .vblend g d a b t m)
  | 0x24 => vvv w (fun d a b => .vdepth g d a b t m)
  | 0x25 => if t == 0x6 && m == 0 then vvv w (fun d a b => .vrbox g d a b) else none
  | 0x26 => if t == 0x6 then vvv w (fun d a b => .vrtri g d a b m) else none
  | 0x27 => if t == 0x5 then vvv w (fun d a b => .vsort g d a b m) else none
  | 0x28 => if t == 0x6 then vvv w (fun d a b => .vcomp g d a b m) else none
  | 0x29 =>
    if t != 0 then none
    else if m == 0 then vvv w (fun d a b => .vsig g d a b)
    else if m == 1 then vvv w (fun d a b => .vsigChk g d a b)
    else none
  | _ => none

/-- The instruction of a V-slot word, or `none` where it faults ILLOP. -/
def decodeV (w : W32) : Option Instr := accept (decodeVRaw w)

/-! ## The M slot (R57, R208) -/

/-- The fields of an M-slot word, before the checks on accepted values (R54, R57, R208). -/
def decodeMRaw (w : W32) : Option Instr :=
  let g := opGuard w
  let d := fD w
  let a := fA w
  let t := fT w
  match (opCode w).toNat with
  | 0x00 => some .nop
  | 0x01 =>
    if w.getLsbD 2 then none
    else if w.getLsbD 1 then do some (.mlat g a t (w.getLsbD 0) (some (← vreg (fB w))))
    else some (.mlat g a t (w.getLsbD 0) none)
  | 0x02 => if w.extractLsb' 1 2 == 0 then do some (.mlatc g (← inHandle (fH w)) t (w.getLsbD 0)) else none
  | 0x03 => whenB (w.extractLsb' 1 2 == 0) (.mma g (low1 d) t (w.getLsbD 0))
  | 0x04 => whenB (fX w == 0) (.mzero g (low1 d))
  | 0x05 =>
    whenB (!w.getLsbD 2)
      (.mdrain g (low1 d) t (w.getLsbD 0) (if w.getLsbD 1 then .head (low3 (fB w)) else .scalar a))
  | 0x06 => whenB (fX w == 0) (.msav g (low1 d) a)
  | 0x07 => whenB (fX w == 0) (.mrst g (low1 d) a)
  | 0x08 => whenB (fX w == 0) (.msync g)
  | 0x10 => whenB (w.extractLsb' 4 3 == 0) (.cmap g (w.extractLsb' 0 4) a)
  | 0x11 => whenB (w.extractLsb' 4 3 == 0) (.cdif g (w.extractLsb' 0 4) a)
  | 0x12 => whenB (!w.getLsbD 2) (.cact g (w.getLsbD 1) a t (w.getLsbD 0))
  | 0x13 => whenB (w.extractLsb' 5 2 == 0) (.cstep g (low2 d) (w.extractLsb' 0 4) (w.getLsbD 4))
  | 0x14 => whenB (fX w == 0) (.cclr g (low2 d))
  | 0x15 =>
    if w.extractLsb' 5 2 == 0 then do
      some (.cout g (← vreg d) (low2 a) (fB w) (w.getLsbD 0) (w.getLsbD 1) (w.extractLsb' 2 3))
    else none
  | 0x16 => whenB (fX w == 0) (.csav g (low2 d) a)
  | 0x17 => whenB (fX w == 0) (.crst g (low2 d) a)
  | _ => none

/-- The instruction of an M-slot word, or `none` where it faults ILLOP. -/
def decodeM (w : W32) : Option Instr := accept (decodeMRaw w)

/-! ## The C slot (R58) -/

/-- The predicate that a `pop` or `peek` captures into: X[5:3] when X[6] is set (R157). -/
def capture (w : W32) : Option (BitVec 3) := if w.getLsbD 6 then some (w.extractLsb' 3 3) else none

/-- The fields of a C-slot word, before the checks on accepted values (R54, R58). -/
def decodeCRaw (w : W32) : Option Instr :=
  let g := opGuard w
  let x0 := fX w == 0
  match (opCode w).toNat with
  | 0x00 => some .nop
  | 0x01 => if fM w == 0 then do some (.pop g (← inHandle (fH w)) (← vreg (fG w)) (capture w)) else none
  | 0x02 => if fM w == 0 then do some (.peek g (← inHandle (fH w)) (← vreg (fG w)) (fN w) (capture w)) else none
  | 0x03 => if x0 then do some (.adv g (← inHandle (fH w)) (fN w)) else none
  | 0x04 => if x0 then do some (.push g (← outHandle (fH w)) (← vreg (fG w))) else none
  | 0x05 => if x0 then do some (.poke g (← outHandle (fH w)) (← vreg (fG w)) (fN w)) else none
  | 0x06 => if x0 then do some (.pub g (← outHandle (fH w)) (fN w)) else none
  | 0x07 => if x0 then do some (.waitf g (← inHandle (fH w)) (fN w)) else none
  | 0x08 => if x0 then do some (.waite g (← outHandle (fH w)) (fN w)) else none
  | 0x09 =>
    if fX w == 1 then do some (.markRe g (← outHandle (fH w)) (fG w))
    else if fX w == 2 then do some (.markEos g (← outHandle (fH w)) (fG w))
    else none
  | 0x0A => if x0 then do some (.null g (← outHandle (fH w))) else none
  | 0x0B => if x0 then do some (.hdr g (← inHandle (fH w)) (fG w)) else none
  | 0x0C =>
    if w.extractLsb' 4 3 == 0 then do some (.pops g (← inHandle (fH w)) (fG w) (w.extractLsb' 0 4)) else none
  | 0x0D =>
    if w.extractLsb' 4 3 == 0 then do some (.pushs g (← outHandle (fH w)) (fG w) (w.extractLsb' 0 4)) else none
  | 0x10 => do some (.lds g (← vreg (fD w)) (fA w) (fImm12 w))
  | 0x11 => do some (.sts g (← vreg (fD w)) (fA w) (fImm12 w))
  | 0x12 => some (.ldsw g (fD w) (fA w) (fImm12 w))
  | 0x13 => some (.stsw g (fD w) (fA w) (fImm12 w))
  | 0x14 => do some (.ldg g (low3 (fD w)) (← pairReg (fA w)) (fImm12 w))
  | 0x15 => do some (.stg g (← vreg (fD w)) (← pairReg (fA w)) (fImm12 w))
  | 0x16 => some (.ldw g (low3 (fD w)) (fA w) (fImm12 w))
  | 0x18 =>
    if w.extractLsb' 4 2 == 0 then do
      some (.amo g (← pairReg (fA w)) (fB w) (w.extractLsb' 0 4) (if w.getLsbD 6 then some (low3 (fD w)) else none))
    else none
  | 0x19 => whenB (w.extractLsb' 3 4 == 0) (.fence g (fM w))
  | 0x1A => whenB (w.extractLsb' 3 4 == 0) (.bar g (fM w))
  | 0x1B => whenB x0 (.umen g (fA w) (fB w))
  | 0x1C => whenB x0 (.umlv g (fA w))
  | 0x1D => whenB x0 (.umsk g (fA w) (fB w))
  | 0x1E => whenB x0 (.umini g (fA w) (fB w))
  | 0x1F => whenB x0 (.umabt g (fA w))
  | 0x20 => if x0 then do some (.arm g (← pairReg (fA w)) (fB w)) else none
  | 0x21 => whenB x0 (.fire g (fD w) (fA w) (fB w))
  | 0x22 => whenB x0 (.cfgt g (low3 (fD w)) (fA w) (fB w))
  | 0x23 =>
    if w.getLsbD 6 then none else do some (.send g (← vreg (fB w)) (w.extractLsb' 0 4) (w.extractLsb' 4 2))
  | 0x24 => whenB (w.extractLsb' 4 3 == 0) (.cmask g (w.extractLsb' 0 4))
  | 0x25 => whenB (w.extractLsb' 4 3 == 0) (.cunm g (w.extractLsb' 0 4))
  | 0x26 => do some (.redc g (← vreg (fD w)) (← pairReg (fA w)) (fImm12 w))
  | 0x27 => do some (.fillc g (fD w) (← pairReg (fA w)) (fImm12 w))
  | 0x28 =>
    if w.extractLsb' 2 5 != 0 then none
    else
      let ret := if w.getLsbD 1 then some (low3 (fD w)) else none
      if w.getLsbD 0 then do some (.lnch g (fA w) (some (← pairReg (fB w))) ret)
      else some (.lnch g (fA w) none ret)
  | _ => none

/-- The instruction of a C-slot word, or `none` where it faults ILLOP. -/
def decodeC (w : W32) : Option Instr := accept (decodeCRaw w)

/-- The instruction of a tile op word in a slot; no control-core word stands in a slot of a bundle. -/
def decodeSlot (k : Slot) (w : W32) : Option Instr :=
  match k with
  | .s => decodeS w
  | .v => decodeV w
  | .m => decodeM w
  | .c => decodeC w
  | .core => none

/-- Op word k of a bundle (R42). -/
def bundleWord (b : Bundle) (k : Slot) : W32 :=
  match k with
  | .s => b.extractLsb' 0 32
  | .v => b.extractLsb' 32 32
  | .m => b.extractLsb' 64 32
  | .c => b.extractLsb' 96 32
  | .core => 0

/-! ## Control cores (R68, R69, R399) -/

/-- OP of a control-core word. -/
def ccOp (w : W32) : BitVec 6 := w.extractLsb' 26 6
/-- D of a control-core word; A of format CB. -/
def ccD (w : W32) : BitVec 5 := w.extractLsb' 21 5
/-- A of a control-core word; B of format CB. -/
def ccA (w : W32) : BitVec 5 := w.extractLsb' 16 5
/-- B of format CR. -/
def ccB (w : W32) : BitVec 5 := w.extractLsb' 11 5
/-- IMM16 or OFF16. -/
def ccImm (w : W32) : BitVec 16 := w.extractLsb' 0 16
/-- OFF21. -/
def ccOff21 (w : W32) : BitVec 21 := w.extractLsb' 0 21
/-- The CSR number. -/
def ccCsr (w : W32) : BitVec 12 := w.extractLsb' 0 12

/-- A word of format CR: bits [10:0] have to be 0 (R68). -/
def cr (w : W32) (f : BitVec 5 → BitVec 5 → BitVec 5 → Instr) : Option Instr :=
  whenB (w.extractLsb' 0 11 == 0) (f (ccD w) (ccA w) (ccB w))

/-- A control-core word (R69). `cmdOf r` is the command in xr[3:0], which tells the `frz` and `thw` forms apart
(R399); a command that R399 does not give faults ILLOP. -/
def decodeCC (cmdOf : BitVec 5 → BitVec 4) (w : W32) : Option Instr :=
  let d := ccD w
  let a := ccA w
  let imm := ccImm w
  match (ccOp w).toNat with
  | 0x01 => cr w .ccAdd
  | 0x02 => cr w .ccSub
  | 0x03 => cr w .ccAnd
  | 0x04 => cr w .ccOr
  | 0x05 => cr w .ccXor
  | 0x06 => cr w .ccShl
  | 0x07 => cr w .ccShr
  | 0x08 => cr w .ccSra
  | 0x09 => cr w .ccSlt
  | 0x0A => cr w .ccSltn
  | 0x0B => cr w .ccMul
  | 0x10 => some (.ccAddi d a imm)
  | 0x11 => some (.ccAndi d a imm)
  | 0x12 => some (.ccOri d a imm)
  | 0x13 => some (.ccXori d a imm)
  | 0x14 => some (.ccShli d a (w.extractLsb' 0 6))
  | 0x15 => some (.ccShri d a (w.extractLsb' 0 6))
  | 0x16 => some (.ccSrai d a (w.extractLsb' 0 6))
  | 0x17 => some (.ccSlti d a imm)
  | 0x18 => some (.ccLui d imm)
  | 0x20 => some (.ccLdD d a imm)
  | 0x21 => some (.ccLdW d a imm)
  | 0x22 => some (.ccLdB d a imm)
  | 0x24 => some (.ccStD d a imm)
  | 0x25 => some (.ccStW d a imm)
  | 0x26 => some (.ccStB d a imm)
  | 0x28 => some (.ccBeq d a imm)
  | 0x29 => some (.ccBne d a imm)
  | 0x2A => some (.ccBlt d a imm)
  | 0x2B => some (.ccBge d a imm)
  | 0x2C => some (.ccBltn d a imm)
  | 0x2D => some (.ccBgen d a imm)
  | 0x2E => some (.ccJal d (ccOff21 w))
  | 0x2F => some (.ccJalr d a imm)
  | 0x30 => whenB (w.extractLsb' 12 4 == 0) (.csrr d (ccCsr w))
  | 0x31 => whenB (w.extractLsb' 12 4 == 0) (.csrw a (ccCsr w))
  | 0x32 => whenB (w.extractLsb' 0 26 == 0) .eret
  | 0x33 => whenB (w.extractLsb' 0 26 == 0) .wfe
  | 0x34 => cr w .tinv
  | 0x38 => cr w .cfgw
  | 0x39 => cr w (fun _ a b => .tload a b)
  | 0x3A => cr w (fun d a _ => .tsr d a)
  | 0x3B => cr w (fun _ a b => .tsw a b)
  | 0x3C => cr w (fun d a _ => .frd d a)
  | 0x3D =>
    match (cmdOf (ccB w)).toNat with
    | 0 => cr w .frzFreeze
    | 1 => cr w .frzSwapOut
    | 2 => cr w .frzSwapOutMemory
    | 3 => cr w .frzKill
    | _ => none
  | 0x3E =>
    match (cmdOf (ccB w)).toNat with
    | 0 => cr w .thwThaw
    | 1 => cr w .thwRestore
    | 2 => cr w .thwRestoreMemory
    | _ => none
  | 0x3F => cr w (fun _ a b => .gtw a b)
  | _ => none

/-- The one op of a bundle that is not `nop`, or `nop`; `none` when a word does not decode or several ops stand in it. -/
def decodeSole (b : Bundle) : Option Instr :=
  let ops := [Slot.s, .v, .m, .c].map (fun k => decodeSlot k (bundleWord b k))
  if ops.any Option.isNone then none
  else
    match ops.filter (fun i => i != some .nop) with
    | [] => some .nop
    | [i] => i
    | _ => none

/-- The instruction that the decoder reads from the opcode table's bits of a row: a control-core word has 32 bits (R68),
and its command registers hold 0, as after reset; anything else is a bundle (R42). -/
def decodeTableWord (nbits w : Nat) : Option Instr :=
  if nbits = 32 then decodeCC (fun _ => 0) (BitVec.ofNat 32 w) else decodeSole (BitVec.ofNat 128 w)

/-! ## The encoder -/

/-- A word of format A (R47). -/
def fmtA (g : Pg) (op : BitVec 6) (d a b : BitVec 5) (x : BitVec 7) : W32 :=
  BitVec.ofBool g.ps ++ g.pr ++ op ++ d ++ a ++ b ++ x
/-- A word of format I or CM (R47). -/
def fmtI (g : Pg) (op : BitVec 6) (d a : BitVec 5) (imm : BitVec 12) : W32 :=
  BitVec.ofBool g.ps ++ g.pr ++ op ++ d ++ a ++ imm
/-- A word of format L (R47). -/
def fmtL (g : Pg) (op : BitVec 6) (d : BitVec 5) (imm : BitVec 17) : W32 :=
  BitVec.ofBool g.ps ++ g.pr ++ op ++ d ++ imm
/-- A word of format J (R47). -/
def fmtJ (g : Pg) (op : BitVec 6) (off : BitVec 22) : W32 := BitVec.ofBool g.ps ++ g.pr ++ op ++ off
/-- A word of format C (R47). -/
def fmtC (g : Pg) (op : BitVec 6) (h : BitVec 4) (r : BitVec 5) (n : BitVec 6) (x : BitVec 7) : W32 :=
  BitVec.ofBool g.ps ++ g.pr ++ op ++ h ++ r ++ n ++ x
/-- A word of format CR (R68). -/
def fmtCR (op : BitVec 6) (d a b : BitVec 5) : W32 := op ++ d ++ a ++ b ++ 0#11
/-- A word of format CI or CB (R68). -/
def fmtCI (op : BitVec 6) (d a : BitVec 5) (imm : BitVec 16) : W32 := op ++ d ++ a ++ imm
/-- A word of format CJ (R68). -/
def fmtCJ (op : BitVec 6) (d : BitVec 5) (off : BitVec 21) : W32 := op ++ d ++ off
/-- A word of format CS (R68). -/
def fmtCS (op : BitVec 6) (d a : BitVec 5) (num : BitVec 12) : W32 := op ++ d ++ a ++ 0#4 ++ num
/-- A word of format CN (R68). -/
def fmtCN (op : BitVec 6) : W32 := op ++ 0#26

/-- A vector register in its five-bit field (R49). -/
def v5 (r : BitVec 4) : BitVec 5 := 0#1 ++ r
/-- A predicate or channel number in its five-bit field. -/
def p5 (p : BitVec 3) : BitVec 5 := 0#2 ++ p
/-- An accumulator in its five-bit field. -/
def acc5 (d : Bool) : BitVec 5 := 0#4 ++ BitVec.ofBool d
/-- A pair in its five-bit field: the number of its even register (R50). -/
def pair5 (p : BitVec 4) : BitVec 5 := p ++ 0#1
/-- X of a V-slot op (R56). -/
def tm (t : BitVec 4) (m : BitVec 3) : BitVec 7 := t ++ m
/-- M of `vabs` and `vneg` (R133). -/
def satM (sat : Bool) (fn : BitVec 1) : BitVec 3 := 0#1 ++ BitVec.ofBool sat ++ fn
/-- The handle of an input channel (R51). -/
def hIn (ch : BitVec 3) : BitVec 4 := 0#1 ++ ch
/-- The handle of an output channel (R51). -/
def hOut (ch : BitVec 3) : BitVec 4 := 1#1 ++ ch
/-- X of `pop` and `peek` (R58). -/
def capX (cap : Option (BitVec 3)) : BitVec 7 :=
  match cap with
  | some p => 1#1 ++ p ++ 0#3
  | none => 0
/-- D of an op with an optional response channel. -/
def retD (ret : Option (BitVec 3)) : BitVec 5 :=
  match ret with
  | some ch => p5 ch
  | none => 0
/-- B of `lnch` (R347). -/
def rangeB (r : Option (BitVec 4)) : BitVec 5 :=
  match r with
  | some p => pair5 p
  | none => 0
/-- B of `mlat` (R196). -/
def gatherB (r : Option (BitVec 4)) : BitVec 5 :=
  match r with
  | some v => v5 v
  | none => 0
/-- A of `mdrain` (R200). -/
def steerA (s : DrainSel) : BitVec 5 :=
  match s with
  | .scalar a => a
  | .head _ => 0
/-- B of `mdrain` (R200). -/
def steerB (s : DrainSel) : BitVec 5 :=
  match s with
  | .scalar _ => 0
  | .head ch => p5 ch
/-- X[1] of `mdrain` (R200). -/
def steerX (s : DrainSel) : BitVec 1 :=
  match s with
  | .scalar _ => 0
  | .head _ => 1

/-- The slot and the word of an instruction, with every ignored field zero; an event has none. `nop` has a place in
every slot and its word is the same there (R48). -/
def encode : Instr → Option (Slot × W32)
  | .nop => some (.s, 0)
  | .add g d a b => some (.s, fmtA g 0x01 d a b 0x0)
  | .sub g d a b => some (.s, fmtA g 0x01 d a b 0x1)
  | .and g d a b => some (.s, fmtA g 0x01 d a b 0x2)
  | .or g d a b => some (.s, fmtA g 0x01 d a b 0x3)
  | .xor g d a b => some (.s, fmtA g 0x01 d a b 0x4)
  | .shl g d a b => some (.s, fmtA g 0x01 d a b 0x5)
  | .shr g d a b => some (.s, fmtA g 0x01 d a b 0x6)
  | .sra g d a b => some (.s, fmtA g 0x01 d a b 0x7)
  | .mul g d a b => some (.s, fmtA g 0x01 d a b 0x8)
  | .mulh g d a b => some (.s, fmtA g 0x01 d a b 0x9)
  | .mulhn g d a b => some (.s, fmtA g 0x01 d a b 0xA)
  | .min g d a b => some (.s, fmtA g 0x01 d a b 0xB)
  | .max g d a b => some (.s, fmtA g 0x01 d a b 0xC)
  | .minn g d a b => some (.s, fmtA g 0x01 d a b 0xD)
  | .maxn g d a b => some (.s, fmtA g 0x01 d a b 0xE)
  | .clz g d a => some (.s, fmtA g 0x01 d a 0 0xF)
  | .cmp g d a b cond => some (.s, fmtA g 0x02 (p5 d) a b (cond.setWidth 7))
  | .addi g d a imm => some (.s, fmtI g 0x03 d a imm)
  | .andi g d a imm => some (.s, fmtI g 0x04 d a imm)
  | .ori g d a imm => some (.s, fmtI g 0x05 d a imm)
  | .xori g d a imm => some (.s, fmtI g 0x06 d a imm)
  | .shli g d a count => some (.s, fmtI g 0x07 d a (count.setWidth 12))
  | .shri g d a count => some (.s, fmtI g 0x08 d a (count.setWidth 12))
  | .srai g d a count => some (.s, fmtI g 0x09 d a (count.setWidth 12))
  | .cmpi g d cond a imm => some (.s, fmtI g 0x0A (cond ++ d) a imm)
  | .li g d imm => some (.s, fmtL g 0x0B d imm)
  | .lui g d imm => some (.s, fmtL g 0x0C d imm)
  | .pand g d a b => some (.s, fmtA g 0x0D (p5 d) (p5 a) (p5 b) 0)
  | .por g d a b => some (.s, fmtA g 0x0D (p5 d) (p5 a) (p5 b) 1)
  | .pxor g d a b => some (.s, fmtA g 0x0D (p5 d) (p5 a) (p5 b) 2)
  | .pandn g d a b => some (.s, fmtA g 0x0D (p5 d) (p5 a) (p5 b) 3)
  | .div g d a b => some (.s, fmtA g 0x0E d a b 0)
  | .divn g d a b => some (.s, fmtA g 0x0E d a b 1)
  | .rem g d a b => some (.s, fmtA g 0x0E d a b 2)
  | .remn g d a b => some (.s, fmtA g 0x0E d a b 3)
  | .br g off => some (.s, fmtJ g 0x10 off)
  | .call g off => some (.s, fmtJ g 0x11 off)
  | .jr g a => some (.s, fmtA g 0x12 0 a 0 0)
  | .loop g a len => some (.s, fmtI g 0x13 0 a len)
  | .pushm g a b => some (.s, fmtA g 0x14 0 a b 0)
  | .popm g a b => some (.s, fmtA g 0x15 0 a b 0)
  | .vpushm g a b => some (.s, fmtA g 0x14 0 (v5 a) (v5 b) 1)
  | .vpopm g a b => some (.s, fmtA g 0x15 0 (v5 a) (v5 b) 1)
  | .rdsr g d num => some (.s, fmtI g 0x16 d 0 num)
  | .wrsr g a num => some (.s, fmtI g 0x17 0 a num)
  | .yield g => some (.s, fmtA g 0x18 0 0 0 0)
  | .halt g => some (.s, fmtA g 0x19 0 0 0 0)
  | .trap g code => some (.s, fmtI g 0x1A 0 0 code)
  | .vadd g d a b t m => some (.v, fmtA g 0x01 (v5 d) (v5 a) (v5 b) (tm t m))
  | .vsub g d a b t m => some (.v, fmtA g 0x02 (v5 d) (v5 a) (v5 b) (tm t m))
  | .vmul g d a b t m => some (.v, fmtA g 0x03 (v5 d) (v5 a) (v5 b) (tm t m))
  | .vfma g d a b t m => some (.v, fmtA g 0x04 (v5 d) (v5 a) (v5 b) (tm t m))
  | .vmin g d a b t => some (.v, fmtA g 0x05 (v5 d) (v5 a) (v5 b) (tm t 0))
  | .vmax g d a b t => some (.v, fmtA g 0x06 (v5 d) (v5 a) (v5 b) (tm t 0))
  | .vabs g d a t sat => some (.v, fmtA g 0x07 (v5 d) (v5 a) 0 (tm t (satM sat 0)))
  | .vneg g d a t sat => some (.v, fmtA g 0x07 (v5 d) (v5 a) 0 (tm t (satM sat 1)))
  | .vand g d a b t => some (.v, fmtA g 0x08 (v5 d) (v5 a) (v5 b) (tm t 0))
  | .vor g d a b t => some (.v, fmtA g 0x09 (v5 d) (v5 a) (v5 b) (tm t 0))
  | .vxor g d a b t => some (.v, fmtA g 0x0A (v5 d) (v5 a) (v5 b) (tm t 0))
  | .vshl g d a b t => some (.v, fmtA g 0x0B (v5 d) (v5 a) (v5 b) (tm t 0))
  | .vshr g d a b t => some (.v, fmtA g 0x0C (v5 d) (v5 a) (v5 b) (tm t 0))
  | .vcvt g d a src dst ovf m => some (.v, fmtA g 0x0D (v5 d) (v5 a) (BitVec.ofBool ovf ++ dst) (tm src m))
  | .vcmp g d a b t cond => some (.v, fmtA g 0x0E (v5 d) (v5 a) (v5 b) (tm t cond))
  | .vsel g d a b c => some (.v, fmtA g 0x0F (v5 d) (v5 a) (v5 b) (tm c 0))
  | .vbcast g d a t => some (.v, fmtA g 0x10 (v5 d) a 0 (tm t 0))
  | .vext g d a b t => some (.v, fmtA g 0x11 d (v5 a) b (tm t 0))
  | .vins g d a b t => some (.v, fmtA g 0x12 (v5 d) a b (tm t 0))
  | .vperm g d a b t => some (.v, fmtA g 0x13 (v5 d) (v5 a) (v5 b) (tm t 0))
  | .vred g d a t fn rnd => some (.v, fmtA g 0x14 (v5 d) (v5 a) (p5 rnd) (tm t fn))
  | .vscan g d a t fn rnd => some (.v, fmtA g 0x15 (v5 d) (v5 a) (p5 rnd) (tm t fn))
  | .vfn g d a fn => some (.v, fmtA g 0x16 (v5 d) (v5 a) 0 (tm 0x6 fn))
  | .vdot g d a b t m => some (.v, fmtA g 0x17 (v5 d) (v5 a) (v5 b) (tm t m))
  | .vedge g d a b m => some (.v, fmtA g 0x20 (v5 d) (v5 a) (v5 b) (tm 0x5 m))
  | .vbary g d a b m => some (.v, fmtA g 0x21 (v5 d) (v5 a) (v5 b) (tm 0x6 m))
  | .vdedup g d a b => some (.v, fmtA g 0x22 (v5 d) (v5 a) (v5 b) (tm 0x5 0))
  | .vblend g d a b t fn => some (.v, fmtA g 0x23 (v5 d) (v5 a) (v5 b) (tm t fn))
  | .vdepth g d a b t m => some (.v, fmtA g 0x24 (v5 d) (v5 a) (v5 b) (tm t m))
  | .vrbox g d a b => some (.v, fmtA g 0x25 (v5 d) (v5 a) (v5 b) (tm 0x6 0))
  | .vrtri g d a b m => some (.v, fmtA g 0x26 (v5 d) (v5 a) (v5 b) (tm 0x6 m))
  | .vsort g d a b m => some (.v, fmtA g 0x27 (v5 d) (v5 a) (v5 b) (tm 0x5 m))
  | .vcomp g d a b m => some (.v, fmtA g 0x28 (v5 d) (v5 a) (v5 b) (tm 0x6 m))
  | .vsig g d a b => some (.v, fmtA g 0x29 (v5 d) (v5 a) (v5 b) (tm 0x0 0))
  | .vsigChk g d a b => some (.v, fmtA g 0x29 (v5 d) (v5 a) (v5 b) (tm 0x0 1))
  | .mlat g a t latch gather => some (.m, fmtA g 0x01 0 a (gatherB gather) (t ++ 0#1 ++ BitVec.ofBool gather.isSome ++ BitVec.ofBool latch))
  | .mlatc g ch t latch => some (.m, fmtC g 0x02 (hIn ch) 0 0 (t ++ 0#2 ++ BitVec.ofBool latch))
  | .mma g d t bt => some (.m, fmtA g 0x03 (acc5 d) 0 0 (t ++ 0#2 ++ BitVec.ofBool bt))
  | .mzero g d => some (.m, fmtA g 0x04 (acc5 d) 0 0 0)
  | .mdrain g d u sh steer => some (.m, fmtA g 0x05 (acc5 d) (steerA steer) (steerB steer) (u ++ 0#1 ++ steerX steer ++ BitVec.ofBool sh))
  | .msav g d a => some (.m, fmtA g 0x06 (acc5 d) a 0 0)
  | .mrst g d a => some (.m, fmtA g 0x07 (acc5 d) a 0 0)
  | .msync g => some (.m, fmtA g 0x08 0 0 0 0)
  | .cmap g k a => some (.m, fmtA g 0x10 0 a 0 (k.setWidth 7))
  | .cdif g k a => some (.m, fmtA g 0x11 0 a 0 (k.setWidth 7))
  | .cact g h a t sc => some (.m, fmtA g 0x12 0 a 0 (t ++ 0#1 ++ BitVec.ofBool h ++ BitVec.ofBool sc))
  | .cstep g d k h => some (.m, fmtA g 0x13 (d.setWidth 5) 0 0 (0#2 ++ BitVec.ofBool h ++ k))
  | .cclr g d => some (.m, fmtA g 0x14 (d.setWidth 5) 0 0 0)
  | .cout g d a b hi h m => some (.m, fmtA g 0x15 (v5 d) (a.setWidth 5) b (0#2 ++ m ++ BitVec.ofBool h ++ BitVec.ofBool hi))
  | .csav g d a => some (.m, fmtA g 0x16 (d.setWidth 5) a 0 0)
  | .crst g d a => some (.m, fmtA g 0x17 (d.setWidth 5) a 0 0)
  | .pop g ch d cap => some (.c, fmtC g 0x01 (hIn ch) (v5 d) 0 (capX cap))
  | .peek g ch d k cap => some (.c, fmtC g 0x02 (hIn ch) (v5 d) k (capX cap))
  | .pops g ch d e => some (.c, fmtC g 0x0C (hIn ch) d 0 (e.setWidth 7))
  | .hdr g ch d => some (.c, fmtC g 0x0B (hIn ch) d 0 0)
  | .adv g ch n => some (.c, fmtC g 0x03 (hIn ch) 0 n 0)
  | .waitf g ch n => some (.c, fmtC g 0x07 (hIn ch) 0 n 0)
  | .push g ch a => some (.c, fmtC g 0x04 (hOut ch) (v5 a) 0 0)
  | .poke g ch a k => some (.c, fmtC g 0x05 (hOut ch) (v5 a) k 0)
  | .pub g ch n => some (.c, fmtC g 0x06 (hOut ch) 0 n 0)
  | .waite g ch n => some (.c, fmtC g 0x08 (hOut ch) 0 n 0)
  | .pushs g ch a e => some (.c, fmtC g 0x0D (hOut ch) a 0 (e.setWidth 7))
  | .null g ch => some (.c, fmtC g 0x0A (hOut ch) 0 0 0)
  | .markRe g ch a => some (.c, fmtC g 0x09 (hOut ch) a 0 1)
  | .markEos g ch a => some (.c, fmtC g 0x09 (hOut ch) a 0 2)
  | .lds g d b imm => some (.c, fmtI g 0x10 (v5 d) b imm)
  | .sts g d b imm => some (.c, fmtI g 0x11 (v5 d) b imm)
  | .ldsw g d b imm => some (.c, fmtI g 0x12 d b imm)
  | .stsw g d b imm => some (.c, fmtI g 0x13 d b imm)
  | .ldg g ch pair imm => some (.c, fmtI g 0x14 (p5 ch) (pair5 pair) imm)
  | .stg g d pair imm => some (.c, fmtI g 0x15 (v5 d) (pair5 pair) imm)
  | .ldw g ch b imm => some (.c, fmtI g 0x16 (p5 ch) b imm)
  | .amo g pair b fn ret => some (.c, fmtA g 0x18 (retD ret) (pair5 pair) b (BitVec.ofBool ret.isSome ++ 0#2 ++ fn))
  | .fence g scope => some (.c, fmtA g 0x19 0 0 0 (scope.setWidth 7))
  | .bar g scope => some (.c, fmtA g 0x1A 0 0 0 (scope.setWidth 7))
  | .umen g a b => some (.c, fmtA g 0x1B 0 a b 0)
  | .umlv g a => some (.c, fmtA g 0x1C 0 a 0 0)
  | .umsk g a b => some (.c, fmtA g 0x1D 0 a b 0)
  | .umini g a b => some (.c, fmtA g 0x1E 0 a b 0)
  | .umabt g a => some (.c, fmtA g 0x1F 0 a 0 0)
  | .arm g pair b => some (.c, fmtA g 0x20 0 (pair5 pair) b 0)
  | .fire g d a b => some (.c, fmtA g 0x21 d a b 0)
  | .cfgt g ch a b => some (.c, fmtA g 0x22 (p5 ch) a b 0)
  | .send g b cls tag => some (.c, fmtA g 0x23 0 0 (v5 b) (0#1 ++ tag ++ cls))
  | .cmask g cls => some (.c, fmtA g 0x24 0 0 0 (cls.setWidth 7))
  | .cunm g cls => some (.c, fmtA g 0x25 0 0 0 (cls.setWidth 7))
  | .redc g d pair imm => some (.c, fmtI g 0x26 (v5 d) (pair5 pair) imm)
  | .fillc g d pair imm => some (.c, fmtI g 0x27 d (pair5 pair) imm)
  | .lnch g a range ret => some (.c, fmtA g 0x28 (retD ret) a (rangeB range) (0#5 ++ BitVec.ofBool ret.isSome ++ BitVec.ofBool range.isSome))
  | .ccAdd d a b => some (.core, fmtCR 0x01 d a b)
  | .ccSub d a b => some (.core, fmtCR 0x02 d a b)
  | .ccAnd d a b => some (.core, fmtCR 0x03 d a b)
  | .ccOr d a b => some (.core, fmtCR 0x04 d a b)
  | .ccXor d a b => some (.core, fmtCR 0x05 d a b)
  | .ccShl d a b => some (.core, fmtCR 0x06 d a b)
  | .ccShr d a b => some (.core, fmtCR 0x07 d a b)
  | .ccSra d a b => some (.core, fmtCR 0x08 d a b)
  | .ccSlt d a b => some (.core, fmtCR 0x09 d a b)
  | .ccSltn d a b => some (.core, fmtCR 0x0A d a b)
  | .ccMul d a b => some (.core, fmtCR 0x0B d a b)
  | .ccAddi d a imm => some (.core, fmtCI 0x10 d a imm)
  | .ccAndi d a imm => some (.core, fmtCI 0x11 d a imm)
  | .ccOri d a imm => some (.core, fmtCI 0x12 d a imm)
  | .ccXori d a imm => some (.core, fmtCI 0x13 d a imm)
  | .ccShli d a count => some (.core, fmtCI 0x14 d a (count.setWidth 16))
  | .ccShri d a count => some (.core, fmtCI 0x15 d a (count.setWidth 16))
  | .ccSrai d a count => some (.core, fmtCI 0x16 d a (count.setWidth 16))
  | .ccSlti d a imm => some (.core, fmtCI 0x17 d a imm)
  | .ccLui d imm => some (.core, fmtCI 0x18 d 0 imm)
  | .ccLdD d a imm => some (.core, fmtCI 0x20 d a imm)
  | .ccLdW d a imm => some (.core, fmtCI 0x21 d a imm)
  | .ccLdB d a imm => some (.core, fmtCI 0x22 d a imm)
  | .ccStD d a imm => some (.core, fmtCI 0x24 d a imm)
  | .ccStW d a imm => some (.core, fmtCI 0x25 d a imm)
  | .ccStB d a imm => some (.core, fmtCI 0x26 d a imm)
  | .ccBeq a b off => some (.core, fmtCI 0x28 a b off)
  | .ccBne a b off => some (.core, fmtCI 0x29 a b off)
  | .ccBlt a b off => some (.core, fmtCI 0x2A a b off)
  | .ccBge a b off => some (.core, fmtCI 0x2B a b off)
  | .ccBltn a b off => some (.core, fmtCI 0x2C a b off)
  | .ccBgen a b off => some (.core, fmtCI 0x2D a b off)
  | .ccJal d off => some (.core, fmtCJ 0x2E d off)
  | .ccJalr d a imm => some (.core, fmtCI 0x2F d a imm)
  | .csrr d num => some (.core, fmtCS 0x30 d 0 num)
  | .csrw a num => some (.core, fmtCS 0x31 0 a num)
  | .eret => some (.core, fmtCN 0x32)
  | .wfe => some (.core, fmtCN 0x33)
  | .tinv d a b => some (.core, fmtCR 0x34 d a b)
  | .cfgw d a b => some (.core, fmtCR 0x38 d a b)
  | .tload a b => some (.core, fmtCR 0x39 0 a b)
  | .tsr d a => some (.core, fmtCR 0x3A d a 0)
  | .tsw a b => some (.core, fmtCR 0x3B 0 a b)
  | .frd d a => some (.core, fmtCR 0x3C d a 0)
  | .frzFreeze d a b => some (.core, fmtCR 0x3D d a b)
  | .frzSwapOut d a b => some (.core, fmtCR 0x3D d a b)
  | .frzSwapOutMemory d a b => some (.core, fmtCR 0x3D d a b)
  | .frzKill d a b => some (.core, fmtCR 0x3D d a b)
  | .thwThaw d a b => some (.core, fmtCR 0x3E d a b)
  | .thwRestore d a b => some (.core, fmtCR 0x3E d a b)
  | .thwRestoreMemory d a b => some (.core, fmtCR 0x3E d a b)
  | .gtw a b => some (.core, fmtCR 0x3F 0 a b)
  | .wfeEnd .. => none
  | .timerExpiry .. => none
  | .msgWrite .. => none
  | .registerWrite .. => none
  | .actorFiring .. => none
  | .classHandlerStart .. => none
  | .bankBecomesIdle .. => none
  | .pendingWriteLanding .. => none
  | .asyncReportArrival .. => none
  | .freezeReachesBank .. => none
  | .bstatResumeWrite .. => none
  | .tokenArrival .. => none
  | .faultDrainArrival .. => none
  | .preEmptMarkerArrival .. => none
  | .slotReleaseArrival .. => none
  | .tokenHop .. => none
  | .bridgeCrossing .. => none
  | .classPacketHop .. => none
  | .classPacketArrival .. => none
  | .msEntryStart .. => none
  | .msEntryEnd .. => none
  | .mlatcTokenTake .. => none
  | .mdrainTokenPublish .. => none
  | .cactRunEnd .. => none
  | .memoryPortSend .. => none
  | .portQueueDispatch .. => none
  | .pageWalk .. => none
  | .sramBankAccess .. => none
  | .responseDelivery .. => none
  | .l2Request .. => none
  | .l2FillArrival .. => none
  | .gddr7WriteAccept .. => none
  | .gatewayRequest .. => none
  | .gatewayInvalidation .. => none
  | .hostReadCompletion .. => none
  | .hostCompletionTimeout .. => none
  | .weightStoreRead .. => none
  | .weightStoreRefresh .. => none
  | .writeAcknowledgement .. => none
  | .ownerRequest .. => none
  | .amoApply .. => none
  | .fillcAtOwner .. => none
  | .redcAtOwner .. => none
  | .readyTokenDelivery .. => none
  | .counterTimeout .. => none
  | .umbraEnterAtHost .. => none
  | .umbraLeaveAtHost .. => none
  | .umbraSkipAtHost .. => none
  | .umbraInitAtHost .. => none
  | .umbraGrantArrival .. => none
  | .umbraRefusalRetry .. => none
  | .umbstall .. => none
  | .deadlockProbeAnswer .. => none
  | .umrelWrite .. => none
  | .templateQueueHead .. => none
  | .copyRunStart .. => none
  | .copyBeat .. => none
  | .copyChunkAck .. => none
  | .completionTokenPublish .. => none
  | .armAtMemoryTile .. => none
  | .fireTokenEnqueue .. => none
  | .tplfireWrite .. => none
  | .tplstWrite .. => none
  | .edgeBufferPass .. => none
  | .edgeBufferRelease .. => none
  | .barrierEpisodeComplete .. => none
  | .entryStart => none
  | .indexTokenPublish .. => none
  | .dieShareReport .. => none
  | .graphEnd .. => none
  | .launchAtMaster .. => none
  | .notifyTokenDelivery .. => none
  | .masterElection => none
  | .millinerSample .. => none
  | .tileActivation .. => none
  | .tileDeactivation .. => none
  | .elasticQueuePass .. => none
  | .swapDecision .. => none
  | .tileSave .. => none
  | .swapComplete .. => none
  | .restoreAtTile .. => none
  | .noticeRecordWrite .. => none
  | .nqsizeWrite .. => none
  | .tinvAcknowledgement .. => none
  | .heldWriteRetranslate .. => none
  | .counterIncrement .. => none
  | .doorbellWrite .. => none
  | .pwrTargetWrite .. => none
  | .powerStateChangeComplete => none
  | .fenceWrite .. => none
  | .dierstWrite .. => none
  | .moduleReset => none
  | .attctlGoWrite => none
  | .attnonceWrite .. => none
  | .attestationReportDone => none
  | .tempAlarm .. => none
  | .hostBar4Access .. => none
  | .launchWindowWrite .. => none
  | .linkFlitReceive .. => none
  | .linkRetrainComplete .. => none
  | .powerRemoval => none
  | .firmwareCheckEnd .. => none
  | .umbraHostMarker .. => none

/-- The slot of an instruction that has an encoding. -/
def Instr.slot (i : Instr) : Option Slot := (encode i).map Prod.fst

/-- The command code that register b of a `frz` or a `thw` holds (R399); 0 for every other instruction. -/
def Instr.command : Instr → BitVec 4
  | .frzSwapOut .. => 1
  | .frzSwapOutMemory .. => 2
  | .frzKill .. => 3
  | .thwRestore .. => 1
  | .thwRestoreMemory .. => 2
  | _ => 0

/-- What the decoder reads from the word of an instruction; an event has no word and stands for itself. -/
def Instr.reread (i : Instr) : Option Instr :=
  match encode i with
  | some (.core, w) => decodeCC (fun _ => i.command) w
  | some (k, w) => decodeSlot k w
  | none => some i

end Sys2Proof
end

