-- ==== Sys2Proof/Config.lean ====
section
/-!
DEFINITION. What the spec leaves open, as constants without a body: nothing can be proved of their values, so a claim
holds whatever they are.
-/
namespace Sys2Proof

/-- Who moves next: one cycle of a die passes, a bank issues its bundle or spends an empty step, a control core runs an
instruction, or an event of the opcode table happens. -/
inductive Turn where
  | tick (d : DieId)
  | bundle (t : Site) (b : BankId)
  | core (k : CoreId)
  | event (i : Instr)
  deriving DecidableEq, Repr, Inhabited

namespace Config

/-- FREE VALUE (log 1): the turn taken when neither the agenda nor `solo` names one. R9 and R22 leave the order of
agents and most latencies open. -/
opaque freeTurn : Nat → Turn

/-- FREE VALUE (log 40): the value of `vfn` function `fn` on an F32 pattern, a fixed function of the pattern that the
spec does not publish (R145). -/
opaque vfnPattern : BitVec 3 → BitVec 32 → BitVec 32

/-- FREE VALUE (log 5): which one of differing level-0 entries translates a 64 KiB page (R379). -/
opaque page64Choice : BitVec 64 → BitVec 4

/-- FREE VALUE (log 60): the Jouno key hash in the fuses of a die (R408). -/
opaque keyHash : DieId → List (BitVec 8)

/-- FREE VALUE (log 60): the 32 bytes of the device identity (R409). -/
opaque deviceIdentity : BitVec 256

/-- FREE VALUE (log 60): the bytes of the signature of a report, by its content: the key comes from a fused secret (R409). -/
opaque attestationSignature : List (BitVec 8) → Nat → BitVec 8

/-- FREE VALUE (log 60): the bytes of the certificate that Jouno has signed for the key of the device (R409). -/
opaque attestationCertificate : Nat → BitVec 8

/-- FREE VALUE (log 5): the die that carries a link port, which the spec does not give. -/
opaque portDie : Fin 18 → Fin 4

/-- FREE VALUE (log 5): which of several partitions that map a physical address gets the record of a damaged sector (R375);
the spec gives no rule for an address that several map. -/
opaque mappedBy : Nat → Nat

/-- FREE VALUE (log 55): which words of a store are visible first, by the number of the store (R235). -/
opaque firstWords : Nat → BitVec 16

/-- FREE VALUE (log 56): the set of an L2 slice that a line falls into, which R223 leaves open. -/
opaque l2Set : Nat → BitVec 7

/-- FREE VALUE (log 56): the line that a full set of an L2 slice gives up for an access that takes one step, by the sector that
comes in. -/
opaque l2Victim : Nat → Nat

/-- FREE VALUE (log 56): the copy that a full gateway cache gives up, by the gateway and the sector that comes in. -/
opaque gatewayVictim : Nat → Nat → Nat

/-- FREE VALUE (log 57): one less than the requests that the input of an L2 slice, or of a template's queue, holds before
its senders stop (R229, R239, R317). -/
opaque inputDepth : Nat

/-- FREE VALUE (log 57): one less than the messages that the credits of a partition let wait at a link port (R403). -/
opaque linkCredits : Nat

/-- FREE VALUE (log 41): the cycles that a memory request spends on a stage of its way: in the port queue (0), to its target
(1), and the response (2), the acknowledgement (3), a grant or ready token (4) or a report (5) on the way back (R9, R242, R420). -/
opaque accessCycles : Nat → Nat

/-- FREE VALUE (log 41): by scope, the cycles beyond one that the channel network takes after the last arrival in an episode
whose members stand on one die; R266 gives typical figures only. -/
opaque barrierCycles : Nat → Nat

/-- FREE VALUE (log 36): the corrected soft errors of a die in a cycle (R41, R376). -/
opaque softErrors : DieId → Nat → Nat

/-- FREE VALUE (log 36): the power of a die in W, averaged over the millisecond that ends in a cycle (R401). -/
opaque diePower : DieId → Nat → BitVec 16

/-- FREE VALUE (log 22): FMT of the null tokens that an input port stores after a marker, of which R167 gives ROUND and BANK,
by that of the marker. -/
opaque filler : BitVec 4 → BitVec 4

end Config
end Sys2Proof
end

