-- ==== Sys2Proof/Machine/Store.lean ====
section
/-!
DEFINITION. The two kinds of store the state is built from: a table of records by number, and a byte memory in one
canonical form (R3). Words are little-endian.
-/
namespace Sys2Proof.Machine

/-- A table of records by number; the first entry of a number is its record. -/
abbrev FMap (α : Type) := List (Nat × α)

/-- The record of a number, or the given one when the table lists none. -/
def FMap.get {α : Type} (m : FMap α) (k : Nat) (dflt : α) : α :=
  match m with
  | [] => dflt
  | (j, x) :: r => if j = k then x else FMap.get r k dflt

/-- The table with the record of one number replaced. -/
def FMap.set {α : Type} (m : FMap α) (k : Nat) (x : α) : FMap α :=
  match m with
  | [] => [(k, x)]
  | (j, y) :: r => if j = k then (k, x) :: r else (j, y) :: FMap.set r k x

/-- A byte memory: (address, byte) pairs in strictly rising addresses, no byte 0 listed. An unlisted address reads as
0 (DESIGN CHOICE, log 3: the spec gives RAM no contents after power-on). -/
abbrev Memory := List Host.Cell

/-- One byte of a memory. -/
def Memory.read (m : Memory) (a : Nat) : Byte :=
  match m with
  | [] => 0
  | (b, x) :: r => if a = b then x else if a < b then 0 else Memory.read r a

/-- The memory with one byte replaced, in canonical form again. -/
def Memory.write (m : Memory) (a : Nat) (x : Byte) : Memory :=
  match m with
  | [] => if x = 0 then [] else [(a, x)]
  | (b, y) :: r =>
    if a = b then (if x = 0 then r else (a, x) :: r)
    else if a < b then (if x = 0 then (b, y) :: r else (a, x) :: (b, y) :: r)
    else (b, y) :: Memory.write r a x

/-- All addresses of the list lie above a bound, rise strictly, and list no byte 0. -/
def Memory.wfFrom (lo : Nat) (m : Memory) : Bool :=
  match m with
  | [] => true
  | (a, x) :: r => decide (lo ≤ a) && x != 0 && Memory.wfFrom (a + 1) r

/-- The canonical form of a memory. -/
def Memory.wf (m : Memory) : Bool := Memory.wfFrom 0 m

/-- `n` bytes from an address as a little-endian number. -/
def Memory.readNat (m : Memory) (a : Nat) : Nat → Nat
  | 0 => 0
  | n + 1 => (m.read a).toNat + 256 * Memory.readNat m (a + 1) n

/-- `n` bytes written from a little-endian number. -/
def Memory.writeNat (m : Memory) (a : Nat) (v : Nat) : Nat → Memory
  | 0 => m
  | n + 1 => Memory.writeNat (m.write a (BitVec.ofNat 8 v)) (a + 1) (v / 256) n

/-- A 32-bit word of a memory. -/
def Memory.readW32 (m : Memory) (a : Nat) : W32 := BitVec.ofNat 32 (m.readNat a 4)
/-- A 64-bit word of a memory. -/
def Memory.readW64 (m : Memory) (a : Nat) : W64 := BitVec.ofNat 64 (m.readNat a 8)
/-- A 64-byte line of a memory: byte i in bits [8i+7:8i] (R226). -/
def Memory.readVec (m : Memory) (a : Nat) : Vec := BitVec.ofNat 512 (m.readNat a 64)
/-- A memory with a 32-bit word written. -/
def Memory.writeW32 (m : Memory) (a : Nat) (x : W32) : Memory := m.writeNat a x.toNat 4
/-- A memory with a 64-bit word written. -/
def Memory.writeW64 (m : Memory) (a : Nat) (x : W64) : Memory := m.writeNat a x.toNat 8
/-- A memory with a 64-byte line written. -/
def Memory.writeVec (m : Memory) (a : Nat) (x : Vec) : Memory := m.writeNat a x.toNat 64

/-- A memory with a list of bytes written from an address. -/
def Memory.writeBytes (m : Memory) (a : Nat) : List Byte → Memory
  | [] => m
  | x :: r => Memory.writeBytes (m.write a x) (a + 1) r

/-- `n` bytes of a memory from an address. -/
def Memory.readBytes (m : Memory) (a : Nat) : Nat → List Byte
  | 0 => []
  | n + 1 => m.read a :: Memory.readBytes m (a + 1) n

/-- Field `i` of width `w` of a wide register. -/
def getF {n : Nat} (x : BitVec n) (w i : Nat) : BitVec w := x.extractLsb' (w * i) w

/-- A wide register with field `i` of width `w` replaced; the other bits stay. -/
def setF {n : Nat} (x : BitVec n) (w i : Nat) (f : BitVec w) : BitVec n :=
  (x &&& ~~~((BitVec.allOnes w).setWidth n <<< (w * i))) ||| (f.setWidth n <<< (w * i))

/-- A wide register built from its fields, field 0 lowest. -/
def ofFields (n w : Nat) (f : Nat → BitVec w) : Nat → BitVec n
  | 0 => 0
  | k + 1 => ofFields n w f k ||| ((f k).setWidth n <<< (w * k))

end Sys2Proof.Machine
end

