-- ==== Sys2Proof/Machine/Num.lean ====
section
/-!
DEFINITION. Element formats and arithmetic: exact values, rounding, conversion and comparison (R103-R126). A float
element is decoded to an exact value, the exact result is formed, and one rounding encodes it.
-/
namespace Sys2Proof.Machine

/-! ## Types (R103) -/

/-- Bits per element of a type code; BP and DF have none and count as 1. -/
def widthT (t : BitVec 4) : Nat :=
  if t == 0xB || t == 0xC then 4
  else if t == 0x1 || t == 0x2 || t == 0x9 || t == 0xA then 8
  else if t == 0x3 || t == 0x4 || t == 0x7 || t == 0x8 then 16
  else if t == 0xD || t == 0xE then 1
  else 32

/-- Lanes of a type: 512 divided by the width. -/
def lanesT (t : BitVec 4) : Nat := 512 / widthT t

/-- Signed integer codes: I4, I8, I16, I32. -/
def signedT (t : BitVec 4) : Bool := t == 0x1 || t == 0x3 || t == 0x5 || t == 0xC

/-- Rounding modes by RMODE[1:0] (R110). -/
inductive Mode where
  | rne
  | rtz
  | rdn
  | rup
  deriving DecidableEq, Repr

/-- The mode of RMODE[1:0] (R110). -/
def modeOfR (r : BitVec 2) : Mode :=
  if r == 0 then .rne else if r == 1 then .rtz else if r == 2 then .rdn else .rup

/-- The mode of an M code: 0 takes RMODE (R53, R110). -/
def modeOf (rmode : BitVec 2) (m : BitVec 3) : Mode :=
  if m == 1 then .rne else if m == 2 then .rtz else if m == 3 then .rdn else if m == 4 then .rup else modeOfR rmode

/-! ## Exact values -/

/-- An exact dyadic number: m · 2^e. -/
structure Dy where
  m : Int
  e : Int
  deriving DecidableEq, Repr, Inhabited

/-- 2^k as a natural number for k ≥ 0, else 1. -/
def pow2 (k : Int) : Nat := 2 ^ k.toNat

/-- The significand of a dyadic number at a smaller exponent. -/
def Dy.at (a : Dy) (e : Int) : Int := a.m * (pow2 (a.e - e) : Nat)

/-- Exact sum. -/
def Dy.add (a b : Dy) : Dy :=
  let e := min a.e b.e
  ⟨a.at e + b.at e, e⟩

/-- Exact product. -/
def Dy.mul (a b : Dy) : Dy := ⟨a.m * b.m, a.e + b.e⟩

/-- Exact negation. -/
def Dy.neg (a : Dy) : Dy := ⟨-a.m, a.e⟩

/-- Strictly smaller. -/
def Dy.lt (a b : Dy) : Bool :=
  let e := min a.e b.e
  decide (a.at e < b.at e)

/-- Numerator of the fraction that a dyadic number is. -/
def Dy.num (a : Dy) : Int := a.m * (pow2 a.e : Nat)
/-- Denominator of the fraction that a dyadic number is. -/
def Dy.den (a : Dy) : Nat := pow2 (-a.e)

/-- The value of a float element: NaN, an infinity, or an exact finite value whose zero keeps its sign (R107). -/
inductive FV where
  | nan
  | inf (neg : Bool)
  | fin (neg : Bool) (v : Dy)
  deriving DecidableEq, Repr, Inhabited

/-- The value of an exact integer; its zero is +0. -/
def FV.ofInt (z : Int) : FV := .fin (decide (z < 0)) ⟨z, 0⟩

/-- A dyadic number as a value; its zero is +0. -/
def FV.ofDy (d : Dy) : FV := .fin (decide (d.m < 0)) d

/-- The value is a zero. -/
def FV.isZero : FV → Bool
  | .fin _ v => v.m == 0
  | _ => false

/-- The sign of a value; NaN counts as positive (R108). -/
def FV.sign : FV → Bool
  | .nan => false
  | .inf n => n
  | .fin n _ => n

/-- Sign inverted; NaN stays NaN. -/
def FV.neg : FV → FV
  | .nan => .nan
  | .inf n => .inf (!n)
  | .fin n v => .fin (!n) v.neg

/-- Sign cleared; NaN stays NaN. -/
def FV.abs (a : FV) : FV := if a.sign then a.neg else a

/-- Exact sum; an exact zero sum is −0 when both zeros are negative or the mode is RDN, else +0, but equal signs keep
theirs (R108, R124). -/
def FV.add (md : Mode) (a b : FV) : FV :=
  match a, b with
  | .nan, _ => .nan
  | _, .nan => .nan
  | .inf n, .inf k => if n = k then .inf n else .nan
  | .inf n, .fin _ _ => .inf n
  | .fin _ _, .inf k => .inf k
  | .fin n x, .fin k y =>
    let z := x.add y
    if z.m = 0 then
      if x.m = 0 ∧ y.m = 0 ∧ n = k then .fin n z else .fin (decide (md = .rdn)) z
    else .fin (decide (z.m < 0)) z

/-- Exact product (R108, R124). -/
def FV.mul (a b : FV) : FV :=
  match a, b with
  | .nan, _ => .nan
  | _, .nan => .nan
  | .inf n, .inf k => .inf (n != k)
  | .inf n, .fin k y => if y.m = 0 then .nan else .inf (n != k)
  | .fin n x, .inf k => if x.m = 0 then .nan else .inf (n != k)
  | .fin n x, .fin k y => .fin (n != k) (x.mul y)

/-- Strictly smaller; false with a NaN, and −0 equals +0 (R114). -/
def FV.lt (a b : FV) : Bool :=
  match a, b with
  | .nan, _ => false
  | _, .nan => false
  | .inf n, .inf k => n && !k
  | .inf n, .fin _ _ => n
  | .fin _ _, .inf k => !k
  | .fin _ x, .fin _ y => x.lt y

/-- Equal; false with a NaN, and −0 equals +0 (R114). -/
def FV.eq (a b : FV) : Bool :=
  match a, b with
  | .nan, _ => false
  | _, .nan => false
  | _, _ => !a.lt b && !b.lt a

/-- The value is NaN. -/
def FV.isNan : FV → Bool
  | .nan => true
  | _ => false

/-- The smaller value: NaN with a NaN operand, and −0 below +0 (R114). -/
def FV.min (a b : FV) : FV :=
  if a.isNan || b.isNan then .nan
  else if a.lt b then a
  else if b.lt a then b
  else if a.sign then a else b

/-- The larger value: NaN with a NaN operand, and +0 above −0 (R114). -/
def FV.max (a b : FV) : FV :=
  if a.isNan || b.isNan then .nan
  else if a.lt b then b
  else if b.lt a then a
  else if a.sign then b else a

/-! ## Float formats (R107, R108) -/

/-- A float format: exponent and fraction bits, bias, the largest finite pattern, and whether it has infinities and
NaN. -/
structure FFmt where
  e : Nat
  f : Nat
  bias : Nat
  maxBits : Nat
  inf : Bool
  nan : Option Nat
  deriving DecidableEq, Repr

/-- F32 (R107). -/
def fmtF32 : FFmt := ⟨8, 23, 127, 0x7F7FFFFF, true, some 0x7FC00000⟩
/-- BF16 (R107). -/
def fmtBF16 : FFmt := ⟨8, 7, 127, 0x7F7F, true, some 0x7FC0⟩
/-- F16 (R107). -/
def fmtF16 : FFmt := ⟨5, 10, 15, 0x7BFF, true, some 0x7E00⟩
/-- E4M3 (R107). -/
def fmtE4M3 : FFmt := ⟨4, 3, 7, 0x7E, false, some 0x7F⟩
/-- E5M2 (R107). -/
def fmtE5M2 : FFmt := ⟨5, 2, 15, 0x7B, true, some 0x7E⟩
/-- E2M1 (R107). -/
def fmtE2M1 : FFmt := ⟨2, 1, 1, 0x7, false, none⟩

/-- The format of a float type code. -/
def fmtOf (t : BitVec 4) : FFmt :=
  if t == 0x7 then fmtBF16
  else if t == 0x8 then fmtF16
  else if t == 0x9 then fmtE4M3
  else if t == 0xA then fmtE5M2
  else if t == 0xB then fmtE2M1
  else fmtF32

/-- The value of a pattern under a float format (R107). -/
def decodeF (fm : FFmt) (x : Nat) : FV :=
  let w := 1 + fm.e + fm.f
  let neg := decide (x / 2 ^ (w - 1) % 2 = 1)
  let mag := x % 2 ^ (w - 1)
  let ef := mag / 2 ^ fm.f
  let ff := mag % 2 ^ fm.f
  if mag > fm.maxBits then
    if fm.inf && ff == 0 then .inf neg else .nan
  else
    let m : Int := if ef = 0 then ff else ff + 2 ^ fm.f
    let ex : Int := (if ef = 0 then 1 else (ef : Int)) - fm.bias - fm.f
    .fin neg ⟨if neg then -m else m, ex⟩

/-- The sign bit of a pattern of a format. -/
def signBits (fm : FFmt) (neg : Bool) : Nat := if neg then 2 ^ (fm.e + fm.f) else 0

/-! ## Rounding (R110-R112) -/

/-- A fraction rounded to an integer (R111); the denominator is positive. -/
def roundInt (n : Int) (d : Nat) (md : Mode) : Int :=
  let q := n / (d : Int)
  let r := n % (d : Int)
  match md with
  | .rdn => q
  | .rup => if r = 0 then q else q + 1
  | .rtz => if r = 0 then q else if n < 0 then q + 1 else q
  | .rne => if 2 * r < d then q else if (d : Int) < 2 * r then q + 1 else if q % 2 = 0 then q else q + 1

/-- floor(log2(n / d)) of a positive fraction. -/
def log2Frac (n d : Nat) : Int :=
  let k : Int := (Nat.log2 n : Int) - (Nat.log2 d : Int)
  if n * pow2 (-k) < d * pow2 k then k - 1 else k

/-- What an overflow writes (R112). -/
def overflowBits (fm : FFmt) (md : Mode) (neg nsat : Bool) : Nat :=
  if fm.f ≤ 3 then
    if nsat then
      match fm.nan with
      | some b => b
      | none => signBits fm neg + fm.maxBits
    else signBits fm neg + fm.maxBits
  else
    let toInf :=
      match md with
      | .rne => true
      | .rtz => false
      | .rdn => neg
      | .rup => !neg
    signBits fm neg + (if toInf then fm.maxBits + 1 else fm.maxBits)

/-- A non-zero fraction of a given sign rounded into a format (R111). -/
def roundFrac (fm : FFmt) (md : Mode) (nsat : Bool) (n : Int) (d : Nat) : Nat :=
  let neg := decide (n < 0)
  let emin : Int := 1 - (fm.bias : Int)
  let e := max (log2Frac n.natAbs d) emin
  let k := e - fm.f
  let y := (roundInt (n * (pow2 (-k) : Nat)) (d * pow2 k) md).natAbs
  let mag := (e - emin).toNat * 2 ^ fm.f + y
  if mag > fm.maxBits then overflowBits fm md neg nsat else signBits fm neg + mag

/-- The canonical NaN of a format; +0 where it has none (R108, R113). -/
def nanBits (fm : FFmt) : Nat :=
  match fm.nan with
  | some b => b
  | none => 0

/-- What an infinity becomes in a format (R112): E5M2 keeps it, E4M3 and E2M1 write the largest finite value, or NaN in
E4M3 with `.nsat`. E2M1 with `.nsat` is log 50. -/
def infBits (fm : FFmt) (neg nsat : Bool) : Nat :=
  if fm.inf then signBits fm neg + (2 ^ fm.e - 1) * 2 ^ fm.f
  else if nsat then
    match fm.nan with
    | some b => b
    | none => signBits fm neg + fm.maxBits
  else signBits fm neg + fm.maxBits

/-- round_fp of R111 on a value: zeros keep their sign. -/
def roundFV (fm : FFmt) (md : Mode) (nsat : Bool) (v : FV) : Nat :=
  match v with
  | .nan => nanBits fm
  | .inf n => infBits fm n nsat
  | .fin n x => if x.m = 0 then signBits fm n else roundFrac fm md nsat x.num x.den

/-! ## Integers (R106) -/

/-- The value of an integer element: two's complement for I types, unsigned for N types and untyped words. -/
def intVal (t : BitVec 4) (x : Nat) : Int :=
  let w := widthT t
  let y := x % 2 ^ w
  if signedT t && decide (2 ^ (w - 1) ≤ y) then (y : Int) - (2 ^ w : Nat) else y

/-- Clamp to `w` signed bits (R106). -/
def satS (z : Int) (w : Nat) : Int := min (max z (-(2 ^ (w - 1) : Nat))) ((2 ^ (w - 1) : Nat) - 1)
/-- Clamp to `w` unsigned bits (R106). -/
def satN (z : Int) (w : Nat) : Int := min (max z 0) ((2 ^ w : Nat) - 1)
/-- Clamp to an integer type (R106). -/
def satT (t : BitVec 4) (z : Int) : Int := if signedT t then satS z (widthT t) else satN z (widthT t)
/-- The low `w` bits of an exact integer (R106). -/
def wrapW (z : Int) (w : Nat) : Nat := (z % (2 ^ w : Nat)).toNat
/-- An exact integer reduced to an integer type, wrapping or saturating (R106). -/
def putInt (t : BitVec 4) (sat : Bool) (z : Int) : Nat := wrapW (if sat then satT t z else z) (widthT t)

/-! ## Elements of a vector (R105) -/

/-- Element `i` of a vector under a type, as a pattern. -/
def elemBits (v : Vec) (i : Nat) (t : BitVec 4) : Nat := (v.toNat >>> (widthT t * i)) % 2 ^ widthT t

/-- Element `i` of a vector under a float type, as a value. -/
def elemF (v : Vec) (i : Nat) (t : BitVec 4) : FV := decodeF (fmtOf t) (elemBits v i t)

/-- Element `i` of a vector under an integer type, as a value. -/
def elemI (v : Vec) (i : Nat) (t : BitVec 4) : Int := intVal t (elemBits v i t)

/-- The number whose fields of `w` bits, field 0 lowest, are the given ones. -/
def packNat (w : Nat) (f : Nat → Nat) : Nat → Nat
  | 0 => 0
  | k + 1 => packNat w f k + (f k % 2 ^ w) <<< (w * k)

/-- The vector whose element `i` of width `w` is the given pattern, for `n` elements; the rest is 0. -/
def packVec (w n : Nat) (f : Nat → Nat) : Vec := BitVec.ofNat 512 (packNat w f n)

/-- The vector of all lanes of a type. -/
def mapLanes (t : BitVec 4) (f : Nat → Nat) : Vec := packVec (widthT t) (lanesT t) f

/-! ## Conversion (R113) -/

/-- One element converted from a type to another (R113). `ovf` is `.nsat` of a float and `.sat` of an integer
destination. Codes RAW, CTL, BP and DF convert to themselves only. -/
def convertT (md : Mode) (ovf : Bool) (src dst : BitVec 4) (x : Nat) : Nat :=
  if floatT src then
    if floatT dst then
      (if src == dst then (if (decodeF (fmtOf src) x).isNan then nanBits (fmtOf src) else x)
       else roundFV (fmtOf dst) md ovf (decodeF (fmtOf src) x))
    else if intT dst then
      match decodeF (fmtOf src) x with
      | .nan => 0
      | .inf n => putInt dst true (if n then -(2 ^ 64 : Nat) else (2 ^ 64 : Nat))
      | .fin _ v => putInt dst true (roundInt v.num v.den md)
    else x
  else if intT src then
    if floatT dst then roundFV (fmtOf dst) md ovf (FV.ofInt (intVal src x))
    else if intT dst then (if src == dst then x else putInt dst ovf (intVal src x))
    else x
  else x

/-- bp_value of R119: an element reconstructed from its first k planes; k above n is log 50. -/
def bpValue (vk : Int) (n k : Nat) : Int := if k < n then vk * (2 ^ (n - k) : Nat) + (2 ^ (n - k - 1) : Nat) else vk

/-! ## Block scales (R115) -/

/-- The value of an S20 scale (R115). -/
def scaleVal (x : Nat) : FV :=
  let e := x / 4096 % 256
  let f := x % 4096
  if e = 0 then .fin false ⟨0, 0⟩
  else if e = 255 then .nan
  else .fin false ⟨4096 + f, (e : Int) - 127 - 12⟩

/-- A product of two elements and their two scales: a NaN scale decides, then a zero scale makes +0, then the element
product (R115). -/
def scaledProduct (a sa b sb : FV) : FV :=
  if sa.isNan || sb.isNan then .nan
  else if sa.isZero || sb.isZero then .fin false ⟨0, 0⟩
  else (a.mul sa).mul (b.mul sb)

/-! ## Trees (R125, R126) -/

/-- One level of the reduction tree: all pairs at once. -/
def pairUp {α : Type} (op : α → α → α) : List α → List α
  | a :: b :: r => op a b :: pairUp op r
  | l => l

/-- red_tree of R125 over 2^L lanes. -/
def redTree {α : Type} (op : α → α → α) : Nat → List α → List α
  | 0, l => l
  | k + 1, l => redTree op k (pairUp op l)

/-- One level of the scan tree at distance d. -/
def scanLevel {α : Type} (op : α → α → α) (d : Nat) (l : List α) : List α :=
  l.take d ++ List.zipWith op l (l.drop d)

/-- scan_tree of R126 over 2^L lanes, from level k. -/
def scanTree {α : Type} (op : α → α → α) : Nat → Nat → List α → List α
  | 0, _, l => l
  | n + 1, k, l => scanTree op n (k + 1) (scanLevel op (2 ^ k) l)

/-! ## `vfn` (R145, R146) -/

/-- A free F32 pattern, kept when its value lies between two dyadic bounds, else the fallback. -/
def keepWithin (lo hi : Dy) (fallback pattern : Nat) : Nat :=
  match decodeF fmtF32 pattern with
  | .fin _ v => if !v.lt lo && !hi.lt v then pattern else fallback
  | _ => fallback

/-! The transcendental functions in fixed point, with 512 fraction bits: each series is summed until its terms vanish, so that
the value is off by far less than 2^-400. -/

/-- One in fixed point. -/
def fxOne : Int := (2 ^ 512 : Nat)

/-- `n` terms of Σ ±z^(2i+1)/(2i+1): the artanh of z, or its arctan when the signs alternate; `pw` is the next power. -/
def oddSeries (alt : Bool) (z2 : Int) : Nat → Nat → Int → Int → Int
  | 0, _, _, acc => acc
  | n + 1, i, pw, acc =>
    let term := pw / ((2 * i + 1 : Nat) : Int)
    oddSeries alt z2 n (i + 1) (pw * z2 / fxOne) (if alt && i % 2 == 1 then acc - term else acc + term)

/-- artanh of a fixed-point number of at most 1/3. -/
def fxArtanh (z : Int) : Int := oddSeries false (z * z / fxOne) 170 0 z 0
/-- arctan of a fixed-point number of at most 1/5. -/
def fxArctan (z : Int) : Int := oddSeries true (z * z / fxOne) 120 0 z 0
/-- ln 2 = 2 artanh (1/3). -/
def fxLn2 : Int := 2 * fxArtanh (fxOne / 3)
/-- π/2 = 8 arctan (1/5) - 2 arctan (1/239). -/
def fxHalfPi : Int := 8 * fxArctan (fxOne / 5) - 2 * fxArctan (fxOne / 239)

/-- `n` further terms of e^t, from term `i` on. -/
def expSeries (t : Int) : Nat → Nat → Int → Int → Int
  | 0, _, _, acc => acc
  | n + 1, i, term, acc => expSeries t n (i + 1) (term * t / (fxOne * ((i + 1 : Nat) : Int))) (acc + term)

/-- `n` further terms of sin t or cos t, from t^i/i! on, by the square of t. -/
def sinSeries (t2 : Int) : Nat → Nat → Int → Int → Int
  | 0, _, _, acc => acc
  | n + 1, i, term, acc =>
    sinSeries t2 n (i + 2) (-(term * t2 / (fxOne * (((i + 1) * (i + 2) : Nat) : Int)))) (acc + term)

/-- A dyadic number in fixed point, rounded down. -/
def Dy.fx (v : Dy) : Int := v.num * fxOne / (v.den : Int)

/-- 2^f for a fixed-point f from 0 to 1. -/
def fxExp2 (f : Int) : Int := expSeries (f * fxLn2 / fxOne) 120 0 fxOne 0
/-- log2 of a fixed-point r from 1 to 2. -/
def fxLog2 (r : Int) : Int := 2 * fxArtanh ((r - fxOne) * fxOne / (r + fxOne)) * fxOne / fxLn2
/-- sin of a fixed-point number: the argument reduced to a quadrant, `q` quadrants further on (1 gives the cosine). -/
def fxSin (x : Int) (q : Nat) : Int :=
  let n := x.natAbs / fxHalfPi.natAbs
  let t : Int := (x.natAbs % fxHalfPi.natAbs : Nat)
  let k := (n + q) % 4
  let y := if k % 2 = 0 then sinSeries (t * t / fxOne) 60 1 t 0 else sinSeries (t * t / fxOne) 60 0 fxOne 0
  let w := if k < 2 then y else -y
  if x < 0 ∧ q = 0 then -w else w

/-- A free F32 pattern, kept when it lies within a bound of a fixed-point value with exponent `e`, else the value rounded.
The bound is taken 2^-400 wider, relative to 2^e, for the error of the value itself. -/
def keepNear (a : Int) (e : Int) (bound : Dy) (pattern : Nat) : Nat :=
  let lo := (Dy.add ⟨a - 2 ^ 112, e - 512⟩ bound.neg)
  let hi := (Dy.add ⟨a + 2 ^ 112, e - 512⟩ bound)
  keepWithin lo hi (roundFrac fmtF32 .rne false (a * (pow2 (e - 512) : Nat)) (pow2 (512 - e))) pattern

/-- sin or cos within its absolute bound and within -1 to 1. -/
def keepSin (a : Int) (pattern : Nat) : Nat :=
  match decodeF fmtF32 pattern with
  | .fin _ v => if v.lt ⟨-1, 0⟩ || Dy.lt ⟨1, 0⟩ v then keepNear a 0 ⟨1, -21⟩ 0x7FC00000 else keepNear a 0 ⟨1, -21⟩ pattern
  | _ => keepNear a 0 ⟨1, -21⟩ pattern

/-- ulp of a positive exact result n / d: 2^(e-23), e = max(floor(log2), -126) (R145). -/
def ulpExp (n d : Nat) : Int := max (log2Frac n d) (-126) - 23

/-- Within one ulp of n / d, for a positive finite value. -/
def withinUlp (v : Dy) (n d : Nat) : Bool :=
  let u : Dy := ⟨1, ulpExp n d⟩
  let lo := v.add u.neg
  let hi := v.add u
  decide (lo.num * d ≤ n * lo.den) && decide ((n : Int) * hi.den ≤ hi.num * d)

/-- rcp of a finite non-zero value (R145, R146). The exact cases are the
powers of two with 1/x normal. -/
def rcpBits (pattern : Nat) (neg : Bool) (v : Dy) : Nat :=
  let n := v.den
  let d := v.num.natAbs
  let sg := signBits fmtF32 neg
  if (n * 1 : Int) ≥ (d : Int) * (pow2 128 : Nat) then sg + 0x7F800000
  else
    let exact := roundFrac fmtF32 .rne false (if neg then -(n : Int) else n) d
    if d &&& (d - 1) = 0 ∧ n &&& (n - 1) = 0 ∧ d ≤ n * 2 ^ 126 then exact
    else
      match decodeF fmtF32 pattern with
      | .fin k y => if k = neg ∧ withinUlp (if neg then y.neg else y) n d then pattern else exact
      | _ => exact

/-- Within one ulp of 1/√(n/d) for a positive value: squares are compared. The ulp is that of the power of two at or
below the exact result. -/
def withinRsqrt (y : Dy) (x : Dy) : Bool :=
  let l := log2Frac x.num.natAbs x.den
  let e : Int := -((l + 1) / 2 + (if (l + 1) % 2 = 0 then 0 else 1))
  let u : Dy := ⟨1, max e (-126) - 23⟩
  let lo := y.add u.neg
  let hi := y.add u
  let one : Dy := ⟨1, 0⟩
  (decide (lo.m ≤ 0) || !one.lt ((lo.mul lo).mul x)) && !((hi.mul hi).mul x).lt one

/-- √ of a natural number, rounded down: bit by bit from 2^k. -/
def isqrt (n : Nat) : Nat → Nat → Nat
  | 0, r => r
  | k + 1, r => isqrt n k (if (r + 2 ^ k) * (r + 2 ^ k) ≤ n then r + 2 ^ k else r)

/-- rsqrt of a positive finite value (R145, R146): the free pattern within its bound, else √ taken with 64 further
bits. -/
def rsqrtBits (pattern : Nat) (v : Dy) : Nat :=
  let n := v.den * 2 ^ 600
  let d := v.num.natAbs
  let r := isqrt (n / d) 700 0
  let near := roundFrac fmtF32 .rne false r (2 ^ 300)
  let l := log2Frac d v.den
  let isPow4 := decide (d * pow2 (-l) = v.den * pow2 l) && decide (l % 2 = 0)
  if isPow4 then near
  else
    match decodeF fmtF32 pattern with
    | .fin false y => if withinRsqrt y v then pattern else near
    | _ => near

/-- `vfn` on one F32 pattern: the special results of R146, the exact cases of R145, and elsewhere the free pattern
held within the bounds of R145 (log 40). -/
def vfnLane (fn : BitVec 3) (x : Nat) : Nat :=
  let p := (Config.vfnPattern fn (BitVec.ofNat 32 x)).toNat
  let nan := 0x7FC00000
  match (fn.toNat, decodeF fmtF32 x) with
  | (_, .nan) => nan
  | (0, .inf n) => signBits fmtF32 n
  | (0, .fin n v) => if v.m = 0 then signBits fmtF32 n + 0x7F800000 else rcpBits p n v
  | (1, .inf n) => if n then nan else 0
  | (1, .fin n v) =>
    if v.m = 0 then signBits fmtF32 n + 0x7F800000 else if n then nan else rsqrtBits p v
  | (2, .inf n) => if n then 0 else 0x7F800000
  | (2, .fin _ v) =>
    let k := v.num / (v.den : Int)
    if v.num % (v.den : Int) = 0 then
      (if 128 ≤ k then 0x7F800000 else if k ≤ -150 then 0
       else roundFrac fmtF32 .rne false (pow2 k : Nat) (pow2 (-k)))
    else if 128 ≤ k then 0x7F800000
    else if k < -150 then 0
    else keepNear (fxExp2 (v.add ⟨-k, 0⟩).fx) k ⟨2, max k (-126) - 23⟩ p
  | (3, .inf n) => if n then nan else 0x7F800000
  | (3, .fin n v) =>
    if v.m = 0 then 0xFF800000
    else if n then nan
    else
      let k := log2Frac v.num.natAbs v.den
      let exact := decide (v.num * (pow2 (-k) : Nat) = v.den * pow2 k)
      let kBits := if k = 0 then 0 else roundFrac fmtF32 .rne false k 1
      if exact then kBits
      else
        let y := k * fxOne + fxLog2 (v.mul ⟨1, -k⟩).fx
        let ulp : Dy := ⟨2, max ((Nat.log2 y.natAbs : Int) - 512) (-126) - 23⟩
        keepNear y 0 (if k = -1 ∨ k = 0 then ⟨1, -22⟩ else ulp) p
  | (4, .inf _) => nan
  | (4, .fin n v) =>
    if v.m = 0 then signBits fmtF32 n else keepSin (fxSin v.fx 0) p
  | (5, .inf _) => nan
  | (5, .fin _ v) => if v.m = 0 then 0x3F800000 else keepSin (fxSin v.fx 1) p
  | (_, _) => nan

end Sys2Proof.Machine
end

