-- ==== Sys2Proof/Machine/State.lean ====
section
/-!
DEFINITION. The state of an H12 package and its module as plain data, and the state after reset. Every record names the
rule that gives it; the values at reset are those that R78, R153, R190, R207, R231 and the register tables give, and
those that log 2, 3 and 4 name where the spec gives none.
-/
namespace Sys2Proof.Machine

/-! ## Tokens (R148) -/

/-- The sideband of a token (R148). -/
structure Sideband where
  fmt : BitVec 4 := 0
  head : Bool := false
  tail : Bool := false
  null : Bool := false
  kind : BitVec 3 := 0
  bank : BitVec 2 := 0
  scaled : Bool := false
  pred : Bool := false
  round : BitVec 8 := 0
  aux : BitVec 24 := 0
  deriving DecidableEq, Repr, Inhabited

/-- A token: payload and sideband (R148). -/
structure Token where
  side : Sideband := {}
  payload : Vec := 0
  /-- The payload has come out of a store with an uncorrectable error (R375; log 36). -/
  bad : Bool := false
  deriving DecidableEq, Repr, Inhabited

/-! ## A bank (R78, R80, R356) -/

/-- A batt register: 32 lanes of 48 bits and their sticky marks (R207). -/
structure Batt where
  lanes : BitVec 1536 := 0
  marks : BitVec 32 := 0
  deriving DecidableEq, Repr, Inhabited

/-- The register and the value of a pending write, by the kinds of R357. -/
inductive PVal where
  | scalar (r : BitVec 5) (x : W32)
  | pred (r : BitVec 3) (x : Bool)
  | sreg (n : BitVec 12) (x : W32)
  /-- A write of CLSMASK by an op: the mask of the leaf takes it in the cycle after the issue (R188; log 49), so that it
  is pending only for R65 and R66. -/
  | mask (x : W32)
  | vec (r : BitVec 4) (x : Vec)
  | cstep (r : BitVec 2) (x : BitVec 1024)
  | batt (r : BitVec 2) (x : Batt)
  | grant (slot : BitVec 2)
  deriving DecidableEq, Repr, Inhabited

/-- A pending write: the steps that remain until it lands, and what it writes (R80). A write with no steps remaining is
visible to the next bundle (R62). -/
structure PWrite where
  rem : Nat
  val : PVal
  /-- The slot of the op that made it, which orders equal landing steps in an image (R357). -/
  slot : Slot := .s
  deriving DecidableEq, Repr, Inhabited

/-- An entry of the loop stack (R92). -/
structure LoopEntry where
  start : Nat
  last : Nat
  left : W32
  deriving DecidableEq, Repr, Inhabited

/-- LIFE of BSTAT (R367). -/
inductive Life where
  | idle
  | running
  | retired
  deriving DecidableEq, Repr, Inhabited

/-- A held-key slot: UMK, UMQ and its bit of UMV (R292). -/
structure HeldKey where
  key : W32 := 0
  seq : W32 := 0
  valid : Bool := false
  deriving DecidableEq, Repr, Inhabited

/-- An umbra grant that a bank waits for: the key, the sequence and the reserved slot (R294). -/
structure GrantWait where
  key : W32
  seq : W32
  slot : Fin 4
  deriving DecidableEq, Repr, Inhabited

/-- A global access that a bank has sent: its number, and whether it is a read (R256, R261). -/
structure Outstanding where
  id : Nat
  read : Bool
  deriving DecidableEq, Repr, Inhabited

/-- An invalidation on its way from a home slice to a gateway cache: the gateway, the sector, the write that caused it
(R240, R256), and the partition whose graph made that write, or none for a control core or the host (R260). -/
structure Inval where
  gateway : Nat
  sector : Nat
  id : Nat
  part : Option (BitVec 6) := none
  deriving DecidableEq, Repr, Inhabited

/-- A bank: registers, flow state and status (R78, R80, R92, R364, R367). -/
structure Bank where
  s : Vector W32 32 := Vector.replicate 32 0
  p : Vector Bool 8 := Vector.replicate 8 false
  v : Vector Vec 16 := Vector.replicate 16 0
  batt : Vector Batt 4 := Vector.replicate 4 {}
  acc : Vector (BitVec 32768) 2 := Vector.replicate 2 0
  ak : Vector Bool 2 := Vector.replicate 2 false
  pc : Nat := 0
  step : W32 := 0
  pending : List PWrite := []
  /-- Bytes of the pending-write area that a control core has edited, parsed at the next resume or restore (R81). -/
  pendRaw : Option Memory := none
  loops : List LoopEntry := []
  rmode : BitVec 2 := 0
  sp : W32 := 0
  spbase : W32 := 0
  splim : W32 := 0
  othr : W32 := 0x3F7F0000
  seqst : W32 := 0
  round : BitVec 8 := 0
  gdepth : BitVec 4 := 0
  fltc : BitVec 8 := 0
  flta : W32 := 0
  fltb : W32 := 0
  fltx : W64 := 0
  held : Vector HeldKey 4 := Vector.replicate 4 {}
  psn : BitVec 4 := 0
  umWait : Option GrantWait := none
  life : Life := .idle
  faulted : Bool := false
  frozen : Bool := false
  wait : BitVec 4 := 0
  /-- The issue checks of the bundle at `pc` have been made and it waits (R61). -/
  checked : Bool := false
  /-- An empty step after a taken branch is owed (R64). -/
  emptyStep : Bool := false
  /-- `yield` (false) or `halt` (true) adds empty steps until no write is pending (R64). -/
  ending : Option Bool := none
  /-- Scope of the barrier in which the bank has arrived (R265). -/
  arrived : Option (BitVec 3) := none
  /-- The cycle in which the bank last arrived in an episode, or was retired (R265, R266). -/
  arrivedAt : Nat := 0
  out : List Outstanding := []
  /-- The invalidations that a waiting fence found under way when, with every earlier access performed, it reached the home
  slices (R261); `none` until then. -/
  fence : Option (List Inval) := none
  deriving DecidableEq, Repr, Inhabited

/-! ## Channels (R152-R154, R232, R280) -/

/-- What is stored beside a slot: the sideband, the mark of the input port (the low byte of CONV's FLTA), and a
sideband parity error (R166, R168, R375). -/
structure SlotInfo where
  side : Sideband := {}
  mark : Option (BitVec 8) := none
  parity : Bool := false
  deriving DecidableEq, Repr, Inhabited

/-- The producer at the far end of a channel's route, as the loader bound it (R24). -/
inductive Producer where
  | tile (t : Site) (l : Leaf) (ch : Fin 8)
  | edge (mt : Site) (l : Leaf) (x : Fin 8)
  | feeder (d : DieId) (n : Nat)
  | elastic (d : DieId) (e : Fin 16) (t : Site)
  | none
  deriving DecidableEq, Repr, Inhabited

/-- What a producer sends along its route: a poke into a producer slot, a publish of a producer slot, whose payload may
have gone ahead with a poke (R154), or a pre-empt or fault-drain marker (R149). -/
inductive Sent where
  | poke (slot : Nat) (fmt : BitVec 4) (payload : Vec)
  | publish (slot : Nat) (tok : Token) (poked : Bool)
  | preempt
  | faultDrain
  deriving DecidableEq, Repr, Inhabited

/-- The parts of a route that an item has passed, which a slot release takes back (R177): their cycles on the die that it is
on, and the dies that it has left over a bridge, the last first, with the cycles of the parts there (R178). -/
structure RoutePath where
  cycles : Nat
  legs : List (DieId × Nat) := []
  deriving DecidableEq, Repr, Inhabited

/-- Something under way on a route: its producer, its partition, what it carries, and what it has learnt of its route: the
split ratio that OCFG gives (R152), and the parts that it has passed (R177). `none` stands for a route whose return the spec
does not time: one from a distributor. -/
structure Item where
  src : Producer
  part : BitVec 6
  leaf : Leaf
  graph : Nat
  body : Sent
  ratio : Nat := 1
  path : Option RoutePath := none
  deriving DecidableEq, Repr, Inhabited

/-- An item in a track buffer or at an input port, and the first cycle in which it can move on (R177). -/
structure Flight where
  item : Item
  due : Nat
  deriving DecidableEq, Repr, Inhabited

/-- An input channel: ICFG, the consumer state of R153, Q (R232), RN (R280), and the route's far end. -/
structure InCh where
  icfg : W32 := 0
  h : Nat := 0
  f : Nat := 0
  slots : FMap SlotInfo := []
  q : Nat := 0
  rn : Nat := 0
  /-- Slots that the consumer has passed of a producer slot that it has not passed whole (R154). -/
  passed : Nat := 0
  prod : Producer := .none
  /-- The split ratio of the route (R152, R167) and the cycles of its return path (R177), as its last token brought them. -/
  ratio : Nat := 1
  back : Option RoutePath := none
  backedge : Bool := false
  /-- A held pre-empt marker (R149), and a back-edge record that stays open after a save (R354). -/
  marker : Bool := false
  openBack : Bool := false
  /-- Items that have reached the input port and are not stored yet (R166, R177). -/
  port : List Flight := []
  deriving DecidableEq, Repr, Inhabited

/-- An item that waits in its output channel: as a release, until the writes it names have been acknowledged and their
copies in the gateway caches of the named dies invalidated (R256), and until the cycle in which it can reach its box
(R177). -/
structure OutItem where
  item : Item
  waits : List Nat
  dies : BitVec 4
  due : Nat
  deriving DecidableEq, Repr, Inhabited

/-- An output channel: OCFG and the producer state of R153, the payloads poked and not yet published, and the items
that have not reached the box. -/
structure OutCh where
  ocfg : W32 := 0
  w : Nat := 0
  e : Nat := 0
  wr : BitVec 64 := 0
  rc : BitVec 8 := 0
  tc : BitVec 2 := 0
  closed : Bool := false
  pokes : FMap Vec := []
  outq : List OutItem := []
  deriving DecidableEq, Repr, Inhabited

/-! ## Requests beyond a tile (R228, R234, R236, R273, R280, R293, R316, R317, R347) -/

/-- What a request token asks. Addresses are virtual; the operands are those of the op at issue. -/
inductive ReqBody where
  | read (ea : W64)
  | write (ea : W64) (data : Vec)
  | wread (off : W32) (x : Nat)
  | amo (ea : W64) (fn : BitVec 4) (op nw : W32) (ret : Bool)
  | redc (ea : W64) (data : Vec)
  | fillc (ea : W64) (count : W32)
  | umen (key seq : W32) (slot : Fin 4) (keys : List W32)
  | umlv (key : W32)
  | umsk (key seq : W32)
  | umini (key seq : W32)
  | umabt (key : W32)
  | arm (ea : W64) (sel : BitVec 11)
  | fire (sel : BitVec 11) (w0 w1 : W32)
  | lnch (entry : BitVec 12) (range : W32 × W32) (depth : BitVec 4) (prio : BitVec 2) (pool : Nat) (notify : Bool)
  deriving DecidableEq, Repr, Inhabited

/-- Who sent a request: a bank, with the bundle that FLTB names, or a unit of a memory tile. -/
structure Sender where
  tile : Site
  leaf : Leaf
  bank : BankId
  bundle : Nat
  chan : Option (Fin 8) := none
  part : BitVec 6 := 0
  deriving DecidableEq, Repr, Inhabited

/-- An entry of a translation cache: ASID, page base, page size and the leaf's bits (R382). -/
structure TlbEntry where
  asid : W16
  vbase : Nat
  size : Nat
  pte : W64
  pbase : Nat
  deriving DecidableEq, Repr, Inhabited

/-- For what a request was sent (R229, R306, R316, R389, R397, R404). -/
inductive Purpose where
  /-- An op of a bank. -/
  | op
  /-- The next source beat of the run in progress of the sender's template. -/
  | beat
  /-- A destination beat: whether a control core fired its run, and the completion tag that it counts towards. -/
  | chunk (byCore : Bool) (tag : Option (Fin 16))
  /-- A line of the record of an `arm`. -/
  | line (arm : Nat)
  /-- A request of another module, with the port through which it came. -/
  | served (p : Fin 18) (m : LinkMsg)
  /-- A load of a control core: its bytes and its register. -/
  | load (k : CoreId) (n : Nat) (d : BitVec 5)
  /-- The next bundle of a `tload`: the core, the leaf and the place that it goes to, and how many are left with it. -/
  | bundle (k : CoreId) (t : Site) (l : Leaf) (first n : Nat)
  deriving DecidableEq, Repr, Inhabited

/-- A request token: its number, sender and contents, the writes that have to be acknowledged before it leaves as a
release (R256), and the physical address once it is translated. -/
structure Req where
  id : Nat
  src : Sender
  body : ReqBody
  why : Purpose := .op
  waits : List Nat := []
  dies : BitVec 4 := 0
  pa : Option Nat := none
  /-- The translation of a request in a hold buffer, until a `tinv` drops it (R386). -/
  xlat : Option TlbEntry := none
  /-- Counted once already (R385). -/
  counted : Bool := false
  /-- The serial of an `amo`, once the home memory tile has given it one (R276). -/
  serial : Option (BitVec 12) := none
  /-- An umbra request has been refused, its age since then, and whether its stall has been reported (R290, R300). -/
  refused : Bool := false
  age : Nat := 0
  reported : Bool := false
  /-- The cycle from which it can leave its port queue (R229; log 41). -/
  due : Nat := 0
  deriving DecidableEq, Repr, Inhabited

/-! ## Matrix and Carder state (R190, R192, R207) -/

/-- A latch buffer: 32 lines of 512 bits, 128 S20 scales, and the recorded type (R190). -/
structure LatchBuf where
  lines : BitVec 16384 := 0
  scales : BitVec 2560 := ofFields 2560 20 (fun _ => 0x7F000#20) 128
  t : BitVec 4 := 0x7
  deriving DecidableEq, Repr, Inhabited

/-- The op of a macro-sequencer entry with the register values it captured at issue (R192). -/
inductive MsOp where
  | mlat (latch : Bool) (t : BitVec 4) (addr : List Nat)
  | mlatc (latch : Bool) (t : BitVec 4) (ch : Fin 8)
  | mma (d : Fin 2) (t : BitVec 4) (bt : Bool) (mode : BitVec 2)
  | mzero (d : Fin 2)
  /-- The output channel of the drain entry that a scalar form named at issue, and the entry; or the channel of the head token
  (R200, R201). -/
  | mdrain (d : Fin 2) (u : BitVec 4) (sh : Bool) (out : Option (Fin 8)) (head : Fin 8)
  | msav (d : Fin 2) (addr : Nat)
  | mrst (d : Fin 2) (addr : Nat)
  deriving DecidableEq, Repr, Inhabited

/-- A macro-sequencer entry: who issued it and when, and the progress of its run (R192, R205). -/
structure MsEntry where
  id : Nat
  leaf : Leaf
  bank : BankId
  bundle : Nat
  op : MsOp
  issued : Nat
  start : Nat := 0
  /-- Cycles of the run, steps of an `mma`, or tokens taken or published. -/
  done : Nat := 0
  fill : LatchBuf := {}
  /-- Buffers of latch A and latch B that a running `mma` reads (R192). -/
  bufA : Bool := false
  bufB : Bool := false
  /-- The first cycle in which the next token can be taken or published (R197, R200). -/
  due : Nat := 0
  /-- The burst of an `mlatc` carries scale heads; the output channel of the drain entry that the head
  token of a steering `mdrain` named. -/
  scaled : Bool := false
  out : Option (Fin 8) := none
  waits : List Nat := []
  dies : BitVec 4 := 0
  deriving DecidableEq, Repr, Inhabited

/-- An activation half (R207). -/
structure Half where
  rows : BitVec 32768 := 0
  scales : BitVec 640 := ofFields 640 20 (fun _ => 0x7F000#20) 32
  t : BitVec 4 := 0x1
  valid : Bool := true
  deriving DecidableEq, Repr, Inhabited

/-- A card slot: 64 six-bit indices, the base, and d_2 to d_64 as bytes (R207, R356). -/
structure Card where
  map : BitVec 384 := ofFields 384 6 (fun m => BitVec.ofNat 6 m) 64
  base : BitVec 8 := 0
  diffs : BitVec 504 := 0
  deriving DecidableEq, Repr, Inhabited

/-- A running `cact` (R214). -/
structure CactRun where
  leaf : Leaf
  bank : BankId
  bundle : Nat
  half : Fin 2
  addr : Nat
  t : BitVec 4
  sc : Bool
  start : Nat
  /-- Cycles of the run that have read their lines, and the line whose uncorrectable error ended the run (R214). -/
  done : Nat := 0
  err : Option Nat := none
  fill : Half := {}
  deriving DecidableEq, Repr, Inhabited

/-! ## A compute tile -/

/-- A class packet, in a class port's outbound buffer or a class buffer (R183, R186); a pre-empt marker of a class has KIND 3
(R189). -/
structure ClassPkt where
  tok : Token
  part : BitVec 6
  graph : Nat
  waits : List Nat := []
  dies : BitVec 4 := 0
  due : Nat := 0
  deriving DecidableEq, Repr, Inhabited

/-- The context of one program leaf of a tile: banks, channels and tile state (R27, R356, R398). -/
structure LeafCtx where
  banks : Vector Bank 4 := Vector.replicate 4 {}
  inp : Vector InCh 8 := Vector.replicate 8 {}
  outp : Vector OutCh 8 := Vector.replicate 8 {}
  rrp : BitVec 2 := 0
  /-- CLSMASK, and the mask that stands from the next cycle (R188). -/
  clsmask : W16 := 0
  clsnext : Option W16 := none
  handlers : Vector (BitVec 13) 16 := Vector.replicate 16 0
  clsbuf : List ClassPkt := []
  /-- The class port holds what is sent from now on, behind the pre-empt markers of a swap; the classes whose marker has
  arrived on the class inlet; and what the port held when the context was saved (R189; log 53). -/
  clsshut : Bool := false
  clsmarks : W16 := 0
  clsheld : List ClassPkt := []
  drain : Vector (BitVec 4) 8 := Vector.replicate 8 0
  sshare : W32 := 0
  respmask : BitVec 8 := 0
  wswin : W32 := 0
  barcfg : W32 := 0
  barch : W32 := 0
  sigcfg : W32 := 0
  trig : BitVec 3 := 0
  part : BitVec 6 := 0
  /-- The loaded graph and stage that the leaf's program belongs to (R29); 0 when the leaf holds none. -/
  graph : Nat := 0
  stage : Nat := 0
  /-- The image bound the SYSTEM scope (R249), and the dies that each scope covers (R249). -/
  sysBound : Bool := false
  /-- The other modules of the SYSTEM scope binding, and those whose arrival in the current SYSTEM episode has come by a
  link message (R265, R266). -/
  sysPeers : List (BitVec 8) := []
  sysArrived : List (BitVec 8) := []
  /-- The arrival of the module in the current SYSTEM episode has been sent to the others. -/
  sysSent : Bool := false
  scopeDies : Vector (BitVec 4) 5 := Vector.replicate 5 0
  /-- The context has been saved and waits for a restore (R354); the macro-sequencer entries that its image holds, queued
  and partial, and its current latch buffers (R205). -/
  saved : Bool := false
  /-- The scopes whose episode completed while the context was being saved or in the decision cycle: its members go on at
  restore (R268, R355). -/
  barDone : BitVec 5 := 0
  /-- The bank whose firing became due when the tile had decided to save: it starts at restore (R32, R355). -/
  fireHeld : Option BankId := none
  /-- Its graph has been killed while its record lay in device memory (R370; log 10). -/
  killed : Bool := false
  msq : List MsEntry := []
  msrun : List MsEntry := []
  cura : Bool := false
  curb : Bool := false
  deriving DecidableEq, Repr, Inhabited

/-- A compute tile (R12, R207, R190, R224). -/
structure Tile where
  ctx : Vector LeafCtx 2 := #v[{ sshare := 0x4000 }, {}]
  running : Leaf := 0
  scratch : Memory := []
  /-- For each scratch byte, 1 + bank + 4·leaf when an `sts` or `stsw` of that bank wrote it last (R226). -/
  writer : Memory := []
  prog : Vector Memory 2 := Vector.replicate 2 []
  latches : Vector LatchBuf 4 := Vector.replicate 4 {}
  cura : Bool := false
  curb : Bool := false
  msq : List MsEntry := []
  msrun : List MsEntry := []
  halves : Vector Half 2 := Vector.replicate 2 {}
  cards : Vector Card 16 := Vector.replicate 16 {}
  cact : Option CactRun := none
  port : List Req := []
  clsout : List ClassPkt := []
  /-- What the tile has already done in the current cycle: issued a bundle, started a bank (R22, R187), and the banks
  that have used it, by an empty step, a bundle or their start (R64, R165, R352). -/
  issued : Bool := false
  started : Bool := false
  spent : BitVec 4 := 0
  /-- Banks that have become idle in the current cycle and can fire from the next (R64). -/
  idled : BitVec 4 := 0
  /-- Entries that have left the macro sequencer's queue in the current cycle: their places are free from the next (R192). -/
  left : Nat := 0
  /-- The memory port has sent its request of the current cycle (R228). -/
  sent : Bool := false
  /-- The leaf whose context a swap is saving, and the cycle in which the tile decided to save it (R354, R205). -/
  saving : Option Leaf := none
  savedAt : Nat := 0
  deriving DecidableEq, Repr, Inhabited

/-! ## Switch boxes (R172-R182) -/

/-- A switch box: switch words, class tables, guards, the partitions of its contexts, and the buffers of the tracks that
it drives, by word and phase (R172-R182). -/
structure Box where
  words : Vector W16 64 := Vector.replicate 64 0
  cls0 : Vector (BitVec 4) 16 := Vector.replicate 16 0
  cls1 : Vector (BitVec 4) 16 := Vector.replicate 16 0
  gcfg : BitVec 10 := 0
  grpt : W32 := 0
  gfirst : W32 := 0
  bxpart : BitVec 15 := 0
  buf : FMap (List Flight) := []
  /-- Items that have crossed a bridge to this box and wait for its switch words, by source index (R178). -/
  bridge : FMap (List Flight) := []
  /-- The last cycle in which a track, by word and phase, or a class track took an item (R173, R177). -/
  used : FMap Nat := []
  clsbuf : FMap (List ClassPkt) := []
  /-- The class inlets, by phase, class and direction (4 the tile's own port), whose pre-empt marker waits here for those of
  the other inlets of its class (R189). -/
  clsseen : List (Nat × Nat × Nat) := []
  deriving DecidableEq, Repr, Inhabited

/-! ## Memory tiles (R229, R377-R386) -/

/-- A page walk in progress (R380, R383): the request it serves, the next level and table base, and the ranges of the
`tinv` ops that have reached its walker since it began. -/
structure Walk where
  req : Req
  level : Nat
  base : Nat
  avoid : List (Nat × Nat) := []
  deriving DecidableEq, Repr, Inhabited

/-- A place in a memory tile's reorder buffer: the request, and its response once it has come back (R229, R233). -/
structure RobEntry where
  id : Nat
  src : Sender
  resp : Option Token := none
  /-- The cycle from which the response can fill its slot (log 41). -/
  due : Nat := 0
  deriving DecidableEq, Repr, Inhabited

/-- A token in an edge buffer: the storage slot that holds its payload, its sideband, and whether the slot goes back to a
producer when the token leaves (R246, R317). -/
structure EdgeTok where
  slot : Nat
  side : Sideband
  own : Bool
  deriving DecidableEq, Repr, Inhabited

/-- An edge buffer: its descriptor EBD (R245), the tokens it holds in arrival order, the mark for release (R247), and the
producer state of its route to the consumer (R246). The spec gives that producer state and the graph no register: they are fields
that the loader sets (DESIGN CHOICE, log 37). -/
structure EdgeBuf where
  v : Bool := false
  freed : Bool := false
  drops : BitVec 6 := 0
  cap64 : BitVec 8 := 0
  base : BitVec 15 := 0
  queue : List EdgeTok := []
  marked : Bool := false
  /-- The pre-empt marker of a swap has come, behind so many tokens of the buffer (R248, R323). -/
  preempt : Option Nat := none
  prod : Producer := .none
  /-- The cycles of the return path of the route to the inlet (R177), as its last token brought them. -/
  back : Option RoutePath := none
  graph : Nat := 0
  /-- One more than the cycle in which the buffer last passed a token (R246). -/
  passed : Nat := 0
  out : OutCh := {}
  /-- Items at the inlet. -/
  port : List Flight := []
  deriving DecidableEq, Repr, Inhabited

/-- The bank that holds a section or waits for one (R287). -/
structure Holder where
  tile : Site
  leaf : Leaf
  bank : BankId
  deriving DecidableEq, Repr, Inhabited

/-- A waiting enter request at an umbra host: its sequence, its sender with the slot and the other keys that it carries,
and its age (R287, R294, R300). -/
structure Waiter where
  id : Nat
  seq : W32
  src : Sender
  keys : List W32 := []
  age : Nat := 0
  reported : Bool := false
  deriving DecidableEq, Repr, Inhabited

/-- The record of a key (R287). -/
structure KeyRec where
  key : W32
  exp : W32 := 0
  holder : Option Holder := none
  poison : Bool := false
  waiters : List Waiter := []
  skips : List W32 := []
  deriving DecidableEq, Repr, Inhabited

/-- A lane sum of a CTYPE 2 sector, in units of 2^-149, with its flags (R278). -/
structure ExactLane where
  sum : Int := 0
  pinf : Bool := false
  ninf : Bool := false
  nan : Bool := false
  deriving DecidableEq, Repr, Inhabited

/-- A subscriber of a sector, on this module or on another one (R278, R280, R404). -/
structure Subscriber where
  tile : Site
  leaf : Leaf
  bank : BankId
  ch : Fin 8
  module : Option (BitVec 8) := none
  /-- Its partition on its module (R355, R404). -/
  part : BitVec 6 := 0
  deriving DecidableEq, Repr, Inhabited

/-- A counter record (R278): its fields, whether TLEFT counts down (LIMIT was not 0, R279), and the cycles of the
microsecond that it is counting. -/
structure CounterRec where
  state : BitVec 2 := 0
  inc : Bool := false
  ovr : Bool := false
  subs : List Subscriber := []
  exp : W16 := 0
  rcv : W16 := 0
  tleft : BitVec 24 := 0
  timed : Bool := false
  cycles : Nat := 0
  deriving DecidableEq, Repr, Inhabited

/-- A copy run: its number, its offsets, the source beats read so far, how many destination beats have been sent, and
whether a control core fired it (R310, R318, R321). -/
structure CopyRun where
  id : Nat
  soff : W32
  doff : W32
  input : List Vec := []
  sent : Nat := 0
  byCore : Bool := false
  /-- The last write has been sent, or a fault has been found: its cause, its address and the number of the beat's request, which
  orders the beats of a run (R318, R321, R322, R425). -/
  ended : Bool := false
  fault : Option (BitVec 8 × W64 × Nat) := none
  /-- The request whose answer the run awaits (R240, R241, R404). -/
  remote : Option Nat := none
  deriving DecidableEq, Repr, Inhabited

/-- A copy template: TPLST, TPLW, the pending set, the position of a scatter stream's walk, the runs that are fired and not
started, and the run in progress (R309, R314, R320, R321). -/
structure Template where
  state : BitVec 2 := 0
  cause : BitVec 8 := 0
  w : Vector W32 20 := Vector.replicate 20 0
  pend : List (Nat × W32) := []
  scatter : Nat := 0
  fired : List CopyRun := []
  run : Option CopyRun := none
  /-- The loaded graph that the template belongs to: the one it was placed with, or whose bank armed it (R309, R316; log 37). -/
  graph : Nat := 0
  /-- The next write waits for a place in a full hold buffer (R386). -/
  held : Bool := false
  deriving DecidableEq, Repr, Inhabited

/-- What a memory tile holds for a program leaf, beside its edge buffers and TRCFG (R269, R279, R289, R300, R314, R315,
R404): registers, templates, key records, and the storage of the ranges that the tile owns (R271). -/
structure MtLeaf where
  ownr : Vector W64 8 := Vector.replicate 8 0
  umhcfg : BitVec 7 := 0
  umhost : Vector W32 64 := Vector.replicate 64 0
  umblim : W32 := 1200000
  redto : BitVec 24 := 2000
  domwin : W64 := 0
  ctag : Vector W64 16 := Vector.replicate 16 0
  /-- Tags whose completion token became due in the decision cycle of a swap and is published at restore (R323). -/
  ctagHeld : BitVec 16 := 0
  /-- The edge buffers into which the engine forwards the marker of the swap in progress (R323). -/
  toMark : List (Fin 8) := []
  tpl : Vector Template 4 := Vector.replicate 4 {}
  keys : List KeyRec := []
  /-- Bytes of owned ranges of CTYPE 0 and 1, by virtual address; lane sums of CTYPE 2, by virtual address of the word;
  counter records, by virtual address of the sector. -/
  store : Memory := []
  lanes : FMap ExactLane := []
  records : FMap CounterRec := []
  /-- Words of owner storage that no sector of a range uses, by number (R271, R398). -/
  spare : FMap W32 := []
  /-- The pages of the owned ranges and the addresses that back them, as the walk at the start of the graph found them
  (R270). -/
  pages : FMap Nat := []
  part : BitVec 6 := 0
  /-- A partition runs in the leaf (R398), and a pre-empt marker stops the grants of its host (R304). -/
  occupied : Bool := false
  marked : Bool := false
  deriving DecidableEq, Repr, Inhabited

/-- For each unit of a memory tile that acts once a cycle, one more than the cycle in which it last did: the owner, the umbra host,
the retry of refused requests, and the copy engine's beat (R272, R290, R306). -/
structure LastUse where
  owner : Nat := 0
  host : Nat := 0
  retry : Nat := 0
  beat : Nat := 0
  deriving DecidableEq, Repr, Inhabited

/-- A memory tile (R12, R229, R398). Each program leaf has a register, a table entry or an edge buffer of its own wherever R398 or
R244 name one (that the eight edge buffers are per leaf: DEDUCED, log 62). -/
structure MemTile where
  mtwin : BitVec 6 := 32
  trcfg : Vector (BitVec 60) 2 := Vector.replicate 2 0
  tlb : List TlbEntry := []
  walks : List Walk := []
  queues : FMap (List Req) := []
  rob : FMap (List RobEntry) := []
  hold : List Req := []
  ebuf : Vector (Vector EdgeBuf 8) 2 := Vector.replicate 2 (Vector.replicate 8 {})
  lf : Vector MtLeaf 2 := Vector.replicate 2 {}
  /-- The leaf whose templates the copy engine serves, and the unit that it serves next (R306). -/
  running : Leaf := 0
  rr : Fin 4 := 0
  /-- Umbra requests that a host has refused, by compute tile and program leaf, oldest first (R290, R304). -/
  refused : FMap (List Req) := []
  last : LastUse := {}
  /-- The next `amo` serial of each compute tile, for a partition whose image it is part of (R276, R286). -/
  serials : FMap (BitVec 12) := []
  deriving DecidableEq, Repr, Inhabited

/-! ## Control cores (R388, R395) -/

/-- What a control core's instruction is still waiting for (R394, R397). -/
inductive CoreBusy where
  | none
  | wfe
  | tinv
  | swap (part : BitVec 6)
  /-- A `tsw` of a value to a selector, and a `cfgw` of a box register into a register of the core: they wait for the next
  cycle boundary of their target (R176, R397). -/
  | tsw (sel v : W64)
  | cfgw (d : BitVec 5) (t : Site) (n : Nat) (v : W32)
  /-- A `tload` that waits for a bank of the weight store or for a die between: the tile and leaf, the next bundle, its virtual
  address, and how many are left (R237, R397). -/
  | tload (t : Site) (l : Leaf) (first va n : Nat)
  /-- A load of host memory, or a bundle of a `tload` from there, by the number of its request (R241, R389, R397). -/
  | load (id : Nat)
  deriving DecidableEq, Repr, Inhabited

/-- A control core (R388, R395, R396). -/
structure Core where
  x : Vector W64 32 := Vector.replicate 32 0
  pc : BitVec 18 := 0
  evec : BitVec 18 := 0
  epc : BitVec 18 := 0
  ecause : BitVec 8 := 0
  eaddr : W64 := 0
  inExc : Bool := false
  evpend : BitVec 5 := 0
  evmask : BitVec 5 := 0
  timer : W64 := BitVec.allOnes 64
  msg : W64 := 0
  swstat : W64 := 0
  lmem : Memory := []
  /-- The core has been started after the firmware's signature check (R388, R408). -/
  started : Bool := false
  halted : Bool := false
  busy : CoreBusy := .none
  /-- TYPE 4 records that no partition's queue takes, newest last (R375). -/
  records : List (BitVec 512) := []
  deriving DecidableEq, Repr, Inhabited

/-! ## Dies (R237, R343, R350, R371) -/

/-- The notice registers of a partition on a die, its notice buffer and its record counter (R371-R374). -/
structure NoticeQ where
  nqbase : W64 := 0
  nqsize : BitVec 5 := 0
  nqhead : W16 := 0
  nqtail : W16 := 0
  pcc : BitVec 2 := 0
  migthr : W16 := 256
  cntbase : W64 := 0
  serial : W32 := 0
  buffer : List (BitVec 512) := []
  deriving DecidableEq, Repr, Inhabited

/-- A change of an elastic stage in progress: the tile of the pool, and whether it grows (R351). -/
structure ElasticChange where
  tile : Site
  leaf : Leaf
  up : Bool
  deriving DecidableEq, Repr, Inhabited

/-- An elastic stage: the RW fields of ELSTG, its counters, the pool that the loader bound by rising TILEID, the tiles that
receive tokens with the producer state towards each, the tiles that ACTIVE counts, the change in progress, and one more
than the cycle of the last sample (R350, R351). -/
structure Elastic where
  reg : W64 := 0
  above : Nat := 0
  below : Nat := 0
  part : BitVec 6 := 0
  pool : List (Site × Leaf) := []
  active : List Site := []
  outs : FMap OutCh := []
  change : Option ElasticChange := none
  sampled : Nat := 0
  deriving DecidableEq, Repr, Inhabited

/-- A die (R10, R343, R350). -/
structure Die where
  cycle : W64 := 0
  /-- Cycles' times that have passed while the clocks stood still: telemetry goes on in them (R401, R405). -/
  asleep : Nat := 0
  master : BitVec 2 := 0
  live : BitVec 4 := 0xF
  gran : W16 := 64
  notice : FMap NoticeQ := []
  elastic : Vector Elastic 16 := Vector.replicate 16 {}
  /-- Signature slots that hold a signature (R339). -/
  sigs : FMap (Option W64) := []
  /-- TEMP, POWERW, ECCCOR, ALARM and BOOT of BAR0 (R401). -/
  temp : W16 := 0
  powerw : W16 := 0
  ecccor : W32 := 0
  alarm : Bool := false
  boot : BitVec 2 := 0
  deriving DecidableEq, Repr, Inhabited

/-! ## Outside the tiles -/

/-- An asynchronous report on its way to a bank (R243, R366). -/
structure Report where
  tile : Site
  leaf : Leaf
  bank : BankId
  slot : BitVec 2
  bundle : Nat
  code : BitVec 8
  flta : W32
  fltx : W64 := 0
  /-- It reports an `ldw`, whose FLTX is a physical address (R367). -/
  weight : Bool := false
  pa : W64 := 0
  reason : BitVec 8 := 0
  key : Option (W32 × W32) := none
  part : BitVec 6 := 0
  /-- The access that it reports, and whether it refuses a `umen` (R262, R299). -/
  id : Nat := 0
  refused : Bool := false
  /-- The cycle of the tile's die from which it can arrive (log 41). -/
  due : Nat := 0
  deriving DecidableEq, Repr, Inhabited

/-- Producer slots on their way back to their producer (R154): the die that they are on, the cycle of it in which they arrive
there or can cross to the next one, where R177 gives it, and the parts of the route on the dies that are still before them. -/
structure Release where
  dest : Producer
  n : Nat
  due : Option Nat
  die : DieId := 0
  legs : List (DieId × Nat) := []
  deriving DecidableEq, Repr, Inhabited

/-- A place that holds an uncorrectable error (R375). No instruction makes one: it is a soft error that stands in the
store. -/
inductive Ecc where
  | bundle (t : Site) (l : Leaf) (a : Nat)
  | reg (t : Site) (l : Leaf) (b : BankId) (kind : BitVec 3) (r : Nat)
  | acc (t : Site) (l : Leaf) (b : BankId) (d : Fin 2)
  | latch (t : Site) (k : Fin 4)
  | card (t : Site) (k : Fin 16)
  | half (t : Site) (h : Fin 2)
  | scratch (t : Site) (line : Nat)
  | phys (line : Nat)
  | localMem (k : CoreId) (word : Nat)
  | gateway (n : Nat) (line : Nat)
  /-- A signature entry, by 256 times its slot plus its number (R338). -/
  | sig (d : DieId) (n : Nat)
  | dirty (line : Nat)
  /-- A byte offset of the shadow store of a leaf (R356). -/
  | shadow (t : Site) (l : Leaf) (o : Nat)
  /-- A box register by its `cfgw` number, and whether its TYPE 4 record has been sent. -/
  | config (t : Site) (n : Nat) (told : Bool)
  /-- A configuration register of a leaf of a compute tile by its `tsw` number, and whether its record has been sent. -/
  | tileReg (t : Site) (l : Leaf) (n : Nat) (told : Bool)
  /-- A 64-byte line of owner storage of a leaf, by the virtual address of its words (R271, R277). -/
  | owner (mt : Site) (l : Leaf) (line : Nat)
  deriving DecidableEq, Repr, Inhabited

/-- Where the next instruction is issued: the tile and the bank whose bundle it belongs to, or the control core. -/
structure Cursor where
  tile : Site := 0
  bank : BankId := 0
  core : CoreId := 0
  deriving DecidableEq, Repr, Inhabited

/-- Where a request is on its way to (R229, R240). -/
inductive Target where
  | sram (mt : Site)
  | gateway (n : Nat)
  | slice (t : Site)
  | weight (d : DieId)
  | host
  | owner (mt : Site)
  | umbra (mt : Site)
  | engine (mt : Site)
  | master
  | module (m : BitVec 8)
  deriving DecidableEq, Repr, Inhabited

/-- A request between its home memory tile and its target; a fill of the L2 that it waits for, the gateway that it came
through (R238, R240), whether the first words of a store are written (R235), the lines of its record that an `arm` has read
and whether it awaits one, and the record once it is checked and waits for a run to end (R316). -/
structure Flying where
  req : Req
  target : Target
  fill : Bool := false
  via : Option Nat := none
  half : Bool := false
  asked : Bool := false
  lines : List Vec := []
  record : Option (Vector W32 20) := none
  /-- The cycle of the requester's die from which it can take effect at its target (log 41). -/
  due : Nat := 0
  deriving DecidableEq, Repr, Inhabited

/-- An acknowledgement on its way to a tile: the request, and the cycle of the tile's die from which it can arrive (R256;
log 41). -/
structure Ack where
  id : Nat
  tile : Site
  due : Nat
  deriving DecidableEq, Repr, Inhabited

/-- An L2 slice: the sectors that it holds and those that are dirty, the sectors in its miss registers, and for each line
the gateways that may hold copies (R238-R240). -/
structure Slice where
  held : List Nat := []
  dirty : List Nat := []
  miss : List Nat := []
  present : FMap (List Nat) := []
  deriving DecidableEq, Repr, Inhabited

/-- The last answers of a unit to the `amo` requests of a source: a compute tile, of this module or of another one, for a
partition whose image they are part of (R276, R286, R404). -/
structure AmoAnswer where
  target : Target
  src : Site
  part : BitVec 6
  module : Option (BitVec 8) := none
  serial : BitVec 12
  old : W32
  deriving DecidableEq, Repr, Inhabited

/-- A grant or a refusal on its way from an umbra host to a bank (R291, R293, R299). -/
structure Grant where
  src : Sender
  key : W32
  seq : W32
  poison : Bool
  /-- The cycle of the tile's die in which it arrives, when it stays on the die (R420; log 41). -/
  due : Option Nat := none
  /-- Decided behind a pre-empt marker or in the decision cycle of a swap, or arrived in that cycle, to be delivered at restore
  (R304, R355). -/
  held : Bool := false
  deriving DecidableEq, Repr, Inhabited

/-- A deadlock probe: the host, the waiting request, the holder it asks, and the answer once it has been read (R301). -/
structure Probe where
  mt : Site
  leaf : Leaf
  key : W32
  id : Nat
  who : Holder
  keys : List W32
  answer : Option Bool := none
  deriving DecidableEq, Repr, Inhabited

/-- A token on its way to a reserved slot of a response channel, outside the reorder buffer: ready, timeout, reset and
refused tokens (R282), and launch notify tokens (R348). -/
structure Ready where
  tile : Site
  leaf : Leaf
  ch : Fin 8
  tok : Token
  /-- The cycle of the tile's die in which it arrives, when it stays on the die (R420; log 41). -/
  due : Option Nat := none
  /-- Produced or arrived in the decision cycle of a swap, to be delivered at restore (R286, R355). -/
  held : Bool := false
  deriving DecidableEq, Repr, Inhabited

/-- A destination chunk of 32 bytes that a run has sent and that is not acknowledged yet: the template, the run and whether a
control core fired it, its tag, its address, the request that carries its beat, the source addresses that the run had read, and
whether a fault of its run has been told after the run's end (R315, R321, R322, R425). -/
structure Chunk where
  mt : Site
  leaf : Leaf
  unit : Fin 4
  run : Nat
  byCore : Bool := false
  tag : Option (Fin 16)
  va : Nat
  req : Nat
  reads : List Nat := []
  told : Bool := false
  /-- The cycle from which the acknowledgement can arrive, once the write is done (log 41). -/
  due : Nat := 0
  deriving DecidableEq, Repr, Inhabited

/-- A counter increment on its way to its slice (R385, R428). -/
structure Increment where
  mt : Site
  leaf : Leaf
  part : BitVec 6
  asid : W16
  cidx : BitVec 12
  addr : Nat
  va : W64
  pa : Nat
  size : BitVec 2
  base : W64
  deriving DecidableEq, Repr, Inhabited

/-- A `tinv` whose acknowledgement is awaited: who issued it, its range, the requests translated through the dropped
entries, and the copy runs, chunks and increments under way when they were dropped (R383, R425). -/
structure Tinv where
  core : CoreId
  range : Nat × Nat
  waits : List Nat
  runs : List Nat := []
  chunks : List Chunk := []
  incs : List Increment := []
  deriving DecidableEq, Repr, Inhabited

/-- A graph that the loader has placed: its partition, image and number, the tiles that its actors occupy, its sources
with their trigger channels, and the memory tiles that hold its buffers and templates (R29, R340). -/
structure Graph where
  part : BitVec 6
  image : BitVec 12
  index : BitVec 4
  tiles : List (Site × Leaf) := []
  sources : List (Site × Leaf × Fin 8) := []
  mts : List (Site × Leaf) := []
  deriving DecidableEq, Repr, Inhabited

/-- A partition that the loader has placed (R25, R27): its compute tiles and memory tiles, whether it is swapped out, and
whether its records lie in device memory (R358). -/
structure Partition where
  tiles : List (Site × Leaf) := []
  mts : List (Site × Leaf) := []
  swapped : Bool := false
  inMemory : Bool := false
  deriving DecidableEq, Repr, Inhabited

/-- An entry of the graph launch table (R340), and the order in which it became READY (R341). -/
structure LaunchEntry where
  w0 : W32 := 0
  w1 : W32 := 0
  w2 : W32 := 0
  w3 : W32 := 0
  w4 : W32 := 0
  order : Nat := 0
  deriving DecidableEq, Repr, Inhabited

/-- An entry of the launch pool that is in use (R346, R347). -/
structure PoolEntry where
  template : BitVec 12
  range : W32 × W32
  depth : BitVec 4
  prio : BitVec 2 := 0
  parent : Nat
  src : Sender
  notify : Bool
  ready : Bool := false
  order : Nat := 0
  deriving DecidableEq, Repr, Inhabited

/-- A launch feeder of a running launch: a source on a die, the ranges of indices that it was given and those that are left,
as first index and end, the tag counter, whether the end-of-stream token is published, and the producer state of its
route (R342, R349). -/
structure Feeder where
  die : DieId
  tile : Site
  leaf : Leaf
  ch : Fin 8
  share : List (Nat × Nat)
  left : List (Nat × Nat)
  tag : BitVec 2 := 0
  eos : Bool := false
  out : OutCh := {}
  /-- One more than the cycle in which it last published a token (R342). -/
  published : Nat := 0
  deriving DecidableEq, Repr, Inhabited

/-- A running launch: its table entry, or pool entry with bit 16 set, its graph, its depth, its feeders, the dies whose
report stands, and what left and reached each die over bridges (R341, R342, R344). -/
structure Launch where
  slot : Nat
  graph : Nat
  depth : BitVec 4
  feeders : List Feeder
  reports : BitVec 4 := 0
  sent : Vector Nat 4 := Vector.replicate 4 0
  got : Vector Nat 4 := Vector.replicate 4 0
  /-- The distributors start nothing more for it: all its sources lay on a fenced die (R349). -/
  stranded : Bool := false
  /-- Its owners have written back, and its end waits for the gateway caches (R260, R271). -/
  backed : Bool := false
  deriving DecidableEq, Repr, Inhabited

/-- What a swap through memory keeps beside the words of the record: the context of a tile or the units of a memory tile as
they were saved (R356, R358; log 10). With a tile go its pending events, its refused umbra requests and its signature table
(R304, R339, R355). -/
structure Stash where
  part : BitVec 6
  site : Site
  leaf : Leaf
  ctx : LeafCtx := {}
  mtLeaf : MtLeaf := {}
  ebufs : Vector EdgeBuf 8 := Vector.replicate 8 {}
  grants : List Grant := []
  ready : List Ready := []
  reports : List Report := []
  /-- Grants and tokens that were made for the tile while its record lay in device memory (R355). -/
  lateGrants : List Grant := []
  lateReady : List Ready := []
  refused : List Req := []
  sigs : FMap (Option W64) := []
  deriving DecidableEq, Repr, Inhabited

/-- A swap-out or a restore in progress: the partition, the core that commanded it, the address of a swap through memory,
whether it restores, the dies that the command has reached, and the nodes that have not finished (R353, R354, R359). -/
structure Swap where
  part : BitVec 6
  core : CoreId
  memory : Option Nat := none
  restore : Bool := false
  dies : BitVec 4 := 0
  /-- The dies that the command reaches with their next cycle (R353). -/
  coming : BitVec 4 := 0
  /-- The decision cycle of each die that the command has reached (R353). -/
  cycles : Vector Nat 4 := Vector.replicate 4 0
  tiles : List (Site × Leaf) := []
  deriving DecidableEq, Repr, Inhabited

/-- A request that waits for its answer from another module: the module, the unit and the serial under which it left, and its
number (R404). -/
structure Awaited where
  module : BitVec 8
  unit : Nat
  serial : BitVec 12
  id : Nat
  deriving DecidableEq, Repr, Inhabited

/-- The answer to a request of another module whose write is done, once its gateway copies are gone (R256, R261, R404). -/
structure Reply where
  req : Req
  port : Fin 18
  msg : LinkMsg
  data : Vec
  deriving DecidableEq, Repr, Inhabited

/-- A link port (R401, R403): LNKSTAT, LNKERR, failed replays of the flit it expects, the next serial of each source,
messages held behind a gap, and the replies given. -/
structure LinkPort where
  up : Bool := false
  lost : Bool := false
  err : W32 := 0
  replays : Nat := 0
  next : FMap (BitVec 12) := []
  held : List LinkMsg := []
  replies : List (LinkMsg × BitVec 6 × LinkBody) := []
  /-- The serial that each local source gives its next message to a module, messages sent through the port and not
  acknowledged yet, and requests sent whose answers are awaited. -/
  serials : FMap (BitVec 12) := []
  out : List LinkMsg := []
  awaited : List Awaited := []
  deriving DecidableEq, Repr, Inhabited

/-- PWR, FENCE, the attestation registers and the flash of the module (R401, R405, R406, R408, R409). -/
structure HostRegs where
  target : BitVec 2 := 0
  cur : BitVec 2 := 0
  busy : Bool := false
  refused : Bool := false
  fence : BitVec 4 := 0
  nonce : Vector W32 8 := Vector.replicate 8 0
  noncePend : List (Fin 8 × W32) := []
  attBusy : Bool := false
  attDone : Bool := false
  report : Memory := []
  flash : Memory := []
  /-- Reads that the host has made through BAR4 and their answers, newest last (R400); `none` is an Unsupported Request. -/
  answers : List (Option (List Byte)) := []
  /-- Reads of host memory that completed with an error, which the port counts (R241). -/
  readErrors : Nat := 0
  /-- Writes through BAR2 that wait for the end of an election, oldest first (R406). -/
  held : List (Nat × W32) := []
  deriving DecidableEq, Repr, Inhabited


structure State where
  /-- Who moves next: named turns first, then one that repeats, then a free choice (R9; log 1). -/
  agenda : List Turn := []
  solo : Option Turn := none
  choices : Nat := 0
  /-- The bank whose bundle is being issued (log 7). -/
  cur : Cursor := {}
  /-- The number that the next request or entry takes (log 6). -/
  nextId : Nat := 1
  tiles : FMap Tile := []
  boxes : FMap Box := []
  memTiles : FMap MemTile := []
  dies : Vector Die 4 := Vector.replicate 4 {}
  cores : Vector Core 16 := Vector.replicate 16 {}
  /-- Physical memory as its home holds it: GDDR7 with its L2 sectors, memory-tile SRAM, weight store, host (R222). -/
  mem : Memory := []
  flight : List Flying := []
  releases : List Release := []
  reports : List Report := []
  /-- Accesses that have not been performed or acknowledged yet (R256, R261). -/
  acks : List Nat := []
  invals : List Inval := []
  /-- Writes that their target has performed and whose acknowledgement is on its way (R256). -/
  acking : List Ack := []
  /-- Answers to other modules that wait for the invalidations of their write (R261, R404). -/
  replies : List Reply := []
  /-- The pending-write filters of the L2 slices: the slice and the sector of each entry (R239). -/
  filters : List (Site × Nat) := []
  ecc : List Ecc := []
  gateways : FMap (FMap (BitVec 1024)) := []
  slices : FMap Slice := []
  amos : List AmoAnswer := []
  grants : List Grant := []
  probes : List Probe := []
  ready : List Ready := []
  chunks : List Chunk := []
  incs : List Increment := []
  tinvs : List Tinv := []
  graphs : FMap (Option Graph) := []
  parts : FMap (Option Partition) := []
  launch : FMap LaunchEntry := []
  pool : FMap (Option PoolEntry) := []
  launches : List Launch := []
  /-- The order that the next READY entry or arriving launch takes (R341, R347). -/
  orders : Nat := 0
  /-- An election is in progress (R349). -/
  election : Bool := false
  swaps : List Swap := []
  stash : List Stash := []
  links : Vector LinkPort 18 := Vector.replicate 18 {}
  /-- The module's own number, the modules that the host's link configuration placed in the domain, and the port that
  reaches each (R404). -/
  module : BitVec 8 := 0
  domain : FMap (Option (Fin 18)) := []
  host : HostRegs := {}
  /-- The module has power (R39). -/
  powered : Bool := true
  deriving DecidableEq, Repr, Inhabited

/-- Reasons for which the machine stops with a fault. The spec describes what every fault of a tile or a control core
leaves behind, and the machine goes on; so the one constructor is never raised by a step of a powered package. -/
inductive Fault where
  /-- Raised by nothing: kept so that the type is not empty. Safe. -/
  | unreachable
  deriving DecidableEq, Repr

/-- Reasons for which an instruction has no meaning here. -/
inductive Refusal where
  /-- Raised by an arm of `exec` whose instruction has no meaning yet. Safe: the machine stops. -/
  | notModelled (mnemonic : String)
  deriving DecidableEq, Repr

/-- The package right after reset. -/
def State.reset : State := {}

end Sys2Proof.Machine
end

