-- ==== Sys2Proof/Machine/Ops.lean ====
section
/-!
DEFINITION. The named operations on the state that every family shares: reading and writing registers, landing pending
writes (R62), the records of a control core's notice queue (R371-R374), taking a fault on a bank (R362-R365), taking an
exception on a control core and returning from it (R394, R396), and the issue of a bundle (R59-R66).
-/
namespace Sys2Proof.Machine

/-! ## Access to the parts of the state -/

/-- A compute tile. -/
def State.tile (s : State) (t : Site) : Tile := s.tiles.get t.toNat {}
/-- A compute tile replaced. -/
def State.setTile (s : State) (t : Site) (x : Tile) : State := { s with tiles := s.tiles.set t.toNat x }
/-- A compute tile changed. -/
def State.onTile (s : State) (t : Site) (f : Tile → Tile) : State := s.setTile t (f (s.tile t))
/-- The context of a leaf changed. -/
def Tile.onCtx (x : Tile) (l : Leaf) (f : LeafCtx → LeafCtx) : Tile := { x with ctx := x.ctx.set l (f x.ctx[l]) }
/-- The context of a program leaf of a tile. -/
def State.ctx (s : State) (t : Site) (l : Leaf) : LeafCtx := (s.tile t).ctx[l]
/-- The context of a leaf of a tile changed. -/
def State.onCtx (s : State) (t : Site) (l : Leaf) (f : LeafCtx → LeafCtx) : State := s.onTile t (fun x => x.onCtx l f)
/-- A bank of a context changed. -/
def LeafCtx.onBank (c : LeafCtx) (b : BankId) (f : Bank → Bank) : LeafCtx := { c with banks := c.banks.set b (f c.banks[b]) }
/-- A bank. -/
def State.bank (s : State) (t : Site) (l : Leaf) (b : BankId) : Bank := (s.ctx t l).banks[b]
/-- A bank changed. -/
def State.onBank (s : State) (t : Site) (l : Leaf) (b : BankId) (f : Bank → Bank) : State :=
  s.onCtx t l (fun c => c.onBank b f)
/-- A switch box. -/
def State.box (s : State) (t : Site) : Box := s.boxes.get t.toNat {}
/-- A switch box changed. -/
def State.onBox (s : State) (t : Site) (f : Box → Box) : State := { s with boxes := s.boxes.set t.toNat (f (s.box t)) }
/-- A memory tile. -/
def State.mt (s : State) (t : Site) : MemTile := s.memTiles.get t.toNat {}
/-- A memory tile changed. -/
def State.onMt (s : State) (t : Site) (f : MemTile → MemTile) : State :=
  { s with memTiles := s.memTiles.set t.toNat (f (s.mt t)) }
/-- A die changed. -/
def State.onDie (s : State) (d : DieId) (f : Die → Die) : State := { s with dies := s.dies.set d (f s.dies[d]) }
/-- ECCCOR counts one more soft error, and holds at all ones (R375, R401). -/
def Die.countEcc (d : Die) : Die := { d with ecccor := if d.ecccor = 0xFFFFFFFF then d.ecccor else d.ecccor + 1 }

/-- A control core changed. -/
def State.onCore (s : State) (k : CoreId) (f : Core → Core) : State := { s with cores := s.cores.set k (f s.cores[k]) }
/-- The cycle count of a site's die (R77, R395). -/
def State.cycleAt (s : State) (t : Site) : Nat := s.dies[siteDie t].cycle.toNat
/-- A number taken for a request or a sequencer entry. -/
def State.takeId (s : State) : State := { s with nextId := s.nextId + 1 }

/-! ## The bank that issues -/

/-- The running leaf of the issuing tile. -/
def State.curLeaf (s : State) : Leaf := (s.tile s.cur.tile).running
/-- The issuing tile. -/
def State.curTile (s : State) : Tile := s.tile s.cur.tile
/-- The context of the running leaf of the issuing tile. -/
def State.curCtx (s : State) : LeafCtx := s.ctx s.cur.tile s.curLeaf
/-- The issuing bank. -/
def State.curBank (s : State) : Bank := s.bank s.cur.tile s.curLeaf s.cur.bank
/-- The issuing tile changed. -/
def State.onCurTile (s : State) (f : Tile → Tile) : State := s.onTile s.cur.tile f
/-- The running context of the issuing tile changed. -/
def State.onCurCtx (s : State) (f : LeafCtx → LeafCtx) : State := s.onCtx s.cur.tile s.curLeaf f
/-- The issuing bank changed. -/
def State.onCurBank (s : State) (f : Bank → Bank) : State := s.onBank s.cur.tile s.curLeaf s.cur.bank f

/-- A scalar register; s0 reads as 0 (R78). -/
def Bank.rs (k : Bank) (r : BitVec 5) : W32 := if r = 0 then 0 else k.s[r.toNat]'(by have := r.isLt; omega)
/-- A predicate register; p0 reads true (R78). -/
def Bank.rp (k : Bank) (r : BitVec 3) : Bool := if r = 0 then true else k.p[r.toNat]'(by have := r.isLt; omega)
/-- A vector register. -/
def Bank.rv (k : Bank) (r : BitVec 4) : Vec := k.v[r.toNat]'(by have := r.isLt; omega)
/-- A batt register. -/
def Bank.rb (k : Bank) (r : BitVec 2) : Batt := k.batt[r.toNat]'(by have := r.isLt; omega)
/-- The low and high registers of a scalar pair (R50). -/
def Bank.rpair (k : Bank) (q : BitVec 4) : W64 := k.rs (q ++ 1#1) ++ k.rs (q ++ 0#1)

/-- A write to a scalar register; a write to s0 is discarded (R65, R78). -/
def Bank.ws (k : Bank) (r : BitVec 5) (x : W32) : Bank :=
  if r = 0 then k else { k with s := k.s.set r.toNat x (by have := r.isLt; omega) }
/-- A write to a predicate register; a write to p0 is discarded (R65, R78). -/
def Bank.wp (k : Bank) (r : BitVec 3) (x : Bool) : Bank :=
  if r = 0 then k else { k with p := k.p.set r.toNat x (by have := r.isLt; omega) }
/-- A write to a vector register. -/
def Bank.wv (k : Bank) (r : BitVec 4) (x : Vec) : Bank :=
  { k with v := k.v.set r.toNat x (by have := r.isLt; omega) }
/-- A write to a batt register. -/
def Bank.wb (k : Bank) (r : BitVec 2) (x : Batt) : Bank :=
  { k with batt := k.batt.set r.toNat x (by have := r.isLt; omega) }

/-- The predicate field lets the op execute: p[PR] XOR PS (R45). -/
def Bank.enabled (k : Bank) (g : Pg) : Bool := k.rp g.pr != g.ps

/-! ## Landing of pending writes (R62, R99, R215) -/

/-- One lane of a batt register after an addend lands: saturating, with a sticky mark (R215). -/
def battLane (lane : Int) (mark : Bool) (x : Int) : Int × Bool :=
  let v := lane + x
  let top : Int := (2 ^ 47 : Nat) - 1
  if v > top then (top, true) else if v < -top then (-top, true) else (v, mark)

/-- The lane of a batt register as an integer (R207). -/
def Batt.lane (x : Batt) (i : Nat) : Int := (getF x.lanes 48 i).toInt

/-- The mark of a lane of a batt register (R207). -/
def Batt.mark (x : Batt) (i : Nat) : Bool := x.marks.getLsbD i

/-- A batt register after 32 addends land on it (R215). -/
def Batt.addStep (x : Batt) (a : BitVec 1024) : Batt :=
  let r := fun i => battLane (x.lane i) (x.mark i) (getF a 32 i).toInt
  { lanes := ofFields 1536 48 (fun i => BitVec.ofInt 48 (r i).1) 32,
    marks := ofFields 32 1 (fun i => BitVec.ofBool (r i).2) 32 }

/-- A write to a state register of a bank lands; RO fields and reserved bits stay (R77, R79, R99). -/
def Bank.wsr (k : Bank) (n : BitVec 12) (x : W32) : Bank :=
  if n = 0x006 then { k with rmode := x.extractLsb' 0 2 }
  else if n = 0x007 then { k with sp := x &&& 0x3FFFC }
  else if n = 0x00E then { k with othr := x }
  else if n = 0x00F then { k with seqst := x }
  else if n = 0x012 then { k with round := x.extractLsb' 0 8 }
  else k

/-- One pending write lands on its register (R62). CLSMASK is state of the leaf (R188): an op's write of it has been made in
the cycle after its issue, one that a control core has put into an image is made here. -/
def LeafCtx.land (c : LeafCtx) (b : BankId) (v : PVal) : LeafCtx :=
  match v with
  | .scalar r x => c.onBank b (fun k => k.ws r x)
  | .pred r x => c.onBank b (fun k => k.wp r x)
  | .sreg n x =>
    if n = 0x010 then { c with clsmask := x.extractLsb' 0 16 } else c.onBank b (fun k => k.wsr n x)
  | .mask _ => c
  | .vec r x => c.onBank b (fun k => k.wv r x)
  | .cstep r x => c.onBank b (fun k => k.wb r ((k.rb r).addStep x))
  | .batt r x => c.onBank b (fun k => k.wb r x)
  | .grant _ => c

/-- The writes of a list whose steps have run out land, in order; the rest stay pending. -/
def LeafCtx.landAll (c : LeafCtx) (b : BankId) : List PWrite → LeafCtx
  | [] => c
  | w :: r => if w.rem = 0 then LeafCtx.landAll (c.land b w.val) b r else LeafCtx.landAll c b r

/-- A pending write stays in the list: steps remain, or it awaits an umbra grant (R62, R294). -/
def PWrite.stays (w : PWrite) : Bool :=
  match w.val with
  | .grant _ => true
  | _ => w.rem != 0

/-- Every write of a bank that is due has landed (R62). -/
def LeafCtx.settle (c : LeafCtx) (b : BankId) : LeafCtx :=
  let ws := c.banks[b].pending
  (c.landAll b ws).onBank b (fun k => { k with pending := ws.filter PWrite.stays })

/-- The due writes of the issuing bank have landed. -/
def State.settle (s : State) : State := s.onCurCtx (fun c => c.settle s.cur.bank)

/-- The steps of a bank advance by one (R62). -/
def Bank.advance (k : Bank) : Bank :=
  { k with step := k.step + 1, pending := k.pending.map (fun w => { w with rem := w.rem - 1 }) }

/-! ## Causes (R360) -/

/-- The causes that a bank or a control core can take (R360). -/
inductive Cause where
  | illop | brange | spill | srange | page | perm | align | wclash | conv | umbnest | umbdead | umbstall | ldepth
  | tplchain | redto | guard | ecc | trap | chproto | seq
  deriving DecidableEq, Repr

/-- The code of a cause (R360). -/
def Cause.code : Cause → BitVec 8
  | .illop => 0x01 | .brange => 0x02 | .spill => 0x03 | .srange => 0x04 | .page => 0x05 | .perm => 0x06
  | .align => 0x07 | .wclash => 0x08 | .conv => 0x09 | .umbnest => 0x0A | .umbdead => 0x0B | .umbstall => 0x0C
  | .ldepth => 0x0D | .tplchain => 0x0E | .redto => 0x0F | .guard => 0x10 | .ecc => 0x11 | .trap => 0x12
  | .chproto => 0x13 | .seq => 0x14

/-- The number of a slot in FLTB (R364). -/
def slotNum : Slot → BitVec 2
  | .s => 0
  | .v => 1
  | .m => 2
  | .c => 3
  | .core => 0

/-- FLTB: ASYNC, LEAF, SLOT and BUNDLE; MORE is clear (R364). -/
def fltbWord (async : Bool) (l : Leaf) (slot : BitVec 2) (bundle : Nat) : W32 :=
  BitVec.ofBool async ++ 0#15 ++ BitVec.ofNat 1 l.val ++ 0#1 ++ slot ++ BitVec.ofNat 12 bundle

/-! ## Notice records (R371-R374) -/

/-- A notice record before its SERIAL is known: sixteen words (R372). -/
abbrev Notice := BitVec 512

/-- w0: REASON, CAUSE and TYPE (R372). -/
def noticeW0 (reason code : BitVec 8) (type : BitVec 8) : W32 := 0#8 ++ reason ++ code ++ type

/-- w1: PART, site kind, BANK, LEAF and site (R372). -/
def noticeW1 (part : BitVec 6) (t : Site) (l : Leaf) (b : BankId) : W32 :=
  0#10 ++ part ++ BitVec.ofBool (isCompute t) ++ BitVec.ofNat 2 b.val ++ BitVec.ofNat 1 l.val ++ t

/-- A record from its words w0 to w14; the SERIAL in w15 is added when the die takes the record (R372). -/
def noticeOf (ws : List W32) : Notice := ofFields 512 32 (fun i => ws.getD i 0) 15

/-- The notice registers of a partition on a die. -/
def State.noticeQ (s : State) (d : DieId) (part : BitVec 6) : NoticeQ := s.dies[d].notice.get part.toNat {}

/-- The notice registers of a partition on a die changed. -/
def State.onNotice (s : State) (d : DieId) (part : BitVec 6) (f : NoticeQ → NoticeQ) : State :=
  s.onDie d (fun x => { x with notice := x.notice.set part.toNat (f (x.notice.get part.toNat {})) })

/-- The free places of the queue in memory: none while it is disabled (R371, R374). -/
def NoticeQ.free (q : NoticeQ) : Nat :=
  let n := 2 ^ q.nqsize.toNat
  if q.nqsize.toNat < 6 ∨ 16 < q.nqsize.toNat then 0 else (q.nqhead.toNat % n + n - q.nqtail.toNat % n - 1) % n

/-- A record reaches the die's notice unit: it takes the next SERIAL, and is dropped when both the queue in memory and the 32
places of the notice buffer are full. What waits for its free place in the queue takes none of the 32 (R374). -/
def NoticeQ.take (q : NoticeQ) (r : Notice) : NoticeQ :=
  let r' := setF r 32 15 q.serial
  { q with serial := q.serial + 1, buffer := if q.buffer.length < 32 + q.free then q.buffer ++ [r'] else q.buffer }

/-- A record of a die for a partition (R371). -/
def State.notify (s : State) (d : DieId) (part : BitVec 6) (r : Notice) : State := s.onNotice d part (fun q => q.take r)

/-- A TYPE 4 record: the unit and the location of a soft error (R372, R373). -/
def softRecord (part : BitVec 6) (t : Site) (l : Leaf) (asid : W16) (unit loc : Nat) (pa : Nat) : Notice :=
  noticeOf [noticeW0 0 Cause.ecc.code 4, noticeW1 part t l 0, 0, 0, 0, 0, BitVec.ofNat 32 pa, BitVec.ofNat 32 (pa / 2 ^ 32),
    asid.setWidth 32, BitVec.ofNat 32 unit, BitVec.ofNat 32 loc]

/-! ## Faults of a bank (R362-R367) -/

/-- What a fault leaves in the fault registers and in its record. -/
structure FaultInfo where
  code : BitVec 8
  flta : W32 := 0
  fltx : W64 := 0
  /-- The request carried no virtual address: FLTX is the weight-store address of an `ldw` (R367, R372). -/
  weight : Bool := false
  pa : W64 := 0
  reason : BitVec 8 := 0
  key : Option (W32 × W32) := none
  deriving DecidableEq, Repr

/-- A fault by its cause and FLTA. -/
def faultOf (c : Cause) (flta : W32) : FaultInfo := { code := c.code, flta := flta }

/-- The TYPE 1 record of a fault (R372, R373). -/
def faultRecord (t : Site) (l : Leaf) (b : BankId) (part : BitVec 6) (asid : W16) (fltb : W32) (f : FaultInfo) :
    Notice :=
  let kv := f.key.getD (0, 0)
  let va : W64 := if f.weight then 0 else f.fltx
  noticeOf [noticeW0 f.reason f.code 1, noticeW1 part t l b, fltb, f.flta, va.extractLsb' 0 32,
    va.extractLsb' 32 32, f.pa.extractLsb' 0 32, f.pa.extractLsb' 32 32, asid.setWidth 32, kv.1, kv.2]

/-- The ASID that the home memory tile holds for a leaf of a tile (R377). -/
def State.asidOf (s : State) (t : Site) (l : Leaf) : W16 := ((s.mt (homeMemTile t)).trcfg[l]).extractLsb' 44 16

/-- The ASID of a partition, as its memory tiles hold it (R377). -/
def State.asidOfPart (s : State) (part : BitVec 6) : W16 :=
  match s.parts.get part.toNat none with
  | some p =>
    match p.mts with
    | (mt, l) :: _ => ((s.mt mt).trcfg[l]).extractLsb' 44 16
    | [] => 0
  | none => 0

/-- The bank after a fault: the first one since the last resume is held in FLTC, FLTA, FLTB and FLTX and stops the bank;
a further one only sets MORE (R362, R364, R365). -/
def Bank.fault (k : Bank) (fltb : W32) (f : FaultInfo) : Bank :=
  if k.faulted then { k with fltb := k.fltb ||| 0x40000000 }
  else
    { k with fltc := f.code, flta := f.flta, fltb := fltb, fltx := f.fltx, faulted := true, wait := 0,
             checked := false }

/-- A bank takes a fault, and one TYPE 1 record goes to its partition's queue (R362, R365, R372). -/
def State.takeFault (s : State) (t : Site) (l : Leaf) (b : BankId) (fltb : W32) (f : FaultInfo) : State :=
  let part := (s.ctx t l).part
  let r := faultRecord t l b part (s.asidOf t l) fltb f
  (s.onBank t l b (fun k => k.fault fltb f)).notify (siteDie t) part r

/-- The issuing bank takes a fault at the bundle it holds, in a slot (R59, R61). -/
def State.faultHere (s : State) (slot : Slot) (f : FaultInfo) : State :=
  s.takeFault s.cur.tile s.curLeaf s.cur.bank
    (fltbWord false s.curLeaf (slotNum slot) s.curBank.pc) f

/-! ## Exceptions of a control core (R394, R396) -/

/-- Taking an exception: EPC and ECAUSE and EADDR are written, IN is set and pc goes to EVEC; one that is taken while IN is
set halts the core besides (R396). The faulting instruction writes nothing. -/
def Core.exception (c : Core) (cause : Cause) (eaddr : W64) : Core :=
  { c with epc := c.pc &&& 0x3FFFC, ecause := cause.code, eaddr := eaddr, inExc := true, pc := c.evec,
           halted := c.halted || c.inExc }

/-- Returning from an exception: pc takes EPC and IN is cleared (R394). -/
def Core.eret (c : Core) : Core := { c with pc := c.epc, inExc := false }

/-- A control core takes an exception. -/
def State.ccException (s : State) (k : CoreId) (cause : Cause) (eaddr : W64) : State :=
  s.onCore k (fun c => c.exception cause eaddr)

/-! ## The issue of a bundle (R59-R66, R88-R94) -/

/-- A register that an op reads, for its parity check: the KIND code of R357 and the number (R375). -/
structure RegRef where
  kind : BitVec 3
  num : Nat
  deriving DecidableEq, Repr

/-- Where issue goes after the bundle (R88-R94, R100, R101). -/
inductive Flow where
  | seq
  | taken (target : Nat) (isCall : Bool)
  | loopIn (len : Nat) (count : W32)
  | yield
  | halt
  | trap (code : BitVec 12)
  deriving DecidableEq, Repr

/-- What one op of a bundle asks for, worked out from the registers as they stand at its step (R44): the checks of R59
and R61, its wait, the writes it creates with their latencies, and its other effects. -/
structure Plan where
  reads : List RegRef := []
  brange : Option W32 := none
  check : Option FaultInfo := none
  ready : Bool := true
  wait : BitVec 4 := 0
  /-- What the bank notes while its bundle waits. -/
  onWait : Bank → Bank := id
  late : Option FaultInfo := none
  writes : List (Nat × PVal) := []
  act : State → State := id
  flow : Flow := .seq

/-- An op with its slot. -/
abbrev SlotPlan := Slot × Plan

/-- A value is discarded, so that its write is never pending: s0 and p0 (R65). -/
def PVal.discarded : PVal → Bool
  | .scalar r _ => r == 0
  | .pred r _ => r == 0
  | _ => false

/-- KIND of a pending write (R357). -/
def PVal.kind : PVal → BitVec 3
  | .scalar _ _ => 1
  | .pred _ _ => 2
  | .sreg _ _ => 3
  | .mask _ => 3
  | .vec _ _ => 4
  | .cstep _ _ => 5
  | .batt _ _ => 6
  | .grant _ => 7

/-- Register number of a pending write (R357). -/
def PVal.reg : PVal → Nat
  | .scalar r _ => r.toNat
  | .pred r _ => r.toNat
  | .sreg n _ => n.toNat
  | .mask _ => 0x010
  | .vec r _ => r.toNat
  | .cstep r _ => r.toNat
  | .batt r _ => r.toNat
  | .grant r => r.toNat

/-- A register by its kind and number (R357). -/
abbrev RegKey := BitVec 3 × Nat

/-- The registers that a write goes to; an awaited grant stands for a write of p7 and one of SEQST (R99, R294, R357). -/
def PVal.dests (v : PVal) : List RegKey :=
  match v with
  | .grant _ => [(2, 7), (3, 0x00F)]
  | _ => [(v.kind, v.reg)]

/-- Two keys name one register; a `cstep` and a batt load share the batt registers (R209). -/
def sameReg (a b : RegKey) : Bool :=
  a.2 == b.2 && (a.1 == b.1 || a.1 == 5 && b.1 == 6 || a.1 == 6 && b.1 == 5)

/-- The register code of R363. -/
def regCode (r : RegKey) : W32 := 0#21 ++ r.1 ++ BitVec.ofNat 8 r.2

/-- The writes of an op that are not discarded. -/
def Plan.live (p : Plan) : List (Nat × PVal) := p.writes.filter (fun w => !w.2.discarded)

/-- The smallest of a list of codes. -/
def minCode : List W32 → Option W32
  | [] => none
  | x :: r =>
    match minCode r with
    | none => some x
    | some y => some (if x.ult y then x else y)

/-- The landings of a list of writes: the steps that remain and the register, for every register that is written. -/
def landings (ws : List (Nat × PVal)) : List (Nat × RegKey) := ws.flatMap (fun w => w.2.dests.map (fun r => (w.1, r)))

/-- How many landings of a list fall on the same register at the same step as a given one. -/
def clashCount (ws : List (Nat × RegKey)) (w : Nat × RegKey) : Nat :=
  (ws.filter (fun u => u.1 == w.1 && sameReg u.2 w.2)).length

/-- WCLASH of a bundle: the lowest slot that clashes with a write of the bundle or a pending one, with its lowest code,
or the count of R66 (R65, R66, R363). -/
def wclash (pending : List PWrite) (ps : List SlotPlan) : Option (Slot × W32) :=
  let old := landings (pending.map (fun w => (w.rem, w.val)))
  let new := ps.flatMap (fun q => landings q.2.live)
  let bad := fun (w : Nat × RegKey) => clashCount old w + clashCount new w ≥ 2
  match ps.findSome? (fun q => (minCode (((landings q.2.live).filter bad).map (fun w => regCode w.2))).map (fun c => (q.1, c))) with
  | some r => some r
  | none => if old.length + new.length > 24 then some (.s, 0xFFF) else none

/-- The parity check of the registers that an op reads (R375). -/
def State.parity (s : State) (rs : List RegRef) : Option FaultInfo :=
  match rs.find? (fun r => s.ecc.contains (.reg s.cur.tile s.curLeaf s.cur.bank r.kind r.num)) with
  | some r => some (faultOf .ecc (0xFFFFF000 ||| (r.kind.setWidth 32 <<< 8) ||| BitVec.ofNat 32 r.num))
  | none => none

/-- The error check of the bundle that issues (R375). -/
def State.bundleEcc (s : State) : Option FaultInfo :=
  if s.ecc.contains (.bundle s.cur.tile s.curLeaf s.curBank.pc) then
    some (faultOf .ecc (0xFFFFE000 ||| BitVec.ofNat 32 s.curBank.pc))
  else none

/-- The first issue check of R61, phase 1, that fails: the bundle's own error, then slot by slot the registers that the op reads
and the checks of the op; that the parity comes first of the two is DEDUCED (log 14). -/
def State.phase1 (s : State) (ps : List SlotPlan) : Option (Slot × FaultInfo) :=
  match s.bundleEcc with
  | some f => some (.s, f)
  | none =>
    ps.findSome? (fun q => ((s.parity q.2.reads).orElse (fun _ => q.2.check)).map (fun f => (q.1, f)))

/-- The loop stack and the next bundle after the bundle at x issues without a taken branch (R92). -/
def loopBack (x : Nat) : List LoopEntry → Nat × List LoopEntry
  | [] => (x + 1, [])
  | e :: r =>
    if x = e.last then
      if e.left = 0 then loopBack x r else (e.start, { e with left := e.left - 1 } :: r)
    else (x + 1, e :: r)

/-- The loop stack after a taken `br` or `jr` in the bundle at x (R94). -/
def loopExit (x target : Nat) (ls : List LoopEntry) : List LoopEntry :=
  match ls with
  | [] => []
  | e :: r =>
    if e.start ≤ x ∧ x ≤ e.last then
      if e.start ≤ target ∧ target ≤ e.last then e :: r
      else
        match r with
        | [] => []
        | o :: r' => if o.start ≤ target ∧ target ≤ o.last then o :: r' else r'
    else e :: r

/-- The bank after its bundle has issued: one step on, with the next bundle, the loop stack, an owed empty step, or an
end under way (R64, R88-R94, R100). -/
def Bank.next (k : Bank) (fl : Flow) : Bank :=
  let k1 := { k.advance with wait := 0, checked := false }
  match fl with
  | .seq =>
    let (n, ls) := loopBack k.pc k.loops
    { k1 with pc := n, loops := ls }
  | .taken target isCall =>
    { k1 with pc := target, emptyStep := true, loops := if isCall then k.loops else loopExit k.pc target k.loops }
  | .loopIn len count =>
    if count = 0 then { k1 with pc := k.pc + len + 1, emptyStep := true }
    else { k1 with pc := k.pc + 1, loops := ⟨k.pc + 1, k.pc + len, count - 1⟩ :: k.loops }
  | .yield => { k1 with pc := k.pc + 1, loops := [], ending := some false }
  | .halt => { k1 with pc := k.pc + 1, loops := [], ending := some true }
  | .trap _ =>
    let (n, ls) := loopBack k.pc k.loops
    { k1 with pc := n, loops := ls }

/-- The flow of a bundle: that of its S-slot op. -/
def flowOf (ps : List SlotPlan) : Flow :=
  match ps.find? (fun q => q.1 == .s) with
  | some q => q.2.flow
  | none => .seq

/-- The issuing bank has run past the last bundle of its leaf and stops, naming bundle 0x0FFF (R88, R101). -/
def State.pastEnd (s : State) : State :=
  s.takeFault s.cur.tile s.curLeaf s.cur.bank (fltbWord false s.curLeaf 0 0xFFF) (faultOf .brange 0x1000)

/-- The bundle takes effect: its other effects in slot order, its pending writes, its step, and then the stop of a
`trap` (R101) or of the end of the leaf (R88), which a zero-count `loop` can reach too (log 48). -/
def State.commit (s : State) (ps : List SlotPlan) : State :=
  let s1 := ps.foldl (fun x q => q.2.act x) s
  let new := ps.flatMap (fun q => q.2.live.map (fun w => PWrite.mk w.1 w.2 q.1))
  let fl := flowOf ps
  let pc := s.curBank.pc
  let s2 := s1.onCurBank (fun k => ({ k with pending := k.pending ++ new } : Bank).next fl)
  let here := fltbWord false s.curLeaf 0 pc
  match fl with
  | .trap code => s2.takeFault s.cur.tile s.curLeaf s.cur.bank here (faultOf .trap (code.setWidth 32))
  | .yield => s2
  | .halt => s2
  | _ =>
    if s2.curBank.pc = 0x1000 then s2.pastEnd
    else s2

/-- A bundle is issued: BRANGE and WCLASH (R59), the issue checks unless the bundle already waits, the waits, the checks
of the issue cycle, and then its effects (R61). ILLOP is found by the decoders. -/
def State.issue (s : State) (ps : List SlotPlan) : State :=
  match ps.findSome? (fun q => q.2.brange.map (fun a => (q.1, a))) with
  | some (k, a) => s.faultHere k (faultOf .brange a)
  | none =>
    match wclash s.curBank.pending ps with
    | some (k, a) => s.faultHere k (faultOf .wclash a)
    | none =>
      match (if s.curBank.checked then none else s.phase1 ps) with
      | some (k, f) => s.faultHere k f
      | none =>
        match ps.find? (fun q => !q.2.ready) with
        | some q => s.onCurBank (fun b => { ps.foldl (fun y r => r.2.onWait y) b with wait := q.2.wait, checked := true })
        | none =>
          match ps.findSome? (fun q => q.2.late.map (fun f => (q.1, f))) with
          | some (k, f) => s.faultHere k f
          | none => s.commit ps

/-- An op in its slot, by the registers of the issuing bank once its due writes have landed; when its predicate does not
let it execute, only what `off` asks for happens (R45, R46). The predicate itself is read either way. -/
def guarded (k : Slot) (g : Pg) (on off : State → Plan) (s : State) : SlotPlan :=
  let p := if s.curBank.enabled g then on s else off s
  (k, { p with reads := ⟨2, g.pr.toNat⟩ :: p.reads })

/-- The meaning of a tile op by itself: the issuing bank issues a bundle whose other slots are `nop`. -/
def issueOne (p : State → SlotPlan) (s : State) : Host.Outcome State Fault Refusal :=
  .next (s.settle.issue [p s.settle])

/-- A predicated-off op asks for nothing (R46). -/
def nothing (_ : State) : Plan := {}

end Sys2Proof.Machine
end

