-- ==== Sys2Proof/Machine/Flags.lean ====
section
/-!
DEFINITION. Conditions and status words. The H12 has no arithmetic flags: a compare writes a predicate (R85), a
control-core branch compares two registers (R392), and status is read through state registers (R77, R98) and BSTAT
(R367).
-/
namespace Sys2Proof.Machine

/-- The conditions of `cmp` and, in the first four codes, `cmpi` (R85). -/
def condHolds (cond : BitVec 3) (a b : W32) : Bool :=
  if cond = 0 then a == b
  else if cond = 1 then a != b
  else if cond = 2 then a.slt b
  else if cond = 3 then !a.slt b
  else if cond = 4 then a.ult b
  else !a.ult b

/-- The conditions of `vcmp` between two integer elements (R138); unord never holds. -/
def condInt (cond : BitVec 3) (a b : Int) : Bool :=
  if cond = 0 then a == b
  else if cond = 1 then a != b
  else if cond = 2 then decide (a < b)
  else if cond = 3 then decide (a ≤ b)
  else if cond = 4 then decide (b < a)
  else if cond = 5 then decide (b ≤ a)
  else false

/-- The conditions of `vcmp` between two float elements (R114, R138). -/
def condFloat (cond : BitVec 3) (a b : FV) : Bool :=
  if cond = 0 then a.eq b
  else if cond = 1 then !a.eq b
  else if cond = 2 then a.lt b
  else if cond = 3 then a.lt b || a.eq b
  else if cond = 4 then b.lt a
  else if cond = 5 then b.lt a || b.eq a
  else a.isNan || b.isNan

/-- Number of leading zero bits of a 32-bit value; 32 for 0 (R82). -/
def clz32 (a : W32) : W32 := BitVec.ofNat 32 (if a = 0 then 32 else 31 - Nat.log2 a.toNat)

/-- HELD of UMBH: the slots that hold a section (R292). -/
def Bank.heldBits (k : Bank) : BitVec 4 := ofFields 4 1 (fun j => BitVec.ofBool (k.held.toList.getD j {}).valid) 4

/-- UMBH: WAIT, PSN and HELD (R292). -/
def Bank.umbh (k : Bank) : W32 := 0#23 ++ BitVec.ofBool k.umWait.isSome ++ k.psn ++ k.heldBits

/-- The code of LIFE in BSTAT (R367). -/
def Life.code : Life → BitVec 2
  | .idle => 0
  | .running => 1
  | .retired => 2

/-- WAIT of BSTAT: what a bank that is not stopped waits for (R367). -/
def Bank.waitCode (k : Bank) : BitVec 4 :=
  if k.faulted || k.frozen then 0
  else if k.umWait.isSome then 2
  else if k.arrived.isSome then 3
  else k.wait

/-- BSTAT (R367). -/
def Bank.bstat (k : Bank) : W32 :=
  0#22 ++ k.life.code ++ BitVec.ofBool k.faulted ++ BitVec.ofBool k.frozen ++ 0#2 ++ k.waitCode

/-- The weight-store bank in refresh in a cycle of a die (R237). -/
def wref (cycle : Nat) : W32 := BitVec.ofNat 32 (cycle / 300 % 64)

/-- The value that `rdsr` reads from a state register (R77, R98, R345). -/
def State.readSr (s : State) (n : BitVec 12) : W32 :=
  let t := s.cur.tile
  let c := s.curCtx
  let k := s.curBank
  let m := n.toNat
  if m = 0x000 then BitVec.ofNat 32 s.cur.bank.val
  else if m = 0x001 then t.setWidth 32
  else if m = 0x002 then c.part.setWidth 32
  else if m = 0x003 then c.trig.setWidth 32
  else if m = 0x004 then k.step
  else if m = 0x005 then BitVec.ofNat 32 (s.cycleAt t)
  else if m = 0x006 then k.rmode.setWidth 32
  else if m = 0x007 then k.sp
  else if m = 0x008 then k.splim
  else if m = 0x009 then k.spbase
  else if m = 0x00A then k.fltc.setWidth 32
  else if m = 0x00B then k.flta
  else if m = 0x00C then k.fltb
  else if m = 0x00D then k.umbh
  else if m = 0x00E then k.othr
  else if m = 0x00F then k.seqst
  else if m = 0x010 then c.clsmask.setWidth 32
  else if m = 0x011 then wref (s.cycleAt t)
  else if m = 0x012 then k.round.setWidth 32
  else if m = 0x013 then k.gdepth.setWidth 32
  else if 0x020 ≤ m ∧ m < 0x028 then BitVec.ofNat 32 ((c.inp.toList.getD (m - 0x020) {}).f)
  else if 0x028 ≤ m ∧ m < 0x030 then BitVec.ofNat 32 ((c.outp.toList.getD (m - 0x028) {}).e)
  else 0

/-- The state registers that a program can write: RMODE, SP, OTHR and CLSMASK (R77, R99). -/
def srWritable (n : BitVec 12) : Bool := n == 0x006 || n == 0x007 || n == 0x00E || n == 0x010

end Sys2Proof.Machine
end

