-- ==== Sys2Proof/Machine/Operands.lean ====
section
/-!
DEFINITION. Operand forms: immediates (R52), effective addresses and their checks (R97, R224, R226, R234, R236), reads
and writes of scratch (R225), and the registers that an op reads, for the parity check (R375).
-/
namespace Sys2Proof.Machine

/-- A signed 12-bit immediate in 32 bits (R52, R83). -/
def imm32 (i : BitVec 12) : W32 := i.signExtend 32

/-- The scalar registers that an op reads (R375). -/
def readsS (rs : List (BitVec 5)) : List RegRef := rs.map (fun r => ⟨1, r.toNat⟩)
/-- The predicates that an op reads (R375). -/
def readsP (rs : List (BitVec 3)) : List RegRef := rs.map (fun r => ⟨2, r.toNat⟩)
/-- The vector registers that an op reads (R375). -/
def readsV (rs : List (BitVec 4)) : List RegRef := rs.map (fun r => ⟨4, r.toNat⟩)
/-- The two registers of a scalar pair that an op reads (R375). -/
def readsPair (q : BitVec 4) : List RegRef := readsS [q ++ 0#1, q ++ 1#1]

/-! ## Scratch (R224-R227) -/

/-- The start of the running leaf's scratch share, in bytes (R224). -/
def LeafCtx.shareLo (c : LeafCtx) : Nat := 4096 * (c.sshare.extractLsb' 0 6).toNat
/-- The end of the running leaf's scratch share, in bytes (R224). -/
def LeafCtx.shareHi (c : LeafCtx) : Nat := 4096 * (c.sshare.extractLsb' 8 7).toNat

/-- The first address of an access of `n` bytes that lies outside the share, if one does (R224). -/
def LeafCtx.outside (c : LeafCtx) (a n : Nat) : Option Nat :=
  if n = 0 then none
  else if a < c.shareLo then some a
  else if c.shareHi < a + n then some (max a c.shareHi)
  else none

/-- The alignment check and then the share check of a scratch access (R211, R227). -/
def scratchCheck (c : LeafCtx) (a n align : Nat) : Option FaultInfo :=
  if a % align ≠ 0 then some (faultOf .align (BitVec.ofNat 32 a))
  else (c.outside a n).map (fun x => faultOf .srange (BitVec.ofNat 32 x))

/-- The first scratch line of an access that holds an uncorrectable error (R375). -/
def State.scratchEcc (s : State) (a n : Nat) : Option Nat :=
  (List.range ((n + 63) / 64 + 1)).findSome? (fun i =>
    let line := a / 64 * 64 + 64 * i
    if line < a + n ∧ s.ecc.contains (.scratch s.cur.tile line) then some line else none)

/-- The mark of the bank that writes scratch by `sts` or `stsw` (R226). -/
def writerMark (l : Leaf) (b : BankId) : Byte := BitVec.ofNat 8 (1 + b.val + 4 * l.val)

/-- `n` writer marks from an address set (R226). -/
def markWriter (m : Memory) (a : Nat) (x : Byte) : Nat → Memory
  | 0 => m
  | n + 1 => markWriter (m.write a x) (a + 1) x n

/-- Scratch bytes written by anything but an `sts` or `stsw` (R225, R226). -/
def Tile.putScratch (x : Tile) (a n v : Nat) : Tile :=
  { x with scratch := x.scratch.writeNat a v n, writer := markWriter x.writer a 0 n }

/-- Scratch bytes written by an `sts` or `stsw` of a bank (R226). -/
def Tile.storeScratch (x : Tile) (l : Leaf) (b : BankId) (a n v : Nat) : Tile :=
  { x with scratch := x.scratch.writeNat a v n, writer := markWriter x.writer a (writerMark l b) n }

/-- Some byte of an access was last written by an `sts` or `stsw` of the bank (R226). -/
def Tile.forwarded (x : Tile) (l : Leaf) (b : BankId) (a n : Nat) : Bool :=
  (List.range n).any (fun i => x.writer.read (a + i) == writerMark l b)

/-- Effective address of `lds` and `sts`: scaled by 64 (R226). -/
def eaLine (base : W32) (imm : BitVec 12) : W32 := base + imm32 imm * 64
/-- Effective address of `ldsw` and `stsw`: scaled by 4 (R226). -/
def eaWord (base : W32) (imm : BitVec 12) : W32 := base + imm32 imm * 4

/-! ## Global addresses (R234, R236, R281) -/

/-- Effective address of `ldg`, `stg` and `redc`: pair plus 64 times the offset, modulo 2^64 (R234). -/
def eaGlobal (pair : W64) (imm : BitVec 12) : W64 := pair + imm.signExtend 64 * 64
/-- Effective address of `fillc`: pair plus 4 times the offset (R52, R281). -/
def eaGlobalWord (pair : W64) (imm : BitVec 12) : W64 := pair + imm.signExtend 64 * 4

/-- ALIGN of a global access; FLTX holds the whole address (R234, R367). -/
def globalAlign (ea : W64) (align : Nat) : Option FaultInfo :=
  if ea.toNat % align ≠ 0 then some { faultOf .align (ea.extractLsb' 0 32) with fltx := ea } else none

/-- A response channel has to be marked in RESPMASK (R243). -/
def respCheck (c : LeafCtx) (ch : BitVec 3) : Option FaultInfo :=
  if c.respmask.getLsbD ch.toNat then none
  else some (faultOf .chproto (BitVec.ofNat 32 (ch.toNat * 256 + 0x08)))

/-- An input channel of a context. -/
def LeafCtx.inCh (c : LeafCtx) (ch : BitVec 3) : InCh := c.inp[ch.toNat]'(by have := ch.isLt; omega)
/-- An input channel changed. -/
def LeafCtx.onIn (c : LeafCtx) (ch : BitVec 3) (f : InCh → InCh) : LeafCtx :=
  { c with inp := c.inp.set ch.toNat (f (c.inCh ch)) (by have := ch.isLt; omega) }
/-- An output channel of a context. -/
def LeafCtx.outCh (c : LeafCtx) (ch : BitVec 3) : OutCh := c.outp[ch.toNat]'(by have := ch.isLt; omega)
/-- An output channel changed. -/
def LeafCtx.onOut (c : LeafCtx) (ch : BitVec 3) (f : OutCh → OutCh) : LeafCtx :=
  { c with outp := c.outp.set ch.toNat (f (c.outCh ch)) (by have := ch.isLt; omega) }

/-- Depth of an input channel (R152). -/
def InCh.depth (c : InCh) : Nat := (c.icfg.extractLsb' 12 8).toNat + 1
/-- A response channel has a free slot to reserve: F + Q + RN < D (R232, R280). -/
def InCh.canReserve (c : InCh) : Bool := decide (c.f + c.q + c.rn < c.depth)

/-- The class port applies a mask from the next cycle on (R188). -/
def State.maskNext (x : State) (m : W16) : State := x.onCurCtx (fun c => { c with clsnext := some m })

/-- The first check of a list that fails. -/
def firstFault (l : List (Option FaultInfo)) : Option FaultInfo := l.findSome? id

end Sys2Proof.Machine
end

