-- ==== Sys2Proof/Machine/Routes.lean ====
section
/-!
DEFINITION. Where routes lead: the geometry of tracks and bridges (R172, R178), the outlets that switch words select (R174),
the path of a route from its output channel to the input channel at its end, and its scope (R255).
-/
namespace Sys2Proof.Machine

/-! ## Geometry (R172, R178) -/

/-- The opposite direction (R172). -/
def opposite (d : Nat) : Nat := (d + 2) % 4

/-- Length of outgoing track t (R172). -/
def trackLen (t : Nat) : Nat := if t < 8 then 1 else if t < 12 then 4 else 16

/-- The site `n` steps away in a direction, within the die's grid (R12, R172). -/
def stepSite (t : Site) (d n : Nat) : Option Site :=
  let c := siteCol t
  let r := siteRow t
  if d = 0 then (if r + n ≤ 23 then some (siteAt (siteDie t) c (r + n)) else none)
  else if d = 1 then (if c + n ≤ 31 then some (siteAt (siteDie t) (c + n) r) else none)
  else if d = 2 then (if n ≤ r then some (siteAt (siteDie t) c (r - n)) else none)
  else (if n ≤ c then some (siteAt (siteDie t) (c - n) r) else none)

/-- The facing box of the neighbour die for a box of an edge, where a bridge stands (R10, R178). -/
def facing (t : Site) (d : Nat) : Option Site :=
  let e := (siteDie t).val
  let c := siteCol t
  let r := siteRow t
  let ew : DieId := Fin.ofNat 4 (e ^^^ 1)
  let ns : DieId := Fin.ofNat 4 (e ^^^ 2)
  if d = 1 ∧ c = 31 ∧ e % 2 = 0 then some (siteAt ew 0 r)
  else if d = 3 ∧ c = 0 ∧ e % 2 = 1 then some (siteAt ew 31 r)
  else if d = 2 ∧ r = 0 ∧ e < 2 ∧ isCompute t then some (siteAt ns c 23)
  else if d = 0 ∧ r = 23 ∧ 2 ≤ e ∧ isCompute t then some (siteAt ns c 0)
  else none

/-- Where an outgoing track leads: a box of the die, or over a bridge (R172, R178). -/
inductive TrackEnd where
  | box (t : Site)
  | bridge (t : Site)
  | none
  deriving DecidableEq, Repr

/-- The end of outgoing track w of a box. -/
def trackEnd (t : Site) (w : Nat) : TrackEnd :=
  match stepSite t (w / 14) (trackLen (w % 14)) with
  | some n => .box n
  | none =>
    if 12 ≤ w % 14 then
      match facing t (w / 14) with
      | some n => .bridge n
      | none => .none
    else .none

/-! ## Switch words (R174) -/

/-- MODE of a switch word. -/
def swMode (v : W16) : BitVec 2 := v.extractLsb' 14 2

/-- An outgoing track of a box leads over a bridge (R178). -/
def bridgeTrack (t : Site) (w : Nat) : Bool :=
  match trackEnd t w with
  | .bridge _ => true
  | _ => false

/-- The mode in which a switch word drives its outlet: a bridge track runs only in single mode, so that a shared word drives
it with its source A (R178; log 51). -/
def outletMode (t : Site) (w : Nat) (v : W16) : BitVec 2 := if swMode v = 2 ∧ bridgeTrack t w then 1 else swMode v

/-- The outlet of the box of a site that takes a source and phase: the word, and the phase of a shared outlet (R174). Of
two words, or two sources of a word, that name it the lowest word and phase 0 take it (log 51). -/
def Box.outlet (b : Box) (t : Site) (src : Nat) (ph : Nat) : Option (Fin 64 × Option Nat) :=
  (List.finRange 64).findSome? (fun w =>
    let v := b.words[w]
    let mode := outletMode t w.val v
    let a := decide ((v.extractLsb' 7 6).toNat = src ∧ (v.extractLsb' 13 1).toNat = ph)
    let c := decide ((v.extractLsb' 0 6).toNat = src ∧ (v.extractLsb' 6 1).toNat = ph)
    if mode = 1 then (if a then some (w, none) else none)
    else if mode = 2 then (if a then some (w, some 0) else if c then some (w, some 1) else none)
    else none)

/-! ## The end of a route (R24, R172, R255) -/

/-- Where a token that stands at a source of a box, in a phase, is delivered: the site, the leaf and the channel or edge
buffer. `none` where the switch words lead it to no delivery. A route passes each source and phase of a box at most once, so
that a bound of hops suffices (R176). -/
def State.routeEnd (s : State) : Nat → Site → Nat → Nat → Option (Site × Leaf × Fin 8)
  | 0, _, _, _ => none
  | n + 1, t, src, ph =>
    match (s.box t).outlet t src ph with
    | none => none
    | some (w, shared) =>
      if w.val < 56 then
        let q := shared.getD 0
        let far := 14 * opposite (w.val / 14) + w.val % 14
        match trackEnd t w.val with
        | .box u => State.routeEnd s n u far q
        | .bridge u => State.routeEnd s n u far q
        | .none => none
      else some (t, Fin.ofNat 2 (shared.getD ph), Fin.ofNat 8 (w.val - 56))

/-- Hops that a route can have at most: it passes every source and phase of the package's boxes no more than once (R176). -/
def routeHops : Nat := 4 * 768 * 112

/-- The tile and leaf that consume what an output channel publishes; a buffered edge is followed through its edge buffer
(R244, R255). -/
def State.consumerOf (s : State) (t : Site) (l : Leaf) (ch : Fin 8) : Option (Site × Leaf) :=
  match s.routeEnd routeHops t (56 + ch.val) l.val with
  | some (u, k, c) =>
    if isMemory u then (s.routeEnd routeHops u (56 + c.val) k.val).map (fun e => (e.1, e.2.1)) else some (u, k)
  | none => none

/-- The scope of the route of an output channel: TILE on its own tile, STAGE within a stage, GRAPH otherwise (R255). -/
def State.routeScope (s : State) (t : Site) (l : Leaf) (ch : Fin 8) : BitVec 3 :=
  match s.consumerOf t l ch with
  | some (u, k) =>
    let a := s.ctx t l
    let b := s.ctx u k
    if u = t then 0 else if a.graph = b.graph ∧ a.stage = b.stage then 1 else 2
  | none => 2

end Sys2Proof.Machine
end

