-- ==== Sys2Proof/Machine/Channel.lean ====
section
/-!
DEFINITION. Channel instructions (R148-R171): what a consumer op reads and how a channel advances, what a producer op
publishes. The class instructions of the C slot (R184, R188) are in Classes.
-/
namespace Sys2Proof.Machine

/-! ## Configuration words (R152) -/

/-- BOUND of ICFG. -/
def InCh.bound (c : InCh) : Bool := c.icfg.getLsbD 31
/-- FMT of ICFG. -/
def InCh.fmt (c : InCh) : BitVec 4 := c.icfg.extractLsb' 20 4
/-- Scratch byte address of slot j (R152). -/
def InCh.slotAddr (c : InCh) (j : Nat) : Nat := 64 * (c.icfg.extractLsb' 0 12).toNat + 64 * j
/-- Index of the k-th filled slot (R154). -/
def InCh.slot (c : InCh) (k : Nat) : Nat := (c.h + k) % c.depth
/-- What is stored beside a slot. -/
def InCh.info (c : InCh) (j : Nat) : SlotInfo := c.slots.get j {}

/-- BOUND of OCFG. -/
def OutCh.bound (c : OutCh) : Bool := c.ocfg.getLsbD 31
/-- EB of OCFG. -/
def OutCh.eb (c : OutCh) : Bool := c.ocfg.getLsbD 30
/-- FMT of OCFG. -/
def OutCh.fmt (c : OutCh) : BitVec 4 := c.ocfg.extractLsb' 12 4
/-- Producer depth D' (R152). -/
def OutCh.depth (c : OutCh) : Nat :=
  let p := (c.ocfg.extractLsb' 0 8).toNat + 1
  if c.eb then 64 * p else p

/-! ## Tokens (R148, R164) -/

/-- The sideband bits [47:16] as `hdr` reads them (R157). -/
def Sideband.word (x : Sideband) : W32 :=
  x.fmt ++ BitVec.ofBool x.head ++ BitVec.ofBool x.tail ++ BitVec.ofBool x.null ++ x.kind ++ x.bank ++
    BitVec.ofBool x.scaled ++ BitVec.ofBool x.pred ++ 0#2 ++ x.round ++ (x.aux.extractLsb' 16 8)

/-- BANK of a published token by the tag rule, and the round-robin counter after it (R164). -/
def OutCh.tag (c : OutCh) (payload : Vec) : BitVec 2 × BitVec 2 :=
  let rule := c.ocfg.extractLsb' 20 2
  if rule = 0 then (c.tc, c.tc + 1)
  else if rule = 1 then
    (payload.extractLsb' 0 2 ^^^ payload.extractLsb' 8 2 ^^^ payload.extractLsb' 16 2 ^^^ payload.extractLsb' 24 2, c.tc)
  else (c.ocfg.extractLsb' 18 2, c.tc)

/-- Who sends, with what release obligations: the route's producer, the writes to wait for and the dies of the scope
(R256). -/
structure SendInfo where
  src : Producer
  part : BitVec 6
  leaf : Leaf
  graph : Nat
  waits : List Nat := []
  dies : BitVec 4 := 0
  due : Nat := 0

/-- The split ratio of the route: LOGR of OCFG (R152, R167). -/
def OutCh.ratio (c : OutCh) : Nat := 2 ^ (c.ocfg.extractLsb' 22 2).toNat

/-- An item joins the output channel's queue, one cycle before its box (R177). -/
def OutCh.enqueue (c : OutCh) (i : SendInfo) (b : Sent) : OutCh :=
  { c with outq := c.outq ++ [{ item := { src := i.src, part := i.part, leaf := i.leaf, graph := i.graph, body := b,
                                          ratio := c.ratio, path := some { cycles := 1 } },
                                waits := i.waits, dies := i.dies, due := i.due }] }

/-- One producer slot is published with a token, whose BANK the channel gives (R154, R164). -/
def OutCh.publishAs (c : OutCh) (i : SendInfo) (side : Sideband) (payload : Vec) (poked : Bool) : OutCh :=
  let r := c.tag payload
  let tok : Token := { side := { side with bank := r.1 }, payload := payload }
  { c.enqueue i (.publish c.w tok poked) with
      tc := r.2, wr := c.wr >>> 1, w := (c.w + 1) % c.depth, e := c.e - 1 }

/-- One producer slot is published with a token of the channel's FMT (R160). -/
def OutCh.publish (c : OutCh) (i : SendInfo) (side : Sideband) (payload : Vec) (poked : Bool) : OutCh :=
  c.publishAs i { side with fmt := c.fmt } payload poked

/-- The sideband of a null token (R151). -/
def OutCh.nullSide (c : OutCh) : Sideband := { null := true, round := c.rc }
/-- The sideband of a data token (R151). -/
def OutCh.dataSide (c : OutCh) : Sideband := { pred := true, round := c.rc }

/-- One producer slot is published: the token poked into it, or a null token (R154, R161). -/
def OutCh.pub1 (c : OutCh) (i : SendInfo) : OutCh :=
  if c.wr.getLsbD 0 then c.publish i c.dataSide (c.pokes.get c.w 0) true
  else c.publish i c.nullSide 0 false

/-- `n` producer slots are published in order (R154). -/
def OutCh.pubN (c : OutCh) (i : SendInfo) : Nat → OutCh
  | 0 => c
  | n + 1 => OutCh.pubN (c.pub1 i) i n

/-- `n` producer slots are published as null tokens: a predicated-off `pub` (R46). -/
def OutCh.nullN (c : OutCh) (i : SendInfo) : Nat → OutCh
  | 0 => c
  | n + 1 => OutCh.nullN (c.publish i c.nullSide 0 false) i n

/-! ## The releases of a bank (R253-R256) -/

/-- The accesses that a release of the bank waits for: all that it issued earlier, reads among them, which R251 does not let
return what a later acquirer writes (R254, R256; log 26). -/
def Bank.releaseIds (k : Bank) : List Nat := k.out.map (fun o => o.id)

/-- What a release of a bank waits for: its own earlier accesses, and the writes of its partition that are performed while
copies of their lines still stand in gateway caches, since what was ordered before its own accesses is covered too (R254,
R256; log 26). -/
def State.covered (s : State) (c : LeafCtx) (k : Bank) : List Nat :=
  k.releaseIds ++ (s.invals.filter (fun v => v.part == some c.part && !s.acks.contains v.id)).map (fun v => v.id)

/-- The dies of a scope when it covers more than one; no gateway cache has to be waited for otherwise (R256). -/
def LeafCtx.spanDies (c : LeafCtx) (scope : BitVec 3) : BitVec 4 :=
  let m := c.scopeDies.toList.getD scope.toNat 0
  if m &&& (m - 1) = 0 then 0 else m

/-- The send information of an op of the issuing bank on an output channel; a release waits for the bank's writes
(R256), what a predicated-off op sends is none (R253). -/
def State.sendOn (s : State) (ch : BitVec 3) (release : Bool) : SendInfo :=
  let c := s.curCtx
  { src := .tile s.cur.tile s.curLeaf ch.toFin, part := c.part, leaf := s.curLeaf, graph := c.graph,
    waits := if release then s.covered s.curCtx s.curBank else [],
    dies := if release then c.spanDies (s.routeScope s.cur.tile s.curLeaf ch.toFin) else 0,
    due := s.cycleAt s.cur.tile + 1 }

/-! ## Consumer ops (R157, R158) -/

/-- FLTA of a channel fault: handle and low byte (R170). -/
def chWord (h : Nat) (low : Nat) : W32 := BitVec.ofNat 32 (h * 256 + low)

/-- The checks of a consumer op before it waits: unbound, or a count or index beyond the depth (R170). -/
def consumerCheck (c : LeafCtx) (ch : BitVec 3) (beyond : Bool) : Option FaultInfo :=
  if !(c.inCh ch).bound then some (faultOf .chproto (chWord ch.toNat 0x01))
  else if beyond then some (faultOf .chproto (chWord ch.toNat 0x02))
  else none

/-- The head of a bit-plane burst names no planes that can be: n outside 2 to 8, k = 0, k above n, or E = 0 (R118, R150). -/
def Sideband.badPlanes (x : Sideband) : Bool :=
  let n := (x.aux.extractLsb' 0 4).toNat
  let k := (x.aux.extractLsb' 4 4).toNat
  x.fmt == 0xD && x.kind == 0 && x.head && !x.null &&
    (decide (n < 2) || decide (8 < n) || k == 0 || decide (n < k) || x.aux.extractLsb' 8 16 == 0)

/-- The checks of the slot that a consumer op reads, in the issue cycle (R170). `hdr` checks parity only. -/
def slotCheck (c : LeafCtx) (ch : BitVec 3) (k : Nat) (hdr : Bool) : Option FaultInfo :=
  let i := c.inCh ch
  let x := i.info (i.slot k)
  if x.parity then some (faultOf .ecc (chWord ch.toNat (i.slot k)))
  else if hdr then none
  else if x.side.kind = 4 ∨ x.side.kind = 7 then some (faultOf .chproto (chWord ch.toNat 0x03))
  else
    match x.mark with
    | some low => some (faultOf .conv (chWord ch.toNat low.toNat))
    | none => if x.side.badPlanes then some (faultOf .conv (chWord ch.toNat (x.side.fmt ++ i.fmt).toNat)) else none

/-- The scratch line that holds the payload of a filled slot is damaged: ECC at whatever reads it, named as R170 names the slot
(R41, R152, R375; log 52). -/
def State.slotLine (s : State) (t : Site) (l : Leaf) (ch : BitVec 3) (k : Nat) : Option FaultInfo :=
  let i := (s.ctx t l).inCh ch
  if s.ecc.contains (.scratch t (i.slotAddr (i.slot k))) then some (faultOf .ecc (chWord ch.toNat (i.slot k))) else none

/-- The checks of an op that reads the payload of a filled slot: its line, then the slot (R170, R375). -/
def State.slotFault (s : State) (ch : BitVec 3) (k : Nat) : Option FaultInfo :=
  firstFault [s.slotLine s.cur.tile s.curLeaf ch k, slotCheck s.curCtx ch k false]

/-- The payload of the k-th filled slot (R154, R157). -/
def State.slotPayload (s : State) (ch : BitVec 3) (k : Nat) : Vec :=
  let i := s.curCtx.inCh ch
  s.curTile.scratch.readVec (i.slotAddr (i.slot k))

/-- The sideband of the k-th filled slot. -/
def LeafCtx.slotSide (c : LeafCtx) (ch : BitVec 3) (k : Nat) : Sideband :=
  ((c.inCh ch).info ((c.inCh ch).slot k)).side

/-- An input channel advances by n: h and F move, and whole producer slots go back (R154). -/
def InCh.advance (c : InCh) (n : Nat) : InCh × Nat :=
  let p := c.passed + n
  ({ c with h := (c.h + n) % c.depth, f := c.f - n, passed := p % c.ratio }, p / c.ratio)

/-- A slot release that sets out on a die, on the return path of a route (R154, R177). -/
def releaseOf (p : Producer) (n : Nat) (back : Option RoutePath) (d : DieId) (cycle : Nat) : Release :=
  { dest := p, n := n, due := back.map (fun b => cycle + b.cycles), die := d, legs := (back.map RoutePath.legs).getD [] }

/-- A fault-drain token stands at the channel's port: what its slots hold starts no bank any more (R149, R370). -/
def InCh.draining (i : InCh) : Bool := i.port.any (fun f => f.item.body == .faultDrain)

/-- The bank that the head of the trigger channel names, when the slot is filled and no fault-drain token is about to
empty the channel (R19, R149, R165). -/
def LeafCtx.triggerBank (c : LeafCtx) : Option BankId :=
  let i := c.inCh c.trig
  if i.bound && decide (0 < i.f) && !i.draining then some (i.info (i.slot 0)).side.bank.toFin else none

/-- A bank can start as far as the bank itself goes (R64, R368). -/
def Bank.canStart (k : Bank) : Bool := k.life == .idle && !k.frozen && !k.faulted

/-- The bank that a firing of a context would start. -/
def LeafCtx.firing (c : LeafCtx) : Option BankId := c.triggerBank.filter (fun b => c.banks[b].canStart)

/-- A firing that becomes due at a saved context is recorded for its restore (R355). -/
def LeafCtx.noteFiring (c : LeafCtx) : LeafCtx := if c.saved && c.fireHeld.isNone then { c with fireHeld := c.firing } else c

/-- A channel of a tile advances by n, and the producer slots that it frees set out on the return path (R154, R177). -/
def State.advanceIn (s : State) (t : Site) (l : Leaf) (ch : BitVec 3) (n : Nat) : State :=
  let i := (s.ctx t l).inCh ch
  let r := i.advance n
  let s1 := s.onCtx t l (fun c => c.onIn ch (fun _ => r.1))
  if r.2 = 0 ∨ i.prod = .none then s1
  else { s1 with releases := s1.releases ++ [releaseOf i.prod r.2 i.back (siteDie t) (s.cycleAt t)] }

/-- The writes of a `pop` or `peek`: the payload, and PRED when it is captured (R157). -/
def popWrites (d : BitVec 4) (cap : Option (BitVec 3)) (payload : Vec) (side : Sideband) : List (Nat × PVal) :=
  (1, .vec d payload) ::
    (match cap with
     | some p => [(1, .pred p side.pred)]
     | none => [])

/-- ROUND takes the round of the token popped (R157). -/
def roundWrite (side : Sideband) : Nat × PVal := (1, .sreg 0x012 (side.round.setWidth 32))

/-- `pop` (R157). -/
def planPop (g : Pg) (ch : BitVec 3) (d : BitVec 4) (cap : Option (BitVec 3)) : State → SlotPlan :=
  guarded .c g (fun s =>
    let side := s.curCtx.slotSide ch 0
    { check := consumerCheck s.curCtx ch false, ready := decide (0 < (s.curCtx.inCh ch).f), wait := 1,
      late := s.slotFault ch 0,
      writes := popWrites d cap (s.slotPayload ch 0) side ++ [roundWrite side],
      act := fun x => x.advanceIn s.cur.tile s.curLeaf ch 1 }) nothing

/-- `peek` (R157). -/
def planPeek (g : Pg) (ch : BitVec 3) (d : BitVec 4) (k : BitVec 6) (cap : Option (BitVec 3)) : State → SlotPlan :=
  guarded .c g (fun s =>
    let i := s.curCtx.inCh ch
    { check := consumerCheck s.curCtx ch (decide (i.depth ≤ k.toNat)), ready := decide (k.toNat < i.f), wait := 1,
      late := s.slotFault ch k.toNat,
      writes := popWrites d cap (s.slotPayload ch k.toNat) (s.curCtx.slotSide ch k.toNat) }) nothing

/-- `pops` (R157). -/
def planPops (g : Pg) (ch : BitVec 3) (d : BitVec 5) (e : BitVec 4) : State → SlotPlan :=
  guarded .c g (fun s =>
    { check := consumerCheck s.curCtx ch false, ready := decide (0 < (s.curCtx.inCh ch).f), wait := 1,
      late := s.slotFault ch 0,
      writes := [(1, .scalar d (getF (s.slotPayload ch 0) 32 e.toNat)), roundWrite (s.curCtx.slotSide ch 0)],
      act := fun x => x.advanceIn s.cur.tile s.curLeaf ch 1 }) nothing

/-- `hdr` (R157). -/
def planHdr (g : Pg) (ch : BitVec 3) (d : BitVec 5) : State → SlotPlan :=
  guarded .c g (fun s =>
    { check := consumerCheck s.curCtx ch false, ready := decide (0 < (s.curCtx.inCh ch).f), wait := 1,
      late := slotCheck s.curCtx ch 0 true,
      writes := [(1, .scalar d (s.curCtx.slotSide ch 0).word)] }) nothing

/-- `adv` (R158). -/
def planAdv (g : Pg) (ch : BitVec 3) (n : BitVec 6) : State → SlotPlan :=
  guarded .c g (fun s =>
    let i := s.curCtx.inCh ch
    { check := consumerCheck s.curCtx ch (decide (i.depth < n.toNat)), ready := decide (n.toNat ≤ i.f), wait := 1,
      act := fun x => x.advanceIn s.cur.tile s.curLeaf ch n.toNat }) nothing

/-- `waitf` (R158). -/
def planWaitf (g : Pg) (ch : BitVec 3) (n : BitVec 6) : State → SlotPlan :=
  guarded .c g (fun s =>
    let i := s.curCtx.inCh ch
    { check := consumerCheck s.curCtx ch (decide (i.depth < n.toNat)), ready := decide (n.toNat ≤ i.f), wait := 1 })
    nothing

/-! ## Producer ops (R160-R164) -/

/-- The checks of a producer op before it waits: unbound, beyond the depth, closed (R170). -/
def producerCheck (c : LeafCtx) (ch : BitVec 3) (beyond : Bool) : Option FaultInfo :=
  let o := c.outCh ch
  if !o.bound then some (faultOf .chproto (chWord (8 + ch.toNat) 0x01))
  else if beyond then some (faultOf .chproto (chWord (8 + ch.toNat) 0x02))
  else if o.closed then some (faultOf .chproto (chWord (8 + ch.toNat) 0x04))
  else none

/-- A producer op that needs `n` free slots and changes its channel. -/
def producerPlan (s : State) (ch : BitVec 3) (n : Nat) (rs : List RegRef) (f : OutCh → OutCh) : Plan :=
  let o := s.curCtx.outCh ch
  { reads := rs, check := producerCheck s.curCtx ch (decide (o.depth < n)), ready := decide (n ≤ o.e), wait := 1,
    act := fun x => x.onCurCtx (fun c => c.onOut ch f) }

/-- What a predicated-off `push` or `mark` does: it publishes one null token (R46, R151). -/
def nullPlan (ch : BitVec 3) (s : State) : Plan :=
  producerPlan s ch 1 [] (fun o => o.publish (s.sendOn ch false) o.nullSide 0 false)

/-- `push` (R160). -/
def planPush (g : Pg) (ch : BitVec 3) (a : BitVec 4) : State → SlotPlan :=
  guarded .c g (fun s =>
    producerPlan s ch 1 (readsV [a]) (fun o => o.publish (s.sendOn ch true) o.dataSide (s.curBank.rv a) false))
    (nullPlan ch)

/-- `poke` (R160). -/
def planPoke (g : Pg) (ch : BitVec 3) (a : BitVec 4) (k : BitVec 6) : State → SlotPlan :=
  guarded .c g (fun s =>
    producerPlan s ch (k.toNat + 1) (readsV [a]) (fun o =>
      let q := (o.w + k.toNat) % o.depth
      { o.enqueue (s.sendOn ch false) (.poke q o.fmt (s.curBank.rv a)) with
          wr := o.wr ||| (1#64 <<< k.toNat), pokes := o.pokes.set q (s.curBank.rv a) })) nothing

/-- `pub` (R160). -/
def planPub (g : Pg) (ch : BitVec 3) (n : BitVec 6) : State → SlotPlan :=
  guarded .c g (fun s => producerPlan s ch n.toNat [] (fun o => o.pubN (s.sendOn ch true) n.toNat))
    (fun s => producerPlan s ch n.toNat [] (fun o => o.nullN (s.sendOn ch false) n.toNat))

/-- `waite` (R160). -/
def planWaite (g : Pg) (ch : BitVec 3) (n : BitVec 6) : State → SlotPlan :=
  guarded .c g (fun s => { producerPlan s ch n.toNat [] id with act := id }) nothing

/-- `pushs` (R151, R160). -/
def planPushs (g : Pg) (ch : BitVec 3) (a : BitVec 5) (e : BitVec 4) : State → SlotPlan :=
  guarded .c g (fun s =>
    producerPlan s ch 1 (readsS [a]) (fun o =>
      o.publish (s.sendOn ch true) o.dataSide (setF 0 32 e.toNat (s.curBank.rs a)) false)) nothing

/-- `null` (R160). -/
def planNull (g : Pg) (ch : BitVec 3) : State → SlotPlan :=
  guarded .c g (fun s => producerPlan s ch 1 [] (fun o => o.publish (s.sendOn ch true) o.nullSide 0 false)) nothing

/-- The sideband of a marker: KIND, ROUND and AUX from sG (R150, R160). -/
def markSide (kind : BitVec 3) (x : W32) : Sideband :=
  { pred := true, kind := kind, round := x.extractLsb' 24 8, aux := x.extractLsb' 0 24 }

/-- `mark.re` (R160, R163). -/
def planMarkRe (g : Pg) (ch : BitVec 3) (a : BitVec 5) : State → SlotPlan :=
  guarded .c g (fun s =>
    let x := s.curBank.rs a
    producerPlan s ch 1 (readsS [a]) (fun o =>
      { o.publish (s.sendOn ch true) (markSide 1 x) (x.setWidth 512) false with rc := x.extractLsb' 24 8 + 1 }))
    (nullPlan ch)

/-- An output channel closes behind its end-of-stream marker: poked slots that remain are discarded (R162). -/
def OutCh.close (o : OutCh) : OutCh := { o with closed := true, wr := 0, pokes := [] }

/-- The channel of a tile, or the inlet of an edge buffer, to which a route leads from the outlet of an edge buffer (R172,
R244). -/
def State.edgeEnd (s : State) (mt : Site) (l : Leaf) (x : Fin 8) : Option (Site × Leaf × Fin 8) :=
  if (s.mt mt).ebuf[l][x].out.bound then s.routeEnd routeHops mt (56 + x.val) l.val else none

/-- A route of a partition leads to a channel of a tile or to the inlet of an edge buffer: from a bound output channel of
one of its tiles, or from one of its edge buffers (R24, R172, R244). -/
def State.routeFed (s : State) (part : BitVec 6) (t : Site) (l : Leaf) (ch : Fin 8) : Bool :=
  match s.parts.get part.toNat none with
  | none => false
  | some p =>
    p.tiles.any (fun u => (List.finRange 8).any (fun o =>
      (s.ctx u.1 u.2).outp[o].bound && s.routeEnd routeHops u.1 (56 + o.val) u.2.val == some (t, l, ch))) ||
    p.mts.any (fun m => (List.finRange 8).any (fun x => s.edgeEnd m.1 m.2 x == some (t, l, ch)))

/-- An edge buffer leads to a program leaf of a tile. -/
def State.edgeFeeds (s : State) (mt : Site) (m : Leaf) (x : Fin 8) (t : Site) (l : Leaf) : Bool :=
  match s.edgeEnd mt m x with
  | some (u, k, _) => u == t && k == l
  | none => false

/-- The edge buffers that lead to a program leaf of a tile are marked for release (R247). -/
def State.markEdges (s : State) (t : Site) (l : Leaf) : State :=
  match s.parts.get (s.ctx t l).part.toNat none with
  | none => s
  | some p =>
    p.mts.foldl (fun y m =>
      y.onMt m.1 (fun z => { z with ebuf := z.ebuf.set m.2 (z.ebuf[m.2].mapFinIdx (fun x b h =>
        if s.edgeFeeds m.1 m.2 ⟨x, h⟩ t l && !b.freed then { b with marked := true } else b)) })) s

/-- `mark.eos` (R160, R162, R163, R247). -/
def planMarkEos (g : Pg) (ch : BitVec 3) (a : BitVec 5) : State → SlotPlan :=
  guarded .c g (fun s =>
    let x := s.curBank.rs a
    let p := producerPlan s ch 1 (readsS [a]) (fun o =>
      (o.publish (s.sendOn ch true) (markSide 2 x) (x.setWidth 512) false).close)
    { p with act := fun y => (p.act y).markEdges s.cur.tile s.curLeaf })
    (nullPlan ch)

/-! ## Meanings: each issues the op alone in its bundle -/

/-- The meaning of `pop` (R157). -/
def execPop (g : Pg) (ch : BitVec 3) (d : BitVec 4) (cap : Option (BitVec 3)) (s : State) : Host.Outcome State Fault Refusal :=
  issueOne (planPop g ch d cap) s

/-- The meaning of `peek` (R157). -/
def execPeek (g : Pg) (ch : BitVec 3) (d : BitVec 4) (k : BitVec 6) (cap : Option (BitVec 3)) (s : State) : Host.Outcome State Fault Refusal :=
  issueOne (planPeek g ch d k cap) s

/-- The meaning of `pops` (R157). -/
def execPops (g : Pg) (ch : BitVec 3) (d : BitVec 5) (e : BitVec 4) (s : State) : Host.Outcome State Fault Refusal :=
  issueOne (planPops g ch d e) s

/-- The meaning of `hdr` (R157). -/
def execHdr (g : Pg) (ch : BitVec 3) (d : BitVec 5) (s : State) : Host.Outcome State Fault Refusal :=
  issueOne (planHdr g ch d) s

/-- The meaning of `adv` (R158). -/
def execAdv (g : Pg) (ch : BitVec 3) (n : BitVec 6) (s : State) : Host.Outcome State Fault Refusal :=
  issueOne (planAdv g ch n) s

/-- The meaning of `waitf` (R158). -/
def execWaitf (g : Pg) (ch : BitVec 3) (n : BitVec 6) (s : State) : Host.Outcome State Fault Refusal :=
  issueOne (planWaitf g ch n) s

/-- The meaning of `push` (R160). -/
def execPush (g : Pg) (ch : BitVec 3) (a : BitVec 4) (s : State) : Host.Outcome State Fault Refusal :=
  issueOne (planPush g ch a) s

/-- The meaning of `poke` (R160). -/
def execPoke (g : Pg) (ch : BitVec 3) (a : BitVec 4) (k : BitVec 6) (s : State) : Host.Outcome State Fault Refusal :=
  issueOne (planPoke g ch a k) s

/-- The meaning of `pub` (R160). -/
def execPub (g : Pg) (ch : BitVec 3) (n : BitVec 6) (s : State) : Host.Outcome State Fault Refusal :=
  issueOne (planPub g ch n) s

/-- The meaning of `waite` (R160). -/
def execWaite (g : Pg) (ch : BitVec 3) (n : BitVec 6) (s : State) : Host.Outcome State Fault Refusal :=
  issueOne (planWaite g ch n) s

/-- The meaning of `pushs` (R151, R160). -/
def execPushs (g : Pg) (ch : BitVec 3) (a : BitVec 5) (e : BitVec 4) (s : State) : Host.Outcome State Fault Refusal :=
  issueOne (planPushs g ch a e) s

/-- The meaning of `null` (R160). -/
def execNull (g : Pg) (ch : BitVec 3) (s : State) : Host.Outcome State Fault Refusal :=
  issueOne (planNull g ch) s

/-- The meaning of `mark.re` (R160, R163). -/
def execMarkRe (g : Pg) (ch : BitVec 3) (a : BitVec 5) (s : State) : Host.Outcome State Fault Refusal :=
  issueOne (planMarkRe g ch a) s

/-- The meaning of `mark.eos` (R160, R162, R163, R247). -/
def execMarkEos (g : Pg) (ch : BitVec 3) (a : BitVec 5) (s : State) : Host.Outcome State Fault Refusal :=
  issueOne (planMarkEos g ch a) s

end Sys2Proof.Machine
end

