-- ==== Sys2Proof/Machine/Access.lean ====
section
/-!
DEFINITION. Memory instructions of the C slot: scratch (R226, R227), global loads and stores and the weight store
(R228-R236, R243), `amo`, `redc` and `fillc` (R273-R285), `fence` and `bar` (R261-R267). A global access leaves as a
request through the memory port; what happens beyond it is in Memory, Owner and Umbra.
-/
namespace Sys2Proof.Machine

/-! ## Scratch (R225-R227) -/

/-- The checks of a scratch load or store: alignment, then the share (R227). -/
def lineCheck (s : State) (ea : W32) (n : Nat) : Option FaultInfo := scratchCheck s.curCtx ea.toNat n n

/-- An uncorrectable error in the line that a scratch load reads (R227). -/
def loadEcc (s : State) (ea : W32) (n : Nat) : Option FaultInfo :=
  (s.scratchEcc ea.toNat n).map (fun _ => faultOf .ecc ea)

/-- The latency of a scratch load: one step when the bank itself stored a byte that it reads (R63, R226). -/
def loadSteps (s : State) (ea : W32) (n slow : Nat) : Nat :=
  if s.curTile.forwarded s.curLeaf s.cur.bank ea.toNat n then 1 else slow

/-- `lds` (R226, R227). -/
def planLds (g : Pg) (d : BitVec 4) (b : BitVec 5) (imm : BitVec 12) : State → SlotPlan :=
  guarded .c g (fun s =>
    let ea := eaLine (s.curBank.rs b) imm
    { reads := readsS [b], check := lineCheck s ea 64, late := loadEcc s ea 64,
      writes := [(loadSteps s ea 64 5, .vec d (s.curTile.scratch.readVec ea.toNat))] }) nothing

/-- `sts` (R226, R227). -/
def planSts (g : Pg) (d : BitVec 4) (b : BitVec 5) (imm : BitVec 12) : State → SlotPlan :=
  guarded .c g (fun s =>
    let ea := eaLine (s.curBank.rs b) imm
    { reads := readsV [d] ++ readsS [b], check := lineCheck s ea 64,
      act := fun x => x.onCurTile (fun t => t.storeScratch s.curLeaf s.cur.bank ea.toNat 64 (s.curBank.rv d).toNat) })
    nothing

/-- `ldsw` (R226, R227). -/
def planLdsw (g : Pg) (d : BitVec 5) (b : BitVec 5) (imm : BitVec 12) : State → SlotPlan :=
  guarded .c g (fun s =>
    let ea := eaWord (s.curBank.rs b) imm
    { reads := readsS [b], check := lineCheck s ea 4, late := loadEcc s ea 4,
      writes := [(loadSteps s ea 4 3, .scalar d (s.curTile.scratch.readW32 ea.toNat))] }) nothing

/-- `stsw` (R226, R227). -/
def planStsw (g : Pg) (d : BitVec 5) (b : BitVec 5) (imm : BitVec 12) : State → SlotPlan :=
  guarded .c g (fun s =>
    let ea := eaWord (s.curBank.rs b) imm
    { reads := readsS [d, b], check := lineCheck s ea 4,
      act := fun x => x.onCurTile (fun t => t.storeScratch s.curLeaf s.cur.bank ea.toNat 4 (s.curBank.rs d).toNat) })
    nothing

/-! ## Requests through the memory port (R228) -/

/-- The memory port has a free slot (R228). -/
def State.portFree (s : State) : Bool := decide (s.curTile.port.length < 16)

/-- The sender of a request of the issuing bank. -/
def State.sender (s : State) (ch : Option (BitVec 3)) : Sender :=
  { tile := s.cur.tile, leaf := s.curLeaf, bank := s.cur.bank, bundle := s.curBank.pc, part := s.curCtx.part,
    chan := ch.map BitVec.toFin }

/-- A request joins the memory port's queue. -/
def State.toPort (x : State) (src : Sender) (body : ReqBody) (waits : List Nat) (dies : BitVec 4) : State :=
  let r : Req := { id := x.nextId, src := src, body := body, waits := waits, dies := dies }
  (x.onTile src.tile (fun t => { t with port := t.port ++ [r] })).takeId

/-- A global access of the issuing bank joins the port's queue as a release that waits for the given writes, and counts as
outstanding for `fence` and for releases until it is performed or acknowledged (R256, R261). -/
def State.accessAfter (x : State) (src : Sender) (body : ReqBody) (read : Bool) (waits : List Nat) (dies : BitVec 4) :
    State :=
  let y := (x.toPort src body waits dies).onBank src.tile src.leaf src.bank (fun k =>
    { k with out := k.out.filter (fun o => x.acks.contains o.id || x.invals.any (fun i => i.id == o.id))
        ++ [⟨x.nextId, read⟩] })
  { y with acks := y.acks ++ [x.nextId] }

/-- A global access that is no release. -/
def State.access (x : State) (src : Sender) (body : ReqBody) (read : Bool) : State := x.accessAfter src body read [] 0

/-- Q of a response channel counts one more request (R232). -/
def State.countQ (x : State) (ch : BitVec 3) : State :=
  x.onCurCtx (fun c => c.onIn ch (fun i => { i with q := i.q + 1 }))

/-- RN of a response channel reserves one more slot (R280). -/
def State.countRn (x : State) (ch : BitVec 3) : State :=
  x.onCurCtx (fun c => c.onIn ch (fun i => { i with rn := i.rn + 1 }))

/-- A request with a reserved slot can be sent: a port slot, and a free slot of the channel (R232, R280). -/
def State.canLoad (s : State) (ch : BitVec 3) : Bool := s.portFree && (s.curCtx.inCh ch).canReserve

/-- What a request with a reserved slot waits for, in WAIT of BSTAT (R367): the port, else the channel. -/
def State.loadWait (s : State) : BitVec 4 := if s.portFree then 1 else 5

/-- `ldg` (R234, R243). -/
def planLdg (g : Pg) (ch : BitVec 3) (pair : BitVec 4) (imm : BitVec 12) : State → SlotPlan :=
  guarded .c g (fun s =>
    let ea := eaGlobal (s.curBank.rpair pair) imm
    { reads := readsPair pair, check := firstFault [globalAlign ea 64, respCheck s.curCtx ch], ready := s.canLoad ch,
      wait := s.loadWait, act := fun x => (x.access (s.sender (some ch)) (.read ea) true).countQ ch }) nothing

/-- `stg` (R234, R243). -/
def planStg (g : Pg) (d : BitVec 4) (pair : BitVec 4) (imm : BitVec 12) : State → SlotPlan :=
  guarded .c g (fun s =>
    let ea := eaGlobal (s.curBank.rpair pair) imm
    { reads := readsV [d] ++ readsPair pair, check := globalAlign ea 64, ready := s.portFree, wait := 5,
      act := fun x => x.access (s.sender none) (.write ea (s.curBank.rv d)) false }) nothing

/-- SIZE of WSWIN, in bytes (R236). -/
def LeafCtx.wsSize (c : LeafCtx) : Nat := (c.wswin.extractLsb' 16 10).toNat * 2 ^ 21
/-- BASE of WSWIN, in bytes (R236). -/
def LeafCtx.wsBase (c : LeafCtx) : Nat := (c.wswin.extractLsb' 0 9).toNat * 2 ^ 21

/-- `ldw` (R236, R243). -/
def planLdw (g : Pg) (ch : BitVec 3) (b : BitVec 5) (imm : BitVec 12) : State → SlotPlan :=
  guarded .c g (fun s =>
    let off := eaLine (s.curBank.rs b) imm
    { reads := readsS [b],
      check := firstFault [if off.toNat % 64 ≠ 0 then some (faultOf .align off) else none,
        if s.curCtx.wsSize ≤ off.toNat then some (faultOf .srange off) else none, respCheck s.curCtx ch],
      ready := s.canLoad ch, wait := s.loadWait,
      act := fun x =>
        (x.access (s.sender (some ch)) (.wread off (s.curCtx.wsBase + off.toNat)) true).countQ ch }) nothing

/-- `amo` (R273, R274, R277). Without a response channel it counts as a write. -/
def planAmo (g : Pg) (pair : BitVec 4) (b : BitVec 5) (fn : BitVec 4) (ret : Option (BitVec 3)) : State → SlotPlan :=
  guarded .c g (fun s =>
    let k := s.curBank
    let ea := k.rpair pair
    let body := ReqBody.amo ea fn (k.rs b) (if fn = 8 then k.rs (b + 1) else 0) ret.isSome
    let rs := readsPair pair ++ readsS (if fn = 8 then [b, b + 1] else [b])
    match ret with
    | some ch =>
      { reads := rs, check := firstFault [globalAlign ea 4, respCheck s.curCtx ch], ready := s.canLoad ch,
        wait := s.loadWait, act := fun x => (x.access (s.sender (some ch)) body true).countQ ch }
    | none =>
      { reads := rs, check := globalAlign ea 4, ready := s.portFree, wait := 5,
        act := fun x => x.access (s.sender none) body false }) nothing

/-- `redc` (R281, R285). -/
def planRedc (g : Pg) (d : BitVec 4) (pair : BitVec 4) (imm : BitVec 12) : State → SlotPlan :=
  guarded .c g (fun s =>
    let ea := eaGlobal (s.curBank.rpair pair) imm
    { reads := readsV [d] ++ readsPair pair, check := globalAlign ea 64, ready := s.portFree, wait := 5,
      act := fun x => x.access (s.sender none) (.redc ea (s.curBank.rv d)) false }) nothing

/-- `fillc` (R280, R285). -/
def planFillc (g : Pg) (d : BitVec 5) (pair : BitVec 4) (imm : BitVec 12) : State → SlotPlan :=
  guarded .c g (fun s =>
    let ea := eaGlobalWord (s.curBank.rpair pair) imm
    let x := s.curBank.rs d
    let ch := x.extractLsb' 28 3
    let rs := readsS [d] ++ readsPair pair
    if x.getLsbD 31 then
      { reads := rs, check := firstFault [globalAlign ea 128, respCheck s.curCtx ch], ready := s.canLoad ch,
        wait := s.loadWait, act := fun y => (y.access (s.sender (some ch)) (.fillc ea x) false).countRn ch }
    else
      { reads := rs, check := globalAlign ea 128, ready := s.portFree, wait := 5,
        act := fun y => y.access (s.sender none) (.fillc ea x) false }) nothing

/-! ## Fences and barriers (R261-R267) -/

/-- The scope at which an op acts: SYSTEM without a binding is DEVICE (R249, R262). -/
def LeafCtx.effScope (c : LeafCtx) (scope : BitVec 3) : BitVec 3 := if scope = 4 ∧ !c.sysBound then 3 else scope

/-- The die of a gateway cache: sixteen caches, four per die, two per edge (R12, R240). -/
def gatewayDie (n : Nat) : Nat := n / 4

/-- Traffic of one die reaches another: between dies that share no edge it crosses the die that the home map names, which
carries none once it is fenced (R10, R240, R406; log 58). -/
def State.pathOpen (s : State) (a b : DieId) : Bool := a.val ^^^ b.val != 3 || !s.host.fence.getLsbD (a.val ^^^ 1)

/-- The home die of a GDDR7 address (R222). -/
def homeDie (pa : Nat) : Nat := pa / 0x1200000000

/-- The invalidations under way that a fence awaits when the scope covers more than one die: those for gateway caches of the
bank's own die, whichever die is home to the line (R261, R263; log 26), and those for the gateway caches of the scope that
writes of the bank's partition have sent, which may be ordered before the fence (R250, R254). -/
def State.sentInvals (s : State) (scope : BitVec 3) : List Inval :=
  let dies := s.curCtx.spanDies scope
  if dies = 0 then []
  else
    s.invals.filter (fun i => gatewayDie i.gateway == (siteDie s.cur.tile).val ||
      dies.getLsbD (gatewayDie i.gateway) && i.part == some s.curCtx.part)

/-- Every access in the list of a bank has been performed or acknowledged, and the copies of the lines it wrote are gone
from the gateway caches of the dies (R256, R261). -/
def State.settled (s : State) (ids : List Nat) (dies : BitVec 4) : Bool :=
  ids.all (fun n => !s.acks.contains n) &&
    !(s.invals.any (fun i => ids.contains i.id && dies.getLsbD (gatewayDie i.gateway)))

/-- Every access that the bank issued earlier has been performed or acknowledged (R261). -/
def State.allPerformed (s : State) : Bool := s.curBank.out.all (fun o => !s.acks.contains o.id)

/-- What a waiting fence has noted: the invalidations under way when it reached the home slices, once every earlier access
is performed (R261, R263). -/
def State.fenceMark (s : State) (scope : BitVec 3) : Option (List Inval) :=
  match (if s.curBank.checked then s.curBank.fence else none) with
  | some l => some l
  | none => if s.allPerformed then some (s.sentInvals scope) else none

/-- The wait of `fence` is over: the accesses are performed, the copies of the lines they wrote are gone, and the gateway
caches of the own die have applied the invalidations that the fence found when it reached the home slices (R261). -/
def State.fenceDone (s : State) (scope : BitVec 3) : Bool :=
  s.allPerformed && s.settled s.curBank.releaseIds (s.curCtx.spanDies scope) &&
    ((s.fenceMark scope).getD []).all (fun i => !s.invals.contains i)

/-- `fence` (R261, R262). -/
def planFence (g : Pg) (scope : BitVec 3) : State → SlotPlan :=
  guarded .c g (fun s =>
    let e := s.curCtx.effScope scope
    { ready := s.fenceDone e, wait := 9, onWait := fun k => { k with fence := s.fenceMark e } }) nothing

/-- The member banks of a scope (R264). -/
def LeafCtx.members (c : LeafCtx) (scope : BitVec 3) : BitVec 4 := c.barcfg.extractLsb' (4 * scope.toNat) 4

/-- The bank is a member of the scope, and SYSTEM is bound (R267). -/
def barCheck (s : State) (scope : BitVec 3) : Option FaultInfo :=
  if !(s.curCtx.members scope).getLsbD s.cur.bank.val || scope = 4 && !s.curCtx.sysBound then
    some (faultOf .chproto (BitVec.ofNat 32 (scope.toNat * 256 + 0x09)))
  else none

/-- `bar` (R265, R267). After its bundle the bank waits for the episode. -/
def planBar (g : Pg) (scope : BitVec 3) : State → SlotPlan :=
  guarded .c g (fun s =>
    { check := barCheck s scope, ready := s.fenceDone scope, wait := 9,
      onWait := fun k => { k with fence := s.fenceMark scope },
      act := fun x => x.onCurBank (fun k => { k with arrived := some scope, arrivedAt := s.cycleAt s.cur.tile }) }) nothing

/-! ## Meanings: each issues the op alone in its bundle -/

/-- The meaning of `lds` (R226, R227). -/
def execLds (g : Pg) (d : BitVec 4) (b : BitVec 5) (imm : BitVec 12) (s : State) : Host.Outcome State Fault Refusal :=
  issueOne (planLds g d b imm) s

/-- The meaning of `sts` (R226, R227). -/
def execSts (g : Pg) (d : BitVec 4) (b : BitVec 5) (imm : BitVec 12) (s : State) : Host.Outcome State Fault Refusal :=
  issueOne (planSts g d b imm) s

/-- The meaning of `ldsw` (R226, R227). -/
def execLdsw (g : Pg) (d : BitVec 5) (b : BitVec 5) (imm : BitVec 12) (s : State) : Host.Outcome State Fault Refusal :=
  issueOne (planLdsw g d b imm) s

/-- The meaning of `stsw` (R226, R227). -/
def execStsw (g : Pg) (d : BitVec 5) (b : BitVec 5) (imm : BitVec 12) (s : State) : Host.Outcome State Fault Refusal :=
  issueOne (planStsw g d b imm) s

/-- The meaning of `ldg` (R234, R243). -/
def execLdg (g : Pg) (ch : BitVec 3) (pair : BitVec 4) (imm : BitVec 12) (s : State) : Host.Outcome State Fault Refusal :=
  issueOne (planLdg g ch pair imm) s

/-- The meaning of `stg` (R234, R243). -/
def execStg (g : Pg) (d : BitVec 4) (pair : BitVec 4) (imm : BitVec 12) (s : State) : Host.Outcome State Fault Refusal :=
  issueOne (planStg g d pair imm) s

/-- The meaning of `ldw` (R236, R243). -/
def execLdw (g : Pg) (ch : BitVec 3) (b : BitVec 5) (imm : BitVec 12) (s : State) : Host.Outcome State Fault Refusal :=
  issueOne (planLdw g ch b imm) s

/-- The meaning of `amo` (R273, R274, R277). -/
def execAmo (g : Pg) (pair : BitVec 4) (b : BitVec 5) (fn : BitVec 4) (ret : Option (BitVec 3)) (s : State) : Host.Outcome State Fault Refusal :=
  issueOne (planAmo g pair b fn ret) s

/-- The meaning of `redc` (R281, R285). -/
def execRedc (g : Pg) (d : BitVec 4) (pair : BitVec 4) (imm : BitVec 12) (s : State) : Host.Outcome State Fault Refusal :=
  issueOne (planRedc g d pair imm) s

/-- The meaning of `fillc` (R280, R285). -/
def execFillc (g : Pg) (d : BitVec 5) (pair : BitVec 4) (imm : BitVec 12) (s : State) : Host.Outcome State Fault Refusal :=
  issueOne (planFillc g d pair imm) s

/-- The meaning of `fence` (R261, R262). -/
def execFence (g : Pg) (scope : BitVec 3) (s : State) : Host.Outcome State Fault Refusal :=
  issueOne (planFence g scope) s

/-- The meaning of `bar` (R265, R267). -/
def execBar (g : Pg) (scope : BitVec 3) (s : State) : Host.Outcome State Fault Refusal :=
  issueOne (planBar g scope) s

end Sys2Proof.Machine
end

