-- ==== Sys2Proof/Machine/Carder.lean ====
section
/-!
DEFINITION. Carder instructions (R207-R220): card slots and halves are tile state read at issue, batt registers take
accumulating pending writes, and a `cact` fills its half in a run of its own.
-/
namespace Sys2Proof.Machine

/-- A card slot of a tile. -/
def Tile.card (x : Tile) (k : BitVec 4) : Card := x.cards[k.toNat]'(by have := k.isLt; omega)
/-- A card slot replaced. -/
def Tile.setCard (x : Tile) (k : BitVec 4) (c : Card) : Tile :=
  { x with cards := x.cards.set k.toNat c (by have := k.isLt; omega) }
/-- The number of an activation half. -/
def halfNum (h : Bool) : Fin 2 := if h then 1 else 0
/-- A half is loading, so that ops that name it wait (R210). -/
def Tile.loading (x : Tile) (h : Bool) : Bool :=
  match x.cact with
  | some r => r.half == halfNum h
  | none => false

/-! ## Records (R120, R121, R212, R213) -/

/-- Bits of a DF record per code: 2, 3, 4 or 8 (R120). -/
def dfWidth (wc : Nat) : Nat := if wc = 0 then 2 else if wc = 1 then 3 else if wc = 2 then 4 else 8

/-- The 63 differences of a DF record, escapes resolved in order of k, and how many codes were escapes (R121). -/
def dfDecode (r w : Nat) (raw : Bool) : Nat → Nat → Nat → List Nat × Nat
  | 0, _, esc => ([], esc)
  | n + 1, k, esc =>
    let code := r >>> (16 + w * (k - 2)) % 2 ^ w
    if !raw && code == 2 ^ w - 1 then
      let d := r >>> (16 + 63 * w + 8 * esc) % 256
      let t := dfDecode r w raw n (k + 1) (esc + 1)
      (d :: t.1, t.2)
    else
      let t := dfDecode r w raw n (k + 1) esc
      (code :: t.1, t.2)

/-- The card that a DF record gives a slot, when the record is well formed (R121, R213). -/
def dfCard (r : Nat) (old : Card) : Option Card :=
  let wc := r / 64 % 4
  let nesc := r % 64
  let base := intVal 0x1 (r / 256)
  let ds := dfDecode r (dfWidth wc) (wc == 3) 63 2 0
  if nesc = ds.2 ∧ ds.2 ≤ 4 ∧ base + (ds.1.foldl (· + ·) 0 : Nat) ≤ 127 then
    some { old with base := BitVec.ofInt 8 base,
                    diffs := BitVec.ofNat 504 (packNat 8 (fun i => ds.1.getD i 0) 63) }
  else none

/-- The alignment and range checks of a Carder op on scratch (R211): the limit is the share (R224). -/
def carderCheck (s : State) (a : W32) (bytes : Nat) : Option FaultInfo := scratchCheck s.curCtx a.toNat bytes 64

/-- ECC of scratch that a Carder op reads at issue: the address of the line (R211). -/
def carderEcc (s : State) (a : W32) (bytes : Nat) : Option FaultInfo :=
  (s.scratchEcc a.toNat bytes).map (fun l => faultOf .ecc (BitVec.ofNat 32 l))

/-- `cmap` (R212). -/
def planCmap (g : Pg) (k : BitVec 4) (a : BitVec 5) : State → SlotPlan :=
  guarded .m g (fun s =>
    let x := s.curBank.rs a
    { reads := readsS [a], check := carderCheck s x 64, late := carderEcc s x 48,
      act := fun y => y.onCurTile (fun t =>
        t.setCard k { t.card k with map := BitVec.ofNat 384 (s.curTile.scratch.readNat x.toNat 48) }) }) nothing

/-- Bytes that a `cdif` covers in its range check: 128 when WC = 3, else 64 (R211). -/
def cdifBytes (s : State) (a : W32) : Nat := if (s.curTile.scratch.read a.toNat).toNat / 64 = 3 then 128 else 64

/-- `cdif` (R213). -/
def planCdif (g : Pg) (k : BitVec 4) (a : BitVec 5) : State → SlotPlan :=
  guarded .m g (fun s =>
    let x := s.curBank.rs a
    let n := cdifBytes s x
    let card := dfCard (s.curTile.scratch.readNat x.toNat 66) (s.curTile.card k)
    { reads := readsS [a], check := carderCheck s x n,
      late := firstFault [carderEcc s x n, if card.isNone then some (faultOf .conv x) else none],
      act := fun y =>
        match card with
        | some c => y.onCurTile (fun t => t.setCard k { t.card k with base := c.base, diffs := c.diffs })
        | none => y }) nothing

/-! ## Activations (R214) -/

/-- The half of a tile. -/
def Tile.half (x : Tile) (h : Bool) : Half := x.halves[halfNum h]

/-- Bytes of the rows of a half: 2,048 for I8, 4,096 for I16 (R211). -/
def cactRowBytes (t : BitVec 4) : Nat := if t = 0x3 then 4096 else 2048
/-- Bytes that a `cact` reads (R211). -/
def cactBytes (t : BitVec 4) (sc : Bool) : Nat := cactRowBytes t + (if sc then 128 else 0)
/-- Cycles of a `cact` run: 128 bytes each (R214). -/
def cactCycles (t : BitVec 4) (sc : Bool) : Nat := cactBytes t sc / 128

/-- `cact` (R214). -/
def planCact (g : Pg) (h : Bool) (a : BitVec 5) (t : BitVec 4) (sc : Bool) : State → SlotPlan :=
  guarded .m g (fun s =>
    let x := s.curBank.rs a
    { reads := readsS [a], check := carderCheck s x (cactBytes t sc), ready := s.curTile.cact.isNone, wait := 7,
      act := fun y => y.onCurTile (fun tl =>
        { tl with cact := some { leaf := s.curLeaf, bank := s.cur.bank, bundle := s.curBank.pc, half := halfNum h,
                                 addr := x.toNat, t := t, sc := sc, start := s.cycleAt s.cur.tile + 1,
                                 fill := s.curTile.half h } }) }) nothing

/-- The two lines that a `cact` reads in cycle k of its run go into the half that it fills (R214): rows, then the row
scales in the scale-head layout (25 in the first line, 7 in the second). -/
def cactRead (fill : Half) (t : BitVec 4) (k : Nat) (lo hi : Vec) : Half :=
  if 128 * k < cactRowBytes t then
    { fill with rows := setF (setF fill.rows 512 (2 * k) lo) 512 (2 * k + 1) hi }
  else
    { fill with scales := ofFields 640 20 (fun i => if i < 25 then getF lo 20 i else getF hi 20 (i - 25)) 32 }

/-- One cycle of a running `cact`: before the bundles of the cycle it reads two lines; an uncorrectable error in one of
them ends the run, and neither line of that cycle enters the half (R214; DESIGN CHOICE, log 52). -/
def State.cactCycle (s : State) (t : Site) : State :=
  match (s.tile t).cact with
  | none => s
  | some r =>
    if r.err.isNone ∧ r.done < cactCycles r.t r.sc ∧ r.start + r.done ≤ s.cycleAt t then
      let a := r.addr + 128 * r.done
      let bad := if s.ecc.contains (.scratch t a) then some a
        else if s.ecc.contains (.scratch t (a + 64)) then some (a + 64) else none
      let m := (s.tile t).scratch
      let r' := { r with done := r.done + 1, err := bad,
                         fill := if bad.isSome then r.fill else cactRead r.fill r.t r.done (m.readVec a) (m.readVec (a + 64)) }
      s.onTile t (fun x => { x with cact := some r' })
    else s

/-- The half that a `cact` leaves: at its end valid, with scales of 1.0 where it reads none; after an error invalid, with
what the run has not read as it was (R214); that a run without scales leaves them as they were, too, is a DESIGN CHOICE (log
52). -/
def CactRun.loaded (r : CactRun) : Half :=
  if r.err.isSome then { r.fill with t := r.t, valid := false }
  else { r.fill with t := r.t, valid := true, scales := if r.sc then r.fill.scales else ({} : Half).scales }

/-- The run of a `cact` has read its last line, or an error has ended it. -/
def CactRun.over (r : CactRun) (cycle : Nat) : Bool :=
  decide (r.start + r.done ≤ cycle) && (r.err.isSome || decide (cactCycles r.t r.sc ≤ r.done))

/-! ## The step (R215-R217) -/

/-- Element j of row i of a half, signed (R214). -/
def Half.elem (x : Half) (i j : Nat) : Int :=
  if x.t = 0x3 then (getF x.rows 16 (64 * i + j)).toInt else (getF x.rows 8 (64 * i + j)).toInt

/-- Entry m of a card map (R212). -/
def Card.index (c : Card) (m : Nat) : Nat := (getF c.map 6 m).toNat

/-- d_k of a card, k = 2 to 64; the base stands for d_1 (R207). -/
def Card.diff (c : Card) (k : Nat) : Int := if k = 1 then c.base.toInt else ((getF c.diffs 8 (k - 2)).toNat : Int)

/-- The sum by parts of one row, from position k = n down to 1: the running suffix sum and the addend so far (R215). -/
def cardSum (x : Half) (c : Card) (i : Nat) : Nat → Int × Int → Int
  | 0, acc => acc.2
  | k + 1, acc =>
    let tk := acc.1 + x.elem i (c.index k)
    cardSum x c i k (tk, acc.2 + c.diff (k + 1) * tk)

/-- The 32 addends of a `cstep` (R215). -/
def stepAddends (x : Half) (c : Card) : BitVec 1024 :=
  ofFields 1024 32 (fun i => BitVec.ofInt 32 (cardSum x c i 64 (0, 0))) 32

/-- ECC of a half marked invalid or holding an error, and of a card slot (R211, R214, R375). -/
def halfEcc (s : State) (h : Bool) : Option FaultInfo :=
  if !(s.curTile.half h).valid || s.ecc.contains (.half s.cur.tile (halfNum h)) then
    some (faultOf .ecc (0xFFFFFFF0 + (if h then 1 else 0)))
  else none

/-- `cstep` (R215). The error of its card slot is a check of phase 1, before the wait for the half (R211, R375; DEDUCED,
log 52). -/
def planCstep (g : Pg) (d : BitVec 2) (k : BitVec 4) (h : Bool) : State → SlotPlan :=
  guarded .m g (fun s =>
    let cardBad := s.ecc.contains (.card s.cur.tile k.toFin)
    { check := if cardBad then some (faultOf .ecc (0xFFFFFFC0 + k.setWidth 32)) else none,
      ready := !s.curTile.loading h, wait := 7, late := halfEcc s h,
      writes := [(6, .cstep d (stepAddends (s.curTile.half h) (s.curTile.card k)))] }) nothing

/-- `cclr` (R217). -/
def planCclr (g : Pg) (d : BitVec 2) : State → SlotPlan :=
  guarded .m g (fun _ => { writes := [(1, .batt d {})] }) nothing

/-! ## Results (R218, R219) -/

/-- The batt registers that an op reads (R375). -/
def readsB (r : BitVec 2) : List RegRef := [⟨6, r.toNat⟩]

/-- One F32 lane of `cout` (R218). -/
def coutLane (md : Mode) (x : Batt) (h : Half) (sw : W32) (i : Nat) : Nat :=
  let sa := scaleVal (getF h.scales 20 i).toNat
  let w := scaleVal (sw.toNat % 2 ^ 20)
  if x.mark i || sa.isNan || w.isNan then 0x7FC00000
  else if sa.isZero || w.isZero || x.lane i == 0 then 0
  else roundFV fmtF32 md false (((FV.ofInt (x.lane i)).mul sa).mul w)

/-- `cout` (R218). -/
def planCout (g : Pg) (d : BitVec 4) (a : BitVec 2) (b : BitVec 5) (hi : Bool) (h : Bool) (m : BitVec 3) : State → SlotPlan :=
  guarded .m g (fun s =>
    let k := s.curBank
    { reads := readsB a ++ readsS [b], ready := !s.curTile.loading h, wait := 7, late := halfEcc s h,
      writes := [(4, .vec d (packVec 32 16 (fun l =>
        coutLane (modeOf k.rmode m) (k.rb a) (s.curTile.half h) (k.rs b) (l + (if hi then 16 else 0)))))] }) nothing

/-- The 64-bit word of a lane in scratch: SAT, SX and SUM (R219). -/
def Batt.word (x : Batt) (i : Nat) : W64 :=
  BitVec.ofBool (x.mark i) ++ (((getF x.lanes 48 i).signExtend 63))

/-- The batt register that 32 words give; SUM = −2^47 loads as −(2^47 − 1) with SAT (R219). -/
def battOfWords (f : Nat → W64) : Batt :=
  let low := fun i => (f i).extractLsb' 0 48
  { lanes := ofFields 1536 48 (fun i => if low i = 0x800000000000 then 0x800000000001 else low i) 32,
    marks := ofFields 32 1 (fun i => BitVec.ofBool ((f i).getLsbD 63 || low i == 0x800000000000)) 32 }

/-- `csav` (R219). -/
def planCsav (g : Pg) (d : BitVec 2) (a : BitVec 5) : State → SlotPlan :=
  guarded .m g (fun s =>
    let x := s.curBank.rs a
    let r := s.curBank.rb d
    { reads := readsB d ++ readsS [a], check := carderCheck s x 256,
      act := fun y => y.onCurTile (fun t => t.putScratch x.toNat 256 (packNat 64 (fun i => (r.word i).toNat) 32)) }) nothing

/-- `crst` (R219). -/
def planCrst (g : Pg) (d : BitVec 2) (a : BitVec 5) : State → SlotPlan :=
  guarded .m g (fun s =>
    let x := s.curBank.rs a
    { reads := readsS [a], check := carderCheck s x 256, late := carderEcc s x 256,
      writes := [(1, .batt d (battOfWords (fun i => s.curTile.scratch.readW64 (x.toNat + 8 * i))))] }) nothing

/-! ## Meanings: each issues the op alone in its bundle -/

/-- The meaning of `cmap` (R212). -/
def execCmap (g : Pg) (k : BitVec 4) (a : BitVec 5) (s : State) : Host.Outcome State Fault Refusal :=
  issueOne (planCmap g k a) s

/-- The meaning of `cdif` (R213). -/
def execCdif (g : Pg) (k : BitVec 4) (a : BitVec 5) (s : State) : Host.Outcome State Fault Refusal :=
  issueOne (planCdif g k a) s

/-- The meaning of `cact` (R214). -/
def execCact (g : Pg) (h : Bool) (a : BitVec 5) (t : BitVec 4) (sc : Bool) (s : State) : Host.Outcome State Fault Refusal :=
  issueOne (planCact g h a t sc) s

/-- The meaning of `cstep` (R215). -/
def execCstep (g : Pg) (d : BitVec 2) (k : BitVec 4) (h : Bool) (s : State) : Host.Outcome State Fault Refusal :=
  issueOne (planCstep g d k h) s

/-- The meaning of `cclr` (R217). -/
def execCclr (g : Pg) (d : BitVec 2) (s : State) : Host.Outcome State Fault Refusal :=
  issueOne (planCclr g d) s

/-- The meaning of `cout` (R218). -/
def execCout (g : Pg) (d : BitVec 4) (a : BitVec 2) (b : BitVec 5) (hi : Bool) (h : Bool) (m : BitVec 3) (s : State) : Host.Outcome State Fault Refusal :=
  issueOne (planCout g d a b hi h m) s

/-- The meaning of `csav` (R219). -/
def execCsav (g : Pg) (d : BitVec 2) (a : BitVec 5) (s : State) : Host.Outcome State Fault Refusal :=
  issueOne (planCsav g d a) s

/-- The meaning of `crst` (R219). -/
def execCrst (g : Pg) (d : BitVec 2) (a : BitVec 5) (s : State) : Host.Outcome State Fault Refusal :=
  issueOne (planCrst g d a) s

end Sys2Proof.Machine
end

