-- ==== Sys2Proof/Machine/Matrix.lean ====
section
/-!
DEFINITION. Matrix instructions and the macro sequencer (R190-R206). An op of this family takes a queue entry when its
bundle issues; the entry starts, runs and ends by itself, one cycle after another.
-/
namespace Sys2Proof.Machine

/-- The number of an accumulator. -/
def accNum (d : Bool) : Fin 2 := if d then 1 else 0

/-! ## Issue (R192, R196-R204) -/

/-- An op that takes a queue entry: it waits while the queue holds four, those included that have left it in this cycle
(R67, R192, R193). -/
def entryPlan (s : State) (reads : List RegRef) (check late : Option FaultInfo) (op : MsOp) : Plan :=
  { reads := reads, check := check, ready := decide (s.curTile.msq.length + s.curTile.left < 4), wait := 6, late := late,
    act := fun y => (y.onCurTile (fun t =>
      { t with msq := t.msq ++ [{ id := y.nextId, leaf := s.curLeaf, bank := s.cur.bank, bundle := s.curBank.pc,
                                  op := op, issued := s.cycleAt s.cur.tile, waits := s.covered s.curCtx s.curBank }] })).takeId }

/-- Line addresses of an `mlat`: consecutive, or gathered by the elements of vB (R196). -/
def mlatLines (base : Nat) (gather : Option Vec) : List Nat :=
  (List.range 32).map (fun n =>
    match gather with
    | some v => base + 64 * (elemBits v n 0x4 % 4096)
    | none => base + 64 * n)

/-- ALIGN, then SRANGE of the first line that lies outside (R204). -/
def linesCheck (c : LeafCtx) (base : Nat) (lines : List Nat) (n : Nat) : Option FaultInfo :=
  if base % 64 ≠ 0 then some (faultOf .align (BitVec.ofNat 32 base))
  else lines.findSome? (fun a => (c.outside a n).map (fun x => faultOf .srange (BitVec.ofNat 32 x)))

/-- `mlat` (R196). -/
def planMlat (g : Pg) (a : BitVec 5) (t : BitVec 4) (latch : Bool) (gather : Option (BitVec 4)) : State → SlotPlan :=
  guarded .m g (fun s =>
    let base := (s.curBank.rs a).toNat
    let lines := mlatLines base (gather.map s.curBank.rv)
    entryPlan s (readsS [a] ++ readsV gather.toList) (linesCheck s.curCtx base lines 64) none (.mlat latch t lines))
    nothing

/-- `mlatc` (R197). -/
def planMlatc (g : Pg) (ch : BitVec 3) (t : BitVec 4) (latch : Bool) : State → SlotPlan :=
  guarded .m g (fun s => entryPlan s [] (consumerCheck s.curCtx ch false) none (.mlatc latch t ch.toFin)) nothing

/-- The buffer of a latch: A0, A1, B0, B1 in this order. -/
def latchIx (latch buf : Bool) : Fin 4 := if latch then (if buf then 3 else 2) else (if buf then 1 else 0)

/-- The type that a latch load records, and the latch it loads (R196, R197). -/
def MsOp.load : MsOp → Option (Bool × BitVec 4)
  | .mlat l t _ => some (l, t)
  | .mlatc l t _ => some (l, t)
  | _ => none

/-- The recorded type that a latch will hold when the next entry of the queue starts: that of the last load ahead of
it, running or queued, else the current one (R198). -/
def Tile.typeAhead (x : Tile) (latch : Bool) : BitVec 4 :=
  let cur := x.latches[latchIx latch (if latch then x.curb else x.cura)].t
  ((x.msrun ++ x.msq).filterMap (fun e => e.op.load)).foldl (fun t p => if p.1 = latch then p.2 else t) cur

/-- FP8 codes: E4M3 and E5M2. -/
def fp8T (t : BitVec 4) : Bool := t == 0x9 || t == 0xA

/-- CONV of an `mma` whose type does not fit the latches (R198). -/
def mmaFault (x : Tile) (t : BitVec 4) : Option FaultInfo :=
  let ta := x.typeAhead false
  let tb := x.typeAhead true
  let fits := fun (u : BitVec 4) => if fp8T t then fp8T u else u == t
  if fits ta && fits tb then none else some (faultOf .conv (0#20 ++ t ++ ta ++ tb))

/-- `mma` (R198). -/
def planMma (g : Pg) (d : Bool) (t : BitVec 4) (bt : Bool) : State → SlotPlan :=
  guarded .m g (fun s =>
    entryPlan s [] none (mmaFault s.curTile t) (.mma (accNum d) t bt s.curBank.rmode)) nothing

/-- `mzero` (R199). -/
def planMzero (g : Pg) (d : Bool) : State → SlotPlan :=
  guarded .m g (fun s => entryPlan s [] none none (.mzero (accNum d))) nothing

/-- CHPROTO of an invalid drain route entry (R201). -/
def drainFault (c : LeafCtx) (e : Fin 8) : Option FaultInfo :=
  if (c.drain[e]).getLsbD 3 then none else some (faultOf .chproto (BitVec.ofNat 32 (0x800 + e.val * 16 + 6)))

/-- The output channel of a drain route entry (R201). -/
def LeafCtx.drainCh (c : LeafCtx) (e : Fin 8) : Fin 8 := ((c.drain[e]).extractLsb' 0 3).toFin

/-- `mdrain` (R200). The entry of a scalar form is read and checked at issue (R192, R201). -/
def planMdrain (g : Pg) (d : Bool) (u : BitVec 4) (sh : Bool) (steer : DrainSel) : State → SlotPlan :=
  guarded .m g (fun s =>
    match steer with
    | .scalar a =>
      let e := ((s.curBank.rs a).extractLsb' 0 3).toFin
      entryPlan s (readsS [a]) (drainFault s.curCtx e) none (.mdrain (accNum d) u sh (some (s.curCtx.drainCh e)) e)
    | .head ch => entryPlan s [] none none (.mdrain (accNum d) u sh none ch.toFin)) nothing

/-- `msav` (R202). -/
def planMsav (g : Pg) (d : Bool) (a : BitVec 5) : State → SlotPlan :=
  guarded .m g (fun s =>
    let x := (s.curBank.rs a).toNat
    entryPlan s (readsS [a]) (linesCheck s.curCtx x [x] 4096) none (.msav (accNum d) x)) nothing

/-- `mrst` (R202). -/
def planMrst (g : Pg) (d : Bool) (a : BitVec 5) : State → SlotPlan :=
  guarded .m g (fun s =>
    let x := (s.curBank.rs a).toNat
    entryPlan s (readsS [a]) (linesCheck s.curCtx x [x] 4096) none (.mrst (accNum d) x)) nothing

/-- Entries that a bank has issued and that have not ended (R203). -/
def Tile.entriesOf (x : Tile) (l : Leaf) (b : BankId) : List MsEntry :=
  (x.msrun ++ x.msq).filter (fun e => e.leaf == l && e.bank == b)

/-- `msync` (R203). -/
def planMsync (g : Pg) : State → SlotPlan :=
  guarded .m g (fun s => { ready := (s.curTile.entriesOf s.curLeaf s.cur.bank).isEmpty, wait := 8 }) nothing

/-! ## Starts (R192) -/

/-- The accumulator that an op works on. -/
def MsOp.acc : MsOp → Option (Fin 2)
  | .mma d .. => some d
  | .mzero d => some d
  | .mdrain d .. => some d
  | .msav d _ => some d
  | .mrst d _ => some d
  | _ => none

/-- The op uses the scratch port (R192). -/
def MsOp.scratchPort : MsOp → Bool
  | .mlat .. => true
  | .msav .. => true
  | .mrst .. => true
  | _ => false

/-- Two entries work on the same accumulator of the same bank. -/
def MsEntry.sameAcc (a b : MsEntry) : Bool :=
  match a.op.acc, b.op.acc with
  | some x, some y => x == y && a.leaf == b.leaf && a.bank == b.bank
  | _, _ => false

/-- A running `mma` reads the buffer that a load of a latch would fill: the one that is not current (R192). -/
def Tile.fillBusy (x : Tile) (latch : Bool) : Bool :=
  x.msrun.any (fun e =>
    match e.op with
    | .mma .. => if latch then e.bufB == !x.curb else e.bufA == !x.cura
    | _ => false)

/-- The entry at the head of the queue can start in a cycle (R192). -/
def Tile.canStart (x : Tile) (e : MsEntry) (cycle : Nat) : Bool :=
  let accFree := !x.msrun.any (fun r => r.sameAcc e)
  let loadFree := !x.msrun.any (fun r => r.op.load.isSome)
  let scratchFree := !x.msrun.any (fun r => r.op.scratchPort)
  decide (e.issued < cycle) && x.saving.isNone &&
    (match e.op with
     | .mlat l _ _ => loadFree && scratchFree && !x.fillBusy l
     | .mlatc l _ _ => loadFree && !x.fillBusy l
     | .mma .. => accFree && loadFree && !x.msrun.any (fun r => match r.op with | .mma .. => true | _ => false)
     | .mzero _ => accFree
     | .mdrain .. => accFree && !x.msrun.any (fun r => match r.op with | .mdrain .. => true | _ => false)
     | .msav _ _ => accFree && scratchFree
     | .mrst _ _ => accFree && scratchFree)

/-- The entry at the head of the queue starts: it leaves the queue; an `mma` takes the current buffers and sets AK
(R192, R198). -/
def Tile.startHead (x : Tile) (cycle : Nat) : Tile :=
  match x.msq with
  | [] => x
  | e :: r =>
    let e' := { e with start := cycle, due := cycle, bufA := x.cura, bufB := x.curb }
    let x' := { x with msq := r, msrun := x.msrun ++ [e'], left := x.left + 1 }
    match e.op with
    | .mma d t _ _ => x'.onCtx e.leaf (fun c => c.onBank e.bank (fun k => { k with ak := k.ak.set d (intT t) }))
    | _ => x'

/-! ## The product (R122, R191, R198) -/

/-- Elements of a latch line (R191). -/
def lineLen (t : BitVec 4) : Nat := 512 / widthT t

/-- Element of a latch buffer by line and place, at its recorded type, as the array reads it: E4M3 and E5M2 subnormals
are zeros of their sign (R109, R198). -/
def LatchBuf.elem (x : LatchBuf) (line k : Nat) : FV :=
  let p := (getF x.lines (widthT x.t) (lineLen x.t * line + k)).toNat
  let fm := fmtOf x.t
  if fp8T x.t && p % 2 ^ (fm.e + fm.f) / 2 ^ fm.f = 0 then .fin (decide (2 ^ (fm.e + fm.f) ≤ p)) ⟨0, 0⟩
  else decodeF fm p

/-- The same element as an exact integer. -/
def LatchBuf.elemI (x : LatchBuf) (line k : Nat) : Int :=
  intVal x.t (getF x.lines (widthT x.t) (lineLen x.t * line + k)).toNat

/-- Line and place of element (k, j) of the B operand (R191). -/
def opBPlace (t : BitVec 4) (bt : Bool) (k j : Nat) : Nat × Nat :=
  if bt then (j, k) else ((k * 32 + j) / lineLen t, (k * 32 + j) % lineLen t)

/-- Scale of a line's block that element k lies in (R191). -/
def LatchBuf.scale (x : LatchBuf) (line k : Nat) : FV :=
  scaleVal (getF x.scales 20 (line * (lineLen x.t / 32) + k / 32)).toNat

/-- Terms of an exact sum: NaN, infinities, or finite with the zero sign rule of R122. -/
def sumTerms (md : Mode) (l : List FV) : FV :=
  if l.any FV.isNan then .nan
  else
    let pos := l.any (fun v => v == .inf false)
    let neg := l.any (fun v => v == .inf true)
    if pos && neg then .nan
    else if pos then .inf false
    else if neg then .inf true
    else
      let z := l.foldl (fun d v => match v with | .fin _ x => d.add x | _ => d) (⟨0, 0⟩ : Dy)
      if z.m = 0 then .fin (l.all (fun v => v.isZero && v.sign) || decide (md = .rdn)) z
      else .fin (decide (z.m < 0)) z

/-- Element (i, j) of an accumulator after an `mma` (R198). Behind a faulted latch load the buffers are read at the types that
they record (log 52). -/
def mmaElem (a b : LatchBuf) (t : BitVec 4) (bt : Bool) (md : Mode) (acc : W32) (i j : Nat) : W32 :=
  let n := lineLen t
  if intT t then
    let p := (List.range n).foldl (fun z k =>
      let q := opBPlace t bt k j
      z + a.elemI i k * b.elemI q.1 q.2) (0 : Int)
    acc + BitVec.ofInt 32 p
  else
    let terms := (List.range n).map (fun k =>
      let q := opBPlace t bt k j
      scaledProduct (a.elem i k) (a.scale i k) (b.elem q.1 q.2) (b.scale j k))
    BitVec.ofNat 32 (roundFV fmtF32 md false (sumTerms md (decodeF fmtF32 acc.toNat :: terms)))

/-- The 8 rows of one step of an `mma` (R198). -/
def mmaStep (a b : LatchBuf) (t : BitVec 4) (bt : Bool) (md : Mode) (acc : BitVec 32768) (step : Nat) : BitVec 32768 :=
  (List.range 256).foldl (fun x n =>
    let i := 8 * step + n / 32
    let j := n % 32
    setF x 32 (32 * i + j) (mmaElem a b t bt md (getF acc 32 (32 * i + j)) i j)) acc

/-! ## Runs (R192, R194) -/

/-- Cycles that a run takes; the runs that move tokens end by themselves (R192). -/
def MsOp.cycles : MsOp → Option Nat
  | .mlat .. => some 16
  | .mma .. => some 32
  | .mzero _ => some 1
  | .msav .. => some 32
  | .mrst .. => some 32
  | .mlatc .. => none
  | .mdrain .. => none

/-- Scale heads of a burst that an `mlatc` takes (R197). -/
def latchHeads (t : BitVec 4) : Nat := (lineLen t + 24) / 25

/-- Tokens per row of an `mdrain` (R200). -/
def drainPerRow (u : BitVec 4) : Nat := if u == 0x0 || u == 0x5 || u == 0x6 then 2 else 1

/-- Tokens of an `mdrain` (R200). -/
def drainTokens (u : BitVec 4) (sh : Bool) : Nat := 32 * drainPerRow u + (if sh then 2 else 0)

/-- The run of an entry is over at the start of a cycle (R192); an `mma` that a save has stopped between two steps is not
(R205). -/
def MsEntry.over (e : MsEntry) (cycle : Nat) : Bool :=
  match e.op with
  | .mlatc _ t _ => decide (e.due ≤ cycle) && decide (32 + (if e.scaled then latchHeads t else 0) ≤ e.done)
  | .mdrain _ u sh _ _ => decide (e.due ≤ cycle) && decide (drainTokens u sh ≤ e.done)
  | .mma .. => decide (e.start + 32 ≤ cycle) && decide (4 ≤ e.done)
  | op => decide (e.start + op.cycles.getD 0 ≤ cycle)

/-- The run of an entry reads lines of scratch in a cycle: of its n cycles, the next one has come (R194). -/
def MsEntry.readsIn (e : MsEntry) (n cycle : Nat) : Bool := decide (e.start + e.done ≤ cycle) && decide (e.done < n)

/-- What one cycle of a run does: reads of scratch before the cycle's bundles, or steps and writes of the cycles that
have passed (R194, R198). A step of an `mma` that has begun when the tile decides to save is run to its end (R205). `bank` is the issuing bank, `x` its tile. -/
def MsEntry.cycle (x : Tile) (e : MsEntry) (cycle : Nat) : Tile × MsEntry :=
  match e.op with
  | .mlat _ t lines =>
    if e.readsIn 16 cycle then
      let a := lines.getD (2 * e.done) 0
      let b := lines.getD (2 * e.done + 1) 0
      let f := { e.fill with
        lines := setF (setF e.fill.lines 512 (2 * e.done) (x.scratch.readVec a)) 512 (2 * e.done + 1) (x.scratch.readVec b),
        t := t }
      (x, { e with done := e.done + 1, fill := f })
    else (x, e)
  | .mrst d addr =>
    if e.readsIn 32 cycle then
      let v : BitVec 1024 := BitVec.ofNat 1024 (x.scratch.readNat (addr + 128 * e.done) 128)
      (x.onCtx e.leaf (fun c => c.onBank e.bank (fun k =>
          { k with acc := k.acc.set d (setF k.acc[d] 1024 e.done v) })), { e with done := e.done + 1 })
    else (x, e)
  | .msav d addr =>
    if e.start + e.done < cycle ∧ e.done < 32 then
      let k := x.ctx[e.leaf].banks[e.bank]
      (x.putScratch (addr + 128 * e.done) 128 (getF k.acc[d] 1024 e.done).toNat, { e with done := e.done + 1 })
    else (x, e)
  | .mma d t bt md =>
    if e.start + 8 * (e.done + 1) ≤ cycle ∧ e.done < 4 ∧ (x.saving.isNone ∨ e.start + 8 * e.done ≤ x.savedAt) then
      let a := x.latches[latchIx false e.bufA]
      let b := x.latches[latchIx true e.bufB]
      (x.onCtx e.leaf (fun c => c.onBank e.bank (fun k =>
          { k with acc := k.acc.set d (mmaStep a b t bt (modeOfR md) k.acc[d] e.done) })), { e with done := e.done + 1 })
    else (x, e)
  | .mzero d =>
    if e.start + 1 ≤ cycle ∧ e.done < 1 then
      (x.onCtx e.leaf (fun c => c.onBank e.bank (fun k => { k with acc := k.acc.set d 0 })), { e with done := 1 })
    else (x, e)
  | .mlatc .. => (x, e)
  | .mdrain .. => (x, e)

/-- Every running entry of a tile spends a cycle. -/
def Tile.msCycle (x : Tile) (cycle : Nat) : Tile :=
  x.msrun.foldl (fun y e =>
    let r := e.cycle y cycle
    { r.1 with msrun := r.1.msrun.map (fun q => if q.id = e.id then r.2 else q) }) x

/-- An entry leaves the sequencer. -/
def Tile.dropEntry (x : Tile) (id : Nat) : Tile := { x with msrun := x.msrun.filter (fun e => e.id != id) }

/-- The end of a run: a latch load makes its buffer current (R192). -/
def Tile.endEntry (x : Tile) (e : MsEntry) : Tile :=
  let y := x.dropEntry e.id
  match e.op.load with
  | some (false, _) => { y with latches := y.latches.set (latchIx false (!y.cura)) e.fill, cura := !y.cura }
  | some (true, _) => { y with latches := y.latches.set (latchIx true (!y.curb)) e.fill, curb := !y.curb }
  | none => y

/-- A fault found in a run: the entry ends and the issuing bank gets an asynchronous report (R195). -/
def State.runFault (s : State) (t : Site) (e : MsEntry) (f : FaultInfo) : State :=
  let s1 := s.onTile t (fun x => x.dropEntry e.id)
  { s1 with reports := s1.reports ++ [{ tile := t, leaf := e.leaf, bank := e.bank, slot := 2, bundle := e.bundle,
                                        code := f.code, flta := f.flta, part := (s.ctx t e.leaf).part,
                                        due := s.cycleAt t + Config.accessCycles 5 }] }

/-- ECC of what the run of an entry reads in its present cycle: scratch lines, accumulators and latches (R194, R375). -/
def State.runEcc (s : State) (t : Site) (e : MsEntry) : Option FaultInfo :=
  let line := fun (a : Nat) =>
    if s.ecc.contains (.scratch t (a / 64 * 64)) then some (faultOf .ecc (BitVec.ofNat 32 (a / 64 * 64))) else none
  let acc := fun (d : Fin 2) =>
    if s.ecc.contains (.acc t e.leaf e.bank d) then some (faultOf .ecc (0xFFFFFFE0 + BitVec.ofNat 32 d.val)) else none
  match e.op with
  | .mlat _ _ lines =>
    if e.readsIn 16 (s.cycleAt t) then firstFault [line (lines.getD (2 * e.done) 0), line (lines.getD (2 * e.done + 1) 0)]
    else none
  | .mrst _ a =>
    if e.readsIn 32 (s.cycleAt t) then firstFault [line (a + 128 * e.done), line (a + 128 * e.done + 64)] else none
  | .mma d .. =>
    firstFault [acc d,
      if s.ecc.contains (.latch t (latchIx false e.bufA)) then some (faultOf .ecc 0xFFFFFFE2) else none,
      if s.ecc.contains (.latch t (latchIx true e.bufB)) then some (faultOf .ecc 0xFFFFFFE3) else none]
  | .mdrain d .. => acc d
  | .msav d _ => acc d
  | .mzero _ => none
  | .mlatc .. => none

/-- The sequencer of a tile spends a cycle: entries that read a word in error fault, the others go on (R194, R195). -/
def State.msCycle (s : State) (t : Site) : State :=
  let s1 := (s.tile t).msrun.foldl (fun x e =>
    if e.over (x.cycleAt t) then x
    else
      match x.runEcc t e with
      | some f => x.runFault t e f
      | none => x) s
  s1.onTile t (fun x => x.msCycle (s1.cycleAt t))

/-! ## Token runs (R197, R200) -/

/-- The fault of the token that an `mlatc` takes as number n of its burst (R197); the order of the checks is log 52. -/
def mlatcFault (c : LeafCtx) (ch : Fin 8) (t : BitVec 4) (scaled : Bool) (n : Nat) (payload : Vec) : Option FaultInfo :=
  let i := c.inp[ch]
  let x := i.info (i.slot 0)
  let heads := if scaled then latchHeads t else 0
  let isHead := decide (n < heads)
  let last := decide (n + 1 = heads + 32)
  let proto := chWord ch.val 0x07
  firstFault
    [ if x.parity then some (faultOf .ecc (chWord ch.val (i.slot 0))) else none,
      if x.side.kind != 0 || (n == 0 && !x.side.head) || x.side.aux.getLsbD 23 != isHead || x.side.tail != last then
        some (faultOf .chproto proto) else none,
      match x.mark with
      | some low => some (faultOf .conv (chWord ch.val low.toNat))
      | none => if i.fmt != t then some (faultOf .conv (chWord ch.val (x.side.fmt ++ i.fmt).toNat)) else none,
      if isHead && payload.extractLsb' 500 12 != 0 then some (faultOf .conv (chWord ch.val 0xFF)) else none ]

/-- The fill buffer after token n of the burst (R197). Scales behind those of the type keep the 1.0 that every fill starts from
(DESIGN CHOICE, log 52). -/
def mlatcFill (f : LatchBuf) (t : BitVec 4) (scaled : Bool) (n : Nat) (null : Bool) (payload : Vec) : LatchBuf :=
  let heads := if scaled then latchHeads t else 0
  if n < heads then
    { f with t := t, scales := (List.range 25).foldl (fun sc j =>
        if 25 * n + j < lineLen t then setF sc 20 (25 * n + j) (getF payload 20 j) else sc) f.scales }
  else { f with t := t, lines := setF f.lines 512 (n - heads) (if null then 0 else payload) }

/-- An entry of the sequencer that is running, replaced by its next form. -/
def Tile.putEntry (x : Tile) (e : MsEntry) : Tile := { x with msrun := x.msrun.map (fun q => if q.id = e.id then e else q) }

/-- One token of a running `mlatc` is taken (R197): the faults of its scratch line and of the token, else it is consumed as by
`adv 1`. -/
def State.mlatcTake (s : State) (t : Site) (e : MsEntry) (ch : Fin 8) (ty : BitVec 4) : State :=
  let c := s.ctx t e.leaf
  let i := c.inp[ch]
  let side := (i.info (i.slot 0)).side
  let payload := (s.tile t).scratch.readVec (i.slotAddr (i.slot 0))
  let scaled := if e.done = 0 then side.scaled else e.scaled
  match firstFault [s.slotLine t e.leaf (BitVec.ofFin ch) 0, mlatcFault c ch ty scaled e.done payload] with
  | some f => s.runFault t e f
  | none =>
    let e' := { e with done := e.done + 1, due := s.cycleAt t + 1, scaled := scaled,
                       fill := mlatcFill e.fill ty scaled e.done side.null payload }
    (s.onTile t (fun x => x.putEntry e')).advanceIn
      t e.leaf (BitVec.ofFin ch) 1

/-- The exact value of an accumulator element by its kind (R190, R200). -/
def accValue (ak : Bool) (x : W32) : FV := if ak then FV.ofInt x.toInt else decodeF fmtF32 x.toNat

/-- The largest finite magnitude of a row (R200). -/
def rowMax (ak : Bool) (acc : BitVec 32768) (i : Nat) : Dy :=
  (List.range 32).foldl (fun m j =>
    match (accValue ak (getF acc 32 (32 * i + j))).abs with
    | .fin _ x => if m.lt x then x else m
    | _ => m) ⟨0, 0⟩

/-- emax of a drain format (R200). -/
def emaxU (u : BitVec 4) : Int := if u = 0x7 then 127 else if u = 0x9 then 8 else if u = 0xB then 2 else 15

/-- The exponent field of the scale of a row (R200). -/
def rowScale (ak : Bool) (u : BitVec 4) (acc : BitVec 32768) (i : Nat) : Int :=
  let mx := rowMax ak acc i
  if mx.m = 0 then 127
  else min (max (log2Frac mx.num.natAbs mx.den - emaxU u + 127) 1) 254

/-- Element (i, j) of a drain as a pattern of its output type (R200). -/
def drainElem (ak : Bool) (u : BitVec 4) (sh : Bool) (acc : BitVec 32768) (i j : Nat) : Nat :=
  let x := getF acc 32 (32 * i + j)
  if u = 0x0 then x.toNat
  else if sh then
    let e := rowScale ak u acc i
    roundFV (fmtOf u) .rne false ((accValue ak x).mul (.fin false ⟨1, 127 - e⟩))
  else convertT .rne false (if ak then 0x5 else 0x6) u x.toNat

/-- Payload of token n of a drain's burst (R200). -/
def drainPayload (ak : Bool) (u : BitVec 4) (sh : Bool) (acc : BitVec 32768) (n : Nat) : Vec :=
  if sh && n < 2 then
    packVec 20 25 (fun j =>
      if 25 * n + j < 32 then (rowScale ak u acc (25 * n + j)).toNat * 4096 else 0)
  else
    let m := if sh then n - 2 else n
    if drainPerRow u = 2 then packVec 32 16 (fun j => drainElem ak u sh acc (m / 2) (16 * (m % 2) + j))
    else packVec (widthT u) 32 (fun j => drainElem ak u sh acc m j)

/-- Sideband of token n of a drain's burst (R200). -/
def drainSide (u : BitVec 4) (sh : Bool) (rc : BitVec 8) (n : Nat) : Sideband :=
  { fmt := u, pred := true, head := n == 0, tail := n + 1 == drainTokens u sh, scaled := sh, round := rc,
    aux := if sh && n < 2 then 0x800000 else 0 }

/-- The drain entry that a steering form takes from its head token, which it consumes; `none` while none is filled
(R200). No check is made of the channel or of the token (log 52). -/
def State.drainSteer (s : State) (t : Site) (e : MsEntry) (head : Fin 8) : Option (State × Fin 8) :=
  let i := (s.ctx t e.leaf).inp[head]
  if i.f = 0 then none
  else
    let payload := (s.tile t).scratch.readVec (i.slotAddr (i.slot 0))
    some (s.advanceIn t e.leaf (BitVec.ofFin head) 1, (payload.extractLsb' 0 3).toFin)

/-- The head token of a steering `mdrain` is taken: an error in its scratch line ends the run and leaves it at the head (R195,
R375). -/
def State.steerFault (s : State) (t : Site) (e : MsEntry) (head : Fin 8) : Option FaultInfo :=
  if (s.ctx t e.leaf).inp[head].f = 0 then none else s.slotLine t e.leaf (BitVec.ofFin head) 0

/-- A steering `mdrain` takes its drain entry from the head token: the run goes on with the channel that the entry gives, or
ends with the fault of an invalid one (R195, R200, R201). -/
def State.drainSelect (s : State) (t : Site) (e : MsEntry) (n : Fin 8) : State :=
  match drainFault (s.ctx t e.leaf) n with
  | some f => s.runFault t e f
  | none => s.onTile t (fun x => x.putEntry { e with out := some ((s.ctx t e.leaf).drainCh n) })

/-- One token of a running `mdrain` is published on the channel of its drain entry; an unbound or closed channel ends the run
(R201), and nothing happens while the channel has no free slot (R200). -/
def State.drainPublish (s : State) (t : Site) (e : MsEntry) (d : Fin 2) (u : BitVec 4) (sh : Bool) (n : Fin 8) : State :=
  let c := s.ctx t e.leaf
  let ch : BitVec 3 := BitVec.ofFin n
  match producerCheck c ch false with
  | some f => s.runFault t e f
  | none =>
    let o := c.outCh ch
    if o.e = 0 then s
    else
      let k := c.banks[e.bank]
      let info : SendInfo := { src := .tile t e.leaf n, part := c.part, leaf := e.leaf, graph := c.graph,
                               waits := e.waits, dies := c.spanDies (s.routeScope t e.leaf n), due := s.cycleAt t + 1 }
      let o' := o.publishAs info (drainSide u sh o.rc e.done) (drainPayload k.ak[d] u sh k.acc[d] e.done) false
      (s.onCtx t e.leaf (fun c => c.onOut ch (fun _ => o'))).onTile t (fun x =>
        x.putEntry { e with done := e.done + 1, due := s.cycleAt t + 1 })

/-! ## Meanings: each issues the op alone in its bundle -/

/-- The meaning of `mlat` (R196). -/
def execMlat (g : Pg) (a : BitVec 5) (t : BitVec 4) (latch : Bool) (gather : Option (BitVec 4)) (s : State) : Host.Outcome State Fault Refusal :=
  issueOne (planMlat g a t latch gather) s

/-- The meaning of `mlatc` (R197). -/
def execMlatc (g : Pg) (ch : BitVec 3) (t : BitVec 4) (latch : Bool) (s : State) : Host.Outcome State Fault Refusal :=
  issueOne (planMlatc g ch t latch) s

/-- The meaning of `mma` (R198). -/
def execMma (g : Pg) (d : Bool) (t : BitVec 4) (bt : Bool) (s : State) : Host.Outcome State Fault Refusal :=
  issueOne (planMma g d t bt) s

/-- The meaning of `mzero` (R199). -/
def execMzero (g : Pg) (d : Bool) (s : State) : Host.Outcome State Fault Refusal :=
  issueOne (planMzero g d) s

/-- The meaning of `mdrain` (R200). -/
def execMdrain (g : Pg) (d : Bool) (u : BitVec 4) (sh : Bool) (steer : DrainSel) (s : State) : Host.Outcome State Fault Refusal :=
  issueOne (planMdrain g d u sh steer) s

/-- The meaning of `msav` (R202). -/
def execMsav (g : Pg) (d : Bool) (a : BitVec 5) (s : State) : Host.Outcome State Fault Refusal :=
  issueOne (planMsav g d a) s

/-- The meaning of `mrst` (R202). -/
def execMrst (g : Pg) (d : Bool) (a : BitVec 5) (s : State) : Host.Outcome State Fault Refusal :=
  issueOne (planMrst g d a) s

/-- The meaning of `msync` (R203). -/
def execMsync (g : Pg) (s : State) : Host.Outcome State Fault Refusal :=
  issueOne (planMsync g) s

end Sys2Proof.Machine
end

