-- ==== Sys2Proof/Machine/Pending.lean ====
section
/-!
DEFINITION. The pending-write area of a bank record (R357): how it is written when a bank stops, how an edited one is read
when the bank goes on, and the re-entry of pending writes at a resume, a thaw or a restore (R81, R363, R369).
-/
namespace Sys2Proof.Machine

/-- Bytes of the area (R356). -/
def pendBytes : Nat := 3168

/-- LEN of a kind (R357). -/
def pendLen (kind : BitVec 3) : Nat :=
  if kind = 0 then 0 else if kind = 4 then 64 else if kind = 5 then 128 else if kind = 6 then 196 else 4

/-- The value bytes of an entry, as a little-endian number (R357). -/
def PVal.data : PVal → Nat
  | .scalar _ x => x.toNat
  | .pred _ x => x.toNat
  | .sreg _ x => x.toNat
  | .mask x => x.toNat
  | .vec _ x => x.toNat
  | .cstep _ x => x.toNat
  | .batt _ x => x.lanes.toNat + 2 ^ 1536 * x.marks.toNat
  | .grant _ => 0

/-- The header word of an entry (R357); an awaited grant has REM 1. -/
def PWrite.header (w : PWrite) : W32 :=
  let rem := if w.val.kind = 7 then 1 else w.rem
  BitVec.ofNat 5 rem ++ w.val.kind ++ BitVec.ofNat 8 (pendLen w.val.kind) ++ 0#8 ++ BitVec.ofNat 8 w.val.reg

/-- An entry goes before another: it lands first, or in a lower slot at the same step (R357). -/
def PWrite.before (a b : PWrite) : Bool :=
  decide (a.rem < b.rem) || (a.rem == b.rem && decide ((slotNum a.slot).toNat < (slotNum b.slot).toNat))

/-- An entry put into a list that is in order, behind its equals. -/
def insertWrite (w : PWrite) : List PWrite → List PWrite
  | [] => [w]
  | x :: r => if w.before x then w :: x :: r else x :: insertWrite w r

/-- The entries in order of landing (R357). -/
def inOrder (ws : List PWrite) : List PWrite := ws.foldl (fun l w => insertWrite w l) []

/-- Entries written from an offset. -/
def encodeFrom (m : Memory) (o : Nat) : List PWrite → Memory
  | [] => m
  | w :: r =>
    let n := pendLen w.val.kind
    encodeFrom ((m.writeW32 o w.header).writeNat (o + 4) w.val.data n) (o + 4 + n) r

/-- The pending-write area of a stopped bank (R81, R357). -/
def Bank.pendArea (k : Bank) : Memory := k.pendRaw.getD (encodeFrom [] 0 (inOrder k.pending))

/-- The value of an entry by its kind, register number and bytes (R357); a batt lane of −2^47 is taken as R219 takes it, so
that no lane ever holds it (R207). A register number beyond the kind's range is cut to its width (DESIGN CHOICE, log 44). -/
def pvalOf (kind : BitVec 3) (reg v : Nat) : Option PVal :=
  if kind = 1 then some (.scalar (BitVec.ofNat 5 reg) (BitVec.ofNat 32 v))
  else if kind = 2 then some (.pred (BitVec.ofNat 3 reg) (v % 2 == 1))
  else if kind = 3 then some (.sreg (BitVec.ofNat 12 reg) (BitVec.ofNat 32 v))
  else if kind = 4 then some (.vec (BitVec.ofNat 4 reg) (BitVec.ofNat 512 v))
  else if kind = 5 then some (.cstep (BitVec.ofNat 2 reg) (BitVec.ofNat 1024 v))
  else if kind = 6 then some (.batt (BitVec.ofNat 2 reg) (battOfWords (fun i => BitVec.ofBool ((v / 2 ^ 1536).testBit i) ++ 0#15 ++ BitVec.ofNat 48 (v / 2 ^ (48 * i)))))
  else if kind = 7 then some (.grant (BitVec.ofNat 2 reg))
  else none

/-- The entries from an offset of an edited area; `none` where R357 makes the restore fault CHPROTO: an overrun, an
unknown KIND, or a KIND 7 entry whose REM is not 1. The model takes a LEN that is not the kind's and a REM outside 1-18, for
which R81 and R357 name no outcome, in the same way (DESIGN CHOICE, log 44). -/
def parseFrom (m : Memory) : Nat → Nat → Option (List PWrite)
  | 0, _ => none
  | fuel + 1, o =>
    if pendBytes < o + 4 then none
    else
      let h := m.readW32 o
      if h = 0 then some []
      else
        let rem := (h.extractLsb' 27 5).toNat
        let kind : BitVec 3 := h.extractLsb' 24 3
        let n := (h.extractLsb' 16 8).toNat
        if n ≠ pendLen kind ∨ rem = 0 ∨ 18 < rem ∨ (kind = 7 ∧ rem ≠ 1) ∨ pendBytes < o + 4 + n then none
        else
          match pvalOf kind (h.extractLsb' 0 8).toNat (m.readNat (o + 4) n), parseFrom m fuel (o + 4 + n) with
          | some v, some r => some ({ rem := if kind = 7 then 0 else rem, val := v } :: r)
          | _, _ => none

/-- The entry waits for a grant. -/
def PWrite.isGrant (w : PWrite) : Bool := w.val.kind == 7

/-- The landings of the entries of a list that are not discarded. -/
def entryLandings (ws : List PWrite) : List (Nat × RegKey) :=
  landings ((ws.filter (fun w => !w.val.discarded)).map (fun w => (w.rem, w.val)))

/-- The register of the first landing of a list that meets another on its register at its step (R65, R81). -/
def firstClash (ws : List PWrite) : Option RegKey :=
  ((entryLandings ws).find? (fun w => decide (2 ≤ clashCount (entryLandings ws) w))).map (fun w => w.2)

/-- The bank with its pending writes re-entered, or the fault of the restore (R81, R357, R363). -/
def Bank.reenter (k : Bank) : Except FaultInfo Bank :=
  let bad := faultOf .chproto 0x0000000D
  match (match k.pendRaw with
         | none => some k.pending
         | some m => parseFrom m 800 0) with
  | none => .error bad
  | some ws =>
    if ws.any PWrite.isGrant != k.umWait.isSome then .error bad
    else
      match (if k.pendRaw.isSome then firstClash ws else none) with
      | some r => .error (faultOf .wclash (regCode r))
      | none => .ok { k with pending := ws, pendRaw := none }

/-- The pending writes of a bank re-enter before its next bundle issues, or the bank faults (R81, R357). R362 gives FLTB for a
restore only; here, at a resume or a thaw in place, it names the bank's next bundle with slot S (DESIGN CHOICE, log 17). -/
def State.reenter (s : State) (t : Site) (l : Leaf) (b : BankId) : State :=
  let k := s.bank t l b
  match k.reenter with
  | .ok k1 => s.onBank t l b (fun _ => k1)
  | .error f => s.takeFault t l b (fltbWord false l 0 k.pc) f

/-- A resume of a bank: FAULTED and MORE clear and its pending writes re-enter; a bank that is not faulted is unchanged
(R365, R369). -/
def State.resumeBank (s : State) (t : Site) (l : Leaf) (b : BankId) : State :=
  if (s.bank t l b).faulted then
    (s.onBank t l b (fun k => { k with faulted := false, fltb := k.fltb &&& 0xBFFFFFFF, checked := false })).reenter t l b
  else s

/-- A thaw of a bank: FROZEN clears (R368, R399). -/
def State.thawBank (s : State) (t : Site) (l : Leaf) (b : BankId) : State :=
  if (s.bank t l b).frozen then
    (s.onBank t l b (fun k => { k with frozen := false, checked := false })).reenter t l b
  else s

end Sys2Proof.Machine
end

