-- ==== Sys2Proof/Machine/Phys.lean ====
section
/-!
DEFINITION. The physical address space (R222, R223, R240, R435), page tables and permissions (R377-R381), translation
caches (R382), and what a physical write does to the gateway copies of its line (R240).
-/
namespace Sys2Proof.Machine

/-! ## Places (R222) -/

/-- What a physical address names (R222). -/
inductive Place where
  | gddr (d : DieId)
  | sram (mt : Site) (off : Nat)
  | weight (d : DieId) (off : Nat)
  | host (off : Nat)
  | nothing
  deriving DecidableEq, Repr

/-- The place of a physical address (R222). -/
def placeOf (pa : Nat) : Place :=
  if pa < 0x4800000000 then .gddr (Fin.ofNat 4 (homeDie pa))
  else if 0x4000000000000 ≤ pa ∧ pa < 0x4000040000000 then
    let o := pa - 0x4000000000000
    let m := o % 0x10000000 / 0x200000
    if m < 96 then .sram (memTileSite (Fin.ofNat 4 (o / 0x10000000)) m) (o % 0x200000) else .nothing
  else if 0x4000100000000 ≤ pa ∧ pa < 0x4000200000000 then
    let o := pa - 0x4000100000000
    .weight (Fin.ofNat 4 (o / 0x40000000)) (o % 0x40000000)
  else if 0x8000000000000 ≤ pa ∧ pa < 0x10000000000000 then .host (pa - 0x8000000000000)
  else .nothing

/-- The physical address of a weight-store byte of a die (R222). -/
def weightPa (d : DieId) (x : Nat) : Nat := 0x4000100000000 + d.val * 0x40000000 + x
/-- The physical address of an SRAM byte of a memory tile (R222). -/
def sramPa (mt : Site) (x : Nat) : Nat :=
  0x4000000000000 + (siteDie mt).val * 0x10000000 + memTileIndex mt * 0x200000 + x

/-- The die on which an address is homed, when it has one (R222). -/
def Place.die : Place → Option DieId
  | .gddr d => some d
  | .sram mt _ => some (siteDie mt)
  | .weight d _ => some d
  | _ => none

/-- The number of the L2 slice of an offset in a die's GDDR7 (R223). -/
def l2Slice (o : Nat) : Nat :=
  let l := o / 512
  ((l % 2 ^ 14) ^^^ (l / 2 ^ 14 % 2 ^ 14)) % 96

/-- The offset of a GDDR7 address in its home die (R223). -/
def gddrOff (pa : Nat) : Nat := pa % 0x1200000000

/-- The site of the L2 slice of a GDDR7 address (R223). -/
def sliceSite (pa : Nat) : Site :=
  let n := l2Slice (gddrOff pa)
  siteAt (Fin.ofNat 4 (homeDie pa)) (8 * (n / 24) + 7) (n % 24)

/-- The gateway cache of die d for a line homed on die e (R10, R240): the edge shared with e, else the east or west one. -/
def gatewayOf (d e : DieId) (pa : Nat) : Nat :=
  let edge := if d.val ^^^ e.val = 2 then 1 else 0
  4 * d.val + 2 * edge + l2Slice (gddrOff pa) % 2

/-- Bytes of a memory tile's SRAM that a bound edge buffer occupies (R245, R435). -/
def EdgeBuf.occupies (b : EdgeBuf) (off : Nat) : Bool :=
  b.v && decide (64 * b.base.toNat ≤ off ∧ off < 64 * b.base.toNat + 4096 * b.cap64.toNat)

/-- A byte of a memory tile's SRAM belongs to its window (R435). -/
def MemTile.inWindow (m : MemTile) (off : Nat) : Bool :=
  decide (off < 65536 * m.mtwin.toNat) && !(m.ebuf.toList.any (fun l => l.toList.any (fun b => b.occupies off)))

/-- An access of `n` bytes at an SRAM offset lies in the window. -/
def State.sramOpen (s : State) (mt : Site) (off n : Nat) : Bool :=
  (List.range n).all (fun i => (s.mt mt).inWindow (off + i))

/-- A die is fenced off (R406). -/
def State.fenced (s : State) (d : DieId) : Bool := s.host.fence.getLsbD d.val

/-- The traffic of a die does not get through to an address, for the die between (R10, R406; log 58). -/
def State.pathShut (s : State) (d : DieId) (pa : Nat) : Bool :=
  match (placeOf pa).die with
  | some e => !s.pathOpen d e
  | none => false

/-- The leaf of a memory tile changed. -/
def State.onMtLeaf (s : State) (mt : Site) (l : Leaf) (f : MtLeaf → MtLeaf) : State :=
  s.onMt mt (fun m => { m with lf := m.lf.set l (f m.lf[l]) })

/-- The leaf of a memory tile. -/
def State.mtLeaf (s : State) (mt : Site) (l : Leaf) : MtLeaf := (s.mt mt).lf[l]

/-- The die of a link port is fenced off: the port carries no traffic (R406). -/
def State.portFenced (s : State) (p : Fin 18) : Bool := s.host.fence != 0 && s.fenced (Config.portDie p)

/-- A request sets out for its target. -/
def State.fly (s : State) (q : Req) (target : Target) : State :=
  { s with flight := s.flight ++ [{ req := q, target := target, due := s.cycleAt q.src.tile + Config.accessCycles 1 }] }

/-! ## Swaps (R32, R353, R355) -/

/-- The present cycle of a die is the decision cycle of a swap-out of a partition there (R353). -/
def State.decidedNow (s : State) (part : BitVec 6) (d : DieId) : Bool :=
  s.swaps.any (fun w => w.part == part && !w.restore && w.dies.getLsbD d.val && w.cycles[d] == s.dies[d].cycle.toNat)

/-- A context takes no event now: it is saved or being saved (R355). -/
def State.away (s : State) (t : Site) (l : Leaf) : Bool := (s.ctx t l).saved || (s.tile t).saving == some l

/-- An event that reaches a context once the command of a swap-out has reached its die is recorded for the restore (R32,
R355). -/
def State.recordsNow (s : State) (t : Site) (l : Leaf) : Bool :=
  s.swaps.any (fun w => w.part == (s.ctx t l).part && !w.restore && w.dies.getLsbD (siteDie t).val)

/-- A partition is swapped out, or a swap of it is in progress (R341, R353). -/
def State.partAway (s : State) (part : BitVec 6) : Bool :=
  (match s.parts.get part.toNat none with
   | some p => p.swapped
   | none => false) || s.swaps.any (fun w => w.part == part)

/-- A partition's units on a die have stopped: it is swapped out, a restore of it is not complete, or the command of a
swap-out has reached the die (R353). -/
def State.partStopped (s : State) (part : BitVec 6) (d : DieId) : Bool :=
  (match s.parts.get part.toNat none with
   | some p => p.swapped
   | none => false) || s.swaps.any (fun w => w.part == part && (w.restore || w.dies.getLsbD d.val))

/-- A partition issues no bundle: it is swapped out, or a restore of it is not complete (R341, R359). -/
def State.partHeld (s : State) (part : BitVec 6) : Bool :=
  (match s.parts.get part.toNat none with
   | some p => p.swapped
   | none => false) || s.swaps.any (fun w => w.part == part && w.restore)

/-! ## Damaged configuration (R375) -/

/-- A configuration register of a leaf, by its `tsw` number, holds an uncorrectable error: what it configures holds its tokens
(R375). -/
def State.regBad (s : State) (t : Site) (l : Leaf) (n : Nat) : Bool :=
  s.ecc.contains (.tileReg t l n false) || s.ecc.contains (.tileReg t l n true)

/-- The TYPE 4 record of a damaged configuration register is sent, once (R373, R375). -/
def State.tellReg (s : State) (t : Site) (l : Leaf) (part : BitVec 6) (n : Nat) : State :=
  if s.ecc.contains (.tileReg t l n false) then
    { s with ecc := s.ecc.filter (fun e => e != Ecc.tileReg t l n false) ++ [Ecc.tileReg t l n true] }.notify (siteDie t) part
      (softRecord part t l (s.asidOf t l) 6 n 0)
  else s

/-! ## Launched graphs -/

/-- A loaded graph. -/
def State.graph (s : State) (n : Nat) : Option Graph := s.graphs.get n none

/-- Some graph of a partition is running (R17, R381). -/
def State.partRuns (s : State) (part : BitVec 6) : Bool :=
  s.launches.any (fun l => match s.graph l.graph with
    | some g => g.part == part
    | none => false)

/-- A launch of a graph changed. -/
def State.onLaunchOf (s : State) (g : Nat) (f : Launch → Launch) : State :=
  { s with launches := s.launches.map (fun l => if l.graph = g then f l else l) }

/-- A die that has reported its share of a graph withdraws the report (R344). -/
def State.withdrawReport (s : State) (g : Nat) (d : DieId) : State :=
  s.onLaunchOf g (fun l => { l with reports := l.reports &&& ~~~(1#4 <<< d.val), backed := false })

/-- Some graph runs on a die (R389). -/
def State.dieRuns (s : State) (d : DieId) : Bool :=
  s.launches.any (fun l => match s.graph l.graph with
    | some g => g.tiles.any (fun t => siteDie t.1 == d)
    | none => false)

/-! ## Physical writes and gateway copies (R240) -/

/-- The L2 line of a physical address (R12). -/
def lineOf (pa : Nat) : Nat := pa / 512 * 512
/-- The L2 sector of a physical address (R12). -/
def sectorOf (pa : Nat) : Nat := pa / 128 * 128

/-- An L2 slice. -/
def State.slice (s : State) (t : Site) : Slice := s.slices.get t.toNat {}
/-- An L2 slice changed. -/
def State.onSlice (s : State) (t : Site) (f : Slice → Slice) : State :=
  { s with slices := s.slices.set t.toNat (f (s.slice t)) }

/-- A gateway cache: its copies by sector. -/
def State.gateway (s : State) (n : Nat) : FMap (BitVec 1024) := s.gateways.get n []

/-- The copy of a sector in a gateway cache. -/
def State.copyAt (s : State) (n sector : Nat) : Option (BitVec 1024) :=
  ((s.gateway n).find? (fun c => c.1 == sector)).map (fun c => c.2)

/-- A copy of a sector dropped from a gateway cache. -/
def State.dropCopy (s : State) (n sector : Nat) : State :=
  { s with gateways := s.gateways.set n ((s.gateway n).filter (fun c => c.1 != sector)) }

/-- The invalidations that a write to a line sends: one to each gateway cache that may hold copies of it, but for the one
that the write came through (R240). -/
def State.invalsFor (s : State) (pa : Nat) (via : Option Nat) (id : Nat) (part : Option (BitVec 6)) : List Inval :=
  (((s.slice (sliceSite pa)).present.get (lineOf pa) []).filter (fun g => some g != via)).map (fun g =>
    { gateway := g, sector := lineOf pa, id := id, part := part })

/-- A write to a line of GDDR7 by an agent that came through gateway `via` sends its own invalidations to the other gateway
caches that may hold copies of it, whether or not those of an earlier write are still under way; a presence bit stands until
its copies are gone (R240, R256). `part` is the partition whose graph writes. -/
def State.invalidate (s : State) (pa : Nat) (via : Option Nat) (id : Nat) (part : Option (BitVec 6)) : State :=
  match placeOf pa with
  | .gddr _ => { s with invals := s.invals ++ (s.invalsFor pa via id part).filter (fun v => !s.invals.contains v) }
  | _ => s

/-- A gateway cache has applied an invalidation: its copies of the line are gone, and so is its presence bit at the home slice
(R240). -/
def State.applyInval (s : State) (v : Inval) : State :=
  ([0, 128, 256, 384].foldl (fun x o => x.dropCopy v.gateway (v.sector + o)) s).onSlice (sliceSite v.sector) (fun x =>
    { x with present := x.present.set v.sector ((x.present.get v.sector []).filter (fun g => g != v.gateway)) })

/-- No copy of a line that a partition's graphs have written waits for its invalidation (R259, R260). -/
def State.copiesGone (s : State) (part : BitVec 6) : Bool := !s.invals.any (fun v => v.part == some part)

/-- Bytes of physical memory written. -/
def State.putPhys (s : State) (pa n v : Nat) : State := { s with mem := s.mem.writeNat pa v n }

/-- A 64-byte line with some of its words replaced (R235). -/
def mergeWords (old new : Vec) (m : BitVec 16) : Vec :=
  packVec 32 16 (fun i => ((if m.getLsbD i then getF new 32 i else getF old 32 i) : W32).toNat)

/-- The copy of a line in the gateway that a write came through takes the written words, as the write takes effect at the
home slice (R240, R263; log 55). -/
def State.mergeCopy (s : State) (via : Option Nat) (pa : Nat) (v : Vec) (m : BitVec 16) : State :=
  match via with
  | none => s
  | some n =>
    match s.copyAt n (sectorOf pa) with
    | none => s
    | some c =>
      let h := pa % 128 / 64
      { s with gateways := s.gateways.set n ((s.gateway n).set (sectorOf pa) (setF c 512 h (mergeWords (getF c 512 h) v m))) }

/-- Words of a 64-byte line written by an agent that came through a gateway cache, or by one that did not (R235, R240). -/
def State.putLine (s : State) (pa : Nat) (v : Vec) (m : BitVec 16) (via : Option Nat) (id : Nat)
    (part : Option (BitVec 6)) : State :=
  ((s.putPhys pa 64 (mergeWords (s.mem.readVec pa) v m).toNat).mergeCopy via pa v m).invalidate pa via id part

/-- The copies that a gateway cache of 8 MiB holds (R12, R35). -/
def gatewayCopies : Nat := 65536

/-- A copy of a sector joins a gateway cache; a full one gives up another (R35, R240; log 56). -/
def State.addCopy (s : State) (n sector : Nat) (v : BitVec 1024) : State :=
  let g := s.gateway n
  let g1 := if g.length < gatewayCopies ∨ g.any (fun c => c.1 == sector) then g
    else g.eraseIdx (Config.gatewayVictim n sector % g.length)
  { s with gateways := s.gateways.set n (FMap.set g1 sector v) }

/-- A read of a line of physical memory finds an uncorrectable error: in its store, or in the dirty sector of the slice
(R375). -/
def State.lineBad (s : State) (pa : Nat) : Bool :=
  s.ecc.contains (.phys (pa / 64 * 64)) || s.ecc.contains (.dirty (sectorOf pa))

/-- A read that came through a gateway and missed there leaves a copy of the sector, and the home slice notes it (R240). -/
def State.copyIn (s : State) (n pa : Nat) : State :=
  (s.addCopy n (sectorOf pa) (BitVec.ofNat 1024 (s.mem.readNat (sectorOf pa) 128))).onSlice (sliceSite pa) (fun x =>
    let g := x.present.get (lineOf pa) []
    { x with present := x.present.set (lineOf pa) (if g.contains n then g else g ++ [n]) })

/-- The gateway cache that a request of a die passes on its way to a physical address (R240). -/
def gatewayFor (d : DieId) (pa : Nat) : Option Nat :=
  match placeOf pa with
  | .gddr e => if e = d then none else some (gatewayOf d e pa)
  | _ => none

/-- A bank of the weight store is in refresh in the present cycle of its die (R17, R237). -/
def State.refreshes (s : State) (pa : Nat) : Bool :=
  match placeOf pa with
  | .weight d x => x / 64 % 64 == s.dies[d].cycle.toNat / 300 % 64
  | _ => false

/-! ## Page tables (R378-R381) -/

/-- Reasons why a translated request fails. -/
inductive XFault where
  | page
  | perm
  | ecc
  deriving DecidableEq, Repr

/-- The cause of a translation failure. -/
def XFault.cause : XFault → Cause
  | .page => .page
  | .perm => .perm
  | .ecc => .ecc

/-- Index of a virtual address at a level of the walk (R378). -/
def pteIndex (va : Nat) (lv : Nat) : Nat :=
  if lv = 4 then va / 2 ^ 48 % 64 else va / 2 ^ (12 + 9 * lv) % 512

/-- PPN of an entry, as an address (R379). -/
def ptePa (e : W64) : Nat := (e.extractLsb' 12 40).toNat * 4096

/-- Size of a page whose leaf stands at a level (R380). -/
def pageSize (lv : Nat) (s64 : Bool) : Nat :=
  if lv = 2 then 2 ^ 30 else if lv = 1 then 2 ^ 21 else if s64 then 2 ^ 16 else 2 ^ 12

/-- One step of a walk: a fault, the next table, a leaf with its page base and size, or none yet, while the entry cannot be
read (R380; log 58). -/
inductive WalkStep where
  | wait
  | fault (f : XFault)
  | table (base : Nat)
  | leaf (pte : W64) (pbase : Nat) (size : Nat)
  deriving DecidableEq, Repr

/-- The entry that a walk of a die reads at a level, from GDDR7 (R377, R380, R406); `none` while the die between is fenced
(R10; log 58). -/
def State.readPte (s : State) (die : DieId) (base va lv : Nat) : Option (Except XFault W64) :=
  let a := base + 8 * pteIndex va lv
  match placeOf a with
  | .gddr d =>
    if s.fenced d then some (.error .page)
    else if !s.pathOpen die d then none
    else if s.lineBad a then some (.error .ecc)
    else some (.ok (s.mem.readW64 a))
  | _ => some (.error .page)

/-- Which of the sixteen entries translates a 64 KiB page (R379): when they agree, any; else the free choice (log 5). -/
def State.pte64 (s : State) (base va : Nat) (e : W64) : W64 :=
  let first := base + 8 * (pteIndex va 0 / 16 * 16)
  let es := (List.range 16).map (fun i => s.mem.readW64 (first + 8 * i))
  if es.all (fun x => x == e) then e else es.getD (Config.page64Choice (BitVec.ofNat 64 first)).toNat e

/-- A level of the walk of R380 on the entry that it has read. -/
def walkEntry (lv : Nat) (e : W64) : WalkStep :=
  let leafBit := e.getLsbD 8
  let s64 := e.getLsbD 9
  if !e.getLsbD 0 || e.extractLsb' 10 2 != 0 then .fault .page
  else if lv = 0 ∨ leafBit ∧ lv ≤ 2 then
    let size := pageSize lv s64
    if ptePa e % size ≠ 0 then .fault .page
    else if s64 ∧ lv ≠ 0 then .fault .page
    else .leaf e (ptePa e) size
  else if leafBit then .fault .page
  else .table (ptePa e)

/-- One table read of a walk (R380). -/
def State.walkStep (s : State) (die : DieId) (base va lv : Nat) : WalkStep :=
  match s.readPte die base va lv with
  | none => .wait
  | some (.error f) => .fault f
  | some (.ok e) => walkEntry lv (if lv = 0 ∧ e.getLsbD 9 then s.pte64 base va e else e)

/-- A walk from a level down (R380). -/
def State.walkFrom (s : State) (die : DieId) (va : Nat) (base : Nat) : Nat → WalkStep
  | 0 => s.walkStep die base va 0
  | lv + 1 =>
    match s.walkStep die base va (lv + 1) with
    | .table b => s.walkFrom die va b lv
    | r => r

/-- TRCFG of a leaf at a memory tile (R377). -/
def State.trcfg (s : State) (mt : Site) (l : Leaf) : BitVec 60 := (s.mt mt).trcfg[l]
/-- ASID of TRCFG. -/
def trAsid (x : BitVec 60) : W16 := x.extractLsb' 44 16
/-- Root table of TRCFG. -/
def trRoot (x : BitVec 60) : Nat := (x.extractLsb' 1 43).toNat * 512
/-- EN of TRCFG. -/
def trEn (x : BitVec 60) : Bool := x.getLsbD 0

/-- A whole walk for a leaf at a memory tile (R380). -/
def State.walk (s : State) (mt : Site) (l : Leaf) (va : Nat) : WalkStep :=
  let c := s.trcfg mt l
  if 2 ^ 54 ≤ va ∨ !trEn c then .fault .page else s.walkFrom (siteDie mt) va (trRoot c) 4

/-- Kinds of access, for the permissions of R381. -/
inductive AccessKind where
  | read
  | write
  | amo
  | coreWrite
  deriving DecidableEq, Repr

/-- The access writes. -/
def AccessKind.writes : AccessKind → Bool
  | .read => false
  | _ => true

/-- The permission bits of an entry let an access through (R381). -/
def State.permits (s : State) (part : BitVec 6) (k : AccessKind) (e : W64) : Bool :=
  let kOk := !(e.getLsbD 4 && s.partRuns part)
  match k with
  | .read => e.getLsbD 1
  | .write => e.getLsbD 2 && kOk
  | .coreWrite => e.getLsbD 2 && kOk
  | .amo => e.getLsbD 1 && e.getLsbD 2 && kOk

/-- The place rules of R381, R222, R237, R241 and R435 for an access of `n` bytes to a physical address. -/
def State.placeCheck (s : State) (k : AccessKind) (own : DieId) (h : Bool) (pa n : Nat) : Option XFault :=
  match placeOf pa with
  | .nothing => some .page
  | .host _ => if !h then some .page else none
  | .gddr d => if h ∨ s.fenced d then some .page else none
  | .sram mt off =>
    if h ∨ s.fenced (siteDie mt) then some .page else if s.sramOpen mt off n then none else some .perm
  | .weight d _ =>
    if h ∨ s.fenced d then some .page
    else if k = .read then none
    else if k = .coreWrite ∧ d = own then none
    else some .perm

/-- The checks of R381 on an entry and the address that it gives. -/
def State.accessCheck (s : State) (part : BitVec 6) (own : DieId) (k : AccessKind) (e : W64) (pa n : Nat) :
    Option XFault :=
  if !s.permits part k e then some .perm else s.placeCheck k own (e.getLsbD 5) pa n

/-! ## Translation caches (R382) -/

/-- A cached translation covers a virtual address of an ASID (R382). -/
def TlbEntry.covers (t : TlbEntry) (asid : W16) (va : Nat) : Bool :=
  t.asid == asid && decide (t.vbase ≤ va ∧ va < t.vbase + t.size)

/-- The cached translation of an address for a leaf (R382). -/
def State.tlbHit (s : State) (mt : Site) (l : Leaf) (va : Nat) : Option TlbEntry :=
  (s.mt mt).tlb.find? (fun t => t.covers (trAsid (s.trcfg mt l)) va)

/-- The physical address that a cached translation gives. -/
def TlbEntry.pa (t : TlbEntry) (va : Nat) : Nat := t.pbase + va % t.size

/-- A translation joins the cache, which holds 1,024 entries; the oldest goes first (R382). -/
def MemTile.fillTlb (m : MemTile) (e : TlbEntry) : MemTile :=
  { m with tlb := (if m.tlb.length < 1024 then m.tlb else m.tlb.drop 1) ++ [e] }

/-! ## Owner ranges (R269, R270) -/

/-- A range of the owner table covers a virtual address (R269). -/
def ownrCovers (e : W64) (va : Nat) : Bool :=
  let base := (e.extractLsb' 12 42).toNat * 4096
  e.getLsbD 63 && decide (base ≤ va ∧ va < base + ((e.extractLsb' 54 7).toNat + 1) * 4096)

/-- The owner-range entry of a virtual address, in a memory tile's table for a leaf (R270). -/
def MtLeaf.ownrOf (f : MtLeaf) (va : Nat) : Option W64 := f.ownr.toList.find? (fun e => ownrCovers e va)

/-- The owner memory tile of a range (R269). -/
def ownrSite (e : W64) : Site := memTileSite (e.extractLsb' 7 2).toFin (e.extractLsb' 0 7).toNat
/-- CTYPE of a range (R269). -/
def ownrType (e : W64) : BitVec 2 := e.extractLsb' 61 2

/-! ## Physical accesses of a control core (R389) -/

/-- A physical access of a control core of `n` bytes at an address: its fault, or none (R389). -/
def State.physCheck (s : State) (write : Bool) (pa n : Nat) : Option XFault :=
  match placeOf pa with
  | .nothing => some .page
  | .host _ => none
  | .gddr d => if s.fenced d then some .page else none
  | .sram mt off =>
    if s.fenced (siteDie mt) then some .page else if s.sramOpen mt off n then none else some .page
  | .weight d _ => if s.fenced d then some .page else if write ∧ s.dieRuns d then some .perm else none

end Sys2Proof.Machine
end

