-- ==== Sys2Proof/Machine/Umbra.lean ====
section
/-!
DEFINITION. Umbra sections (R287-R305): the five instructions, and the operations of a host on the record of a key.
-/
namespace Sys2Proof.Machine

/-! ## The instructions (R293-R298) -/

/-- The index of a key's host in a list of `h` hosts (R289). -/
def umbraHost (key : W32) (h : Nat) : Nat := (key ^^^ (key >>> 13) ^^^ (key >>> 26)).toNat % h

/-- UMHOST of the key's host, as the home memory tile of a tile holds it, when COUNT is not 0 and the entry is valid
(R289, R293). -/
def State.umhostOf (s : State) (t : Site) (l : Leaf) (key : W32) : Option W32 :=
  let f := (s.mt (homeMemTile t)).lf[l]
  if f.umhcfg = 0 then none
  else
    let e := f.umhost.toList.getD (umbraHost key f.umhcfg.toNat) 0
    if e.getLsbD 31 then some e else none

/-- The memory tile that an entry of UMHOST names (R289). -/
def umhostSite (e : W32) : Site := memTileSite (e.extractLsb' 7 2).toFin (e.extractLsb' 0 7).toNat

/-- CHPROTO of an umbra op without a host (R293). -/
def umbraCheck (s : State) (key : W32) : Option FaultInfo :=
  match s.umhostOf s.cur.tile s.curLeaf key with
  | none => some (faultOf .chproto 0x0000000A)
  | some _ => none

/-- An umbra fault: FLTA holds the key, and the record the key and the sequence (R294, R373). -/
def umbraFault (c : Cause) (key seq : W32) : FaultInfo := { faultOf c key with key := some (key, seq) }

/-- A valid held-key slot that holds a key (R294, R295). -/
def Bank.heldSlot (k : Bank) (key : W32) : Option (Fin 4) :=
  (List.finRange 4).find? (fun j => k.held[j].valid && k.held[j].key == key)

/-- The lowest free held-key slot (R294). -/
def Bank.freeSlot (k : Bank) : Option (Fin 4) := (List.finRange 4).find? (fun j => !k.held[j].valid)

/-- The keys of the sections that a bank holds (R294). -/
def Bank.heldKeys (k : Bank) : List W32 := (k.held.toList.filter (fun h => h.valid)).map (fun h => h.key)

/-- A held-key slot becomes free, and its PSN bit is clear (R295). -/
def Bank.freeHeld (k : Bank) (j : Fin 4) : Bank :=
  { k with held := k.held.set j { k.held[j] with valid := false }, psn := k.psn &&& ~~~(1#4 <<< j.val) }

/-- The umbra ops that are releases wait for the bank's writes at GRAPH scope (R256, R291). -/
def State.umbraRelease (x s : State) (body : ReqBody) : State :=
  x.toPort (s.sender none) body (s.covered s.curCtx s.curBank) (s.curCtx.spanDies 2)

/-- `umen` (R293, R294). -/
def planUmen (g : Pg) (a b : BitVec 5) : State → SlotPlan :=
  guarded .c g (fun s =>
    let k := s.curBank
    let key := k.rs a
    let seq := k.rs b
    let dead := if (k.heldSlot key).isSome then some (umbraFault .umbdead key seq) else none
    let j := k.freeSlot.getD 0
    let nest := if k.freeSlot.isNone then some (umbraFault .umbnest key seq) else none
    { reads := readsS [a, b], check := firstFault [umbraCheck s key, dead, nest], ready := s.portFree, wait := 5,
      writes := [(1, .grant (BitVec.ofFin j))],
      act := fun x => (x.toPort (s.sender none) (.umen key seq j k.heldKeys) [] 0).onCurBank
        (fun k => { k with umWait := some ⟨key, seq, j⟩ }) }) nothing

/-- What `umlv` and `umabt` share (R295, R296). -/
def leavePlan (a : BitVec 5) (body : W32 → ReqBody) (s : State) : Plan :=
  let key := s.curBank.rs a
  match s.curBank.heldSlot key with
  | none => { reads := readsS [a], check := firstFault [umbraCheck s key, some (umbraFault .seq key 0)] }
  | some j =>
    { reads := readsS [a], check := umbraCheck s key, ready := s.portFree, wait := 5,
      act := fun x => (x.umbraRelease s (body key)).onCurBank (fun k => k.freeHeld j) }

/-- `umlv` (R293, R295). -/
def planUmlv (g : Pg) (a : BitVec 5) : State → SlotPlan := guarded .c g (leavePlan a .umlv) nothing

/-- `umabt` (R293, R296). -/
def planUmabt (g : Pg) (a : BitVec 5) : State → SlotPlan := guarded .c g (leavePlan a .umabt) nothing

/-- `umsk` (R293, R297). -/
def planUmsk (g : Pg) (a b : BitVec 5) : State → SlotPlan :=
  guarded .c g (fun s =>
    let key := s.curBank.rs a
    { reads := readsS [a, b], check := umbraCheck s key, ready := s.portFree, wait := 5,
      act := fun x => x.umbraRelease s (.umsk key (s.curBank.rs b)) }) nothing

/-- `umini` (R293, R298). It is no release. -/
def planUmini (g : Pg) (a b : BitVec 5) : State → SlotPlan :=
  guarded .c g (fun s =>
    let key := s.curBank.rs a
    { reads := readsS [a, b], check := umbraCheck s key, ready := s.portFree, wait := 5,
      act := fun x => x.toPort (s.sender none) (.umini key (s.curBank.rs b)) [] 0 }) nothing

/-! ## Meanings: each issues the op alone in its bundle -/

/-- The meaning of `umen` (R293, R294). -/
def execUmen (g : Pg) (a b : BitVec 5) (s : State) : Host.Outcome State Fault Refusal :=
  issueOne (planUmen g a b) s

/-- The meaning of `umlv` (R293, R295). -/
def execUmlv (g : Pg) (a : BitVec 5) (s : State) : Host.Outcome State Fault Refusal :=
  issueOne (planUmlv g a) s

/-- The meaning of `umabt` (R293, R296). -/
def execUmabt (g : Pg) (a : BitVec 5) (s : State) : Host.Outcome State Fault Refusal :=
  issueOne (planUmabt g a) s

/-- The meaning of `umsk` (R293, R297). -/
def execUmsk (g : Pg) (a b : BitVec 5) (s : State) : Host.Outcome State Fault Refusal :=
  issueOne (planUmsk g a b) s

/-- The meaning of `umini` (R293, R298). -/
def execUmini (g : Pg) (a b : BitVec 5) (s : State) : Host.Outcome State Fault Refusal :=
  issueOne (planUmini g a b) s

end Sys2Proof.Machine
end

