-- ==== Sys2Proof/Machine/Banks.lean ====
section
/-!
DEFINITION. Events of a compute tile: firings and class starts (R19, R165, R187), the end of a firing (R64, R100, R302),
landings (R62), asynchronous reports (R243, R299, R366), freeze and resume (R368, R369), and the runs of the macro
sequencer and of the Carder's load port (R192-R201, R214). An event whose conditions do not hold changes nothing.
-/
namespace Sys2Proof.Machine

/-- What an event leaves: the state after it when it can happen, else the state as it is. -/
def happens (c : Bool) (s t : State) : Host.Outcome State Fault Refusal := .next (if c then t else s)

/-! ## Starts (R19, R165, R187) -/

/-- The running leaf of a tile can start banks: its die issues, the tile has not decided to save it, and no start has been
made in this cycle. From that decision on a firing is recorded, and class handlers start after the restore (R19, R32, R187,
R355, R406; that class handlers wait like a firing is DEDUCED, log 59). -/
def State.canStartBank (s : State) (t : Site) : Bool :=
  let x := s.tile t
  isCompute t && !s.fenced (siteDie t) && !x.started && x.saving.isNone && !x.ctx[x.running].saved

/-- A bank can start: idle since an earlier cycle and neither frozen nor faulted (R64, R368). -/
def State.bankIdle (s : State) (t : Site) (b : BankId) : Bool :=
  let x := s.tile t
  x.ctx[x.running].banks[b].canStart && !x.idled.getLsbD b.val

/-- A bank starts at a bundle; STEP goes on and registers keep their values (R64, R78). -/
def Bank.start (k : Bank) (entry : Nat) : Bank :=
  { k with life := .running, pc := entry, loops := [], emptyStep := false, ending := none, wait := 0, checked := false }

/-- A bank of the running leaf of a tile starts; its first bundle issues no earlier than the next cycle (R165). -/
def State.startBank (s : State) (t : Site) (b : BankId) (entry : Nat) : State :=
  let l := (s.tile t).running
  (s.onBank t l b (fun k => k.start entry)).onTile t (fun x => { x with started := true, spent := x.spent ||| (1#4 <<< b.val) })

/-- Class of a class packet (R183). -/
def ClassPkt.cls (p : ClassPkt) : BitVec 4 := p.tok.side.aux.extractLsb' 20 4

/-- A packet can start its bank: class unmasked, handler valid and sound, bank idle, and no older packet of its class waits
(R187, R188, R375). -/
def State.packetStarts (s : State) (t : Site) (older : List ClassPkt) (p : ClassPkt) : Bool :=
  let l := (s.tile t).running
  let c := s.ctx t l
  let h := c.handlers[p.cls.toNat]'(by have := p.cls.isLt; omega)
  !c.clsmask.getLsbD p.cls.toNat && h.getLsbD 12 && !s.regBad t l (0x20 + p.cls.toNat) &&
    s.bankIdle t p.tok.side.bank.toFin && !older.any (fun q => q.cls == p.cls)

/-- The records of the damaged entries of a handler table that packets wait for (R375). -/
def State.tellHandlers (s : State) (t : Site) : State :=
  let l := (s.tile t).running
  let c := s.ctx t l
  c.clsbuf.foldl (fun x p => x.tellReg t l c.part (0x20 + p.cls.toNat)) s

/-- The oldest packet of a class buffer that can start its bank, with the packets before and behind it (R187). -/
def State.classPick (s : State) (t : Site) (older : List ClassPkt) :
    List ClassPkt → Option (List ClassPkt × ClassPkt × List ClassPkt)
  | [] => none
  | p :: r => if s.packetStarts t older p then some (older, p, r) else s.classPick t (older ++ [p]) r

/-- The class start that a tile can make (R187). -/
def State.classStart (s : State) (t : Site) : Option (List ClassPkt × ClassPkt × List ClassPkt) :=
  if s.canStartBank t then s.classPick t [] (s.ctx t (s.tile t).running).clsbuf else none

/-- The start of a class handler: v15 and s30 are written, and the bank runs from the handler's bundle (R187). -/
def execClassHandlerStart (t : Site) (s : State) : Host.Outcome State Fault Refusal :=
  match s.classStart t with
  | none => .next (s.tellHandlers t)
  | some (pre, p, post) =>
    let l := (s.tile t).running
    let b := p.tok.side.bank.toFin
    let c := s.ctx t l
    let h := c.handlers[p.cls.toNat]'(by have := p.cls.isLt; omega)
    let s1 := s.onCtx t l (fun c => { c with clsbuf := pre ++ post })
    let s2 := s1.onBank t l b (fun k => (k.wv 15 p.tok.payload).ws 30 (p.tok.side.round ++ p.tok.side.aux))
    .next (s2.startBank t b (h.extractLsb' 0 12).toNat)

/-- The bank that the head of the trigger channel of a tile's running leaf names (R19, R165). -/
def State.triggerBank (s : State) (t : Site) : Option BankId := (s.ctx t (s.tile t).running).triggerBank

/-- A firing from the trigger channel; a class start of the same cycle goes first (R19, R165, R187). -/
def execActorFiring (t : Site) (s : State) : Host.Outcome State Fault Refusal :=
  match s.triggerBank t with
  | none => .next s
  | some b =>
    happens (s.canStartBank t && s.bankIdle t b && (s.classStart t).isNone) s (s.startBank t b 0)

/-! ## The end of a firing (R64, R100, R302) -/

/-- The bank of the running leaf of a tile by its number. -/
def State.runBank (s : State) (t : Site) (b : BankId) : Bank := s.bank t (s.tile t).running b

/-- The leave requests with poison of a bank that halts or whose graph ends, in slot order (R302). -/
def State.leaveHeld (s : State) (t : Site) (l : Leaf) (b : BankId) : State :=
  let k := s.bank t l b
  let c := s.ctx t l
  let src : Sender := { tile := t, leaf := l, bank := b, bundle := k.pc, part := c.part }
  (List.finRange 4).foldl (fun x j =>
    if k.held[j].valid then
      (x.toPort src (.umabt k.held[j].key) (s.covered c k) (c.spanDies 2)).onBank t l b (fun k => k.freeHeld j)
    else x) s

/-- A bank becomes idle or retired once its last empty step is over; a halting bank leaves its sections with poison, and waits
until all those requests fit in the memory port (R64, R100, R302; that it waits is a DESIGN CHOICE, log 63). The retirement counts
as an arrival in an episode (R265). -/
def execBankBecomesIdle (t : Site) (b : BankId) (s0 : State) : Host.Outcome State Fault Refusal :=
  let l := (s0.tile t).running
  let s := s0.onCtx t l (fun c => c.settle b)
  let k := s.runBank t b
  let fits := decide ((s.tile t).port.length + k.heldKeys.length ≤ 16)
  let idle := fun (life : Life) (x : State) =>
    (x.onBank t l b (fun k =>
      { k with life := life, ending := none,
               arrivedAt := if k.arrived.isNone && life == .retired then s0.cycleAt t else k.arrivedAt })).onTile t (fun y =>
      { y with idled := y.idled ||| (1#4 <<< b.val) })
  match k.ending with
  | some false => happens k.pending.isEmpty s0 (idle .idle s)
  | some true => happens (k.pending.isEmpty && fits) s0 (idle .retired (s.leaveHeld t l b))
  | none => .next s0

/-- Due writes of a bank land, so that its next bundle sees them (R62). -/
def execPendingWriteLanding (t : Site) (b : BankId) (s : State) : Host.Outcome State Fault Refusal :=
  .next (s.onCtx t (s.tile t).running (fun c => c.settle b))

/-! ## Reports, freeze and resume (R243, R299, R366-R369) -/

/-- A `umen` that its host has refused: the slot is free again, WAIT clears, p7 lands with 1 and SEQST.PSN is set
(R299). -/
def Bank.umenRefused (k : Bank) : Bank :=
  { k with umWait := none,
           pending := k.pending.flatMap (fun w =>
             match w.val with
             | .grant _ => [{ rem := 0, val := .pred 7 true }, { rem := 0, val := .sreg 0x00F (k.seqst ||| 0x80000000) }]
             | _ => [w]) }

/-- The fault that a report carries. -/
def Report.fault (r : Report) : FaultInfo :=
  { code := r.code, flta := r.flta, fltx := r.fltx, weight := r.weight, pa := r.pa, reason := r.reason, key := r.key }

/-- A report reaches its bank: it stops the bank, or counts as a further fault, and counts as the acknowledgement of the
access (R262, R365, R366). -/
def State.arrive (s : State) (r : Report) : State :=
  let s1 := { s with acks := s.acks.filter (fun n => n != r.id) }
  let s2 := if r.refused then s1.onBank r.tile r.leaf r.bank Bank.umenRefused else s1
  s2.takeFault r.tile r.leaf r.bank
    ((fltbWord true r.leaf 0 r.bundle) ||| ((r.slot.setWidth 32) <<< 12)) r.fault

/-- An asynchronous report arrives; for a context that is saved or being saved it waits for the restore (R243, R355, R366). -/
def execAsyncReportArrival (i : Nat) (s : State) : Host.Outcome State Fault Refusal :=
  match s.reports[i]? with
  | none => .next s
  | some r =>
    happens (!s.away r.tile r.leaf) s ({ s with reports := s.reports.eraseIdx i }.arrive r)

/-- A freeze reaches a bank (R368). -/
def execFreezeReachesBank (t : Site) (l : Leaf) (b : BankId) (s : State) : Host.Outcome State Fault Refusal :=
  .next (s.onBank t l b (fun k => { k with frozen := true }))

/-- A write of 1 to FAULTED of BSTAT (R369). -/
def execBstatResumeWrite (t : Site) (l : Leaf) (b : BankId) (s : State) : Host.Outcome State Fault Refusal :=
  .next (s.resumeBank t l b)

/-! ## The macro sequencer (R192-R201) -/

/-- The entry at the head of a tile's queue starts in this cycle, before the tile's bundle (R192). -/
def State.startDue (s : State) (t : Site) : Bool :=
  let x := s.tile t
  match x.msq with
  | [] => false
  | e :: _ => x.canStart e (s.cycleAt t)

/-- The first entry of a tile whose run is over (R192). -/
def State.endDue (s : State) (t : Site) : Option MsEntry := (s.tile t).msrun.find? (fun e => e.over (s.cycleAt t))

/-- The head entry of the queue starts (R192). -/
def execMsEntryStart (t : Site) (s : State) : Host.Outcome State Fault Refusal :=
  happens (s.startDue t && (s.endDue t).isNone && !(s.tile t).issued && !s.fenced (siteDie t)) s
    ((s.onTile t (fun x => x.startHead (s.cycleAt t))).msCycle t)

/-- A running entry by its number. -/
def State.entryNo (s : State) (t : Site) (i : Nat) : Option MsEntry := (s.tile t).msrun.find? (fun e => e.id == i)

/-- The run of an entry ends (R192). -/
def execMsEntryEnd (t : Site) (i : Nat) (s : State) : Host.Outcome State Fault Refusal :=
  match s.entryNo t i with
  | none => .next s
  | some e => happens (e.over (s.cycleAt t)) s (s.onTile t (fun x => x.endEntry e))

/-- A running `mlatc` takes the token at the head of its channel, one per cycle (R197). -/
def execMlatcTokenTake (t : Site) (i : Nat) (s : State) : Host.Outcome State Fault Refusal :=
  match s.entryNo t i with
  | none => .next s
  | some e =>
    match e.op with
    | .mlatc _ ty ch =>
      happens (decide (e.due ≤ s.cycleAt t) && !e.over (s.cycleAt t) && decide (0 < (s.ctx t e.leaf).inp[ch].f)) s
        (s.mlatcTake t e ch ty)
    | _ => .next s

/-- A running `mdrain` publishes its next token, after it has taken the head token that steers it (R200); a damaged drain entry
holds it (R375). -/
def execMdrainTokenPublish (t : Site) (i : Nat) (s : State) : Host.Outcome State Fault Refusal :=
  match s.entryNo t i with
  | none => .next s
  | some e =>
    match e.op with
    | .mdrain d u sh out head =>
      if e.over (s.cycleAt t) ∨ s.cycleAt t < e.due then .next s
      else
        let hold := fun (n : Fin 8) => s.tellReg t e.leaf (s.ctx t e.leaf).part (0x18 + n.val)
        match out, e.out with
        | some n, _ =>
          if s.regBad t e.leaf (0x18 + head.val) then .next (hold head) else .next (s.drainPublish t e d u sh n)
        | none, some n => .next (s.drainPublish t e d u sh n)
        | none, none =>
          match s.steerFault t e head, s.drainSteer t e head with
          | some f, _ => .next (s.runFault t e f)
          | none, none => .next s
          | none, some (s1, n) => if s.regBad t e.leaf (0x18 + n.val) then .next (hold n) else .next (s1.drainSelect t e n)
    | _ => .next s

/-- The run of a tile's `cact` is over: its half is loaded before any bundle of the cycle (R210, R214). -/
def State.loadDue (s : State) (t : Site) : Bool := (s.tile t).cact.any (fun r => r.over (s.cycleAt t))

/-- The run of a `cact` ends: its half is loaded and valid, or an error leaves it invalid with a report (R214). -/
def execCactRunEnd (t : Site) (s : State) : Host.Outcome State Fault Refusal :=
  match (s.tile t).cact with
  | none => .next s
  | some r =>
    if r.over (s.cycleAt t) then
      let s1 := s.onTile t (fun x => { x with cact := none, halves := x.halves.set r.half r.loaded })
      match r.err with
      | none => .next s1
      | some a =>
        let q : Report := { tile := t, leaf := r.leaf, bank := r.bank, slot := 2, bundle := r.bundle,
                            code := Cause.ecc.code, flta := BitVec.ofNat 32 a, part := (s.ctx t r.leaf).part,
                            due := s.cycleAt t + Config.accessCycles 5 }
        .next { s1 with reports := s1.reports ++ [q] }
    else .next s

end Sys2Proof.Machine
end

