-- ==== Sys2Proof/Machine/Slices.lean ====
section
/-!
DEFINITION. The L2 slices as a single access meets them (R238, R239, R375), and the walks that read page tables through them
(R380).
-/
namespace Sys2Proof.Machine

/-! ## Eviction (R238, R239, R375) -/

/-- The table entries of a page table that are not zero, as memory lists them: the base and how many it has (R378, R379). -/
def State.tableEntries (s : State) (base n : Nat) : List W64 :=
  ((s.mem.filter (fun c => decide (base ≤ c.1 ∧ c.1 < base + 8 * n))).map (fun c => (c.1 - base) / 8)).eraseDups.map (fun i =>
    s.mem.readW64 (base + 8 * i))

/-- A page table at a level, or one below it, maps a physical address (R375, R380). -/
def State.tableMaps (s : State) (pa base : Nat) : Nat → Bool
  | 0 => (s.tableEntries base 512).any (fun e => match walkEntry 0 e with
      | .leaf _ pbase size => decide (pbase ≤ pa ∧ pa < pbase + size)
      | _ => false)
  | lv + 1 => (s.tableEntries base (if lv = 3 then 64 else 512)).any (fun e => match walkEntry (lv + 1) e with
      | .leaf _ pbase size => decide (pbase ≤ pa ∧ pa < pbase + size)
      | .table b => s.tableMaps pa b lv
      | .wait | .fault _ => false)

/-- The partitions whose page tables map a physical address (R375). -/
def State.mappers (s : State) (pa : Nat) : List (BitVec 6) :=
  s.parts.filterMap (fun p => match p.2 with
    | some x =>
      match x.mts with
      | (mt, l) :: _ =>
        let c := s.trcfg mt l
        if trEn c && s.tableMaps pa (trRoot c) 4 then some (BitVec.ofNat 6 p.1) else none
      | [] => none
    | none => none)

/-- The write-back of a dirty sector that holds an uncorrectable error: its bytes in GDDR7 get an uncorrectable code, and a
TYPE 4 record goes to the queue of the partition that maps the address, or to control core 0 of the die (R375; log 36). -/
def State.writeBackBad (s : State) (t : Site) (sec : Nat) : State :=
  if s.ecc.contains (.dirty sec) then
    let s1 := { s with ecc := s.ecc.filter (fun e => e != Ecc.dirty sec) ++ [Ecc.phys sec, Ecc.phys (sec + 64)] }
    let ps := s.mappers sec
    match ps[Config.mappedBy sec % ps.length]? with
    | some part => s1.notify (siteDie t) part (softRecord part t 0 (s.asidOfPart part) 3 (gddrOff sec) sec)
    | none => s1.onCore (coreOf (siteDie t) 0) (fun c =>
        { c with evpend := c.evpend ||| 1, records := c.records ++ [softRecord 0 t 0 0 3 (gddrOff sec) sec] })
  else s

/-- A slice makes room by evicting a sector that it holds; a dirty one takes an entry of the pending-write filter of 32
(R238, R239). -/
def State.evict (s : State) (t : Site) (sec : Nat) : State :=
  let x := s.slice t
  let n := (s.filters.filter (fun f => f.1 == t)).length
  let held := x.held.filter (fun a => a != sec)
  if !x.held.contains sec then s
  else if x.dirty.contains sec then
    if 32 ≤ n then s
    else
      let s1 := s.onSlice t (fun y => { y with held := held, dirty := y.dirty.filter (fun a => a != sec) })
      { s1 with filters := s1.filters ++ [(t, sec)] }.writeBackBad t sec
  else s.onSlice t (fun y => { y with held := held })

/-- The slice has a way for the line of a sector: it holds the line already, or fewer than 16 lines of its set (R12, R35,
R223; log 56). -/
def Slice.room (x : Slice) (sec : Nat) : Bool :=
  let lines := ((x.held ++ x.miss).map lineOf).eraseDups
  lines.contains (lineOf sec) || decide ((lines.filter (fun l => Config.l2Set l == Config.l2Set (lineOf sec))).length < 16)

/-- A line of the set of a sector that a full set gives up: none that a miss register fills (R238; log 56). -/
def Slice.victim (x : Slice) (sec : Nat) : Option Nat :=
  let lines := (x.held.map lineOf).eraseDups.filter (fun l =>
    Config.l2Set l == Config.l2Set (lineOf sec) && !(x.miss.map lineOf).contains l)
  lines[Config.l2Victim sec % lines.length]?

/-- A slice with a way for the line of a sector: a full set evicts a line, if the pending-write filter takes its dirty sectors;
`none` while it does not (R35, R238, R239; log 56). -/
def State.makeRoom (s : State) (t : Site) (sec : Nat) : Option State :=
  if (s.slice t).room sec then some s
  else
    let s1 := match (s.slice t).victim sec with
      | some l => ((s.slice t).held.filter (fun a => lineOf a == l)).foldl (fun x a => x.evict t a) s
      | none => s
    if (s1.slice t).room sec then some s1 else none

/-! ## An access that takes one step (R238, R239; log 25) -/

/-- A sector that a slice holds from now on, dirty after a write (R238). -/
def Slice.take (x : Slice) (sec : Nat) (write : Bool) : Slice :=
  { x with held := if x.held.contains sec then x.held else x.held ++ [sec],
           dirty := if write && !x.dirty.contains sec then x.dirty ++ [sec] else x.dirty }

/-- A read or a write at a physical address passes its home slice: it finds the sector held, or allocates and fills it, or
passes by, a write with an entry of the pending-write filter; `none` while it has to wait. Elsewhere than in GDDR7 there is
nothing to pass (R238, R239). -/
def State.passSlice (s : State) (pa : Nat) (write : Bool) : Option State :=
  match placeOf pa with
  | .gddr _ =>
    let t := sliceSite pa
    let sec := sectorOf pa
    let x := s.slice t
    let filter := s.filters.filter (fun e => e.1 == t)
    let take := fun (y : State) => y.onSlice t (fun z => z.take sec write)
    if !write && filter.any (fun e => e.2 == sec) then none
    else if x.held.contains sec then some (take s)
    else if x.miss.contains sec then none
    else if x.miss.length < 64 then (s.makeRoom t sec).map take
    else if !write then some s
    else if filter.length < 32 then some { s with filters := s.filters ++ [(t, sec)] }
    else none
  | _ => some s

/-- An access of a unit that does not wait passes its home slice as far as that lets it (R238; log 25). -/
def State.touch (s : State) (pa : Nat) (write : Bool) : State := (s.passSlice pa write).getD s

/-- Bytes of physical memory written at their home by an agent that no gateway serves: the slice merges them, and the gateway
copies of the line are invalidated (R238, R240). -/
def State.putHome (s : State) (pa n v : Nat) (part : Option (BitVec 6)) : State :=
  ((s.touch pa true).putPhys pa n v).invalidate pa none 0 part

/-! ## Walks (R380, R382) -/

/-- One table read of a walk through the home slice of the entry, which can let it wait (R238, R239, R380). -/
def State.walkVia (s : State) (die : DieId) (base va lv : Nat) : WalkStep × State :=
  match s.readPte die base va lv with
  | some (.ok _) =>
    match s.passSlice (base + 8 * pteIndex va lv) false with
    | some s1 => (s.walkStep die base va lv, s1)
    | none => (.wait, s)
  | _ => (s.walkStep die base va lv, s)

/-- A walk through the slices from a level down (R380). -/
def State.walkDown (s : State) (die : DieId) (va : Nat) (base : Nat) : Nat → WalkStep × State
  | 0 => s.walkVia die base va 0
  | lv + 1 =>
    match s.walkVia die base va (lv + 1) with
    | (.table b, s1) => s1.walkDown die va b lv
    | r => r

/-- A translation made in one go, by the cache or by a whole walk that fills it: for copy runs, requests of other modules and
control cores; `none` while a table cannot be read (log 58). -/
def State.translateNow (s : State) (mt : Site) (l : Leaf) (va : Nat) : Option (Except XFault (TlbEntry × State)) :=
  if 2 ^ 54 ≤ va ∨ !trEn (s.trcfg mt l) then some (.error .page)
  else
    match s.tlbHit mt l va with
    | some t => some (.ok (t, s))
    | none =>
      match s.walkDown (siteDie mt) va (trRoot (s.trcfg mt l)) 4 with
      | (.leaf e pbase size, s1) =>
        let t : TlbEntry := ⟨trAsid (s.trcfg mt l), va / size * size, size, e, pbase⟩
        some (.ok (t, s1.onMt mt (fun m => m.fillTlb t)))
      | (.fault f, _) => some (.error f)
      | (.table _, _) => some (.error .page)
      | (.wait, _) => none

end Sys2Proof.Machine
end

