-- ==== Sys2Proof/Machine/CCore.lean ====
section
/-!
DEFINITION. Control-core instructions other than the fabric ones (R388-R396): integer, loads and stores, branches, CSRs,
`eret` and `wfe`. The instruction belongs to the core that `cur` names.
-/
namespace Sys2Proof.Machine

/-- A register of a control core; x0 reads 0 (R388). -/
def Core.rx (c : Core) (r : BitVec 5) : W64 := if r = 0 then 0 else c.x[r.toNat]'(by have := r.isLt; omega)

/-- A write to a register of a control core; a write to x0 is discarded (R388). -/
def Core.wx (c : Core) (r : BitVec 5) (v : W64) : Core :=
  if r = 0 then c else { c with x := c.x.set r.toNat v (by have := r.isLt; omega) }

/-- The core goes on to the next instruction; past the last word of local memory it takes BRANGE (R388). -/
def Core.done (c : Core) : Core :=
  if c.pc = 0x3FFFC then c.exception .brange 0x40000 else { c with pc := c.pc + 4 }

/-- The core that executes. -/
def State.curCore (s : State) : Core := s.cores[s.cur.core]
/-- The core that executes, changed. -/
def State.onCurCore (s : State) (f : Core → Core) : State := s.onCore s.cur.core f
/-- The executing core takes an exception (R396). -/
def State.coreFault (s : State) (c : Cause) (eaddr : W64) : State := s.ccException s.cur.core c eaddr

/-- An instruction that writes a register from the registers as they stand (R390). -/
def coreWrite (d : BitVec 5) (f : Core → W64) (s : State) : Host.Outcome State Fault Refusal :=
  .next (s.onCurCore (fun c => (c.wx d (f c)).done))

/-- A 16-bit immediate, sign-extended (R390). -/
def imm64 (i : BitVec 16) : W64 := i.signExtend 64
/-- A truth value as a register. -/
def bool64 (b : Bool) : W64 := if b then 1 else 0
/-- The shift count of a register (R390). -/
def count64 (x : W64) : Nat := (x.extractLsb' 0 6).toNat

/-! ## Integer instructions (R390) -/

/-- `add` of a control core (R390). -/
def execCcAdd (d a b : BitVec 5) (s : State) : Host.Outcome State Fault Refusal :=
  coreWrite d (fun c => c.rx a + c.rx b) s
/-- `sub` of a control core (R390). -/
def execCcSub (d a b : BitVec 5) (s : State) : Host.Outcome State Fault Refusal :=
  coreWrite d (fun c => c.rx a - c.rx b) s
/-- `and` of a control core (R390). -/
def execCcAnd (d a b : BitVec 5) (s : State) : Host.Outcome State Fault Refusal :=
  coreWrite d (fun c => c.rx a &&& c.rx b) s
/-- `or` of a control core (R390). -/
def execCcOr (d a b : BitVec 5) (s : State) : Host.Outcome State Fault Refusal :=
  coreWrite d (fun c => c.rx a ||| c.rx b) s
/-- `xor` of a control core (R390). -/
def execCcXor (d a b : BitVec 5) (s : State) : Host.Outcome State Fault Refusal :=
  coreWrite d (fun c => c.rx a ^^^ c.rx b) s
/-- `shl` of a control core (R390). -/
def execCcShl (d a b : BitVec 5) (s : State) : Host.Outcome State Fault Refusal :=
  coreWrite d (fun c => c.rx a <<< count64 (c.rx b)) s
/-- `shr` of a control core (R390). -/
def execCcShr (d a b : BitVec 5) (s : State) : Host.Outcome State Fault Refusal :=
  coreWrite d (fun c => c.rx a >>> count64 (c.rx b)) s
/-- `sra` of a control core (R390). -/
def execCcSra (d a b : BitVec 5) (s : State) : Host.Outcome State Fault Refusal :=
  coreWrite d (fun c => (c.rx a).sshiftRight (count64 (c.rx b))) s
/-- `slt` of a control core (R390). -/
def execCcSlt (d a b : BitVec 5) (s : State) : Host.Outcome State Fault Refusal :=
  coreWrite d (fun c => bool64 ((c.rx a).slt (c.rx b))) s
/-- `sltn` of a control core (R390). -/
def execCcSltn (d a b : BitVec 5) (s : State) : Host.Outcome State Fault Refusal :=
  coreWrite d (fun c => bool64 ((c.rx a).ult (c.rx b))) s
/-- `mul` of a control core (R390). -/
def execCcMul (d a b : BitVec 5) (s : State) : Host.Outcome State Fault Refusal :=
  coreWrite d (fun c => c.rx a * c.rx b) s
/-- `addi` of a control core (R390). -/
def execCcAddi (d a : BitVec 5) (imm : BitVec 16) (s : State) : Host.Outcome State Fault Refusal :=
  coreWrite d (fun c => c.rx a + imm64 imm) s
/-- `andi` of a control core (R390). -/
def execCcAndi (d a : BitVec 5) (imm : BitVec 16) (s : State) : Host.Outcome State Fault Refusal :=
  coreWrite d (fun c => c.rx a &&& imm64 imm) s
/-- `ori` of a control core (R390). -/
def execCcOri (d a : BitVec 5) (imm : BitVec 16) (s : State) : Host.Outcome State Fault Refusal :=
  coreWrite d (fun c => c.rx a ||| imm64 imm) s
/-- `xori` of a control core (R390). -/
def execCcXori (d a : BitVec 5) (imm : BitVec 16) (s : State) : Host.Outcome State Fault Refusal :=
  coreWrite d (fun c => c.rx a ^^^ imm64 imm) s
/-- `shli` of a control core (R390). -/
def execCcShli (d a : BitVec 5) (count : BitVec 6) (s : State) : Host.Outcome State Fault Refusal :=
  coreWrite d (fun c => c.rx a <<< count.toNat) s
/-- `shri` of a control core (R390). -/
def execCcShri (d a : BitVec 5) (count : BitVec 6) (s : State) : Host.Outcome State Fault Refusal :=
  coreWrite d (fun c => c.rx a >>> count.toNat) s
/-- `srai` of a control core (R390). -/
def execCcSrai (d a : BitVec 5) (count : BitVec 6) (s : State) : Host.Outcome State Fault Refusal :=
  coreWrite d (fun c => (c.rx a).sshiftRight count.toNat) s
/-- `slti` of a control core (R390). -/
def execCcSlti (d a : BitVec 5) (imm : BitVec 16) (s : State) : Host.Outcome State Fault Refusal :=
  coreWrite d (fun c => bool64 ((c.rx a).slt (imm64 imm))) s
/-- `lui` of a control core (R390). -/
def execCcLui (d : BitVec 5) (imm : BitVec 16) (s : State) : Host.Outcome State Fault Refusal :=
  coreWrite d (fun _ => imm64 imm <<< 16) s

/-! ## Loads and stores (R389, R391) -/

/-- Where a data address of a control core leads: an offset of local memory or a physical address, or the fault of R389.
-/
def coreAddr (a : W64) : Except Cause (Bool × Nat) :=
  if a.getLsbD 63 then
    if a.extractLsb' 18 34 = 0 then .ok (true, (a.extractLsb' 0 18).toNat) else .error .page
  else if a.extractLsb' 52 11 = 0 then .ok (false, (a.extractLsb' 0 52).toNat)
  else .error .page

/-- The fault of an access of `n` bytes of the executing core, if it has one (R388, R389, R391). -/
def State.coreAccess (s : State) (write : Bool) (a : W64) (n : Nat) : Except Cause (Bool × Nat) :=
  if a.toNat % n ≠ 0 then .error .align
  else
    match coreAddr a with
    | .error c => .error c
    | .ok (true, o) =>
      if !write && (List.range ((n + 3) / 4)).any (fun i => s.ecc.contains (.localMem s.cur.core (o / 4 + i))) then .error .ecc
      else .ok (true, o)
    | .ok (false, pa) =>
      match s.physCheck write pa n with
      | some f => .error f.cause
      | none => if !write && s.lineBad pa then .error .ecc else .ok (false, pa)

/-- A request of a core to read host memory sets out over the host port, and the core waits for its answer (R241, R389, R397). -/
def State.hostRead (s : State) (k : CoreId) (ea : W64) (pa : Nat) (why : Purpose) : State :=
  let src : Sender := { tile := siteAt (coreDie k) 6 0, leaf := 0, bank := 0, bundle := 0 }
  let q : Req := { id := s.nextId, src := src, body := .read ea, pa := some pa, why := why }
  (s.takeId.fly q .host).onCore k (fun c => { c with busy := .load q.id })

/-- The read that a load of host memory asks for (R241, R389). -/
def State.hostLoad (s : State) (n : Nat) (d : BitVec 5) (ea : W64) (pa : Nat) : State :=
  s.hostRead s.cur.core ea pa (.load s.cur.core n d)

/-- An access of the executing core cannot be performed now: a bank of the weight store is in refresh, for which a store waits
as a load does (DEDUCED, log 25), or the way to the home die leads over a fenced one (R10, R17, R237; log 58). -/
def State.coreWaits (s : State) (pa : Nat) : Bool := s.refreshes pa || s.pathShut (coreDie s.cur.core) pa

/-- A physical address lies in host memory (R222). -/
def isHost (pa : Nat) : Bool :=
  match placeOf pa with
  | .host _ => true
  | _ => false

/-- A load of `n` bytes into a register, zero-extended (R391); one from a bank of the weight store waits for its refresh (R237),
one from host memory for the answer of the host (R241), and one from GDDR7 passes the home slice (R238, R239). -/
def coreLoad (n : Nat) (d a : BitVec 5) (imm : BitVec 16) (s : State) : Host.Outcome State Fault Refusal :=
  let ea := s.curCore.rx a + imm64 imm
  match s.coreAccess false ea n with
  | .error c => .next (s.coreFault c ea)
  | .ok (true, o) => .next (s.onCurCore (fun c => (c.wx d (BitVec.ofNat 64 (s.curCore.lmem.readNat o n))).done))
  | .ok (false, o) =>
    if s.coreWaits o then .next s
    else if isHost o then .next (s.hostLoad n d ea o)
    else
      match s.passSlice o false with
      | none => .next s
      | some s1 => .next (s1.onCurCore (fun c => (c.wx d (BitVec.ofNat 64 (s.mem.readNat o n))).done))

/-- A store of the low `n` bytes of a register (R391); a store to GDDR7 passes the home slice and invalidates gateway copies
(R238-R240). -/
def coreStore (n : Nat) (d a : BitVec 5) (imm : BitVec 16) (s : State) : Host.Outcome State Fault Refusal :=
  let ea := s.curCore.rx a + imm64 imm
  match s.coreAccess true ea n with
  | .error c => .next (s.coreFault c ea)
  | .ok (true, o) =>
    .next (s.onCurCore (fun c => ({ c with lmem := c.lmem.writeNat o (s.curCore.rx d).toNat n } : Core).done))
  | .ok (false, o) =>
    if s.coreWaits o || (s.passSlice o true).isNone then .next s
    else .next ((s.putHome o n (s.curCore.rx d).toNat none).onCurCore Core.done)

/-- `ld.d` of a control core (R391). -/
def execCcLdD (d a : BitVec 5) (imm : BitVec 16) (s : State) : Host.Outcome State Fault Refusal := coreLoad 8 d a imm s
/-- `ld.w` of a control core (R391). -/
def execCcLdW (d a : BitVec 5) (imm : BitVec 16) (s : State) : Host.Outcome State Fault Refusal := coreLoad 4 d a imm s
/-- `ld.b` of a control core (R391). -/
def execCcLdB (d a : BitVec 5) (imm : BitVec 16) (s : State) : Host.Outcome State Fault Refusal := coreLoad 1 d a imm s
/-- `st.d` of a control core (R391). -/
def execCcStD (d a : BitVec 5) (imm : BitVec 16) (s : State) : Host.Outcome State Fault Refusal := coreStore 8 d a imm s
/-- `st.w` of a control core (R391). -/
def execCcStW (d a : BitVec 5) (imm : BitVec 16) (s : State) : Host.Outcome State Fault Refusal := coreStore 4 d a imm s
/-- `st.b` of a control core (R391). -/
def execCcStB (d a : BitVec 5) (imm : BitVec 16) (s : State) : Host.Outcome State Fault Refusal := coreStore 1 d a imm s

/-! ## Branches (R392) -/

/-- The fault of a taken target: its low bits, then its range (R392). -/
def jumpFault (t : W64) : Option Cause :=
  if t.extractLsb' 0 2 ≠ 0 then some .align else if 0x40000 ≤ t.toNat then some .brange else none

/-- A jump to a target that writes a register first, or the fault of its target (R392). -/
def coreJump (link : Option (BitVec 5)) (t : W64) (s : State) : State :=
  match jumpFault t with
  | some c => s.coreFault c t
  | none =>
    s.onCurCore (fun c =>
      let x := match link with
        | some d => c.wx d (c.pc.setWidth 64 + 4)
        | none => c
      { x with pc := t.setWidth 18 })

/-- A conditional branch (R392). -/
def coreBranch (a b : BitVec 5) (off : BitVec 16) (f : W64 → W64 → Bool) (s : State) :
    Host.Outcome State Fault Refusal :=
  let c := s.curCore
  if f (c.rx a) (c.rx b) then .next (coreJump none (c.pc.setWidth 64 + imm64 off * 4) s)
  else .next (s.onCurCore Core.done)

/-- `beq` (R392). -/
def execCcBeq (a b : BitVec 5) (off : BitVec 16) (s : State) : Host.Outcome State Fault Refusal :=
  coreBranch a b off (fun x y => x == y) s
/-- `bne` (R392). -/
def execCcBne (a b : BitVec 5) (off : BitVec 16) (s : State) : Host.Outcome State Fault Refusal :=
  coreBranch a b off (fun x y => x != y) s
/-- `blt` (R392). -/
def execCcBlt (a b : BitVec 5) (off : BitVec 16) (s : State) : Host.Outcome State Fault Refusal :=
  coreBranch a b off (fun x y => x.slt y) s
/-- `bge` (R392). -/
def execCcBge (a b : BitVec 5) (off : BitVec 16) (s : State) : Host.Outcome State Fault Refusal :=
  coreBranch a b off (fun x y => !x.slt y) s
/-- `bltn` (R392). -/
def execCcBltn (a b : BitVec 5) (off : BitVec 16) (s : State) : Host.Outcome State Fault Refusal :=
  coreBranch a b off (fun x y => x.ult y) s
/-- `bgen` (R392). -/
def execCcBgen (a b : BitVec 5) (off : BitVec 16) (s : State) : Host.Outcome State Fault Refusal :=
  coreBranch a b off (fun x y => !x.ult y) s
/-- `jal` (R392). -/
def execCcJal (d : BitVec 5) (off : BitVec 21) (s : State) : Host.Outcome State Fault Refusal :=
  .next (coreJump (some d) (s.curCore.pc.setWidth 64 + off.signExtend 64 * 4) s)
/-- `jalr` (R392). -/
def execCcJalr (d a : BitVec 5) (imm : BitVec 16) (s : State) : Host.Outcome State Fault Refusal :=
  .next (coreJump (some d) (s.curCore.rx a + imm64 imm) s)

/-! ## CSRs (R393, R395) -/

/-- DISTCFG of a die (R343). -/
def Die.distcfg (d : Die) : W64 := (d.master ++ 0#2 ++ d.live ++ 0#8 ++ d.gran : W32).setWidth 64

/-- A notice register of a partition by its number j (R371, R395). -/
def NoticeQ.reg (q : NoticeQ) (j : Nat) : W64 :=
  if j = 0 then q.nqbase
  else if j = 1 then q.nqsize.setWidth 64
  else if j = 2 then q.nqhead.setWidth 64
  else if j = 3 then q.nqtail.setWidth 64
  else if j = 4 then q.pcc.setWidth 64
  else if j = 5 then q.migthr.setWidth 64
  else if j = 6 then q.cntbase
  else 0

/-- A notice register of a partition written; NQTAIL is RO (R371, R395). -/
def NoticeQ.setReg (q : NoticeQ) (j : Nat) (v : W64) : NoticeQ :=
  if j = 0 then { q with nqbase := v &&& 0x000FFFFFFFFFF000 }
  else if j = 1 then { q with nqsize := v.extractLsb' 0 5 }
  else if j = 2 then { q with nqhead := v.extractLsb' 0 16 }
  else if j = 4 then { q with pcc := v.extractLsb' 0 2 }
  else if j = 5 then { q with migthr := v.extractLsb' 0 16 }
  else if j = 6 then { q with cntbase := v &&& 0x000FFFFFFFFFFFFE }
  else q

/-- The CSR of a core, when R395 assigns the number. -/
def State.csr (s : State) (k : CoreId) (n : BitVec 12) : Option W64 :=
  let c := s.cores[k]
  let d := s.dies[coreDie k]
  let m := n.toNat
  if m = 0x000 then some (BitVec.ofNat 64 k.val)
  else if m = 0x001 then some d.cycle
  else if m = 0x008 then some (c.evec.setWidth 64)
  else if m = 0x009 then some (c.epc.setWidth 64)
  else if m = 0x00A then some (c.ecause.setWidth 64)
  else if m = 0x00B then some c.eaddr
  else if m = 0x00C then some (bool64 c.inExc)
  else if m = 0x010 then some (c.evpend.setWidth 64)
  else if m = 0x011 then some (c.evmask.setWidth 64)
  else if m = 0x012 then some c.timer
  else if m = 0x013 then some c.msg
  else if m = 0x020 then some d.distcfg
  else if m = 0x021 then some c.swstat
  else if 0x100 ≤ m ∧ m < 0x500 then
    some ((s.noticeQ (coreDie k) (BitVec.ofNat 6 ((m - 0x100) / 16))).reg ((m - 0x100) % 16))
  else none

/-- An event bit of a core becomes pending (R395). -/
def Core.raise (c : Core) (bit : Nat) : Core := { c with evpend := c.evpend ||| (1#5 <<< bit) }

/-- A message reaches the core that its low bits name (R395). -/
def State.message (s : State) (v : W64) : State :=
  s.onCore (v.extractLsb' 0 4).toFin (fun c => ({ c with msg := v } : Core).raise 3)

/-- A CSR of a core written; RO fields stay, EVPEND is W1C (R6, R395). -/
def State.setCsr (s : State) (k : CoreId) (n : BitVec 12) (v : W64) : State :=
  let m := n.toNat
  if m = 0x008 then s.onCore k (fun c => { c with evec := v.extractLsb' 0 18 &&& 0x3FFFC })
  else if m = 0x009 then s.onCore k (fun c => { c with epc := v.extractLsb' 0 18 &&& 0x3FFFC })
  else if m = 0x010 then s.onCore k (fun c => { c with evpend := c.evpend &&& ~~~(v.extractLsb' 0 5) })
  else if m = 0x011 then s.onCore k (fun c => { c with evmask := v.extractLsb' 0 5 })
  else if m = 0x012 then s.onCore k (fun c => { c with timer := v })
  else if m = 0x013 then s.message v
  else if m = 0x020 then s.onDie (coreDie k) (fun d => { d with gran := v.extractLsb' 0 16 })
  else if 0x100 ≤ m ∧ m < 0x500 then
    s.onNotice (coreDie k) (BitVec.ofNat 6 ((m - 0x100) / 16)) (fun q => q.setReg ((m - 0x100) % 16) v)
  else s

/-- `csrr` (R393). -/
def execCsrr (d : BitVec 5) (num : BitVec 12) (s : State) : Host.Outcome State Fault Refusal :=
  match s.csr s.cur.core num with
  | none => .next (s.coreFault .illop 0)
  | some v => .next (s.onCurCore (fun c => (c.wx d v).done))

/-- `csrw` (R393). -/
def execCsrw (a : BitVec 5) (num : BitVec 12) (s : State) : Host.Outcome State Fault Refusal :=
  match s.csr s.cur.core num with
  | none => .next (s.coreFault .illop 0)
  | some _ => .next ((s.setCsr s.cur.core num (s.curCore.rx a)).onCurCore Core.done)

/-- `eret` (R394). -/
def execEret (s : State) : Host.Outcome State Fault Refusal :=
  if s.curCore.inExc then .next (s.onCurCore Core.eret) else .next (s.coreFault .illop 0)

/-- An unmasked event bit is pending (R394). -/
def Core.event (c : Core) : Bool := c.evpend &&& c.evmask != 0

/-- `wfe` (R394): it completes at once, or waits for WFE_END. -/
def execWfe (s : State) : Host.Outcome State Fault Refusal :=
  if s.curCore.event then .next (s.onCurCore Core.done) else .next (s.onCurCore (fun c => { c with busy := .wfe }))

/-- A waiting `wfe` completes (R394). -/
def execWfeEnd (k : CoreId) (s : State) : Host.Outcome State Fault Refusal :=
  let c := s.cores[k]
  if c.busy = .wfe ∧ c.event then .next (s.onCore k (fun c => ({ c with busy := .none } : Core).done)) else .next s

/-- TIMER equals CYCLE, so that EVPEND[4] sets (R395). -/
def execTimerExpiry (k : CoreId) (s : State) : Host.Outcome State Fault Refusal :=
  if s.cores[k].timer = s.dies[coreDie k].cycle then .next (s.onCore k (fun c => c.raise 4)) else .next s

/-- A write to MSG (R395). -/
def execMsgWrite (v : W64) (s : State) : Host.Outcome State Fault Refusal := .next (s.message v)

/-- A write to NQSIZE of a partition on a die; records of the notice buffer are written in order from then on (R371). -/
def execNqsizeWrite (d : DieId) (part : BitVec 6) (v : W64) (s : State) : Host.Outcome State Fault Refusal :=
  .next (s.onNotice d part (fun q => q.setReg 1 v))

/-- A line of memory cannot be written from a die now: its home die is fenced off or lies behind a fenced one, or its slice does
not take it (R10, R239, R406; log 58). -/
def State.lineShut (s : State) (d : DieId) (pa : Nat) : Bool :=
  (placeOf pa).die.any s.fenced || s.pathShut d pa || (s.passSlice pa true).isNone

/-- The record at the head of a notice buffer is written to memory, NQTAIL advances, and the core that PCC names receives
an event, unless the queue is disabled or full (R371, R374), or its memory cannot be reached: then it stays in the buffer
(R10, R406; log 58). -/
def execNoticeRecordWrite (d : DieId) (part : BitVec 6) (s : State) : Host.Outcome State Fault Refusal :=
  let q := s.noticeQ d part
  let n := 2 ^ q.nqsize.toNat
  match q.buffer with
  | [] => .next s
  | r :: _ =>
    let pa := q.nqbase.toNat + 64 * (q.nqtail.toNat % n)
    if q.free = 0 ∨ s.lineShut d pa then .next s
    else
      let s2 := (s.putHome pa 64 r.toNat none).onNotice d part (fun q =>
        { q with buffer := q.buffer.drop 1, nqtail := BitVec.ofNat 16 ((q.nqtail.toNat + 1) % n) })
      .next (s2.onCore (coreOf d q.pcc.toFin) (fun c => c.raise 0))

end Sys2Proof.Machine
end

