-- ==== Sys2Proof/Machine/Classes.lean ====
section
/-!
DEFINITION. Route-class instructions (R182-R188): `send`, `cmask` and `cunm`.
-/
namespace Sys2Proof.Machine

/-- The class table of a box context (R182). -/
def Box.cls (b : Box) (x : Leaf) : Vector (BitVec 4) 16 := if x = 0 then b.cls0 else b.cls1

/-- The valid exit of a class at a box, in the phase of a context: 0 to 3 a direction, 4 the site's own tile (R182). -/
def Box.exit (b : Box) (x : Leaf) (cls : BitVec 4) : Option (Fin 5) :=
  let e := (b.cls x)[cls.toNat]'(by have := cls.isLt; omega)
  if e.getLsbD 3 then
    if h : (e.extractLsb' 0 3).toNat < 5 then some ⟨(e.extractLsb' 0 3).toNat, h⟩ else none
  else none

/-- A class packet's token (R183). -/
def classToken (t : Site) (cls : BitVec 4) (tag : BitVec 2) (payload : Vec) : Token :=
  { side := { pred := true, kind := 6, bank := tag, aux := cls ++ t ++ 0#8 }, payload := payload }

/-- The item is a pre-empt marker of its class (R189). -/
def ClassPkt.isMarker (p : ClassPkt) : Bool := p.tok.side.kind == 3

/-- Packets in the outbound buffer of a tile's class port; a marker takes no place (R184, R353). -/
def Tile.outbound (x : Tile) : Nat := (x.clsout.filter (fun p => !p.isMarker)).length

/-- `send` (R184, R185). It is a release at GRAPH scope (R253). -/
def planSend (g : Pg) (b : BitVec 4) (cls : BitVec 4) (tag : BitVec 2) : State → SlotPlan :=
  guarded .c g (fun s =>
    let c := s.curCtx
    let valid := ((s.box s.cur.tile).exit s.curLeaf cls).isSome
    let p : ClassPkt := { tok := classToken s.cur.tile cls tag (s.curBank.rv b), part := c.part, graph := c.graph,
                          waits := s.covered s.curCtx s.curBank, dies := c.spanDies 2, due := s.cycleAt s.cur.tile + 1 }
    { reads := readsV [b],
      check := if valid then none else some (faultOf .chproto (BitVec.ofNat 32 (cls.toNat * 256 + 0x05))),
      ready := decide (s.curTile.outbound < 4), wait := 10,
      act := fun x => x.onCurTile (fun t => { t with clsout := t.clsout ++ [p] }) }) nothing

/-- What `cmask` and `cunm` share: a state write of step 1, which the one mask of the leaf takes in the next cycle (R99,
R188; log 49). -/
def maskPlan (s : State) (f : W16 → W16) : Plan :=
  let m := f (s.curCtx.clsnext.getD s.curCtx.clsmask)
  { writes := [(1, .mask (m.setWidth 32))], act := fun x => x.maskNext m }

/-- `cmask` (R188). -/
def planCmask (g : Pg) (cls : BitVec 4) : State → SlotPlan :=
  guarded .c g (fun s => maskPlan s (fun m => m ||| (1#16 <<< cls.toNat))) nothing

/-- `cunm` (R188). -/
def planCunm (g : Pg) (cls : BitVec 4) : State → SlotPlan :=
  guarded .c g (fun s => maskPlan s (fun m => m &&& ~~~(1#16 <<< cls.toNat))) nothing

/-! ## Meanings: each issues the op alone in its bundle -/

/-- The meaning of `send` (R184, R185). -/
def execSend (g : Pg) (b : BitVec 4) (cls : BitVec 4) (tag : BitVec 2) (s : State) : Host.Outcome State Fault Refusal :=
  issueOne (planSend g b cls tag) s

/-- The meaning of `cmask` (R188). -/
def execCmask (g : Pg) (cls : BitVec 4) (s : State) : Host.Outcome State Fault Refusal :=
  issueOne (planCmask g cls) s

/-- The meaning of `cunm` (R188). -/
def execCunm (g : Pg) (cls : BitVec 4) (s : State) : Host.Outcome State Fault Refusal :=
  issueOne (planCunm g cls) s

end Sys2Proof.Machine
end

