-- ==== Sys2Proof/Machine/Copy.lean ====
section
/-!
DEFINITION. Copy template instructions (R316, R317, R319): `arm`, `fire` and `cfgt`. The engine is in CopyEngine.
-/
namespace Sys2Proof.Machine

/-- The check of a template selector: the bits above it, and M (R316, R317). -/
def selectorCheck (x : W32) : Option FaultInfo :=
  if 2 ^ 11 ≤ x.toNat ∨ 95 < (x.extractLsb' 2 7).toNat then some (faultOf .chproto 0x0000000C) else none

/-- `arm` (R316). Until it is acknowledged it counts as a write. -/
def planArm (g : Pg) (pair : BitVec 4) (b : BitVec 5) : State → SlotPlan :=
  guarded .c g (fun s =>
    let ea := s.curBank.rpair pair
    let sel := s.curBank.rs b
    { reads := readsPair pair ++ readsS [b], check := firstFault [globalAlign ea 128, selectorCheck sel],
      ready := s.portFree, wait := 5,
      act := fun x => x.access (s.sender none) (.arm ea (sel.extractLsb' 0 11)) false }) nothing

/-- `fire` (R317). It is a release at GRAPH scope and, until its token is in the queue, counts as a write. -/
def planFire (g : Pg) (d a b : BitVec 5) : State → SlotPlan :=
  guarded .c g (fun s =>
    let k := s.curBank
    { reads := readsS [d, a, b], check := selectorCheck (k.rs a), ready := s.portFree, wait := 5,
      act := fun x => x.accessAfter (s.sender none) (.fire ((k.rs a).extractLsb' 0 11) (k.rs b) (k.rs d)) false
        (s.covered s.curCtx k) (s.curCtx.spanDies 2) }) nothing

/-- The checks of `cfgt` before it waits: those of R170, then its index (R319). -/
def cfgtCheck (s : State) (ch : BitVec 3) (a : W32) : Option FaultInfo :=
  firstFault [producerCheck s.curCtx ch false,
    if 2 ≤ a.toNat ∧ a.toNat ≤ 19 then none else some (faultOf .chproto (chWord (8 + ch.toNat) 0x0B))]

/-- `cfgt` (R319). It is no release. -/
def planCfgt (g : Pg) (ch : BitVec 3) (a b : BitVec 5) : State → SlotPlan :=
  guarded .c g (fun s =>
    let x := s.curBank.rs a
    let o := s.curCtx.outCh ch
    let side : Sideband := { fmt := 0xF, pred := true, kind := 4, round := o.rc, aux := (x.extractLsb' 0 8) ++ 0#16 }
    let payload := setF (setF (0 : Vec) 32 0 (s.curBank.rs b)) 32 1 ((x.extractLsb' 0 8).setWidth 32)
    { reads := readsS [a, b], check := cfgtCheck s ch x, ready := decide (1 ≤ o.e), wait := 1,
      act := fun y => y.onCurCtx (fun c => c.onOut ch (fun o => o.publishAs (s.sendOn ch false) side payload false)) })
    nothing

/-! ## Meanings: each issues the op alone in its bundle -/

/-- The meaning of `arm` (R316). -/
def execArm (g : Pg) (pair : BitVec 4) (b : BitVec 5) (s : State) : Host.Outcome State Fault Refusal :=
  issueOne (planArm g pair b) s

/-- The meaning of `fire` (R317). -/
def execFire (g : Pg) (d a b : BitVec 5) (s : State) : Host.Outcome State Fault Refusal :=
  issueOne (planFire g d a b) s

/-- The meaning of `cfgt` (R319). -/
def execCfgt (g : Pg) (ch : BitVec 3) (a b : BitVec 5) (s : State) : Host.Outcome State Fault Refusal :=
  issueOne (planCfgt g ch a b) s

end Sys2Proof.Machine
end

