-- ==== Sys2Proof/Machine/Fabric.lean ====
section
/-!
DEFINITION. The fabric network: tracks and switch boxes (R172-R177, R433), bridges (R178), boundary guards (R179-R181),
the class network (R182, R186), and what an input port makes of an arriving item (R149, R154, R166-R168).
-/
namespace Sys2Proof.Machine

/-! ## Track buffers -/

/-- The buffer of a track by its word and phase. -/
def bufKey (w ph : Nat) : Nat := 2 * w + ph

/-! ## Sources -/

/-- What stands at the head of a source of a box in a phase, and the state without it; a bridge track runs in single mode and
is named with phase 0 (R172, R174, R177, R178, R256). What a `cfgw` finds waiting in the buffer of the track that brought it
follows the new words of this box; what has joined the buffer of an outgoing track has been switched and goes on (R176, R433;
DEDUCED, log 51). -/
def State.sourceHead (s : State) (t : Site) (src ph : Nat) : Option (Item × State) :=
  if src < 56 then
    let d := src / 14
    let tr := src % 14
    match stepSite t d (trackLen tr) with
    | some n =>
      let k := bufKey (14 * opposite d + tr) ph
      match (s.box n).buf.get k [] with
      | [] => none
      | f :: r =>
        if f.due ≤ s.cycleAt t then some (f.item, s.onBox n (fun b => { b with buf := b.buf.set k r })) else none
    | none =>
      if ph ≠ 0 then none else
      match (s.box t).bridge.get src [] with
      | [] => none
      | f :: r => some (f.item, s.onBox t (fun b => { b with bridge := b.bridge.set src r }))
  else
    let l : Leaf := Fin.ofNat 2 ph
    let c : Fin 8 := Fin.ofNat 8 (src - 56)
    let head := fun (o : OutCh) =>
      match o.outq with
      | [] => none
      | i :: r => if i.due ≤ s.cycleAt t ∧ s.settled i.waits i.dies then some (i.item, { o with outq := r }) else none
    if isCompute t then
      if s.regBad t l (8 + c.val) then none
      else (head (s.ctx t l).outp[c]).map (fun p => (p.1, s.onCtx t l (fun x => { x with outp := x.outp.set c p.2 })))
    else if isMemory t then
      let b := (s.mt t).ebuf[l][c]
      (head b.out).map (fun p =>
        (p.1, s.onMt t (fun m => { m with ebuf := m.ebuf.set l (m.ebuf[l].set c { b with out := p.2 }) })))
    else none

/-! ## Guards (R179-R181) -/

/-- Token of an item, for the guard report (R181); a poke counts, with KIND, BANK and ROUND 0 (log 51). -/
def Sent.side : Sent → Sideband
  | .publish _ tok _ => tok.side
  | .preempt => { kind := 3 }
  | .faultDrain => { kind := 5 }
  | .poke _ fmt _ => { fmt := fmt }

/-- A drop is counted in GRPT; when NOTE is clear it is recorded in GFIRST and one GUARD notice is sent (R180, R181). -/
def State.guardDrop (s : State) (t : Site) (cls : Bool) (word : BitVec 6) (ph : Nat) (side : Sideband)
    (part : BitVec 6) : State :=
  let b := s.box t
  let n := (b.grpt.extractLsb' 16 16).toNat
  let drops : W16 := BitVec.ofNat 16 (min (n + 1) 0xFFFF)
  let noted := b.grpt.getLsbD 15
  let grpt : W32 := drops ++ 1#1 ++ 0#15
  if noted then s.onBox t (fun b => { b with grpt := grpt })
  else
    let gfirst : W32 := 0#9 ++ BitVec.ofBool cls ++ word ++ BitVec.ofNat 1 ph ++ side.kind ++ side.bank ++ 0#2 ++ side.round
    let w1 := noticeW1 part t 0 0
    let r := noticeOf [noticeW0 0 Cause.guard.code 2, w1, 0, 0, 0, 0, 0, 0,
      (s.asidOfPart part).setWidth 32, grpt, gfirst, word.setWidth 32]
    (s.onBox t (fun b => { b with grpt := grpt, gfirst := gfirst })).notify (siteDie t) part r

/-- A guard drops what leaves a box by a word: its direction's bit, or the bit of the program leaf (R179). -/
def Box.drops (b : Box) (w ph : Nat) : Bool :=
  if w < 56 then b.gcfg.getLsbD (2 * (w / 14) + ph) else b.gcfg.getLsbD (8 + ph)

/-! ## Damaged configuration (R375) -/

/-- One of these box registers holds an uncorrectable error: what it steers is held, and one TYPE 4 record is sent (R375).
`none` when they are sound. -/
def State.boxHolds (s : State) (t : Site) (regs : List Nat) (part : BitVec 6) : Option State :=
  match regs.find? (fun n => s.ecc.contains (.config t n false) || s.ecc.contains (.config t n true)) with
  | none => none
  | some n =>
    if s.ecc.contains (.config t n false) then
      let s1 := { s with ecc := s.ecc.filter (fun e => e != Ecc.config t n false) ++ [Ecc.config t n true] }
      let unit := if n < 0x40 then 1 else if n < 0x60 then 2 else 6
      some (s1.notify (siteDie t) part (softRecord part t 0 (s.asidOfPart part) unit n 0))
    else some s

/-- GCFG and BXPART of a box: an error there holds every token and packet of the box (R375). -/
def boxWide : List Nat := [0x60, 0x63]

/-! ## A hop (R173, R177, R433) -/

/-- Room on an outgoing track for one more item of a phase: 4 slots, 2 in shared mode, 8 on a bridge (R173, R178). -/
def State.trackRoom (s : State) (t : Site) (w : Nat) (shared : Option Nat) : Bool :=
  let ph := shared.getD 0
  let n := ((s.box t).buf.get (bufKey w ph) []).length
  match trackEnd t w with
  | .box _ => decide (n < if shared.isSome then 2 else 4)
  | .bridge f =>
    let far := ((s.box f).bridge.get (14 * opposite (w / 14) + w % 14) []).length
    decide (n + far < 8)
  | .none => false

/-- No item has left a box by a word in this cycle, of the phase where two share it (R173). -/
def State.outletFree (s : State) (t : Site) (w : Nat) (shared : Option Nat) : Bool :=
  decide ((s.box t).used.get (bufKey w (shared.getD 0)) 0 ≠ s.cycleAt t + 1)

/-- The track can take an item in this cycle: none yet in it, and the cycle of its phase (R173). -/
def State.trackTurn (s : State) (t : Site) (w : Nat) (shared : Option Nat) : Bool :=
  s.outletFree t w shared &&
    match shared with
    | some ph => decide (s.cycleAt t % 2 = ph)
    | none => true

/-- Cycles of a segment that an outgoing track of a box makes (R177); the time of a bridge is that of its crossing (R178). -/
def segmentCycles (t : Site) (w : Nat) : Nat := if bridgeTrack t w then 0 else if trackLen (w % 14) = 16 then 2 else 1

/-- An item that has passed a part of its route of some cycles (R177). -/
def Item.after (i : Item) (n : Nat) : Item := { i with path := i.path.map (fun p => { p with cycles := p.cycles + n }) }

/-- An item that has left a die over a bridge (R178). -/
def Item.crossed (i : Item) (d : DieId) : Item := { i with path := i.path.map (fun p => ⟨0, (d, p.cycles) :: p.legs⟩) }

/-- An item joins the buffer of an outgoing track, to move on after the segment's cycles (R177). -/
def State.putTrack (s : State) (t : Site) (w ph : Nat) (i : Item) : State :=
  let c := s.cycleAt t
  s.onBox t (fun b =>
    { b with buf := b.buf.set (bufKey w ph) (b.buf.get (bufKey w ph) [] ++ [⟨i.after (segmentCycles t w), c + segmentCycles t w⟩]),
             used := b.used.set (bufKey w ph) (c + 1) })

/-- An item leaves the last box for an input port or the inlet of an edge buffer (R172, R177, R244). -/
def State.deliver (s : State) (t : Site) (c : Fin 8) (l : Leaf) (i : Item) : State :=
  let f : Flight := ⟨i.after 1, s.cycleAt t + 1⟩
  if isMemory t then
    s.onMt t (fun m => { m with ebuf := m.ebuf.set l (m.ebuf[l].set c { m.ebuf[l][c] with port := m.ebuf[l][c].port ++ [f] }) })
  else s.onCtx t l (fun x => { x with inp := x.inp.set c { x.inp[c] with port := x.inp[c].port ++ [f] } })

/-- The item at the head of a source moves one segment on, is delivered, or is dropped at a guard; without an outlet, room
or its phase it waits. The phases that share an outlet never wait for each other (R173, R177, R180, R433). -/
def State.hop (s : State) (t : Site) (src ph : Nat) : Option State :=
  if s.fenced (siteDie t) then none
  else
    match s.sourceHead t src ph, (s.box t).outlet t src ph with
    | some (i, s1), some (w, shared) =>
      let op := if w.val < 56 then shared.getD 0 else shared.getD ph
      if (s.boxHolds t (w.val :: boxWide) i.part).isSome then s.boxHolds t (w.val :: boxWide) i.part
      else if (s.box t).drops w.val op then
        some (s1.guardDrop t false (BitVec.ofNat 6 w.val) op i.body.side i.part)
      else if w.val < 56 then
        if s.trackRoom t w.val shared && s.trackTurn t w.val shared then some (s1.putTrack t w.val op i) else none
      else if isCompute t || isMemory t then
        if s.outletFree t w.val shared then
          some ((s1.deliver t (Fin.ofNat 8 (w.val - 56)) (Fin.ofNat 2 op) i).onBox t (fun b =>
            { b with used := b.used.set (bufKey w.val (shared.getD 0)) (s.cycleAt t + 1) }))
        else none
      else none
    | _, _ => none

/-- TOKEN_HOP (R177); an output channel whose OCFG is damaged holds its tokens (R375). -/
def execTokenHop (t : Site) (src : Fin 64) (ph : Fin 2) (s : State) : Host.Outcome State Fault Refusal :=
  let told := if 56 ≤ src.val ∧ isCompute t then s.tellReg t ph (s.ctx t ph).part (src.val - 48) else s
  .next ((s.hop t src.val ph.val).getD told)

/-- One more token or packet of a graph has left a die over a bridge and reached another, whose report is withdrawn
(R344). -/
def State.countCrossing (s : State) (g : Nat) (a b : DieId) : State :=
  s.onLaunchOf g (fun l => { l with sent := l.sent.set a (l.sent[a] + 1), got := l.got.set b (l.got[b] + 1),
                                    reports := l.reports &&& ~~~(1#4 <<< b.val), backed := false })

/-- BRIDGE_CROSSING: the item at the head of a bridge track reaches the facing box (R178). -/
def execBridgeCrossing (t : Site) (w : Fin 64) (s : State) : Host.Outcome State Fault Refusal :=
  match trackEnd t w.val with
  | .bridge n =>
    if s.fenced (siteDie t) ∨ s.fenced (siteDie n) then .next s
    else
      match (s.box t).buf.get (bufKey w.val 0) [] with
      | [] => .next s
      | f :: r =>
        let src := 14 * opposite (w.val / 14) + w.val % 14
        let s1 := s.onBox t (fun b => { b with buf := b.buf.set (bufKey w.val 0) r })
        let s2 := s1.onBox n (fun b => { b with bridge := b.bridge.set src (b.bridge.get src [] ++ [⟨f.item.crossed (siteDie t), 0⟩]) })
        .next (match f.item.body with
          | .publish .. => s2.countCrossing f.item.graph (siteDie t) (siteDie n)
          | _ => s2)
  | _ => .next s

/-! ## Input ports (R149, R154, R166-R168) -/

/-- Split ratio of a supported pair of formats (R166). -/
def splitRatio (src dst : BitVec 4) : Option Nat :=
  if dst = 0 ∨ src = dst then some 1
  else if src = 0x7 ∧ dst = 0x8 ∨ src = 0x8 ∧ dst = 0x7 then some 1
  else if src = 0xB ∧ (dst = 0x9 ∨ dst = 0xA) then some 2
  else if src = 0xB ∧ (dst = 0x8 ∨ dst = 0x7) then some 4
  else if (src = 0x9 ∨ src = 0xA) ∧ (dst = 0x8 ∨ dst = 0x7) then some 2
  else if (src = 0x9 ∨ src = 0xA) ∧ dst = 0x6 then some 4
  else if (src = 0x8 ∨ src = 0x7) ∧ dst = 0x6 then some 2
  else if src = 0xC ∧ dst = 0x1 then some 2
  else if src = 0xC ∧ dst = 0x3 then some 4
  else if (src = 0x1 ∨ src = 0x2) ∧ (dst = 0x3 ∨ dst = 0x8 ∨ dst = 0x7) then some 2
  else if (src = 0x1 ∨ src = 0x2) ∧ (dst = 0x5 ∨ dst = 0x6) then some 4
  else if src = 0x2 ∧ dst = 0x4 then some 2
  else if (src = 0x3 ∨ src = 0x4) ∧ (dst = 0x5 ∨ dst = 0x6) then some 2
  else none

/-- Payload of slot j of r into which a data payload is converted (R166, R167). -/
def splitPayload (src dst : BitVec 4) (r j : Nat) (v : Vec) : Vec :=
  let n := lanesT dst
  if r = 1 ∧ (dst = 0 ∨ src = dst) then v
  else packVec (widthT dst) n (fun i => convertT .rne false src dst (elemBits v (n * j + i) src))

/-- Payloads of the slots that a data payload fills in a channel, and the mark that CONV reports (R166, R168, R170). -/
def InCh.convert (c : InCh) (fmt : BitVec 4) (scaleHead : Bool) (v : Vec) : List Vec × Option (BitVec 8) :=
  if scaleHead then ([v], if v.extractLsb' 500 12 = 0 then none else some 0xFF)
  else
    match splitRatio fmt c.fmt with
    | some r => ((List.range r).map (fun j => splitPayload fmt c.fmt r j v), none)
    | none => ([v], some (fmt ++ c.fmt))

/-- A line of scratch stored by an input port (R225). -/
def Tile.putLine (x : Tile) (a : Nat) (v : Vec) : Tile := x.putScratch a 64 v.toNat

/-- Consecutive slots of a channel filled with tokens, from a slot index; a payload that is absent has already landed with
its poke (R154). -/
def State.storeSlots (s : State) (t : Site) (l : Leaf) (ch : Fin 8) (at_ : Nat) :
    List (SlotInfo × Option Vec) → State
  | [] => s
  | p :: r =>
    let i := (s.ctx t l).inp[ch]
    let a := i.slotAddr (at_ % i.depth)
    let s1 := match p.2 with
      | some v => s.onTile t (fun x => x.putLine a v)
      | none => s
    let s2 := s1.onCtx t l (fun c => { c with inp := c.inp.set ch { c.inp[ch] with
      slots := c.inp[ch].slots.set (at_ % i.depth) p.1, f := c.inp[ch].f + 1 } })
    s2.storeSlots t l ch (at_ + 1) r

/-- What an arriving token puts into its slots (R149, R166, R167); a marked one takes one slot (log 51). The slots behind a marker
hold null tokens, which are KIND 0 without a scale head, so that their AUX is 0 (R150, R151); their FMT is open (log 22). -/
def InCh.arriving (c : InCh) (tok : Token) (poked : Bool) : List (SlotInfo × Option Vec) :=
  let pay := fun (v : Vec) => if poked then none else some v
  let plain : SlotInfo := { side := tok.side, parity := tok.bad }
  let filler : SlotInfo × Option Vec :=
    ({ side := { null := true, round := tok.side.round, bank := tok.side.bank, fmt := Config.filler tok.side.fmt } }, some 0)
  if tok.side.null then (List.range c.ratio).map (fun _ => (plain, some tok.payload))
  else if tok.side.kind ≠ 0 then (plain, pay tok.payload) :: (List.range (c.ratio - 1)).map (fun _ => filler)
  else
    let r := c.convert tok.side.fmt (tok.side.scaled && tok.side.aux.getLsbD 23) tok.payload
    let n := r.1.length
    let stored := if r.2.isNone && c.fmt ≠ 0 && !(tok.side.scaled && tok.side.aux.getLsbD 23) then c.fmt
      else tok.side.fmt
    (List.range n).map (fun j =>
      ({ side := { tok.side with fmt := stored, head := tok.side.head && j == 0,
                                 tail := tok.side.tail && j + 1 == n },
         mark := r.2, parity := tok.bad }, pay (r.1.getD j 0)))

/-- A channel knows its route by the items that come: the producer, the split ratio and the return path (R24, R152, R177). -/
def InCh.boundBy (c : InCh) (i : Item) : InCh := { c with prod := i.src, ratio := i.ratio, back := i.path }

/-- A published token joins its channel behind the filled slots; a payload that went ahead with a poke is taken from the
slots that its producer slot covers (R154). Its slots go back to its producer, in the cycles of the route that it came
(R177). -/
def State.publishArrival (s : State) (t : Site) (l : Leaf) (ch : Fin 8) (i : Item) (slot : Nat) (tok : Token)
    (poked : Bool) : State :=
  let c := (s.ctx t l).inp[ch].boundBy i
  let here := c.h + c.f
  let from_ := c.ratio * slot
  let items := (c.arriving tok poked).zipIdx.map (fun p =>
    if here % c.depth = from_ % c.depth then p.1
    else (p.1.1, some (p.1.2.getD ((s.tile t).scratch.readVec (c.slotAddr ((from_ + p.2) % c.depth))))))
  ((s.onCtx t l (fun x => { x with inp := x.inp.set ch (x.inp[ch].boundBy i) })).storeSlots t l ch here items).onCtx t l
    LeafCtx.noteFiring

/-- The payload of a poke lands in the slots that its producer slot covers (R154). -/
def State.landPoke (s : State) (t : Site) (l : Leaf) (ch : Fin 8) (it : Item) (slot : Nat) (fmt : BitVec 4) (v : Vec) :
    State :=
  let i := (s.ctx t l).inp[ch].boundBy it
  let vs := (i.convert fmt false v).1
  (List.range vs.length).foldl (fun x j =>
    x.onTile t (fun y => y.putLine (i.slotAddr ((i.ratio * slot + j) % i.depth)) (vs.getD j 0))) s

/-- The item at the head of an input port that has arrived; a damaged ICFG holds it (R375). -/
def State.portHead (s : State) (t : Site) (l : Leaf) (ch : Fin 8) : Option Item :=
  match (s.ctx t l).inp[ch].port with
  | [] => none
  | f :: _ => if f.due ≤ s.cycleAt t ∧ !s.regBad t l ch.val then some f.item else none

/-- The head of an input port is taken. -/
def State.takePort (s : State) (t : Site) (l : Leaf) (ch : Fin 8) : State :=
  s.onCtx t l (fun c => { c with inp := c.inp.set ch { c.inp[ch] with port := c.inp[ch].port.drop 1 } })

/-- The edge buffers of a memory tile changed. -/
def State.onEbuf (s : State) (mt : Site) (l : Leaf) (x : Fin 8) (f : EdgeBuf → EdgeBuf) : State :=
  s.onMt mt (fun m => { m with ebuf := m.ebuf.set l (m.ebuf[l].set x (f m.ebuf[l][x])) })

/-- Tokens that an edge buffer can hold (R245). -/
def EdgeBuf.capacity (b : EdgeBuf) : Nat := 64 * b.cap64.toNat

/-- Address of a slot of an edge buffer in its memory tile's SRAM (R245). -/
def EdgeBuf.slotAt (b : EdgeBuf) (mt : Site) (slot : Nat) : Nat := sramPa mt (64 * b.base.toNat + 64 * slot)

/-- A storage slot of an edge buffer is in use. -/
def EdgeBuf.uses (b : EdgeBuf) (slot : Nat) : Bool := b.queue.any (fun q => q.slot == slot)

/-- The lowest free storage slot of an edge buffer. -/
def EdgeBuf.free (b : EdgeBuf) : Option Nat := (List.range b.capacity).find? (fun n => !b.uses n)

/-- A token joins an edge buffer at a storage slot (R246); at a released buffer it is dropped and counted (R247). -/
def State.ebufStore (s : State) (mt : Site) (l : Leaf) (x : Fin 8) (slot : Nat) (own : Bool) (tok : Token) : State :=
  let b := (s.mt mt).ebuf[l][x]
  if b.freed then s.onEbuf mt l x (fun b => { b with drops := if b.drops = 63 then 63 else b.drops + 1 })
  else
    let a := b.slotAt mt slot
    let s1 : State := { s with mem := s.mem.writeVec a tok.payload, ecc := if tok.bad then s.ecc ++ [Ecc.phys a] else s.ecc }
    s1.onEbuf mt l x (fun b =>
      { b with queue := b.queue ++ [EdgeTok.mk slot tok.side own] })

/-- Producer slots of an edge buffer set out on their way back (R177, R246). -/
def State.ebufReturn (s : State) (mt : Site) (b : EdgeBuf) (n : Nat) : State :=
  if n = 0 ∨ b.prod = .none then s else { s with releases := s.releases ++ [releaseOf b.prod n b.back (siteDie mt) (s.cycleAt mt)] }

/-- A fault-drain token at a queue buffer discards the queue, with a token that was taken ahead, and makes its template
DISARMED (R309). -/
def MtLeaf.drainQueue (f : MtLeaf) (x : Fin 8) : MtLeaf :=
  { f with tpl := f.tpl.map (fun t =>
      if (t.w[0].extractLsb' 22 3).toNat == x.val then { t with state := 0, fired := [], held := false } else t) }

/-- The arrival of an item at an edge buffer's inlet (R246, R248, R309). -/
def State.ebufArrival (s : State) (mt : Site) (l : Leaf) (x : Fin 8) (i : Item) : State :=
  let b := (s.mt mt).ebuf[l][x]
  match i.body with
  | .poke slot _ v => if b.freed then s else { s with mem := s.mem.writeVec (b.slotAt mt slot) v }
  | .publish slot tok poked =>
    (s.onEbuf mt l x (fun b => { b with prod := i.src, back := i.path })).ebufStore mt l x slot true { tok with payload := if poked then s.mem.readVec (b.slotAt mt slot) else tok.payload }
  | .preempt => s.onEbuf mt l x (fun b => { b with preempt := some b.queue.length })
  | .faultDrain =>
    let s1 := s.onMt mt (fun m => { m with lf := m.lf.set l (m.lf[l].drainQueue x) })
    (s1.ebufReturn mt b (b.queue.filter (fun q => q.own)).length).onEbuf mt l x (fun b => { b with queue := [], preempt := b.preempt.map (fun _ => 0) })

/-- An item waits at the inlet while a token that took no producer slot occupies its storage slot (R317). -/
def EdgeBuf.blocks (b : EdgeBuf) (i : Sent) : Bool :=
  match i with
  | .poke slot .. => b.uses slot && !b.freed
  | .publish slot .. => b.uses slot && !b.freed
  | _ => false

/-- An item is a token or a poke, no marker. -/
def Sent.isToken : Sent → Bool
  | .poke .. => true
  | .publish .. => true
  | _ => false

/-- TOKEN_ARRIVAL at an input port of a compute tile, or at the inlet of an edge buffer (R149, R154, R166, R246); one whose ICFG
or EBD is damaged holds its tokens (R375). -/
def execTokenArrival (t : Site) (l : Leaf) (ch : Fin 8) (s : State) : Host.Outcome State Fault Refusal :=
  if isMemory t then
    match (s.mt t).ebuf[l][ch].port with
    | [] => .next s
    | f :: r =>
      if s.regBad t l (0x10 + ch.val) then .next (s.tellReg t l f.item.part (0x10 + ch.val))
      else happens' (decide (f.due ≤ s.cycleAt t) && f.item.body.isToken && !(s.mt t).ebuf[l][ch].blocks f.item.body) s
        ((s.onEbuf t l ch (fun b => { b with port := r })).ebufArrival t l ch f.item)
  else
    match s.portHead t l ch with
    | none => .next (s.tellReg t l (s.ctx t l).part ch.val)
    | some i =>
      let s1 := s.takePort t l ch
      match i.body with
      | .poke slot fmt v => .next (s1.landPoke t l ch i slot fmt v)
      | .publish slot tok poked => .next (s1.publishArrival t l ch i slot tok poked)
      | _ => .next s
where
  /-- The event happens, or nothing does. -/
  happens' (c : Bool) (s t : State) : Host.Outcome State Fault Refusal := .next (if c then t else s)

/-- PRE_EMPT_MARKER_ARRIVAL: the port holds the marker and never counts it as filled; on a back-edge whose record stays
open after a save it closes the record and is discarded (R149, R354). -/
def execPreEmptMarkerArrival (t : Site) (l : Leaf) (ch : Fin 8) (s : State) : Host.Outcome State Fault Refusal :=
  if isMemory t then
    match (s.mt t).ebuf[l][ch].port with
    | [] => .next s
    | f :: r =>
      if f.due ≤ s.cycleAt t ∧ f.item.body = .preempt then
        .next ((s.onEbuf t l ch (fun b => { b with port := r })).ebufArrival t l ch f.item)
      else .next s
  else
    match s.portHead t l ch with
    | some i =>
      if i.body = .preempt then
        .next ((s.takePort t l ch).onCtx t l (fun c =>
          let x := c.inp[ch]
          { c with inp := c.inp.set ch (if x.openBack then { x with openBack := false } else { x with marker := true }) }))
      else .next s
    | none => .next s

/-- FAULT_DRAIN_ARRIVAL: the port discards it and every filled slot, and returns those slots (R149). -/
def execFaultDrainArrival (t : Site) (l : Leaf) (ch : Fin 8) (s : State) : Host.Outcome State Fault Refusal :=
  if isMemory t then
    match (s.mt t).ebuf[l][ch].port with
    | [] => .next s
    | f :: r =>
      if f.due ≤ s.cycleAt t ∧ f.item.body = .faultDrain then
        .next ((s.onEbuf t l ch (fun b => { b with port := r })).ebufArrival t l ch f.item)
      else .next s
  else
    match s.portHead t l ch with
    | some i =>
      if i.body = .faultDrain then
        .next ((s.takePort t l ch).advanceIn t l (BitVec.ofFin ch) (s.ctx t l).inp[ch].f)
      else .next s
    | none => .next s

/-- Producer slots return to their producer (R154, R177). -/
def OutCh.returned (o : OutCh) (n : Nat) : OutCh := { o with e := o.e + n }

/-- A release can arrive in a cycle (R177). -/
def Release.arrives (r : Release) (cycle : Nat) : Bool := decide (r.due.getD 0 ≤ cycle)

/-- The release crosses a bridge to the next die of its return path, in an open time, and takes the cycles of the parts there
(R177, R178). -/
def Release.cross (r : Release) (e : DieId) (k cycle : Nat) (rest : List (DieId × Nat)) : Release :=
  { r with due := some (cycle + k), die := e, legs := rest }

/-- SLOT_RELEASE_ARRIVAL, or the crossing of a bridge on the way; no bridge of a fenced die carries one (R154, R155, R177, R178,
R406). -/
def execSlotReleaseArrival (i : Nat) (s : State) : Host.Outcome State Fault Refusal :=
  match s.releases[i]? with
  | none => .next s
  | some r =>
    let s1 := { s with releases := s.releases.eraseIdx i }
    match r.legs, r.dest with
    | (e, k) :: rest, _ =>
      if !r.arrives s.dies[r.die].cycle.toNat || s.fenced r.die || s.fenced e then .next s
      else .next { s with releases := s.releases.set i (r.cross e k s.dies[e].cycle.toNat rest) }
    | [], .tile t l ch =>
      if !r.arrives (s.cycleAt t) then .next s
      else .next (s1.onCtx t l (fun c => { c with outp := c.outp.set ch (c.outp[ch].returned r.n) }))
    | [], .edge mt l x =>
      if !r.arrives (s.cycleAt mt) then .next s
      else .next (s1.onEbuf mt l x (fun b => { b with out := b.out.returned r.n }))
    | [], .feeder d n =>
      if !r.arrives s.dies[d].cycle.toNat then .next s
      else
        .next { s1 with launches := s1.launches.map (fun l =>
          { l with feeders := l.feeders.mapIdx (fun j f =>
              if l.slot * 4096 + j = n then { f with out := f.out.returned r.n } else f) }) }
    | [], .elastic d e t =>
      if !r.arrives s.dies[d].cycle.toNat then .next s
      else
        .next (s1.onDie d (fun x =>
          let y := x.elastic[e]
          { x with elastic := x.elastic.set e { y with outs := y.outs.set t.toNat ((y.outs.get t.toNat {}).returned r.n) } }))
    | [], .none => .next s1

/-! ## The class network (R182, R183, R186) -/

/-- The box that a class track of a direction leads to: the neighbour, or over a bridge the facing box of the neighbour die
(R182, R336; log 53). -/
def classNeighbour (t : Site) (d : Nat) : Option Site := (stepSite t d 1).orElse (fun _ => facing t d)

/-- The class port of a leaf sends its head packet on: behind the markers of a swap it sends nothing (R189). -/
def State.portSends (s : State) (t : Site) (l : Leaf) : Bool :=
  let x := s.tile t
  x.running == l && (!x.ctx[l].clsshut || x.clsout.any ClassPkt.isMarker)

/-- The head packet of a class inlet of a box in a phase: from direction 0 to 3 the class track that arrives from there,
4 the tile's own class port (R182, R184, R256). A packet that comes over a bridge leaves one die and reaches another (R344). -/
def State.classHead (s : State) (t : Site) (from_ ph : Nat) : Option (ClassPkt × State) :=
  if from_ < 4 then
    match classNeighbour t from_ with
    | none => none
    | some n =>
      let k := bufKey (opposite from_) ph
      match (s.box n).clsbuf.get k [] with
      | [] => none
      | p :: r =>
        let s1 := s.onBox n (fun b => { b with clsbuf := b.clsbuf.set k r })
        if s.cycleAt n < p.due ∨ s.fenced (siteDie n) then none
        else some (p, if siteDie n = siteDie t ∨ p.isMarker then s1 else s1.countCrossing p.graph (siteDie n) (siteDie t))
  else
    match (s.tile t).clsout with
    | [] => none
    | p :: r =>
      if p.due ≤ s.cycleAt t ∧ s.settled p.waits p.dies ∧ s.portSends t (Fin.ofNat 2 ph) then
        some (p, s.onTile t (fun x => { x with clsout := r }))
      else none

/-- Both contexts of a box are in use, so that its class tracks are shared by phase (R175, R182). -/
def Box.twoContexts (b : Box) : Bool := b.bxpart.getLsbD 6 && b.bxpart.getLsbD 14

/-- A class track can take a packet of a phase in this cycle: a free slot of the phase's four, one packet a cycle, and
the cycle of the phase where two contexts share the track (R173, R182). -/
def State.classRoom (s : State) (t : Site) (d ph : Nat) : Bool :=
  let b := s.box t
  let c := s.cycleAt t
  decide ((b.clsbuf.get (bufKey d ph) []).length < 4) && decide (b.used.get (128 + bufKey d ph) 0 ≠ c + 1) &&
    (!b.twoContexts || decide (c % 2 = ph))

/-- Class of a packet, as R183 places it. -/
def pktClass (p : ClassPkt) : BitVec 4 := p.tok.side.aux.extractLsb' 20 4

/-- A packet joins the buffer of a class track in a direction, or of the tile's own inlet (4), in a phase. -/
def Box.pushClass (b : Box) (e ph : Nat) (p : ClassPkt) : Box :=
  let k := bufKey e ph
  let q := b.clsbuf.get k [] ++ [p]
  { b with clsbuf := b.clsbuf.set k q, used := b.used.set (128 + k) p.due }

/-- The phase under which a class track runs: phase 0 where it is not shared (R173, R179). -/
def Box.trackPhase (b : Box) (ph : Nat) : Nat := if b.twoContexts then ph else 0

/-- The class inlet of a tile accepts one more packet: with those on their way to it, its class buffer holds fewer than 16
(R186). -/
def State.inletRoom (s : State) (t : Site) (l : Leaf) : Bool :=
  decide ((s.ctx t l).clsbuf.length + ((s.box t).clsbuf.get (bufKey 4 l.val) []).length < 16)

/-- A partition occupies a leaf of a tile. -/
def State.inPart (s : State) (part : BitVec 6) (t : Site) (l : Leaf) : Bool :=
  match s.parts.get part.toNat none with
  | some p => p.tiles.contains (t, l)
  | none => false

/-- The partition of a box context in use (R175). -/
def Box.ctxPart (b : Box) (l : Leaf) : Option (BitVec 6) :=
  if l = 0 then (if b.bxpart.getLsbD 6 then some (b.bxpart.extractLsb' 0 6) else none)
  else if b.bxpart.getLsbD 14 then some (b.bxpart.extractLsb' 8 6) else none

/-- The class inlets of a box through which packets of a class of a partition come: the tile's own port, and the class tracks
of the neighbours whose tables lead the class here (R182, R189). -/
def State.classFeeders (s : State) (t : Site) (l : Leaf) (cls : BitVec 4) (part : BitVec 6) : List Nat :=
  (List.range 5).filter (fun d =>
    if d = 4 then isCompute t && s.inPart part t l
    else
      match classNeighbour t d with
      | some n => (s.box n).ctxPart l == some part && (((s.box n).exit l cls).map Fin.val) == some (opposite d)
      | none => false)

/-- A marker of a class leaves a box by the entry of its class; where a guard bars it or nothing leads on, it ends (R189). -/
def State.markOn (s : State) (t : Site) (l : Leaf) (p : ClassPkt) : State :=
  let b := s.box t
  match b.exit l (pktClass p) with
  | none => s
  | some e =>
    let barred := if e.val = 4 then b.gcfg.getLsbD (8 + l.val) || !isCompute t
      else b.gcfg.getLsbD (2 * e.val + b.trackPhase l.val) || (classNeighbour t e.val).isNone
    if barred then s else s.onBox t (fun b => b.pushClass e.val l.val { p with due := s.cycleAt t + 1 })

/-- A marker of a class has come by an inlet of a box; the last one of its class goes on for all (R189). -/
def State.classMark (s : State) (t : Site) (from_ : Nat) (l : Leaf) (p : ClassPkt) : State :=
  let c := (pktClass p).toNat
  let seen := (l.val, c, from_) :: (s.box t).clsseen
  if (s.classFeeders t l (pktClass p) p.part).all (fun d => seen.contains (l.val, c, d)) then
    (s.onBox t (fun b => { b with clsseen := seen.filter (fun q => !(q.1 == l.val && q.2.1 == c)) })).markOn t l p
  else s.onBox t (fun b => { b with clsseen := seen })

/-- A class packet moves by the entry of its class: along a class track, into the tile's class buffer, or into a guard
drop at an invalid entry (R179, R181, R182, R186). -/
def State.classHop (s : State) (t : Site) (from_ ph : Nat) : Option State :=
  if s.fenced (siteDie t) then none
  else
    match s.classHead t from_ ph with
    | none => none
    | some (p, s1) =>
      if p.isMarker then some (s1.classMark t from_ (Fin.ofNat 2 ph) p) else
      let l : Leaf := Fin.ofNat 2 ph
      let b := s.box t
      let drop := s1.guardDrop t true ((pktClass p).setWidth 6) ph p.tok.side p.part
      let n := 0x40 + 16 * (ph % 2) + (pktClass p).toNat
      if (s.boxHolds t (n :: boxWide) p.part).isSome then s.boxHolds t (n :: boxWide) p.part
      else
      match b.exit l (pktClass p) with
      | none => some drop
      | some e =>
        if e.val = 4 then
          if b.gcfg.getLsbD (8 + ph) then some drop
          else if !isCompute t then some drop
          else if s.inletRoom t l then
            some (s1.onBox t (fun b => b.pushClass 4 ph { p with due := s.cycleAt t + 1 }))
          else none
        else if b.gcfg.getLsbD (2 * e.val + b.trackPhase ph) then some drop
        else if (classNeighbour t e.val).isNone then none
        else if s.classRoom t e.val ph then
          some (s1.onBox t (fun b => b.pushClass e.val ph { p with due := s.cycleAt t + 1 }))
        else none

/-- CLASS_PACKET_HOP (R182). -/
def execClassPacketHop (t : Site) (from_ : Fin 5) (ph : Fin 2) (s : State) : Host.Outcome State Fault Refusal :=
  .next ((s.classHop t from_.val ph.val).getD s)

/-- What the class inlet of a tile makes of an item: a packet joins the class buffer, a marker is noted (R186, R189). -/
def LeafCtx.takeClass (c : LeafCtx) (p : ClassPkt) : LeafCtx :=
  if p.isMarker then { c with clsmarks := c.clsmarks ||| (1#16 <<< (pktClass p).toNat) } else { c with clsbuf := c.clsbuf ++ [p] }

/-- CLASS_PACKET_ARRIVAL: a packet at the class inlet of a tile joins the leaf's class buffer, while that holds fewer than
16 packets; a marker takes no place in it (R186, R189). -/
def execClassPacketArrival (t : Site) (l : Leaf) (s : State) : Host.Outcome State Fault Refusal :=
  match (s.box t).clsbuf.get (bufKey 4 l.val) [] with
  | [] => .next s
  | p :: r =>
    if p.due ≤ s.cycleAt t ∧ (p.isMarker ∨ (s.ctx t l).clsbuf.length < 16) ∧ (s.ctx t l).saved = false then
      .next ((s.onBox t (fun b => { b with clsbuf := b.clsbuf.set (bufKey 4 l.val) r })).onCtx t l (fun c => c.takeClass p))
    else .next s

end Sys2Proof.Machine
end

