-- ==== Sys2Proof/Machine/Answers.lean ====
section
/-!
DEFINITION. What a request asks, and what its answer or its failure does at whoever sent it: a bank (R229, R233, R243), a copy
run (R306, R318, R322), an `arm` (R316), a control core (R389), or another module (R403, R404).
-/
namespace Sys2Proof.Machine

/-! ## What a request asks (R233, R381) -/

/-- The virtual address of a request that has one. -/
def ReqBody.va : ReqBody → Option W64
  | .read ea => some ea
  | .write ea _ => some ea
  | .amo ea .. => some ea
  | .redc ea _ => some ea
  | .fillc ea _ => some ea
  | .arm ea _ => some ea
  | _ => none

/-- The request is answered through the reorder buffer: a load of a bank (R229). -/
def Req.answered (q : Req) : Bool :=
  q.why == .op && match q.body with
    | .read _ => true
    | .wread _ _ => true
    | .amo _ _ _ _ ret => ret
    | _ => false

/-- Kind of access of a request (R318, R381). -/
def Req.kind (q : Req) : AccessKind :=
  match q.body with
  | .read _ => .read
  | .wread _ _ => .read
  | .arm _ _ => .read
  | .amo .. => .amo
  | _ =>
    match q.why with
    | .chunk true _ => .coreWrite
    | _ => .write

/-- Bytes of an access, for the range checks of its place. -/
def ReqBody.size : ReqBody → Nat
  | .amo .. => 4
  | .arm _ _ => 128
  | _ => 64

/-- FLTA of a fault found beyond the tile: ea[31:0], the offset of `ldw`, or the key of an umbra op (R243, R299). -/
def ReqBody.flta : ReqBody → W32
  | .wread off _ => off
  | .umen key .. => key
  | .umlv key => key
  | .umsk key _ => key
  | .umini key _ => key
  | .umabt key => key
  | .lnch entry .. => entry.setWidth 32
  | b => (b.va.getD 0).extractLsb' 0 32

/-- FLTX of a fault found beyond the tile (R367). -/
def Req.fltx (q : Req) : W64 :=
  match q.body with
  | .wread _ x => BitVec.ofNat 64 (weightPa (siteDie q.src.tile) x)
  | b => b.va.getD 0

/-! ## Answers (R229, R233, R243) -/

/-- The token of a response (R233); FMT is the channel's, given at delivery. -/
def responseToken (b : BankId) (payload : Vec) : Token :=
  { side := { pred := true, bank := BitVec.ofFin b }, payload := payload }

/-- The null token of a failed load (R233). -/
def nullResponse (b : BankId) : Token := { side := { null := true, bank := BitVec.ofFin b }, payload := 0 }

/-- The answer of a request takes its place in the reorder buffer (R229). -/
def State.respond (s : State) (q : Req) (tok : Token) : State :=
  s.onMt (homeMemTile q.src.tile) (fun m =>
    { m with rob := m.rob.set q.src.tile.toNat ((m.rob.get q.src.tile.toNat []).map (fun e =>
        if e.id = q.id then { e with resp := some tok, due := s.cycleAt q.src.tile + Config.accessCycles 2 } else e)) })

/-- A read is performed: its value is fixed (R261). -/
def State.performed (s : State) (id : Nat) : State := { s with acks := s.acks.filter (fun n => n != id) }

/-- A write is performed, and its acknowledgement sets out (R256). -/
def State.acknowledge (s : State) (q : Req) : State :=
  { s with acking := s.acking ++ [⟨q.id, q.src.tile, s.cycleAt q.src.tile + Config.accessCycles 3⟩] }

/-- The token of a ready, timeout, reset or refused `fillc` subscription (R282). -/
def readyToken (b : BankId) (rcv exp : W16) (status : W32) (ea : W32) (pred : Bool) : Token :=
  { side := { pred := pred, bank := BitVec.ofFin b },
    payload := packVec 32 16 (fun i => if i = 0 then rcv.toNat else if i = 1 then exp.toNat
      else if i = 2 then status.toNat else if i = 3 then ea.toNat else 0) }

/-- When something that sets out from a die reaches a tile: after the cycles of its stage where it stays on the die, else at a
free time (R420; log 41). -/
def State.dueOn (s : State) (from_ : Option DieId) (t : Site) (stage : Nat) : Option Nat :=
  if from_ = some (siteDie t) then some (s.cycleAt t + Config.accessCycles stage) else none

/-- A context of a partition lies in device memory (R358). -/
def State.stashed (s : State) (part : BitVec 6) (t : Site) (l : Leaf) : Bool :=
  s.stash.any (fun x => x.part == part && x.site == t && x.leaf == l)

/-- The record of a context in device memory changed. -/
def State.onStash (s : State) (part : BitVec 6) (t : Site) (l : Leaf) (f : Stash → Stash) : State :=
  { s with stash := s.stash.map (fun x => if x.part = part ∧ x.site = t ∧ x.leaf = l then f x else x) }

/-- A token sets out from a die for a reserved slot of a response channel of a partition; one that is produced once its swap has
been decided, or while its context lies in device memory, is recorded for the restore (R282, R286, R348, R355). -/
def State.sendReady (s : State) (from_ : Option DieId) (part : BitVec 6) (t : Site) (l : Leaf) (ch : Fin 8) (tok : Token) : State :=
  let r : Ready := { tile := t, leaf := l, ch := ch, tok := tok, due := s.dueOn from_ t 4, held := s.recordsNow t l }
  if s.stashed part t l then s.onStash part t l (fun x => { x with lateReady := x.lateReady ++ [r] })
  else { s with ready := s.ready ++ [r] }

/-- The reserved slot of a `fillc` with NOTIFY gets the REFUSED token (R280, R285). -/
def State.refuseFillc (s : State) (q : Req) (rcv exp : W16) (more : Bool) : State :=
  match q.body, q.src.chan with
  | .fillc ea x, some ch =>
    if x.getLsbD 31 then
      s.sendReady (some (siteDie q.src.tile)) q.src.part q.src.tile q.src.leaf ch
        (readyToken q.src.bank rcv exp (if more then 0x18 else 0x8) (ea.extractLsb' 0 32) false)
    else s
  | _, _ => s

/-- A report to the sender of a request (R243, R299). -/
def State.reportTo (s : State) (q : Req) (f : FaultInfo) (refused : Bool) : State :=
  let r : Report := { tile := q.src.tile, leaf := q.src.leaf, bank := q.src.bank, slot := 3, bundle := q.src.bundle,
                      code := f.code, flta := f.flta, fltx := f.fltx, weight := f.weight, pa := f.pa, reason := f.reason, key := f.key,
                      part := q.src.part, id := q.id, refused := refused,
                      due := s.cycleAt q.src.tile + Config.accessCycles 5 }
  { s with reports := s.reports ++ [r] }

/-- A request of a bank fails beyond the tile: an asynchronous report, and the null token of a load (R233, R243). -/
def State.failOp (s : State) (q : Req) (c : Cause) : State :=
  let weight := match q.body with
    | .wread .. => true
    | _ => false
  let f : FaultInfo :=
    { code := c.code, flta := q.body.flta, fltx := q.fltx, weight := weight, pa := BitVec.ofNat 64 (q.pa.getD 0) }
  let s1 := (s.reportTo q f false).refuseFillc q 0 0 false
  if q.answered then s1.respond q (nullResponse q.src.bank) else s1

/-! ## Requests under way -/

/-- A request under way by its number. -/
def State.inFlight (s : State) (i : Nat) : Option Flying := s.flight.find? (fun f => f.req.id == i)

/-- A request is no longer under way. -/
def State.land (s : State) (i : Nat) : State := { s with flight := s.flight.filter (fun f => f.req.id != i) }

/-- A request under way changed. -/
def State.onFlying (s : State) (i : Nat) (f : Flying → Flying) : State :=
  { s with flight := s.flight.map (fun x => if x.req.id = i then f x else x) }

/-! ## Copy runs (R318, R322, R425) -/

/-- A run is the one in progress. -/
def Template.runs (t : Template) (id : Nat) : Bool :=
  match t.run with
  | none => false
  | some r => r.id == id

/-- A source beat has been read by a run. -/
def CopyRun.take (r : CopyRun) (v : Vec) : CopyRun := { r with input := r.input ++ [v], remote := none }

/-- TPLST: a run is in progress from the token that an ARMED template has taken for it (R314). -/
def Template.tplst (t : Template) : W32 :=
  t.state ++ BitVec.ofBool (t.run.isSome || (t.state == 1 && !t.fired.isEmpty)) ++ BitVec.ofNat 5 t.pend.length ++ t.cause ++ 0#16

/-- A template of a leaf of a memory tile. -/
def State.tpl (s : State) (mt : Site) (l : Leaf) (u : Fin 4) : Template := (s.mtLeaf mt l).tpl[u]
/-- A template changed. -/
def State.onTpl (s : State) (mt : Site) (l : Leaf) (u : Fin 4) (f : Template → Template) : State :=
  s.onMtLeaf mt l (fun x => { x with tpl := x.tpl.set u (f x.tpl[u]) })

/-- The selector of a template (R306). -/
def selectorOf (mt : Site) (u : Fin 4) : W32 :=
  BitVec.ofNat 32 (512 * (siteDie mt).val + 4 * memTileIndex mt + u.val)

/-- The notice of a template: TPLCHAIN, or the fault of a run (R320, R322, R373). -/
def templateRecord (mt : Site) (l : Leaf) (u : Fin 4) (part : BitVec 6) (asid : W16) (code : BitVec 8) (va : W64)
    (tplst : W32) : Notice :=
  noticeOf [noticeW0 0 code 2, noticeW1 part mt l 0, 0, 0, va.extractLsb' 0 32, va.extractLsb' 32 32, 0, 0,
    asid.setWidth 32, selectorOf mt u, tplst]

/-- A notice of a template to its partition's queue. -/
def State.tellTemplate (s : State) (mt : Site) (l : Leaf) (u : Fin 4) (code : BitVec 8) (va : W64) : State :=
  let f := s.mtLeaf mt l
  s.notify (siteDie mt) f.part
    (templateRecord mt l u f.part (trAsid (s.trcfg mt l)) code va (s.tpl mt l u).tplst)

/-- A request stands in a hold buffer (R386). -/
def State.holds (s : State) (id : Nat) : Bool := s.memTiles.any (fun m => m.2.hold.any (fun q => q.id == id))

/-- A beat of a run stands in the hold buffer: the run does not go on before the beat is sent on, since it can still fault, and no
later beat is read or written then (R386, R425). -/
def State.runHeld (s : State) (run : Nat) : Bool := s.chunks.any (fun c => c.run == run && s.holds c.req)

/-- A run that is over leaves its template: after its last write, when that is not held; a control core's or a faulting one once
its writes are acknowledged (R318, R322, R386, R425). -/
def State.endRun (s : State) (mt : Site) (l : Leaf) (u : Fin 4) : State :=
  match (s.tpl mt l u).run with
  | none => s
  | some r =>
    let open_ := s.chunks.any (fun c => c.run == r.id)
    match r.fault with
    | some (code, va, _) =>
      if open_ then s
      else (s.onTpl mt l u (fun t => { t with run := none, held := false, state := 2, cause := code })).tellTemplate mt l u code va
    | none => if r.ended && !s.runHeld r.id && !(r.byCore && open_) then s.onTpl mt l u (fun t => { t with run := none, held := false }) else s

/-- The run in progress of a template changed. -/
def State.onRun (s : State) (mt : Site) (l : Leaf) (u : Fin 4) (f : CopyRun → CopyRun) : State :=
  s.onTpl mt l u (fun t => { t with run := t.run.map f })

/-- A run has a fault of a beat, unless it has one of an earlier beat (R322, R425). -/
def CopyRun.fails (r : CopyRun) (c : Cause) (va : W64) (beat : Nat) : CopyRun :=
  match r.fault with
  | some (_, _, n) => if n ≤ beat then r else { r with fault := some (c.code, va, beat) }
  | none => { r with fault := some (c.code, va, beat) }

/-- A fault found in a run ends it at the beat, which the number of its request names (R322). -/
def State.runFails (s : State) (mt : Site) (l : Leaf) (u : Fin 4) (c : Cause) (va : W64) (beat : Nat) : State :=
  (s.onRun mt l u (fun r => r.fails c va beat)).endRun mt l u

/-- A fault found in a write of a run that may be over by now: the template becomes FAULTED all the same, with one notice for the
run, unless it has been disarmed since (R322, R426). -/
def State.writeFails (s : State) (x : Chunk) (c : Cause) (va : W64) : State :=
  let t := s.tpl x.mt x.leaf x.unit
  if t.runs x.run then s.runFails x.mt x.leaf x.unit c va x.req
  else if t.state = 0 ∨ x.told then s.endRun x.mt x.leaf x.unit
  else
    (({ s with chunks := s.chunks.map (fun y => if y.run = x.run then { y with told := true } else y) } : State).onTpl x.mt x.leaf x.unit
      (fun t => { t with state := 2, cause := c.code })).tellTemplate x.mt x.leaf x.unit c.code va

/-- The data of a source beat that a run awaits has come (R241, R404). -/
def State.runTakes (s : State) (q : Req) (v : Vec) : State :=
  s.onRun q.src.tile q.src.leaf q.src.bank (fun r => if r.remote = some q.id then r.take v else r)

/-- The read that a run awaits has failed (R241, R322, R404). -/
def State.runRefused (s : State) (q : Req) (c : Cause) : State :=
  match (s.tpl q.src.tile q.src.leaf q.src.bank).run with
  | some r => if r.remote = some q.id then s.runFails q.src.tile q.src.leaf q.src.bank c (q.body.va.getD 0) q.id else s
  | none => s

/-- The write of a destination beat has failed: its chunks are not written, and the run that sent it faults (R322, R426). -/
def State.chunkFails (s : State) (q : Req) (c : Cause) : State :=
  match s.chunks.find? (fun x => x.req == q.id) with
  | some x =>
    State.writeFails { s with chunks := s.chunks.filter (fun x => x.req != q.id) } x c (q.body.va.getD 0)
  | none => s

/-! ## Links (R403, R404) -/

/-- A link port changed. -/
def State.onLink (s : State) (p : Fin 18) (f : LinkPort → LinkPort) : State := { s with links := s.links.set p (f s.links[p]) }

/-- A source of messages: a unit of a partition, so that no partition's messages wait behind a gap of another's (R25, R403; log
45). A site number stays in the low 12 bits. -/
def linkUnit (part : BitVec 6) (unit : Nat) : Nat := unit % 16384 + 16384 * part.toNat

/-- The key of a source, at a module. -/
def linkSource (unit : Nat) (module : BitVec 8) : Nat := unit + 1048576 * module.toNat

/-- A message leaves through a link port for a module, with the next serial of its source; it is kept until the receiving
port acknowledges it (R403). -/
def State.sendLink (s : State) (p : Fin 18) (dest : BitVec 8) (unit : Nat) (part : BitVec 6) (body : LinkBody) : State :=
  let l := s.links[p]
  let src := linkUnit part unit
  let k := linkSource src dest
  let n := l.serials.get k 0
  { s with links := s.links.set p { l with serials := l.serials.set k (n + 1),
                                           out := l.out ++ [⟨s.module, src, dest, part, n, body⟩] } }

/-- The credits of a partition at a link port let one more of its messages leave (R403; log 57). -/
def State.linkRoom (s : State) (p : Fin 18) (part : BitVec 6) : Bool :=
  decide ((s.links[p].out.filter (fun m => m.part == part)).length ≤ Config.linkCredits)

/-- The messages that a port has on the link: of each partition the oldest of those not acknowledged, as far as its credits go
(R25, R403; log 57). -/
def LinkPort.carried (l : LinkPort) : List LinkMsg :=
  (l.out.zipIdx.filter (fun m => decide (((l.out.take m.2).filter (fun x => x.part == m.1.part)).length ≤ Config.linkCredits))).map
    (fun m => m.1)

/-- A request of another module is answered through the port, with 64 bytes and a cause code, 0 for none; the message takes the
credits of the partition that serves it, and the answer is kept for a request that comes again (R403, R404). -/
def State.respondTo (s : State) (p : Fin 18) (m : LinkMsg) (part : BitVec 6) (data : Vec) (code : BitVec 8) : State :=
  let r : LinkBody := .response m.unit m.serial data code
  (s.sendLink p m.module 8192 part r).onLink p (fun l => { l with replies := l.replies ++ [(m, part, r)] })

/-! ## Answers and failures -/

/-- An answer to another module waits until the gateway copies of what its request wrote are gone (R261, R404). -/
def State.replyLater (s : State) (q : Req) (p : Fin 18) (m : LinkMsg) (data : Vec) : State :=
  State.acknowledge { s with replies := s.replies ++ [{ req := q, port := p, msg := m, data := data }] } q

/-- A bundle of a program leaf written. -/
def State.putBundle (s : State) (t : Site) (l : Leaf) (a : Nat) (w : Bundle) : State :=
  s.onTile t (fun x => { x with prog := x.prog.set l (x.prog[l].writeNat (16 * a) w.toNat 16) })

/-- A request is answered with 64 bytes at whoever sent it (R229, R241, R306, R316, R389, R397, R404). -/
def State.answer (s : State) (q : Req) (payload : Vec) : State :=
  match q.why with
  | .op => (s.respond q (responseToken q.src.bank payload)).performed q.id
  | .beat => s.runTakes q payload
  | .chunk .. => s
  | .line arm => s.onFlying arm (fun f => { f with asked := false, lines := f.lines ++ [payload] })
  | .served p m => if q.kind.writes then s.replyLater q p m payload else s.respondTo p m q.src.part payload 0
  | .load k n d =>
    if s.cores[k].busy = .load q.id then
      s.onCore k (fun c => (({ c with busy := .none } : Core).wx d (BitVec.ofNat 64 (payload.toNat % 2 ^ (8 * n)))).done)
    else s
  | .bundle k t l first n =>
    if s.cores[k].busy = .load q.id then
      (s.putBundle t l first (payload.extractLsb' 0 128)).onCore k (fun c =>
        { c with busy := .tload t l (first + 1) ((q.body.va.getD 0).toNat + 16) (n - 1) })
    else s

/-- A write or a reduction is performed, and its acknowledgement sets out to whoever sent it (R256, R321, R404). -/
def State.written (s : State) (q : Req) : State :=
  match q.why with
  | .op => s.acknowledge q
  | .served p m => s.replyLater q p m 0
  | .chunk .. =>
    let due := s.cycleAt q.src.tile + Config.accessCycles 3
    { s with chunks := s.chunks.map (fun c => if c.req = q.id then { c with due := due } else c) }
  | _ => s

/-- The read that a control core awaits fails at it (R241, R389, R397). -/
def State.coreFails (s : State) (k : CoreId) (q : Req) (c : Cause) : State :=
  if s.cores[k].busy = .load q.id then
    (s.onCore k (fun x => { x with busy := .none })).ccException k c (q.body.va.getD 0)
  else s

/-- A request fails beyond its sender (R241, R243, R316, R322, R389, R404). -/
def State.failReq (s : State) (q : Req) (c : Cause) : State :=
  match q.why with
  | .op => s.failOp q c
  | .beat => s.runRefused q c
  | .chunk .. => s.chunkFails q c
  | .line arm =>
    match s.inFlight arm with
    | some f => (s.land arm).failOp { f.req with pa := q.pa } c
    | none => s
  | .served p m => s.respondTo p m q.src.part 0 c.code
  | .load k _ _ => s.coreFails k q c
  | .bundle k _ _ _ _ => s.coreFails k q c

end Sys2Proof.Machine
end

