-- ==== Sys2Proof/Machine/Memory.lean ====
section
/-!
DEFINITION. Requests beyond a tile: the memory port (R228), the home memory tile with its queues, reorder buffer,
translation and hold buffer (R229, R233, R270, R380-R386, R404), the L2 slices and gateway caches (R238-R240), host
memory (R241), the weight store (R237), acknowledgements (R256) and access counters (R385, R428).
-/
namespace Sys2Proof.Machine

/-! ## The memory port (R228) -/

/-- MEMORY_PORT_SEND: the oldest request of a tile's port reaches the port queue of the home memory tile, one in a cycle; a
release waits for what it releases (R228, R229, R256). -/
def execMemoryPortSend (t : Site) (s : State) : Host.Outcome State Fault Refusal :=
  match (s.tile t).port with
  | [] => .next s
  | q :: r =>
    let mt := homeMemTile t
    let queue := (s.mt mt).queues.get t.toNat []
    if queue.length < 32 ∧ s.settled q.waits q.dies ∧ !s.fenced (siteDie t) ∧ !(s.tile t).sent then
      .next ((s.onTile t (fun x => { x with port := r, sent := true })).onMt mt (fun m =>
        { m with queues := m.queues.set t.toNat (queue ++ [{ q with due := s.cycleAt t + Config.accessCycles 0 }]) }))
    else .next s

/-! ## Dispatch at the home memory tile (R229, R270, R381, R382) -/

/-- A place in the reorder buffer of the requester is taken, unless the request has one already (R229). -/
def State.takeRob (s : State) (q : Req) : State :=
  let t := q.src.tile.toNat
  let rob := (s.mt (homeMemTile q.src.tile)).rob.get t []
  if q.answered && !rob.any (fun e => e.id == q.id) then
    s.onMt (homeMemTile q.src.tile) (fun m => { m with rob := m.rob.set t (m.rob.get t [] ++ [{ id := q.id, src := q.src }]) })
  else s

/-- Requests under way that a condition names. -/
def State.flying (s : State) (f : Flying → Bool) : Nat := (s.flight.filter f).length

/-- The request is an `amo`. -/
def ReqBody.isAmo : ReqBody → Bool
  | .amo .. => true
  | _ => false

/-- Fewer than 64 `amo` requests of a source are unanswered, or the request is none of them that is new (R276). -/
def State.amoRoom (s : State) (q : Req) : Bool :=
  !q.body.isAmo || q.serial.isSome ||
    decide (s.flying (fun f => f.req.body.isAmo && f.req.src.tile == q.src.tile) +
      ((s.mt (homeMemTile q.src.tile)).hold.filter (fun h => h.body.isAmo && h.src.tile == q.src.tile)).length < 64)

/-- An `amo` without a serial takes the next one of its source (R276). -/
def State.takeSerial (s : State) (q : Req) : State × Req :=
  if q.body.isAmo && q.serial.isNone then
    let mt := homeMemTile q.src.tile
    let k := q.src.tile.toNat + 4096 * q.src.part.toNat
    let n := (s.mt mt).serials.get k 0
    (s.onMt mt (fun m => { m with serials := m.serials.set k (n + 1) }), { q with serial := some n })
  else (s, q)

/-- The target of a physical address for a request of a die: a slice of the own die, a gateway cache for another one, or
the place itself (R229, R240, R275). An `amo` goes to the home slice. -/
def targetOf (d : DieId) (amo : Bool) (pa : Nat) : Target :=
  match placeOf pa with
  | .gddr e => if e = d ∨ amo then .slice (sliceSite pa) else .gateway (gatewayOf d e pa)
  | .sram mt _ => .sram mt
  | .weight e _ => .weight e
  | _ => .host

/-- Two requests come from one source, whose accesses to a line keep their order: the ops of a tile, the writes of a template's
runs, or the requests of a unit of another module (R230, R321, R404). -/
def sameSource (a b : Req) : Bool :=
  a.src.tile == b.src.tile &&
    match a.why, b.why with
    | .op, .op => true
    | .chunk .., .chunk .. => a.src.leaf == b.src.leaf && a.src.bank == b.src.bank
    | .served _ x, .served _ y => x.module == y.module && x.unit == y.unit
    | _, _ => false

/-- Two requests of one source name the same 64-byte line: of physical memory once both are translated, else by their virtual
addresses in one leaf (R230, R321, R386). -/
def sameLine (a b : Req) : Bool :=
  sameSource a b &&
    match a.pa, b.pa with
    | some x, some y => x / 64 == y / 64
    | _, _ =>
      match a.body.va, b.body.va with
      | some x, some y => x.toNat / 64 == y.toNat / 64 && a.src.leaf == b.src.leaf
      | _, _ => false

/-- One increment of an access counter sets out for a request that its checks have passed, once (R385). -/
def State.count (s : State) (mt : Site) (q : Req) (e : TlbEntry) (pa : Nat) : State × Req :=
  if e.pte.getLsbD 6 && e.pte.getLsbD 5 && !q.counted then
    let cidx := e.pte.extractLsb' 52 12
    let base := (s.noticeQ (siteDie mt) q.src.part).cntbase.toNat
    let size : BitVec 2 := if e.size = 4096 then 0 else if e.size = 65536 then 1 else if e.size = 2097152 then 2 else 3
    let i : Increment := { mt := mt, leaf := q.src.leaf, part := q.src.part, asid := e.asid, cidx := cidx,
                           addr := base + 2 * cidx.toNat, va := q.body.va.getD 0, pa := pa, size := size,
                           base := BitVec.ofNat 64 e.vbase }
    ({ s with incs := s.incs ++ [i] }, { q with counted := true })
  else (s, q)

/-- The body is for an owner only (R285). -/
def ReqBody.ownerOnly : ReqBody → Bool
  | .redc .. => true
  | .fillc .. => true
  | _ => false

/-- An earlier request of the same tile to the same line stands in the hold buffer (R230, R386). -/
def MemTile.holdsLine (m : MemTile) (q : Req) : Bool := (m.hold.takeWhile (fun h => h.id != q.id)).any (fun h => sameLine h q)

/-- A request that a held one takes the place of, or a new one at the end of the hold buffer of 16; `none` when it is full
(R386). -/
def State.holdReq (s : State) (mt : Site) (q : Req) : Option State :=
  let h := (s.mt mt).hold
  if h.any (fun x => x.id == q.id) then
    some (s.onMt mt (fun m => { m with hold := m.hold.map (fun x => if x.id = q.id then q else x) }))
  else if h.length < 16 then some (s.onMt mt (fun m => { m with hold := m.hold ++ [q] }))
  else none

/-- A request is not in the hold buffer any more. -/
def State.unhold (s : State) (mt : Site) (q : Req) : State :=
  s.onMt mt (fun m => { m with hold := m.hold.filter (fun h => h.id != q.id) })

/-- A request takes its place in the reorder buffer and its serial as it leaves its port queue, in issue order (R229, R276). -/
def State.enlist (s : State) (q : Req) : State × Req :=
  let w := s.takeSerial q
  (w.1.takeRob w.2, w.2)

/-- The bank of an own SRAM window that an address falls into (R229). -/
def sramBank (pa : Nat) : Nat := pa / 64 % 16

/-- A target cannot take one more request now: a busy bank of the own window, or a full input of a slice or of a template's
queue (R229, R239, R317; log 57). -/
def State.targetBusy (s : State) (mt : Site) (q : Req) (t : Target) (pa : Nat) : Bool :=
  match t with
  | .sram m =>
    m == mt && s.flight.any (fun f => f.target == t && homeMemTile f.req.src.tile == mt && sramBank (f.req.pa.getD 0) == sramBank pa)
  | .slice _ => decide (Config.inputDepth < s.flying (fun f => f.target == t))
  | .engine _ =>
    match q.body with
    | .fire sel _ _ =>
      decide (Config.inputDepth < s.flying (fun f => f.target == t && match f.req.body with
        | .fire x _ _ => x == sel
        | _ => false))
    | _ => false
  | _ => false

/-- A host write is posted: performed as it is sent (R241). -/
def State.postHost (s : State) (q : Req) (pa : Nat) : State :=
  match q.body with
  | .write _ v => (s.putPhys pa 64 v.toNat).written q
  | _ => s

/-- What becomes of a request at the memory tile that translates it: it fails, it has to wait there, or it sets out or takes a
place in the hold buffer. -/
inductive Way where
  | fault (s : State) (q : Req) (f : XFault)
  | waits
  | goes (s : State)

/-- What becomes of a translated request, new or held: the checks of R381, the count of its access, the hold buffer, and the
way to its target. An `amo` that its entry leads to host memory, and a `redc` or `fillc` that no owner takes, fail PERM (R229,
R275, R285, R381, R385, R386). -/
def State.routeTranslated (s : State) (mt : Site) (q : Req) (e : TlbEntry) : Way :=
  let va := (q.body.va.getD 0).toNat
  let pa := e.pa va
  let q1 := { q with pa := some pa, xlat := none }
  match s.accessCheck q.src.part (siteDie mt) q.kind e.pte pa q.body.size with
  | some f => .fault s q1 f
  | none =>
    let w := s.enlist q1
    let r := w.1.count mt w.2 e pa
    let t := targetOf (siteDie mt) q.body.isAmo pa
    if !s.amoRoom q then .waits
    else if (q.kind.writes && e.pte.getLsbD 7) || (s.mt mt).holdsLine q1 then
      match r.1.holdReq mt { r.2 with xlat := some e } with
      | some s1 => .goes s1
      | none => .waits
    else if q.body.ownerOnly || q.body.isAmo && t == .host then .fault r.1 r.2 .perm
    else if s.targetBusy mt q t pa then .waits
    else if t = .host ∧ q.kind.writes then
      if s.flight.any (fun f => sameLine f.req q1) then .waits else .goes ((r.1.unhold mt q).postHost r.2 pa)
    else .goes ((r.1.unhold mt q).fly r.2 t)

/-- A request leaves for the owner of its range, whose input queue holds 64 requests (R270, R272). -/
def State.routeOwned (s : State) (q : Req) (e : W64) : Way :=
  let o := ownrSite e
  if s.fenced (siteDie o) then .fault s q .page
  else if 64 ≤ s.flying (fun f => f.target == .owner o) ∨ !s.amoRoom q then .waits
  else
    let w := s.enlist q
    .goes (w.1.fly w.2 (.owner o))

/-- DOMWIN selects a module for a virtual address (R404). -/
def domModule (w : W64) (va : Nat) : Option (BitVec 8) :=
  if w.getLsbD 63 ∧ va / 2 ^ 47 % 2 ^ 7 = (w.extractLsb' 0 7).toNat ∧ va < 2 ^ 54 then
    some (BitVec.ofNat 8 (va / 2 ^ 39))
  else none

/-- The SYSTEM scope binding of a partition, when the image has one (R249, R404). -/
def State.bindingOf (s : State) (part : BitVec 6) : Option (BitVec 12) :=
  match s.parts.get part.toNat none with
  | none => none
  | some p => p.tiles.findSome? (fun t =>
      let c := s.ctx t.1 t.2
      if c.sysBound then some (c.barcfg.extractLsb' 20 12) else none)

/-- What a request asks of another module (R276, R404). -/
def State.linkBody (s : State) (q : Req) : LinkBody :=
  let va : W64 := (q.body.va.getD 0) &&& 0x7FFFFFFFFF
  let b := s.bindingOf q.src.part
  match q.body with
  | .write _ v => .write b va v
  | .amo _ fn op nw _ => .amo b va fn op nw (q.serial.getD 0)
  | .redc _ v => .redc b va v
  | .fillc _ x => .fillc b va x q.src.leaf q.src.bank (q.src.chan.getD 0)
  | _ => .read b va

/-- A request leaves through a link port, and its answer is awaited (R404). -/
def State.sendRequest (s : State) (p : Fin 18) (dest : BitVec 8) (q : Req) : State :=
  let unit := linkUnit q.src.part q.src.tile.toNat
  let n := s.links[p].serials.get (linkSource unit dest) 0
  let s1 := s.sendLink p dest q.src.tile.toNat q.src.part (s.linkBody q)
  { s1 with links := s1.links.set p { s1.links[p] with awaited := s1.links[p].awaited ++ [⟨dest, unit, n, q.id⟩] } }

/-- A request leaves for another module of the domain, by the port that reaches it, whose die is not fenced (R404, R406). -/
def State.routeModule (s : State) (q : Req) (m : BitVec 8) : Way :=
  match s.domain.get m.toNat none with
  | none => .fault s q .page
  | some p =>
    if s.portFenced p then .fault s q .page
    else if !s.amoRoom q || !s.linkRoom p q.src.part then .waits
    else
      let w := s.enlist q
      .goes ((w.1.fly w.2 (.module m)).sendRequest p m w.2)

/-- A walk for a request that misses the translation cache takes one of the die's 32 walkers (R382). -/
def State.startWalk (s : State) (mt : Site) (q : Req) : State :=
  let n := (s.memTiles.filter (fun m => siteDie (BitVec.ofNat 12 m.1) == siteDie mt)).foldl
    (fun a m => a + m.2.walks.length) 0
  if (s.mt mt).walks.any (fun w => w.req.id == q.id) ∨ 32 ≤ n then s
  else
    s.onMt mt (fun m => { m with walks := m.walks ++ [{ req := q, level := 4, base := trRoot (s.trcfg mt q.src.leaf) }] })

/-- The module that DOMWIN selects for a request; one of another module is translated here (R404). -/
def State.moduleOf (s : State) (mt : Site) (q : Req) : Option (BitVec 8) :=
  match q.why with
  | .served .. => none
  | _ => domModule (s.mt mt).lf[q.src.leaf].domwin (q.body.va.getD 0).toNat

/-- A memory request at a memory tile: owner check, domain window, translation (R270, R382, R404). -/
def State.routeAccess (s : State) (mt : Site) (q : Req) : Way :=
  let va := (q.body.va.getD 0).toNat
  match (s.mt mt).lf[q.src.leaf].ownrOf va with
  | some e => s.routeOwned q e
  | none =>
    match s.moduleOf mt q with
    | some m => s.routeModule q m
    | none =>
      if 2 ^ 54 ≤ va ∨ !trEn (s.trcfg mt q.src.leaf) then .fault s q .page
      else
        match s.tlbHit mt q.src.leaf va with
        | none => .waits
        | some e => s.routeTranslated mt q e

/-- The outcome of a request in its port queue or in the hold buffer; `none` when it stays (R229, R233). -/
def Way.settle (w : Way) (mt : Site) : Option State :=
  match w with
  | .fault s q f => some (((s.unhold mt q).takeRob q).failReq q f.cause)
  | .waits => none
  | .goes s => some s

/-- The memory tile of a template selector (R306). -/
def selectorSite (sel : BitVec 11) : Site := memTileSite (sel.extractLsb' 9 2).toFin (sel.extractLsb' 2 7).toNat

/-- A memory tile belongs to a partition, and the leaf in which it serves it (R25). -/
def State.mtLeafOf (s : State) (part : BitVec 6) (mt : Site) : Option Leaf :=
  match s.parts.get part.toNat none with
  | some p => (p.mts.find? (fun m => m.1 == mt)).map (fun m => m.2)
  | none => none

/-- The key under which a memory tile keeps the refused umbra requests of a leaf of a compute tile (R290, R304). -/
def refusedKey (t : Site) (l : Leaf) : Nat := 2 * t.toNat + l.val

/-- A request sets out by its kind; an umbra request of a tile joins the refused ones that go before it (R229, R290). One whose
UMHOST entry is no longer valid takes the CHPROTO of R293 as a report (DEDUCED, log 61). -/
def State.route (s : State) (mt : Site) (q : Req) : Option State :=
  let umbra := fun (key : W32) =>
    let k := refusedKey q.src.tile q.src.leaf
    let kept := (s.mt mt).refused.get k []
    if !kept.isEmpty then some (s.onMt mt (fun m => { m with refused := m.refused.set k (kept ++ [q]) }))
    else
      match s.umhostOf q.src.tile q.src.leaf key with
      | some e => some (s.fly q (.umbra (umhostSite e)))
      | none => some (s.reportTo q (faultOf .chproto 0x0000000A) false)
  let engine := fun (sel : BitVec 11) =>
    match s.mtLeafOf q.src.part (selectorSite sel) with
    | some _ =>
      if s.targetBusy mt q (.engine (selectorSite sel)) 0 then none else some (s.fly q (.engine (selectorSite sel)))
    | none => some (s.failReq q .perm)
  match q.body with
  | .umen key .. => umbra key
  | .umlv key => umbra key
  | .umsk key _ => umbra key
  | .umini key _ => umbra key
  | .umabt key => umbra key
  | .arm _ sel => engine sel
  | .fire sel _ _ => engine sel
  | .lnch .. => some (s.fly q .master)
  | .wread _ x =>
    let d := siteDie mt
    let q1 := { q with pa := some (weightPa d x) }
    some ((s.takeRob q1).fly q1 (.weight d))
  | .read _ => (s.routeAccess mt q).settle mt
  | .write .. => (s.routeAccess mt q).settle mt
  | .amo .. => (s.routeAccess mt q).settle mt
  | .redc .. => (s.routeAccess mt q).settle mt
  | .fillc .. => (s.routeAccess mt q).settle mt

/-- A request needs a page walk. -/
def State.needsWalk (s : State) (mt : Site) (q : Req) : Bool :=
  match q.body with
  | .read ea => walks ea
  | .write ea _ => walks ea
  | .amo ea .. => walks ea
  | .redc ea _ => walks ea
  | .fillc ea _ => walks ea
  | _ => false
where
  /-- The address misses the cache, and no owner or module takes it. -/
  walks (ea : W64) : Bool :=
    let f := (s.mt mt).lf[q.src.leaf]
    (f.ownrOf ea.toNat).isNone && (s.moduleOf mt q).isNone && decide (ea.toNat < 2 ^ 54) &&
      trEn (s.trcfg mt q.src.leaf) && (s.tlbHit mt q.src.leaf ea.toNat).isNone

/-- A request that the memory tile itself sends, for a copy run, an `arm` or another module: what misses the translation cache
is walked at once (R306, R316, R404). -/
def State.routeNow (s : State) (mt : Site) (q : Req) : Way :=
  if s.needsWalk mt q then
    match s.translateNow mt q.src.leaf (q.body.va.getD 0).toNat with
    | none => .waits
    | some (.error f) => .fault s q f
    | some (.ok (_, s1)) => s1.routeAccess mt q
  else s.routeAccess mt q

/-- The key of an umbra request (R293). -/
def ReqBody.umbraKey (b : ReqBody) : Option W32 :=
  match b with
  | .umen key .. => some key
  | .umlv key => some key
  | .umsk key _ => some key
  | .umini key _ => some key
  | .umabt key => some key
  | _ => none

/-- The registers of a memory tile that a request is routed by: UMHCFG and UMHOST of its key, or OWNR0-7, TRCFG and DOMWIN (R229,
R289). -/
def State.routingRegs (s : State) (mt : Site) (q : Req) : List Nat :=
  match q.body.umbraKey with
  | some key => [0x08, 0x40 + umbraHost key (s.mtLeaf mt q.src.leaf).umhcfg.toNat]
  | none => [0, 1, 2, 3, 4, 5, 6, 7, 0x0C, 0x0D]

/-- The walk that serves a request is not needed any more: an entry that another walk has filled translates it (R382). -/
def MemTile.endWalk (m : MemTile) (q : Req) : MemTile := { m with walks := m.walks.filter (fun w => w.req.id != q.id) }

/-- PORT_QUEUE_DISPATCH: the head of a tile's port queue sets out, or starts its page walk, or waits (R229, R382); it waits at a
damaged register (R375). -/
def execPortQueueDispatch (mt t : Site) (s : State) : Host.Outcome State Fault Refusal :=
  match (s.mt mt).queues.get t.toNat [] with
  | [] => .next s
  | q :: r =>
    let robFull := decide (64 ≤ ((s.mt mt).rob.get t.toNat []).length)
    if robFull ∨ s.fenced (siteDie mt) then .next s
    else
      match (s.routingRegs mt q).find? (fun n => s.regBad mt q.src.leaf n) with
      | some n => .next (s.tellReg mt q.src.leaf q.src.part n)
      | none =>
        if s.needsWalk mt q then .next (s.startWalk mt q)
        else
          let s1 := s.onMt mt (fun m => { m.endWalk q with queues := m.queues.set t.toNat r })
          .next ((s1.route mt q).getD s)

/-- The request of a walk leaves its port queue or the hold buffer. -/
def MemTile.dropReq (m : MemTile) (q : Req) : MemTile :=
  { m with queues := m.queues.set q.src.tile.toNat ((m.queues.get q.src.tile.toNat []).filter (fun r => r.id != q.id)),
           hold := m.hold.filter (fun r => r.id != q.id) }

/-- A leaf that a walk has found overlaps a range that a `tinv` named while the walk was in progress: it fills no entry, and
the request walks again (R383, R384). -/
def Walk.stale (w : Walk) (vbase size : Nat) : Bool := w.avoid.any (fun r => decide (vbase < r.2 ∧ r.1 < vbase + size))

/-- PAGE_WALK: one table read of a walk. A leaf fills the cache, unless a `tinv` reached the walk: then it walks again; a
fault fills nothing and fails the request (R380, R382, R383). -/
def execPageWalk (mt : Site) (i : Nat) (s : State) : Host.Outcome State Fault Refusal :=
  match (s.mt mt).walks[i]? with
  | none => .next s
  | some w =>
    let l := w.req.src.leaf
    let va := (w.req.body.va.getD 0).toNat
    let r := s.walkVia (siteDie mt) w.base va w.level
    let drop := r.2.onMt mt (fun m => { m with walks := m.walks.eraseIdx i })
    match r.1 with
    | .wait => .next s
    | .table b =>
      .next (r.2.onMt mt (fun m => { m with walks := m.walks.set i { w with level := w.level - 1, base := b } }))
    | .leaf e pbase size =>
      if w.stale (va / size * size) size then .next drop
      else .next (drop.onMt mt (fun m => m.fillTlb ⟨trAsid (s.trcfg mt l), va / size * size, size, e, pbase⟩))
    | .fault f =>
      if w.stale va 1 then .next drop
      else .next (((drop.onMt mt (fun m => m.dropReq w.req)).takeRob w.req).failReq w.req f.cause)

/-- A held request moves: a `tinv` has dropped its translation, or it waits behind no earlier request to its line any more and
its own entry does not hold it (R386). -/
def State.heldMoves (s : State) (mt : Site) (q : Req) : Bool :=
  match q.xlat with
  | none => true
  | some e => !(q.kind.writes && e.pte.getLsbD 7) && !(s.mt mt).holdsLine q

/-- HELD_WRITE_RETRANSLATE: the first held request that can move translates again when it has lost its translation, and is held
again, sent on, or faulted by the entry that it finds (R386). -/
def execHeldWriteRetranslate (mt : Site) (s : State) : Host.Outcome State Fault Refusal :=
  match (s.mt mt).hold.find? (s.heldMoves mt) with
  | none => .next s
  | some q =>
    match q.xlat, s.tlbHit mt q.src.leaf (q.body.va.getD 0).toNat with
    | some e, _ => .next (((s.routeTranslated mt q e).settle mt).getD s)
    | none, none => .next (s.startWalk mt q)
    | none, some e => .next ((((s.onMt mt (fun m => m.endWalk q)).routeTranslated mt q e).settle mt).getD s)

/-! ## Targets (R230, R235, R238-R241) -/

/-- No earlier request of the same tile to the same line is still under way (R230). -/
def State.firstOfLine (s : State) (q : Req) : Bool :=
  !s.flight.any (fun f => decide (f.req.id < q.id) && sameLine f.req q)

/-- The die of a target that is fenced off (R406). -/
def State.targetFenced (s : State) : Target → Bool
  | .sram mt => s.fenced (siteDie mt)
  | .slice t => s.fenced (siteDie t)
  | .weight d => s.fenced d
  | .owner mt => s.fenced (siteDie mt)
  | .umbra mt => s.fenced (siteDie mt)
  | .engine mt => s.fenced (siteDie mt)
  | .gateway n => s.fenced (Fin.ofNat 4 (gatewayDie n))
  | _ => false

/-- The words of a store that are written first: of a copy's beat, one of its two chunks whole (R235, R259, R321; log 55). -/
def Req.firstWords (q : Req) : BitVec 16 :=
  match q.why with
  | .chunk .. => if (Config.firstWords q.id).getLsbD 0 then 0x00FF else 0xFF00
  | _ => Config.firstWords q.id

/-- The partition whose graph makes a write: none for a run of a control core (R260, R318). -/
def Req.writer (q : Req) : Option (BitVec 6) :=
  match q.why with
  | .chunk true _ => none
  | _ => some q.src.part

/-- A read or a write takes effect at its physical address and is answered or acknowledged. The words of a store are written
in two parts, between which a reader sees some and not others (R235, R238, R375; log 55). -/
def State.takeEffect (s : State) (f : Flying) (pa : Nat) : State :=
  let id := f.req.id
  match f.req.body with
  | .write _ v =>
    let m := if f.half then ~~~f.req.firstWords else f.req.firstWords
    let s1 := s.putLine pa v m f.via id f.req.writer
    if f.half then (s1.land id).written f.req else s1.onFlying id (fun x => { x with half := true })
  | _ =>
    if s.lineBad pa then (s.land id).failReq f.req .ecc
    else (s.land id).answer f.req (s.mem.readVec pa)

/-- SRAM_BANK_ACCESS (R229). -/
def execSramBankAccess (i : Nat) (s : State) : Host.Outcome State Fault Refusal :=
  match s.inFlight i with
  | some f =>
    match f.target with
    | .sram mt =>
      if f.req.body.isAmo ∨ !s.firstOfLine f.req then .next s
      else if s.fenced (siteDie mt) then .next ((s.land i).failReq f.req .page)
      else if !s.pathOpen (siteDie f.req.src.tile) (siteDie mt) then .next s
      else .next (s.takeEffect f (f.req.pa.getD 0))
    | _ => .next s
  | none => .next s

/-- WEIGHT_STORE_READ: an access to a bank that is not in refresh (R236, R237, R318); a write waits for the refresh as a read does
(DEDUCED, log 25). -/
def execWeightStoreRead (i : Nat) (s : State) : Host.Outcome State Fault Refusal :=
  match s.inFlight i with
  | some f =>
    match f.target with
    | .weight d =>
      let pa := f.req.pa.getD 0
      if !s.firstOfLine f.req then .next s
      else if s.fenced d then .next ((s.land i).failReq f.req .page)
      else if !s.pathOpen (siteDie f.req.src.tile) d || s.refreshes pa then .next s
      else .next (s.takeEffect f pa)
    | _ => .next s
  | none => .next s

/-- WEIGHT_STORE_REFRESH: the window moves on with the die's cycle count, from which the bank in refresh follows; the
stored data stays (R17, R237). -/
def execWeightStoreRefresh (_d : DieId) (s : State) : Host.Outcome State Fault Refusal := .next s

/-- GATEWAY_REQUEST: a read that hits is answered from the copy; everything else goes on to the home slice, where a write
updates the copy as it takes effect (R240). A copy in error is dropped, and counted as corrected (R375). -/
def execGatewayRequest (i : Nat) (s : State) : Host.Outcome State Fault Refusal :=
  match s.inFlight i with
  | some f =>
    match f.target with
    | .gateway n =>
      let pa := f.req.pa.getD 0
      let sec := sectorOf pa
      let home : Target := .slice (sliceSite pa)
      let on := fun (x : State) => x.onFlying i (fun y => { y with target := home, via := some n })
      let shut := !s.pathOpen (siteDie f.req.src.tile) (Fin.ofNat 4 (homeDie pa)) || s.targetBusy (homeMemTile f.req.src.tile) f.req home pa
      if !s.firstOfLine f.req then .next s
      else if s.targetFenced f.target ∨ s.targetFenced home then .next ((s.land i).failReq f.req .page)
      else if s.ecc.contains (.gateway n (pa / 64 * 64)) then
        .next ({ s.dropCopy n sec with ecc := s.ecc.filter (fun e => e != Ecc.gateway n (pa / 64 * 64)) }.onDie
          (Fin.ofNat 4 (gatewayDie n)) Die.countEcc)
      else
        match s.copyAt n sec, f.req.body with
        | some v, .read _ => .next ((s.land i).answer f.req (v.extractLsb' (8 * (pa % 128)) 512))
        | _, _ => if shut then .next s else .next (on s)
    | _ => .next s
  | none => .next s

/-- GATEWAY_INVALIDATION: the copies of a line leave a gateway cache, when the way from the home slice is open (R10, R240;
log 58). -/
def execGatewayInvalidation (i : Nat) (s : State) : Host.Outcome State Fault Refusal :=
  match s.invals[i]? with
  | none => .next s
  | some v =>
    let s1 := { s with invals := s.invals.eraseIdx i }
    if !s.pathOpen (Fin.ofNat 4 (homeDie v.sector)) (Fin.ofNat 4 (gatewayDie v.gateway)) then .next s
    else .next (s1.applyInval v)

/-- A read that came through a gateway leaves a copy there, and the slice notes it; a sector with an uncorrectable error leaves
none (R240, R375). -/
def State.keepCopy (s : State) (f : Flying) (pa : Nat) : State :=
  match f.via with
  | none => s
  | some n => if s.lineBad (sectorOf pa) || s.lineBad (sectorOf pa + 64) then s else s.copyIn n pa

/-- A request takes effect at its slice (R238, R240). -/
def State.atSlice (s : State) (t : Site) (f : Flying) (pa : Nat) (dirty : Bool) : State :=
  let s1 := match f.req.body with
    | .write .. => s.onSlice t (fun x =>
        { x with dirty := if dirty && !x.dirty.contains (sectorOf pa) then x.dirty ++ [sectorOf pa] else x.dirty })
    | _ => s.keepCopy f pa
  s1.takeEffect f pa

/-- The request writes. -/
def ReqBody.isWrite : ReqBody → Bool
  | .write .. => true
  | _ => false

/-- L2_REQUEST: a read of a sector in the pending-write filter waits. A held sector answers; otherwise the slice allocates
the sector in a miss register and fills it, or passes the request by: a read to GDDR7, a write into the filter. An `amo`
waits for a miss register (R238, R239, R275). -/
def execL2Request (i : Nat) (evict : Option Nat) (s : State) : Host.Outcome State Fault Refusal :=
  match s.inFlight i with
  | some f =>
    match f.target with
    | .slice t =>
      let pa := f.req.pa.getD 0
      let sec := sectorOf pa
      let filter := s.filters.filter (fun e => e.1 == t)
      let s1 := match evict with
        | some v => s.evict t v
        | none => s
      let x := s.slice t
      if f.fill ∨ !s.firstOfLine f.req then .next s
      else if s.fenced (siteDie t) then .next ((s.land i).failReq f.req .page)
      else if f.half then .next (s.atSlice t f pa (x.held.contains sec))
      else if !f.req.body.isWrite && filter.any (fun e => e.2 == sec) then .next s
      else if x.held.contains sec then
        if f.req.body.isAmo then .next s else .next (s.atSlice t f pa true)
      else if x.miss.contains sec then .next (s.onFlying i (fun y => { y with fill := true }))
      else if x.miss.length < 64 then
        if (s1.slice t).room sec then
          .next ((s1.onSlice t (fun y => { y with miss := y.miss ++ [sec] })).onFlying i (fun y => { y with fill := true }))
        else .next s
      else if f.req.body.isAmo then .next s
      else if f.req.body.isWrite then
        if 32 ≤ filter.length then .next s
        else .next { s.atSlice t f pa false with filters := s.filters ++ [(t, sec)] }
      else .next (s.onFlying i (fun y => { y with fill := true }))
    | _ => .next s
  | none => .next s

/-- L2_FILL_ARRIVAL: the data of a miss arrives. An allocated sector is held from then on, and every request that waits
for it goes on; a bypassed read is answered (R238). -/
def execL2FillArrival (i : Nat) (s : State) : Host.Outcome State Fault Refusal :=
  match s.inFlight i with
  | some f =>
    match f.target with
    | .slice t =>
      let pa := f.req.pa.getD 0
      let sec := sectorOf pa
      if !f.fill then .next s
      else if (s.slice t).miss.contains sec then
        let s1 := s.onSlice t (fun y => { y with miss := y.miss.filter (fun a => a != sec), held := y.held ++ [sec] })
        .next { s1 with flight := s1.flight.map (fun x =>
          if x.target == .slice t && sectorOf (x.req.pa.getD 0) == sec then { x with fill := false } else x) }
      else if s.firstOfLine f.req then .next (s.atSlice t { f with fill := false } pa false)
      else .next s
    | _ => .next s
  | none => .next s

/-- GDDR7_WRITE_ACCEPT: an entry of a pending-write filter clears (R239). -/
def execGddr7WriteAccept (i : Nat) (s : State) : Host.Outcome State Fault Refusal :=
  .next { s with filters := s.filters.eraseIdx i }

/-! ## Responses and acknowledgements (R229, R232, R233, R256) -/

/-- A token fills the next slot of a response channel, in the channel's format (R232, R233, R282). -/
def State.fillResponse (s : State) (t : Site) (l : Leaf) (ch : Fin 8) (tok : Token) (f : InCh → InCh) : State :=
  let i := (s.ctx t l).inp[ch]
  let n := (i.h + i.f) % i.depth
  let info : SlotInfo := { side := { tok.side with fmt := i.fmt } }
  let s1 := s.onTile t (fun x => x.putScratch (i.slotAddr n) 64 tok.payload.toNat)
  let fill := fun (x : InCh) => { x with slots := x.slots.set n info, f := x.f + 1 }
  s1.onCtx t l (fun c => { c with inp := c.inp.set ch (f (fill c.inp[ch])) })

/-- The entry of a reorder buffer that can be delivered: its response is there, and no earlier entry of its stream waits
(R229). -/
def robReady (l : List RobEntry) (i : Nat) : Option (RobEntry × Token) :=
  match l.find? (fun e => e.id == i) with
  | none => none
  | some e =>
    match e.resp with
    | none => none
    | some tok =>
      if (l.takeWhile (fun x => x.id != i)).any (fun x => x.src.chan == e.src.chan && x.src.leaf == e.src.leaf) then none
      else some (e, tok)

/-- RESPONSE_DELIVERY: the response of request i of a memory tile's reorder buffers fills its slot (R229, R232). -/
def execResponseDelivery (mt : Site) (i : Nat) (s : State) : Host.Outcome State Fault Refusal :=
  match (s.mt mt).rob.findSome? (fun p => (robReady p.2 i).map (fun r => (p.1, r))) with
  | none => .next s
  | some (key, e, tok) =>
    let s1 := s.onMt mt (fun m => { m with rob := m.rob.set key ((m.rob.get key []).filter (fun x => x.id != i)) })
    match e.src.chan with
    | none => .next s1
    | some ch => .next (s1.fillResponse e.src.tile e.src.leaf ch tok (fun c => { c with q := c.q - 1 }))

/-- WRITE_ACKNOWLEDGEMENT: the acknowledgement reaches the bank; the answer to another module sets out once the gateway copies
of what its request wrote are gone (R256, R261, R404). -/
def execWriteAcknowledgement (i : Nat) (s : State) : Host.Outcome State Fault Refusal :=
  match s.acking[i]? with
  | none => .next s
  | some a =>
    let s1 := { s with acking := s.acking.eraseIdx i }
    match s.replies.find? (fun r => r.req.id == a.id) with
    | none => .next (s1.performed a.id)
    | some r =>
      if s.invals.any (fun v => v.id == a.id) then .next s
      else
        let s2 := { s1 with replies := s1.replies.filter (fun x => x.req.id != a.id) }
        .next (s2.respondTo r.port r.msg r.req.src.part r.data 0)

/-- READY_TOKEN_DELIVERY: a ready, timeout, reset or refused token fills its reserved slot; the die of its tile then withdraws
a report that stands. One that arrives in the decision cycle of a swap is recorded for the restore (R282, R286, R344,
R355). -/
def execReadyTokenDelivery (i : Nat) (s : State) : Host.Outcome State Fault Refusal :=
  match s.ready[i]? with
  | none => .next s
  | some r =>
    if r.held ∨ s.away r.tile r.leaf then .next s
    else if s.recordsNow r.tile r.leaf then .next { s with ready := s.ready.set i { r with held := true } }
    else
      .next (({ s with ready := s.ready.eraseIdx i }.fillResponse r.tile r.leaf r.ch r.tok
        (fun c => { c with rn := c.rn - 1 })).withdrawReport (s.ctx r.tile r.leaf).graph (siteDie r.tile))

/-- NOTIFY_TOKEN_DELIVERY: a launch notify token fills its reserved slot, as a ready token does (R348). -/
def execNotifyTokenDelivery (i : Nat) (s : State) : Host.Outcome State Fault Refusal := execReadyTokenDelivery i s

/-! ## Counters and invalidation (R383-R385, R428) -/

/-- The TYPE 3 record of an increment that makes its counter equal MIGTHR (R373, R385, R428). -/
def migrationRecord (slice : Site) (i : Increment) (v : W16) : Notice :=
  noticeOf [noticeW0 0 0 3, noticeW1 i.part slice 0 0, 0, 0, i.va.extractLsb' 0 32, i.va.extractLsb' 32 32,
    BitVec.ofNat 32 i.pa, BitVec.ofNat 32 (i.pa / 2 ^ 32), i.asid.setWidth 32, i.cidx.setWidth 32, v.setWidth 32,
    i.size.setWidth 32, 0, i.base.extractLsb' 0 32, i.base.extractLsb' 32 32]

/-- COUNTER_INCREMENT: the increment is applied at its slice, saturating; increments of one memory tile to one counter line, the
512-byte line of the slice, keep their order (R223, R385, R428). One whose counter cannot be read is lost (log 36). -/
def execCounterIncrement (n : Nat) (s : State) : Host.Outcome State Fault Refusal :=
  match s.incs[n]? with
  | none => .next s
  | some i =>
    let gone := { s with incs := s.incs.eraseIdx n }
    if (s.incs.take n).any (fun j => j.mt == i.mt && lineOf j.addr == lineOf i.addr) then .next s
    else if s.fenced (siteDie (sliceSite i.addr)) || s.lineBad i.addr then .next gone
    else if s.pathShut (siteDie i.mt) i.addr then .next s
    else
      match (s.passSlice i.addr false).bind (fun x => x.passSlice i.addr true) with
      | none => .next s
      | some _ =>
      let old : W16 := BitVec.ofNat 16 (s.mem.readNat i.addr 2)
      let new : W16 := if old = 0xFFFF then old else old + 1
      let t := sliceSite i.addr
      let thr := (s.noticeQ (siteDie t) i.part).migthr
      let s1 := (gone.touch i.addr false).putHome i.addr 2 new.toNat (some i.part)
      if old ≠ 0xFFFF ∧ new = thr ∧ thr ≠ 0 then
        .next (s1.notify (siteDie t) i.part (migrationRecord t i new))
      else .next s1

/-- An address range of an ASID overlaps a cached translation (R383). -/
def TlbEntry.overlaps (t : TlbEntry) (asid : W16) (lo hi : Nat) : Bool :=
  t.asid == asid && decide (t.vbase < hi ∧ lo < t.vbase + t.size)

/-- The extents of the translations of an ASID that a `tinv` drops at a memory tile, and the range itself (R383). -/
def MemTile.dropped (m : MemTile) (asid : W16) (lo hi : Nat) : List (Nat × Nat) :=
  (lo, hi) :: (m.tlb.filter (fun t => t.overlaps asid lo hi)).map (fun t => (t.vbase, t.vbase + t.size))

/-- An address lies in one of the extents. -/
def inExtents (l : List (Nat × Nat)) (va : Nat) : Bool := l.any (fun r => decide (r.1 ≤ va ∧ va < r.2))

/-- A request has a virtual address of the sender's leaf: any but a load of a control core (R389). -/
def Req.virtual (q : Req) : Bool :=
  match q.why with
  | .load .. => false
  | _ => true

/-- A request of an ASID whose address lies in one of the extents that its home memory tile drops (R383). -/
def State.tinvHits (s : State) (asid : W16) (lo hi : Nat) (q : Req) : Bool :=
  q.virtual && s.asidOf q.src.tile q.src.leaf == asid &&
    match q.body.va with
    | some va => inExtents ((s.mt (homeMemTile q.src.tile)).dropped asid lo hi) va.toNat
    | none => false

/-! ### Walks of a copy template (R307, R308) -/

/-- The four counts of a walk whose record starts at a word (R307, R308). -/
def Template.counts (t : Template) (at_ : Nat) : List Nat :=
  let w := fun (i : Nat) => t.w.toList.getD i 0
  let a := w (at_ + 2)
  let b := w (at_ + 3)
  [(a.extractLsb' 0 16).toNat + 1, (a.extractLsb' 16 16).toNat + 1, (b.extractLsb' 0 16).toNat + 1,
    (b.extractLsb' 16 16).toNat + 1]

/-- Beats of a walk (R308). -/
def Template.walkLen (t : Template) (at_ : Nat) : Nat := (t.counts at_).foldl (fun n c => n * c) 1

/-- Address of beat n of a walk with an offset: dimension 0 runs fastest, with stride 64 (R308, R310). -/
def Template.beatAddr (t : Template) (at_ : Nat) (off : W32) (n : Nat) : W64 :=
  let w := fun (i : Nat) => t.w.toList.getD i 0
  let c := t.counts at_
  let i0 := n % c.getD 0 1
  let i1 := n / c.getD 0 1 % c.getD 1 1
  let i2 := n / (c.getD 0 1 * c.getD 1 1) % c.getD 2 1
  let i3 := n / (c.getD 0 1 * c.getD 1 1 * c.getD 2 1) % c.getD 3 1
  let base : W64 := w (at_ + 1) ++ w at_
  let stride := fun (k : Nat) (i : Nat) => (w (at_ + 3 + k)).signExtend 64 * BitVec.ofNat 64 i
  base + (off &&& 0xFFFFFFC0).signExtend 64 + BitVec.ofNat 64 (64 * i0) + stride 1 i1 + stride 2 i2 + stride 3 i3

/-- The source addresses that the run in progress of a template has read, or is reading (R308, R310). -/
def Template.reads (t : Template) : List Nat :=
  match t.run with
  | none => []
  | some r => (List.range (r.input.length + (if r.remote.isSome then 1 else 0))).map (fun n => (t.beatAddr 2 r.soff n).toNat)

/-- The run in progress, when it has read a source beat in one of the extents, or is reading one (R425). -/
def Template.readsIn (t : Template) (ext : List (Nat × Nat)) : List Nat :=
  match t.run with
  | none => []
  | some r => if t.reads.any (inExtents ext) then [r.id] else []

/-- A run is in progress and no write of it waits for the hold buffer: a `tinv` does not wait for a held write (R383, R386,
R425). -/
def Template.goesOn (t : Template) (id : Nat) : Bool := t.runs id && !t.held

/-- A held request loses its translation to a `tinv` (R383, R386). -/
def Req.unmap (q : Req) (asid : W16) (lo hi : Nat) : Req :=
  match q.xlat with
  | some e => if e.overlaps asid lo hi then { q with pa := none, xlat := none } else q
  | none => q

/-- The drop of a `tinv` at every memory tile: cached translations go, walks of the ASID that are under way are marked, held
requests lose their translation; what has been translated through a dropped entry is to be awaited (R383, R386, R425). -/
def State.tinvDrop (s : State) (k : CoreId) (asid : W16) (lo hi : Nat) : State :=
  let waits := (s.flight.filter (fun f => f.req.pa.isSome && s.tinvHits asid lo hi f.req)).map (fun f => f.req.id) ++
    (s.replies.filter (fun r => r.req.pa.isSome && s.tinvHits asid lo hi r.req)).map (fun r => r.req.id)
  let lost := fun (m : MemTile) =>
    { m with tlb := m.tlb.filter (fun t => !t.overlaps asid lo hi),
             walks := m.walks.map (fun w =>
               if s.asidOf w.req.src.tile w.req.src.leaf = asid then { w with avoid := w.avoid ++ [(lo, hi)] } else w),
             hold := m.hold.map (fun q => q.unmap asid lo hi) }
  let ext := fun (mt : Site) => (s.mt mt).dropped asid lo hi
  let mine := fun (mt : Site) (l : Leaf) => trAsid (s.trcfg mt l) == asid
  let plain := fun (c : Chunk) => s.flight.any (fun f => f.req.id == c.req && f.req.pa.isNone)
  let chunks := s.chunks.filter (fun c => mine c.mt c.leaf &&
    (c.reads.any (inExtents (ext c.mt)) || inExtents (ext c.mt) c.va && !plain c))
  let incs := s.incs.filter (fun i => i.asid == asid && inExtents (ext i.mt) i.va.toNat)
  let runs := s.memTiles.flatMap (fun m => (List.finRange 2).flatMap (fun l =>
    if mine (BitVec.ofNat 12 m.1) l then m.2.lf[l].tpl.toList.flatMap (fun t => t.readsIn (ext (BitVec.ofNat 12 m.1))) else []))
  let t : Tinv := { core := k, range := (lo, hi), waits := waits, runs := runs, chunks := chunks, incs := incs }
  { s with memTiles := s.memTiles.map (fun m => (m.1, lost m.2)), tinvs := s.tinvs ++ [t] }

/-- A walk that the `tinv` met for an address of its range is still in progress (R383). -/
def Walk.metBy (w : Walk) (t : Tinv) : Bool :=
  w.avoid.contains t.range && inExtents [t.range] (w.req.body.va.getD 0).toNat

/-- A chunk is acknowledged, or held at a page with M = 1, for which a `tinv` does not wait (R383, R386). -/
def State.chunkOver (s : State) (c : Chunk) : Bool := !s.chunks.contains c || s.holds c.req

/-- Everything that the acknowledgement of a `tinv` waits for is over (R383). -/
def State.tinvDone (s : State) (t : Tinv) : Bool :=
  t.waits.all (fun n =>
    !s.acks.contains n && !s.flight.any (fun f => f.req.id == n) && !s.replies.any (fun r => r.req.id == n)) &&
  !s.memTiles.any (fun m => m.2.walks.any (fun w => w.metBy t)) &&
  t.runs.all (fun n => s.chunks.all (fun c => c.run != n || s.chunkOver c) && (s.runHeld n || !s.memTiles.any (fun m =>
    m.2.lf.toList.any (fun f => f.tpl.toList.any (fun p => p.goesOn n))))) &&
  t.chunks.all s.chunkOver && t.incs.all (fun i => !s.incs.contains i)

end Sys2Proof.Machine
end

