-- ==== Sys2Proof/Machine/Owner.lean ====
section
/-!
DEFINITION. Owner nodes and contribution counters (R269-R272, R278-R286), and the application of an `amo` at whichever
unit its address names (R274-R277).
-/
namespace Sys2Proof.Machine

/-! ## Lanes (R271, R278) -/

/-- A lane that holds an F32 word exactly (R271, R272). -/
def laneOf (x : W32) : ExactLane :=
  match decodeF fmtF32 x.toNat with
  | .nan => { nan := true }
  | .inf n => { pinf := !n, ninf := n }
  | .fin _ d => { sum := d.at (-149) }

/-- What a read of a lane returns: its sum rounded once, or its special (R278). -/
def ExactLane.value (x : ExactLane) : W32 :=
  BitVec.ofNat 32 (roundFV fmtF32 .rne false
    (if x.nan || (x.pinf && x.ninf) then .nan
     else if x.pinf then .inf false
     else if x.ninf then .inf true
     else .fin (decide (x.sum < 0)) ⟨x.sum, -149⟩))

/-- A contribution added to a lane (R281). -/
def ExactLane.add (a b : ExactLane) : ExactLane :=
  { sum := a.sum + b.sum, pinf := a.pinf || b.pinf, ninf := a.ninf || b.ninf, nan := a.nan || b.nan }

/-- A lane of a CTYPE 2 range, by the virtual address of its word. -/
def MtLeaf.lane (f : MtLeaf) (va : Nat) : ExactLane := f.lanes.get va {}

/-- A word of an owned range as a read returns it (R272, R278). -/
def MtLeaf.ownedWord (f : MtLeaf) (ct : BitVec 2) (va : Nat) : W32 :=
  if ct = 2 then (f.lane va).value else f.store.readW32 va

/-- A word of an owned range set to a value (R272). -/
def MtLeaf.setOwned (f : MtLeaf) (ct : BitVec 2) (va : Nat) (x : W32) : MtLeaf :=
  if ct = 2 then { f with lanes := f.lanes.set va (laneOf x) } else { f with store := f.store.writeW32 va x }

/-- A contribution added to a word of a counted range (R281). -/
def MtLeaf.addOwned (f : MtLeaf) (ct : BitVec 2) (va : Nat) (x : W32) : MtLeaf :=
  if ct = 2 then { f with lanes := f.lanes.set va ((f.lane va).add (laneOf x)) }
  else { f with store := f.store.writeW32 va (f.store.readW32 va + x) }

/-- A function on the words of `n` consecutive addresses, in order. -/
def MtLeaf.eachWord (f : MtLeaf) (g : MtLeaf → Nat → MtLeaf) : Nat → MtLeaf
  | 0 => f
  | n + 1 => g (MtLeaf.eachWord f g n) n

/-- The 64 bytes of an owned line (R272). -/
def MtLeaf.ownedLine (f : MtLeaf) (ct : BitVec 2) (va : Nat) : Vec :=
  packVec 32 16 (fun i => (f.ownedWord ct (va + 4 * i)).toNat)

/-- An owned line written (R272). -/
def MtLeaf.setLine (f : MtLeaf) (ct : BitVec 2) (va : Nat) (v : Vec) : MtLeaf :=
  f.eachWord (fun y i => y.setOwned ct (va + 4 * i) (getF v 32 i)) 16

/-! ## The owner's storage (R271; log 10) -/

/-- Bytes of storage that a sector of a range takes (R271). -/
def sectorBytes (ct : BitVec 2) : Nat := if ct = 1 then 192 else if ct = 2 then 1344 else 128

/-- Base virtual address of a range (R269). -/
def ownrBase (e : W64) : Nat := (e.extractLsb' 12 42).toNat * 4096
/-- Size of a range in bytes (R269). -/
def ownrSize (e : W64) : Nat := ((e.extractLsb' 54 7).toNat + 1) * 4096

/-- The valid ranges of a leaf that a memory tile owns, in entry order. -/
def MtLeaf.owned (f : MtLeaf) (mt : Site) : List W64 := f.ownr.toList.filter (fun e => e.getLsbD 63 && ownrSite e == mt)

/-- The range, the sector's virtual address and the offset in the sector of a byte of owner storage (log 10). -/
def storagePlace (off : Nat) : List W64 → Option (W64 × Nat × Nat)
  | [] => none
  | e :: r =>
    let k := sectorBytes (ownrType e)
    let n := ownrSize e / 128 * k
    if off < n then some (e, ownrBase e + off / k * 128, off % k) else storagePlace (off - n) r

/-- The counter record of a sector (R278). -/
def MtLeaf.record (f : MtLeaf) (sector : Nat) : CounterRec := f.records.get sector {}
/-- The counter record of a sector replaced. -/
def MtLeaf.setRecord (f : MtLeaf) (sector : Nat) (r : CounterRec) : MtLeaf := { f with records := f.records.set sector r }

/-- The 64-bit word of a counter record (R278). -/
def CounterRec.word (r : CounterRec) : W64 :=
  let full := decide (4 ≤ r.subs.length)
  r.state ++ BitVec.ofBool r.inc ++ BitVec.ofBool r.ovr ++ BitVec.ofNat 2 (min r.subs.length 3) ++ BitVec.ofBool full ++
    0#1 ++ r.exp ++ r.rcv ++ r.tleft

/-- A word of a subscriber entry (R278; log 10). -/
def Subscriber.word (x : Subscriber) : W32 :=
  0#11 ++ 1#1 ++ BitVec.ofNat 3 x.ch.val ++ BitVec.ofNat 2 x.bank.val ++ BitVec.ofNat 1 x.leaf.val ++ 0#2 ++ x.tile

/-- The subscriber entry that a word stands for; without the valid bit it stands for none (R278; log 10). -/
def subscriberOf (x : W32) : Option Subscriber :=
  if x.getLsbD 20 then
    some { tile := x.extractLsb' 0 12, leaf := (x.extractLsb' 14 1).toFin, bank := (x.extractLsb' 15 2).toFin,
           ch := (x.extractLsb' 17 3).toFin }
  else none

/-- What a 32-bit word behind the data of a counted sector holds: half of the record, the flags of a kind, the subscriber of a
place, or nothing (R278; log 10). -/
inductive TailPlace where
  | record (half : Nat)
  | flags (kind : Fin 3)
  | subscriber (i : Nat)
  | spare
  deriving DecidableEq, Repr

/-- Where word k behind the data of a sector of a counted range stands (log 10). -/
def tailPlace (ct : BitVec 2) (k : Nat) : TailPlace :=
  if k < 2 then .record k
  else if ct = 1 then (if k < 6 then .subscriber (k - 2) else .spare)
  else if k < 5 then .flags (Fin.ofNat 3 (k - 2))
  else if k < 9 then .subscriber (k - 5)
  else .spare

/-- A flag of a lane, by its kind: +∞, −∞, NaN (R278). -/
def ExactLane.flag (x : ExactLane) (kind : Fin 3) : Bool := if kind = 0 then x.pinf else if kind = 1 then x.ninf else x.nan

/-- A flag of a lane set. -/
def ExactLane.setFlag (x : ExactLane) (kind : Fin 3) (v : Bool) : ExactLane :=
  if kind = 0 then { x with pinf := v } else if kind = 1 then { x with ninf := v } else { x with nan := v }

/-- A 32-bit word of what stands behind the data of a counted sector, by its number in owner storage (R278, R398; log 10). -/
def MtLeaf.tailWord (f : MtLeaf) (w : Nat) (ct : BitVec 2) (sector k : Nat) : W32 :=
  let r := f.record sector
  match tailPlace ct k with
  | .record h => r.word.extractLsb' (32 * h) 32
  | .flags kind => ofFields 32 1 (fun i => BitVec.ofBool ((f.lane (sector + 4 * i)).flag kind)) 32
  | .subscriber i =>
    match r.subs[i]? with
    | some x => x.word
    | none => 0
  | .spare => f.spare.get w 0

/-- Such a word written: the record is RO; a subscriber is replaced in its place, joins behind the others, or leaves when the word
has no valid bit (R278, R398; log 10). -/
def MtLeaf.setTailWord (f : MtLeaf) (w : Nat) (ct : BitVec 2) (sector k : Nat) (x : W32) : MtLeaf :=
  let r := f.record sector
  match tailPlace ct k with
  | .record _ => f
  | .flags kind => (List.range 32).foldl (fun y i =>
      { y with lanes := y.lanes.set (sector + 4 * i) ((y.lane (sector + 4 * i)).setFlag kind (x.getLsbD i)) }) f
  | .subscriber i =>
    let subs :=
      match subscriberOf x with
      | some u => if i < r.subs.length then r.subs.set i { u with module := (r.subs[i]?).bind Subscriber.module, part := f.part }
        else r.subs ++ [{ u with part := f.part }]
      | none => r.subs.eraseIdx i
    f.setRecord sector { r with subs := subs }
  | .spare => { f with spare := f.spare.set w x }

/-- A 32-bit word of owner storage as a control core reads it: of a sector of a range, or one that no range uses (R271, R398; log
10). -/
def MtLeaf.storageWord (f : MtLeaf) (mt : Site) (w : Nat) : W32 :=
  match storagePlace (4 * w) (f.owned mt) with
  | none => f.spare.get w 0
  | some (e, sector, o) =>
    let ct := ownrType e
    if ct = 2 then
      if o < 1280 then
        let lane := f.lane (sector + o / 40 * 4)
        (BitVec.ofInt 320 lane.sum).extractLsb' (8 * (o % 40)) 32
      else f.tailWord w ct sector ((o - 1280) / 4)
    else if o < 128 then f.store.readW32 (sector + o)
    else f.tailWord w ct sector ((o - 128) / 4)

/-- A control core writes a word of owner storage: data, a part of a lane sum, flags or a subscriber; only the counter record is
RO (R271, R278, R398; log 10). -/
def MtLeaf.setStorageWord (f : MtLeaf) (mt : Site) (w : Nat) (x : W32) : MtLeaf :=
  match storagePlace (4 * w) (f.owned mt) with
  | none => { f with spare := f.spare.set w x }
  | some (e, sector, o) =>
    if ownrType e = 2 then
      if o < 1280 then
        let va := sector + o / 40 * 4
        let lane := f.lane va
        let raw := setF (BitVec.ofInt 320 lane.sum) 32 (o % 40 / 4) x
        { f with lanes := f.lanes.set va { lane with sum := raw.toInt } }
      else f.setTailWord w 2 sector ((o - 1280) / 4) x
    else if o < 128 then { f with store := f.store.writeW32 (sector + o) x }
    else f.setTailWord w (ownrType e) sector ((o - 128) / 4) x

/-! ## Filling and writing back (R271) -/

/-- The address to which a page of an owned range translates, when it is readable and writable, neither K nor H, and not homed
on a fenced die (R270, R406). R270 names no other condition, so that a page may lie where no memory is, in SRAM, in the weight
store or in host memory (DESIGN CHOICE, log 65). -/
def State.ownedPage (s : State) (mt : Site) (l : Leaf) (va : Nat) : Except XFault Nat :=
  match s.walk mt l va with
  | .fault f => .error f
  | .table _ | .wait => .error .page
  | .leaf e pbase size =>
    let pa := pbase + va % size
    if !(e.getLsbD 1 && e.getLsbD 2 && !e.getLsbD 4 && !e.getLsbD 5) then .error .perm
    else if (placeOf pa).die.any s.fenced then .error .page
    else .ok pa

/-- A page of an owned range cannot be walked or read yet, for a fenced die between (R10; log 58). -/
def State.pageWaits (s : State) (mt : Site) (l : Leaf) (va : Nat) : Bool :=
  match s.walk mt l va with
  | .wait => true
  | .leaf _ pbase size => s.pathShut (siteDie mt) (pbase + va % size)
  | _ => false

/-- The pages of a range, by virtual address (R270). -/
def ownrPages (e : W64) : List Nat := (List.range (ownrSize e / 4096)).map (fun i => ownrBase e + 4096 * i)

/-- The first page of a list that fails (R270). -/
def State.badPage (s : State) (mt : Site) (l : Leaf) : List Nat → Option (XFault × Nat)
  | [] => none
  | va :: r =>
    match s.ownedPage mt l va with
    | .error f => some (f, va)
    | .ok _ => s.badPage mt l r

/-- A page of memory passes its home slices, sector by sector (R238; log 25). -/
def State.touchPage (s : State) (pa : Nat) (write : Bool) : State :=
  (List.range 32).foldl (fun x i => x.touch (pa + 128 * i) write) s

/-- One page of a range filled from its backing memory, whose address is kept for the write-back; counter records are in
their reset state (R270, R271, R278). -/
def State.fillPage (s : State) (mt : Site) (l : Leaf) (ct : BitVec 2) (va : Nat) : State :=
  match s.ownedPage mt l va with
  | .error _ => s
  | .ok pa =>
    (s.touchPage pa false).onMtLeaf mt l (fun f =>
      { f.eachWord (fun y i => y.setOwned ct (va + 4 * i) (s.mem.readW32 (pa + 4 * i))) 1024 with pages := f.pages.set va pa })

/-- `n` words of an owned page written to its backing memory (R271). -/
def Memory.takeOwned (m : Memory) (f : MtLeaf) (ct : BitVec 2) (va pa : Nat) : Nat → Memory
  | 0 => m
  | n + 1 => (Memory.takeOwned m f ct va pa n).writeW32 (pa + 4 * n) (f.ownedWord ct (va + 4 * n))

/-- The address that backs a page of a range, as the walk at the start of the graph found it, while the traffic of its memory
tile can reach it: neither lies on a fenced die (R270, R406). -/
def State.backing (s : State) (mt : Site) (f : MtLeaf) (va : Nat) : Option Nat :=
  match f.pages.find? (fun p => p.1 == va) with
  | none => none
  | some (_, pa) => if s.fenced (siteDie mt) || (placeOf pa).die.any s.fenced then none else some pa

/-- One page of a range written back to the memory that the walk at the start of the graph found, through the slices of its
lines and with their invalidations; one that no traffic reaches is not (R238, R240, R270, R271, R406; log 58). -/
def State.backPage (s : State) (mt : Site) (f : MtLeaf) (ct : BitVec 2) (va : Nat) : State :=
  match s.backing mt f va with
  | none => s
  | some pa =>
    if s.pathShut (siteDie mt) pa then s
    else
      let s1 := s.touchPage pa true
      (List.range 8).foldl (fun x i => x.invalidate (pa + 512 * i) none 0 (some f.part))
        { s1 with mem := s1.mem.takeOwned f ct va pa 1024 }

/-- The ranges that the memory tiles of a graph own, filled at its start (R271). -/
def State.fillOwners (s : State) (g : Graph) : State :=
  g.mts.foldl (fun x m =>
    let y := x.onMtLeaf m.1 m.2 (fun f => { f with store := [], lanes := [], records := [], pages := [] })
    ((y.mtLeaf m.1 m.2).owned m.1).foldl (fun z e =>
      (ownrPages e).foldl (fun w va => w.fillPage m.1 m.2 (ownrType e) va) z) y) s

/-- What a memory tile holds for a partition: in its leaf, or in the stash of a swap through memory (R304, R358). -/
def State.leafFor (s : State) (part : BitVec 6) (mt : Site) (l : Leaf) : MtLeaf :=
  match s.stash.find? (fun x => x.part == part && x.site == mt && x.leaf == l) with
  | some x => x.mtLeaf
  | none => s.mtLeaf mt l

/-- What a memory tile holds for a partition changed, in its leaf or in the stash (R304, R358). -/
def State.onLeafFor (s : State) (part : BitVec 6) (mt : Site) (l : Leaf) (f : MtLeaf → MtLeaf) : State :=
  if s.stashed part mt l then s.onStash part mt l (fun x => { x with mtLeaf := f x.mtLeaf }) else s.onMtLeaf mt l f

/-- The ranges that the memory tiles of a graph own, written back (R271). -/
def State.backOwners (s : State) (g : Graph) : State :=
  g.mts.foldl (fun x m =>
    let f := x.leafFor g.part m.1 m.2
    (f.owned m.1).foldl (fun z e => (ownrPages e).foldl (fun w va => w.backPage m.1 f (ownrType e) va) z) x) s

/-- A page of the owned ranges of a graph cannot be written back yet, for a fenced die between (R10; log 58). -/
def State.backWaits (s : State) (g : Graph) : Bool :=
  g.mts.any (fun m =>
    let f := s.leafFor g.part m.1 m.2
    (f.owned m.1).any (fun e => (ownrPages e).any (fun va => (s.backing m.1 f va).any (s.pathShut (siteDie m.1)))))

/-- A page of the owned ranges of a graph cannot be walked or read yet. -/
def State.ownersWait (s : State) (g : Graph) : Bool :=
  g.mts.any (fun m => ((s.mtLeaf m.1 m.2).owned m.1).any (fun e => (ownrPages e).any (s.pageWaits m.1 m.2)))

/-- The first page of the owned ranges of a graph that fails, with its memory tile (R270). -/
def State.ownersBad (s : State) : List (Site × Leaf) → Option (Site × XFault × Nat)
  | [] => none
  | m :: r =>
    match s.badPage m.1 m.2 (((s.mtLeaf m.1 m.2).owned m.1).flatMap ownrPages) with
    | some (f, va) => some (m.1, f, va)
    | none => s.ownersBad r

/-! ## Requests at the owner (R272) -/

/-- The owner of a request, as it stands at its memory tile: the leaf that serves the sender's partition, and the range
(R269, R272). -/
def State.ownerOf (s : State) (f : Flying) : Option (Site × Leaf × W64) :=
  match f.target with
  | .owner mt =>
    match s.mtLeafOf f.req.src.part mt with
    | none => none
    | some l => ((s.mtLeaf mt l).ownrOf (f.req.body.va.getD 0).toNat).map (fun e => (mt, l, e))
  | _ => none

/-- No earlier request waits at the same owner: it applies them in arrival order (R257, R272). -/
def State.firstAt (s : State) (f : Flying) : Bool :=
  match s.flight.find? (fun x => x.target == f.target) with
  | some x => x.req.id == f.req.id
  | none => false

/-- An uncorrectable error stands in the line of owner storage that an access at the owner reads (R277, R375). -/
def State.ownerEcc (s : State) (mt : Site) (l : Leaf) (va : Nat) : Bool := s.ecc.contains (.owner mt l (va / 64 * 64))

/-- A unit of a memory tile has acted in the present cycle, by one more than the cycle of its last use. -/
def State.usedNow (s : State) (mt : Site) (last : Nat) : Bool := last == s.cycleAt mt + 1

/-- A unit of a memory tile acts in the present cycle. -/
def State.uses (s : State) (mt : Site) (f : LastUse → Nat → LastUse) : State :=
  s.onMt mt (fun m => { m with last := f m.last (s.cycleAt mt + 1) })

/-- What a request at an owner does: `g` gives the state after it, once it is first in the queue; the owner applies one request
a cycle (R257, R272). -/
def State.atOwner (s : State) (i : Nat) (ok : ReqBody → Bool) (g : Flying → Site → Leaf → W64 → State → State) : State :=
  match s.inFlight i with
  | none => s
  | some f =>
    if !ok f.req.body ∨ !s.firstAt f then s
    else
      match f.target with
      | .owner mt =>
        if s.fenced (siteDie mt) then (s.land i).failReq f.req .page
        else if !s.pathOpen (siteDie f.req.src.tile) (siteDie mt) || s.usedNow mt (s.mt mt).last.owner then s
        else
          let s1 := (s.land i).uses mt (fun u n => { u with owner := n })
          match s.ownerOf f with
          | none => s1.failReq f.req .perm
          | some (mt, l, e) => g f mt l e s1
      | _ => s

/-- The request is an `ldg` or an `stg`. -/
def ReqBody.plain : ReqBody → Bool
  | .read _ => true
  | .write .. => true
  | _ => false
/-- The request is a `fillc`. -/
def ReqBody.isFillc : ReqBody → Bool
  | .fillc .. => true
  | _ => false
/-- The request is a `redc`. -/
def ReqBody.isRedc : ReqBody → Bool
  | .redc .. => true
  | _ => false

/-- OWNER_REQUEST: an `ldg` or `stg` on an owned range (R272). -/
def execOwnerRequest (i : Nat) (s : State) : Host.Outcome State Fault Refusal :=
  .next (s.atOwner i ReqBody.plain (fun f mt l e x =>
    let va := (f.req.body.va.getD 0).toNat
    match f.req.body with
    | .write _ v => (x.onMtLeaf mt l (fun y => y.setLine (ownrType e) va v)).written f.req
    | _ =>
      if x.ownerEcc mt l va then x.failReq f.req .ecc
      else x.answer f.req ((x.mtLeaf mt l).ownedLine (ownrType e) va)))

/-! ## Tokens of a counter (R282) -/

/-- Status word of a counter token: READY, INC, RESET, REFUSED, and OVER of the record (R282). -/
def CounterRec.status (r : CounterRec) (base : W32) : W32 := base ||| (if r.ovr then 16 else 0)

/-- The subscriber that a `fillc` with NOTIFY names: a channel here, or one of the other module that asks (R280, R282, R404). -/
def Req.subscriber (q : Req) : Subscriber :=
  match q.why with
  | .served _ m =>
    match m.body with
    | .fillc _ _ _ leaf bank ch =>
      { tile := BitVec.ofNat 12 m.unit, leaf := leaf, bank := bank, ch := ch, part := m.part, module := some m.module }
    | _ => { tile := q.src.tile, leaf := q.src.leaf, bank := q.src.bank, ch := 0, part := q.src.part }
  | _ => { tile := q.src.tile, leaf := q.src.leaf, bank := q.src.bank, ch := q.src.chan.getD 0, part := q.src.part }

/-- A token sets out from a die for a subscriber: to its reserved slot, or as a link message when it is on another module (R282,
R403, R404). -/
def State.tellSub (s : State) (from_ : Option DieId) (part : BitVec 6) (u : Subscriber) (tok : Token) : State :=
  match u.module with
  | none => s.sendReady from_ part u.tile u.leaf u.ch tok
  | some m =>
    match s.domain.get m.toNat none with
    | some p => s.sendLink p m 8192 part (.token u.part u.tile u.leaf u.bank u.ch tok.side.pred tok.payload)
    | none => s

/-- One token to each held subscriber of a record (R282). -/
def State.tellSubs (s : State) (from_ : Option DieId) (part : BitVec 6) (r : CounterRec) (sector : Nat) (subs : List Subscriber) (status : W32) :
    State :=
  subs.foldl (fun x u =>
    x.tellSub from_ part u (readyToken u.bank r.rcv r.exp (r.status status) (BitVec.ofNat 32 sector) (status == 1))) s

/-- The state of a counter that gets its expected count declared (R280). -/
def CounterRec.declare (r : CounterRec) (count : W16) (limit : BitVec 24) : CounterRec :=
  { r with exp := count, tleft := limit, timed := limit != 0, cycles := 0,
           state := if count.toNat ≤ r.rcv.toNat then 2 else 1, ovr := decide (count.toNat < r.rcv.toNat) }

/-- The timeout of a record is due: TLEFT has counted down to 0 in ARMED or OPEN state with EXP ≠ 0 (R283). -/
def CounterRec.timeoutDue (r : CounterRec) : Bool := r.timed && r.tleft == 0 && r.state != 2 && r.state != 3 && r.exp != 0

/-- A sector reset by a `fillc` with COUNT 0: lanes, flags and record (R280). -/
def MtLeaf.resetSector (f : MtLeaf) (ct : BitVec 2) (sector : Nat) : MtLeaf :=
  (f.eachWord (fun y i => y.setOwned ct (sector + 4 * i) 0) 32).setRecord sector {}

/-- How a request on a counted range ends: done, faulted, a `fillc` turned away by its record, or not yet, while a timeout of
the sector is due (R280, R281, R283, R285). -/
inductive Counted where
  | done
  | fault (c : Cause)
  | turned (r : CounterRec)
  | wait
  deriving DecidableEq, Repr

/-- The subscription of a `fillc` with NOTIFY (R280). -/
def State.subscribe (s : State) (mt : Site) (l : Leaf) (part : BitVec 6) (u : Subscriber) (sector : Nat) (r : CounterRec) :
    State × Counted :=
  if 4 ≤ r.subs.length then (s, .turned r)
  else if r.state = 2 then (s.tellSubs (some (siteDie mt)) part r sector [u] 1, .done)
  else if r.state = 3 then (s.tellSubs (some (siteDie mt)) part r sector [u] 2, .done)
  else (s.onMtLeaf mt l (fun f => f.setRecord sector { r with subs := r.subs ++ [u] }), .done)

/-- A `fillc` on a range, for a subscriber that asks to be notified (R280, R285). -/
def State.fillCounter (s : State) (mt : Site) (l : Leaf) (ct : BitVec 2) (sector : Nat) (c : W32) (u : Subscriber) :
    State × Counted :=
  let count := c.extractLsb' 0 16
  let part := (s.mtLeaf mt l).part
  let r := (s.mtLeaf mt l).record sector
  if ct = 0 ∨ ct = 3 then (s, .fault .perm)
  else if r.timeoutDue then (s, .wait)
  else if count = 0 then
    ((s.onMtLeaf mt l (fun z => z.resetSector ct sector)).tellSubs (some (siteDie mt)) part {} sector r.subs 4, .done)
  else if r.exp ≠ 0 ∧ r.exp ≠ count then (s, .turned r)
  else
    let r1 := if r.exp = 0 then r.declare count (s.mtLeaf mt l).redto else r
    let y := s.onMtLeaf mt l (fun z => z.setRecord sector r1)
    if c.getLsbD 31 then y.subscribe mt l part u sector r1 else (y, .done)

/-- A `redc` on a range (R281, R285). -/
def State.addCounter (s : State) (mt : Site) (l : Leaf) (ct : BitVec 2) (va : Nat) (v : Vec) : State × Counted :=
  let sector := va / 128 * 128
  let part := (s.mtLeaf mt l).part
  let r := (s.mtLeaf mt l).record sector
  if ct = 0 ∨ ct = 3 then (s, .fault .perm)
  else if r.timeoutDue then (s, .wait)
  else if r.state = 2 ∨ r.state = 3 ∨ r.rcv = 0xFFFF then (s, .fault .chproto)
  else
    let y := s.onMtLeaf mt l (fun z => z.eachWord (fun u k => u.addOwned ct (va + 4 * k) (getF v 32 k)) 16)
    let rcv := r.rcv + 1
    let done := decide (r.exp ≠ 0 ∧ rcv = r.exp)
    let r1 := { r with rcv := rcv, state := if done then 2 else r.state, subs := if done then [] else r.subs }
    let w := y.onMtLeaf mt l (fun z => z.setRecord sector r1)
    (if done then w.tellSubs (some (siteDie mt)) part r1 sector r.subs 1 else w, .done)

/-- A `fillc` turned away: a CHPROTO report, and the REFUSED token if it asked to be notified (R280, R285); of one from another
module the answer carries the fault (R404). -/
def State.turnAway (s : State) (q : Req) (r : CounterRec) : State :=
  match q.why, q.body with
  | .served p m, .fillc ea c =>
    let u := q.subscriber
    let tok := readyToken u.bank r.rcv r.exp (r.status 8) (ea.extractLsb' 0 32) false
    (if c.getLsbD 31 then s.tellSub none q.src.part u tok else s).respondTo p m q.src.part 0 Cause.chproto.code
  | _, _ => (s.reportTo q { faultOf .chproto q.body.flta with fltx := q.fltx } false).refuseFillc q r.rcv r.exp r.ovr

/-- A request on a counted range has ended; one that has to wait leaves the state as it was (R256, R285). -/
def State.counted (s : State) (q : Req) (r : State × Counted) : State :=
  match r.2 with
  | .done => r.1.written q
  | .fault c => r.1.failReq q c
  | .turned x => r.1.turnAway q x
  | .wait => s

/-- FILLC_AT_OWNER (R280, R285). -/
def execFillcAtOwner (i : Nat) (s : State) : Host.Outcome State Fault Refusal :=
  .next (s.atOwner i ReqBody.isFillc (fun f mt l e x =>
    match f.req.body with
    | .fillc ea c => s.counted f.req (x.fillCounter mt l (ownrType e) ea.toNat c f.req.subscriber)
    | _ => x))

/-- REDC_AT_OWNER (R281, R285). -/
def execRedcAtOwner (i : Nat) (s : State) : Host.Outcome State Fault Refusal :=
  .next (s.atOwner i ReqBody.isRedc (fun f mt l e x =>
    match f.req.body with
    | .redc ea v =>
      if x.ownerEcc mt l ea.toNat then x.failReq f.req .ecc
      else s.counted f.req (x.addCounter mt l (ownrType e) ea.toNat v)
    | _ => x))

/-- The REDTO notice of a sector (R283, R373). -/
def redtoRecord (mt : Site) (l : Leaf) (part : BitVec 6) (asid : W16) (sector : Nat) (r : CounterRec) : Notice :=
  noticeOf [noticeW0 0 Cause.redto.code 2, noticeW1 part mt l 0, 0, 0, BitVec.ofNat 32 sector,
    BitVec.ofNat 32 (sector / 2 ^ 32), 0, 0, asid.setWidth 32, r.rcv.setWidth 32, r.exp.setWidth 32]

/-- COUNTER_TIMEOUT: the sector becomes TIMEDOUT, its subscribers get their tokens, and the control core a REDTO report
(R283). -/
def execCounterTimeout (mt : Site) (l : Leaf) (i : Nat) (s : State) : Host.Outcome State Fault Refusal :=
  let f := s.mtLeaf mt l
  let r := f.record i
  if r.timeoutDue then
    let r1 := { r with state := 3, inc := true, timed := false, subs := [] }
    let s1 := s.onMtLeaf mt l (fun z => z.setRecord i r1)
    .next ((s1.tellSubs (some (siteDie mt)) f.part r1 i r.subs 2).notify (siteDie mt) f.part
      (redtoRecord mt l f.part (trAsid (s.trcfg mt l)) i r1))
  else .next s

/-! ## amo (R274-R277) -/

/-- What an `amo` writes for an old word (R274). -/
def amoWord (fn : BitVec 4) (old op nw : W32) : W32 :=
  if fn = 0 then old + op
  else if fn = 1 then
    BitVec.ofNat 32 (roundFV fmtF32 .rne false ((decodeF fmtF32 old.toNat).add .rne (decodeF fmtF32 op.toNat)))
  else if fn = 2 then (if old.slt op then old else op)
  else if fn = 3 then (if old.slt op then op else old)
  else if fn = 4 then old &&& op
  else if fn = 5 then old ||| op
  else if fn = 6 then old ^^^ op
  else if fn = 7 then op
  else if fn = 8 then (if old = op then nw else old)
  else old

/-- The answer that a unit keeps for a serial of a source: a compute tile of this module or of another one, for the partition
that the serial serves (R276, R286, R404). -/
def State.amoSeen (s : State) (t : Target) (m : Option (BitVec 8)) (src : Site) (part : BitVec 6) (serial : BitVec 12) :
    Option W32 :=
  (s.amos.find? (fun a => a.target == t && a.module == m && a.src == src && a.part == part && a.serial == serial)).map
    (fun a => a.old)

/-- A unit notes a serial with its old value and keeps the last 64 of the source (R276). -/
def State.noteAmo (s : State) (t : Target) (m : Option (BitVec 8)) (src : Site) (part : BitVec 6) (serial : BitVec 12)
    (old : W32) : State :=
  let from_ := fun (a : AmoAnswer) => a.target == t && a.module == m && a.src == src && a.part == part
  let all := s.amos.filter from_ ++ [{ target := t, src := src, part := part, module := m, serial := serial, old := old }]
  { s with amos := s.amos.filter (fun a => !from_ a) ++ all.drop (all.length - 64) }

/-- The reply of an `amo`: the old value to its channel, or an acknowledgement (R274). -/
def State.replyAmo (s : State) (q : Req) (ret : Bool) (old : W32) : State :=
  if ret then s.answer q (old.setWidth 512) else s.written q

/-- The source of a request, as the tables of R276 know it: a unit of this module or of another one. -/
def Req.source (q : Req) : Option (BitVec 8) × Site :=
  match q.why with
  | .served _ m => (some m.module, BitVec.ofNat 12 m.unit)
  | _ => (none, q.src.tile)

/-- An `amo` takes effect at a word, once for its serial: the read of the word, and how it is written (R274, R276). -/
def State.applyAmo (s : State) (f : Flying) (old : W32) (write : W32 → State → State) : State :=
  match f.req.body with
  | .amo _ fn op nw ret =>
    let n := f.req.serial.getD 0
    let src := f.req.source
    match s.amoSeen f.target src.1 src.2 f.req.src.part n with
    | some o => s.replyAmo f.req ret o
    | none => ((write (amoWord fn old op nw) s).noteAmo f.target src.1 src.2 f.req.src.part n old).replyAmo f.req ret old
  | _ => s

/-- A word of physical memory written by an `amo` of a die: the copy in its own gateway takes the word, the others are
invalidated, as for a write (R240, R275). -/
def State.putWord (s : State) (pa : Nat) (v : W32) (d : DieId) (id : Nat) (part : Option (BitVec 6)) : State :=
  let k := pa % 64 / 4
  s.putLine (pa / 64 * 64) (setF (0 : Vec) 32 k v) (1#16 <<< k) (gatewayFor d pa) id part

/-- An `amo` at a physical word: memory-tile SRAM or GDDR7 (R275). -/
def State.amoPhys (s : State) (f : Flying) (pa : Nat) : State :=
  if s.lineBad pa then s.failReq f.req .ecc
  else s.applyAmo f (s.mem.readW32 pa) (fun v x => x.putWord pa v (siteDie f.req.src.tile) f.req.id (some f.req.src.part))

/-- AMO_APPLY: at the owner of a plain range, at the home slice once it holds the sector, or at the SRAM bank; elsewhere
PERM (R275). -/
def execAmoApply (i : Nat) (s : State) : Host.Outcome State Fault Refusal :=
  match s.inFlight i with
  | none => .next s
  | some f =>
    let pa := f.req.pa.getD 0
    if !f.req.body.isAmo then .next s
    else
      match f.target with
      | .owner _ =>
        .next (s.atOwner i ReqBody.isAmo (fun f mt l e x =>
          let va := (f.req.body.va.getD 0).toNat
          if ownrType e ≠ 0 then x.failReq f.req .perm
          else if x.ownerEcc mt l va then x.failReq f.req .ecc
          else x.applyAmo f ((x.mtLeaf mt l).ownedWord 0 va) (fun v y => y.onMtLeaf mt l (fun z => z.setOwned 0 va v))))
      | .slice t =>
        let sec := sectorOf pa
        if !s.firstOfLine f.req then .next s
        else if s.fenced (siteDie t) then .next ((s.land i).failReq f.req .page)
        else if !s.pathOpen (siteDie f.req.src.tile) (siteDie t) then .next s
        else if f.fill ∨ !(s.slice t).held.contains sec ∨ s.filters.contains (t, sec) then .next s
        else
          let s1 := s.onSlice t (fun x => { x with dirty := if x.dirty.contains sec then x.dirty else x.dirty ++ [sec] })
          .next ((s1.land i).amoPhys f pa)
      | .sram mt =>
        if !s.firstOfLine f.req then .next s
        else if s.fenced (siteDie mt) then .next ((s.land i).failReq f.req .page)
        else if !s.pathOpen (siteDie f.req.src.tile) (siteDie mt) then .next s
        else .next ((s.land i).amoPhys f pa)
      | .module _ => .next s
      | _ => .next ((s.land i).failReq f.req .perm)

end Sys2Proof.Machine
end

