-- ==== Sys2Proof/Machine/CopyEngine.lean ====
section
/-!
DEFINITION. Copy engines (R306-R323, R425, R426) and edge buffers (R244-R247): templates and their cards, queues, runs,
chunks, completion tags.
-/
namespace Sys2Proof.Machine

/-! ## The record of a template (R307) -/

/-- A word of TPLW. -/
def Template.word (t : Template) (i : Nat) : W32 := t.w.toList.getD i 0
/-- MODE (R307). -/
def Template.mode (t : Template) : BitVec 2 := (t.word 0).extractLsb' 30 2
/-- TV (R307). -/
def Template.tv (t : Template) : Bool := (t.word 0).getLsbD 29
/-- TAG (R307). -/
def Template.tag (t : Template) : Fin 16 := ((t.word 0).extractLsb' 25 4).toFin
/-- QBUF (R307). -/
def Template.qbuf (t : Template) : Fin 8 := ((t.word 0).extractLsb' 22 3).toFin
/-- OBUF (R307). -/
def Template.obuf (t : Template) : Fin 8 := ((t.word 0).extractLsb' 19 3).toFin
/-- CEB (R307). -/
def Template.ceb (t : Template) : Fin 8 := ((t.word 1).extractLsb' 29 3).toFin
/-- CBANK (R307). -/
def Template.cbank (t : Template) : BitVec 2 := (t.word 1).extractLsb' 27 2
/-- CCOUNT (R307). -/
def Template.ccount (t : Template) : BitVec 24 := (t.word 1).extractLsb' 0 24
/-- ITYPE (R307). -/
def Template.itype (t : Template) : BitVec 4 := (t.word 16).extractLsb' 24 4
/-- The six stage identifiers (R307). -/
def Template.stages (t : Template) : List Nat := (List.range 6).map (fun i => ((t.word 16).extractLsb' (4 * i) 4).toNat)
/-- The stages that the card names, up to the first 0 (R311). -/
def Template.chain (t : Template) : List Nat := t.stages.takeWhile (fun x => x != 0)
/-- SB (R307). -/
def Template.sb (t : Template) : Nat := ((t.word 17).extractLsb' 16 16).toNat
/-- SMODE: strip (R307). -/
def Template.strip (t : Template) : Bool := (t.word 17).getLsbD 8
/-- STYPE (R307). -/
def Template.stype (t : Template) : BitVec 4 := (t.word 17).extractLsb' 4 4
/-- CTYPE (R307). -/
def Template.ctype (t : Template) : BitVec 4 := (t.word 17).extractLsb' 0 4
/-- BE (R307). -/
def Template.be (t : Template) : Nat := ((t.word 18).extractLsb' 8 16).toNat
/-- BK (R307). -/
def Template.bk (t : Template) : Nat := ((t.word 18).extractLsb' 4 4).toNat
/-- BN (R307). -/
def Template.bn (t : Template) : Nat := ((t.word 18).extractLsb' 0 4).toNat
/-- BKEEP (R307). -/
def Template.bkeep (t : Template) : Nat := ((t.word 19).extractLsb' 0 4).toNat
/-- Beats of a bit-plane (R118). -/
def Template.planeBeats (t : Template) : Nat := (t.be + 511) / 512

/-! ## Stages (R311) -/

/-- The 32-bit words of a list of beats. -/
def beatWords (bs : List Vec) : List W32 := bs.flatMap (fun v => (List.range 16).map (fun i => getF v 32 i))

/-- A beat from sixteen words. -/
def wordsBeat (ws : List W32) : Vec := packVec 32 16 (fun i => (ws.getD i 0).toNat)

/-- The whole beats of a list of words. -/
def wordBeats (ws : List W32) : List Vec := (List.range (ws.length / 16)).map (fun b => wordsBeat (ws.drop (16 * b)))

/-- RLX: records of a count and sixteen words (R311). The first number bounds the records; an
incomplete one at the end is dropped (DESIGN CHOICE, log 33). -/
def expandRuns : Nat → List W32 → List Vec
  | 0, _ => []
  | _ + 1, [] => []
  | n + 1, c :: r =>
    if r.length < 16 then []
    else List.replicate ((c.extractLsb' 0 16).toNat + 1) (wordsBeat r) ++ expandRuns n (r.drop 16)

/-- Set bits of a mask below a position. -/
def bitsBelow (m : W16) (i : Nat) : Nat := ((List.range i).filter (fun k => m.getLsbD k)).length

/-- ZSX: records of a mask and its words (R311); an incomplete one at the end is dropped (DESIGN CHOICE, log 33). -/
def expandSkips : Nat → List W32 → List Vec
  | 0, _ => []
  | _ + 1, [] => []
  | n + 1, c :: r =>
    let m := c.extractLsb' 0 16
    let k := bitsBelow m 16
    if r.length < k then []
    else
      packVec 32 16 (fun i => if m.getLsbD i then (r.getD (bitsBelow m i) 0).toNat else 0) :: expandSkips n (r.drop k)

/-- PAK: a beat as a zero-skip record (R311). -/
def packSkips (v : Vec) : List W32 :=
  let ws := (List.range 16).map (fun i => getF v 32 i)
  let mask : W32 := ofFields 32 1 (fun i => BitVec.ofBool (getF v 32 i != 0)) 16
  mask :: ws.filter (fun w => w != 0)

/-- Element e of a list of beats of a type. -/
def streamElem (t : BitVec 4) (bs : List Vec) (e : Nat) : Nat :=
  let n := lanesT t
  elemBits (bs.getD (e / n) 0) (e % n) t

/-- `n` elements of a type as whole beats; the rest of an incomplete one is dropped (DESIGN CHOICE, log 33). -/
def elemBeats (t : BitVec 4) (n : Nat) (f : Nat → Nat) : List Vec :=
  let k := lanesT t
  (List.range (n / k)).map (fun b => packVec (widthT t) k (fun i => f (k * b + i)))

/-- Element e of the BP tensors of a list of beats, with k planes of width n (R118, R119). -/
def planeElem (p k n : Nat) (be : Nat) (bs : List Vec) (e : Nat) : Int :=
  let base := e / be * (k * p)
  let i := e % be
  let bit := fun (q : Nat) => (bs.getD (base + q * p + i / 512) 0).getLsbD (i % 512)
  let u := (List.range k).foldl (fun a q => 2 * a + (if bit q then 1 else 0)) 0
  let v : Int := if bit 0 then (u : Int) - (2 ^ k : Nat) else u
  bpValue v n k

/-- CVT (R311, R113, R119). An integer keeps its low bits in a narrower one, as without `.sat` (DEDUCED, log 34). -/
def Template.convert (t : Template) (cur : BitVec 4) (k : Nat) (bs : List Vec) : List Vec :=
  if cur = 0xD then
    let p := t.planeBeats
    let n := bs.length / (k * p) * t.be
    elemBeats t.ctype n (fun e => putInt t.ctype true (planeElem p k t.bn t.be bs e))
  else
    elemBeats t.ctype (bs.length * lanesT cur) (fun e => convertT .rne false cur t.ctype (streamElem cur bs e))

/-- TRN (R311); the rest of an incomplete block is dropped (DESIGN CHOICE, log 33). -/
def transpose (t : BitVec 4) (bs : List Vec) : List Vec :=
  let per := 2 * widthT t
  elemBeats t (bs.length / per * 1024) (fun e =>
    let x := e % 1024
    streamElem t bs (e / 1024 * 1024 + 32 * (x % 32) + x / 32))

/-- Scale heads of a burst (R116). -/
def Template.heads (t : Template) : Nat := (t.sb + 24) / 25
/-- Beats of a scaled burst of elements of a type (R311). -/
def Template.burst (t : Template) (cur : BitVec 4) : Nat := t.heads + t.sb * widthT cur / 16
/-- A beat of a scaled stream is a scale head. -/
def Template.isHead (t : Template) (cur : BitVec 4) (n : Nat) : Bool := decide (n % t.burst cur < t.heads)

/-- The data beats of a scaled stream. -/
def Template.dataBeats (t : Template) (cur : BitVec 4) (bs : List Vec) : List Vec :=
  (bs.zipIdx.filter (fun b => !t.isHead cur b.2)).map (fun b => b.1)

/-- The scale of a block of 32 elements of a scaled stream (R115, R116). -/
def Template.blockScale (t : Template) (cur : BitVec 4) (bs : List Vec) (block : Nat) : FV :=
  let k := block % t.sb
  scaleVal (getF (bs.getD (block / t.sb * t.burst cur + k / 25) 0) 20 (k % 25)).toNat

/-- SCL (R311). -/
def Template.scaled (t : Template) (cur : BitVec 4) (bs : List Vec) : List Vec :=
  let ds := t.dataBeats cur bs
  if t.strip then ds
  else
    elemBeats t.stype (ds.length * lanesT cur) (fun e =>
      roundFV (fmtOf t.stype) .rne false
        (scaledProduct (decodeF (fmtOf cur) (streamElem cur ds e)) (t.blockScale cur bs (e / 32))
          (.fin false ⟨1, 0⟩) (.fin false ⟨1, 0⟩)))

/-- BPS (R311). -/
def Template.keepPlanes (t : Template) (bs : List Vec) : List Vec :=
  let p := t.planeBeats
  (bs.zipIdx.filter (fun b => decide (b.2 % (t.bk * p) < t.bkeep * p))).map (fun b => b.1)

/-- PAK on the beats read so far: one beat for each that it has read; at the end the words are padded to the input's beat
count (R311, R313). -/
def packBeats (bs : List Vec) (final : Bool) : List Vec :=
  let ws := bs.flatMap packSkips
  if final then wordBeats ((ws ++ List.replicate (16 * bs.length) 0).take (16 * bs.length)) else (wordBeats ws).take bs.length

/-- What a stage of the chain works on: the current type, the planes of a BP tensor, the beats so far, and whether a scale
head broke R116. -/
structure ChainAt where
  cur : BitVec 4
  planes : Nat
  beats : List Vec
  conv : Bool := false

/-- One stage applied to the beats read so far (R311). -/
def Template.stage (t : Template) (final : Bool) (c : ChainAt) (id : Nat) : ChainAt :=
  let ws := beatWords c.beats
  if id = 1 then { c with beats := expandRuns ws.length ws }
  else if id = 2 then { c with beats := expandSkips ws.length ws }
  else if id = 3 then { c with cur := t.ctype, beats := t.convert c.cur c.planes c.beats }
  else if id = 4 then { c with beats := transpose c.cur c.beats }
  else if id = 5 then
    let bad := c.beats.zipIdx.any (fun b => t.isHead c.cur b.2 && b.1.extractLsb' 500 12 != 0)
    { c with cur := if t.strip then c.cur else t.stype, beats := t.scaled c.cur c.beats, conv := c.conv || bad }
  else if id = 6 then { c with planes := t.bkeep, beats := t.keepPlanes c.beats }
  else if id = 7 then { c with beats := packBeats c.beats final }
  else c

/-- The output of the chain on the source beats read so far: complete beats, the output type, and the CONV flag. -/
def Template.output (t : Template) (input : List Vec) (final : Bool) : ChainAt :=
  t.chain.foldl (t.stage final) { cur := t.itype, planes := t.bk, beats := input }

/-! ## Legality (R312, R313) -/

/-- `vcvt` accepts the pair of types (R129, R136). -/
def cvtPair (a b : BitVec 4) : Bool :=
  let num := fun (x : BitVec 4) => x != 0x0 && x != 0xD && x != 0xE && x != 0xF
  (num a && num b) || (a == b && (a == 0x0 || a == 0xF))

/-- The type after a stage that reads a type legally; `none` when R312 forbids it. -/
def Template.stageType (t : Template) (cur : BitVec 4) (id : Nat) : Option (BitVec 4) :=
  if cur = 0xE then none
  else if id = 3 then
    if cur = 0xD then (if t.ctype = 0xC ∨ t.ctype = 0x1 ∨ t.ctype = 0x3 then some t.ctype else none)
    else if cvtPair cur t.ctype then some t.ctype else none
  else if id = 4 then (if cur ≠ 0xD ∧ 8 ≤ widthT cur then some cur else none)
  else if id = 5 then
    let okIn := decide (0x7 ≤ cur.toNat ∧ cur.toNat ≤ 0xB)
    let okOut := t.strip || t.stype == 0x6 || t.stype == 0x7 || t.stype == 0x8
    if okIn && okOut && decide (1 ≤ t.sb) then some (if t.strip then cur else t.stype) else none
  else if id = 6 then
    if cur = 0xD ∧ 2 ≤ t.bn ∧ t.bn ≤ 8 ∧ 1 ≤ t.bkeep ∧ t.bkeep ≤ t.bk ∧ t.bk ≤ t.bn ∧ 1 ≤ t.be then some cur else none
  else some cur

/-- Whole beats out of a stage for whole beats in (R313); `none` when a block, burst or beat is not whole. -/
def Template.stageLen (t : Template) (cur : BitVec 4) (planes n id : Nat) : Option Nat :=
  let whole := fun (a b : Nat) => if b ≠ 0 ∧ a % b = 0 then some (a / b) else none
  if id = 3 then
    if cur = 0xD then (whole n (planes * t.planeBeats)).bind (fun k => whole (k * t.be * widthT t.ctype) 512)
    else whole (n * widthT t.ctype) (widthT cur)
  else if id = 4 then (whole n (2 * widthT cur)).map (fun k => k * (2 * widthT cur))
  else if id = 5 then
    (whole (t.sb * widthT cur) 16).bind (fun d =>
      (whole n (t.heads + d)).bind (fun k => if t.strip then some (k * d) else whole (k * t.sb * widthT t.stype) 16))
  else if id = 6 then (whole n (t.bk * t.planeBeats)).map (fun k => k * t.bkeep * t.planeBeats)
  else some n

/-- The chain's types and lengths are legal: the output length, which RLX and ZSX leave free (R312, R313). -/
def Template.chainLen (t : Template) : List Nat → BitVec 4 → Nat → Option Nat → Option (Option Nat)
  | [], _, _, n => some n
  | id :: r, cur, planes, n =>
    match t.stageType cur id with
    | none => none
    | some ty =>
      let planes' := if id = 6 then t.bkeep else planes
      if id = 1 ∨ id = 2 then t.chainLen r ty planes' none
      else
        match n with
        | none => t.chainLen r ty planes' none
        | some k =>
          match t.stageLen cur planes k id with
          | none => none
          | some m => t.chainLen r ty planes' (some m)

/-- Every reserved field is zero and MODE is not 3 (R312). -/
def Template.reservedOk (t : Template) : Bool :=
  (t.word 0).extractLsb' 0 19 == 0 && (t.word 1).extractLsb' 24 3 == 0 && (t.word 16).extractLsb' 28 4 == 0 &&
    (t.word 17).extractLsb' 9 7 == 0 && (t.word 18).extractLsb' 24 8 == 0 && (t.word 19).extractLsb' 4 28 == 0 &&
    t.mode != 3

/-- Bases and strides are multiples of 64, and the bases lie below 2^54 (R308, R312). -/
def Template.walksOk (t : Template) : Bool :=
  [2, 6, 7, 8, 9, 13, 14, 15].all (fun i => (t.word i).extractLsb' 0 6 == 0) &&
    (t.word 3).toNat < 2 ^ 22 && (t.word 10).toNat < 2 ^ 22

/-- The stage list: nothing behind a 0, no stage twice, codes to 7, expansion first, packing last (R312). -/
def Template.listOk (t : Template) : Bool :=
  (t.stages.drop t.chain.length).all (fun x => x == 0) && decide t.chain.Nodup &&
    t.chain.all (fun x => decide (x ≤ 7)) && (t.chain.drop 1).all (fun x => x != 1 && x != 2) &&
    t.chain.dropLast.all (fun x => x != 7)

/-- The layout is legal for a memory tile's edge buffers (R312, R313). -/
def Template.legal (t : Template) (ebuf : Vector EdgeBuf 8) : Bool :=
  let lens := t.chainLen t.chain t.itype t.bk (some (t.walkLen 2))
  let lenOk := match lens with
    | none => false
    | some none => true
    | some (some n) => t.mode != 0 || n == t.walkLen 9
  t.reservedOk && t.walksOk && t.listOk && t.itype != 0xE &&
    (if t.mode = 1 then t.stages.all (fun x => x == 0) else lenOk) &&
    (!t.tv || t.ccount != 0) && (!t.tv || ebuf[t.ceb].v) && (t.mode != 2 || ebuf[t.obuf].v)

/-! ## Edge buffers as the engine uses them (R246, R309) -/

/-- An edge buffer of a leaf of a memory tile. -/
def State.ebuf (s : State) (mt : Site) (l : Leaf) (x : Fin 8) : EdgeBuf := (s.mt mt).ebuf[l][x]

/-- The head token of an edge buffer, with its payload. -/
def State.ebufHead (s : State) (mt : Site) (l : Leaf) (x : Fin 8) : Option (EdgeTok × Token) :=
  let b := s.ebuf mt l x
  match b.queue with
  | [] => none
  | q :: _ =>
    let a := b.slotAt mt q.slot
    some (q, { side := q.side, payload := s.mem.readVec a, bad := s.lineBad a })

/-- The head token leaves an edge buffer, and its producer slot returns (R246). -/
def State.ebufTake (s : State) (mt : Site) (l : Leaf) (x : Fin 8) : State :=
  let b := s.ebuf mt l x
  let n := match b.queue with
    | q :: _ => if q.own then 1 else 0
    | [] => 0
  (s.ebufReturn mt b n).onEbuf mt l x (fun b => { b with queue := b.queue.drop 1, preempt := b.preempt.map (fun n => n - 1) })

/-- A token that no route brought joins an edge buffer, when it has a free slot (R309, R315, R317). -/
def State.ebufPut (s : State) (mt : Site) (l : Leaf) (x : Fin 8) (tok : Token) : Option State :=
  let b := s.ebuf mt l x
  if b.freed then some (s.ebufStore mt l x 0 false tok)
  else b.free.map (fun n => s.ebufStore mt l x n false tok)

/-- The pre-empt marker of a swap stands at the head of an edge buffer (R248, R323). -/
def EdgeBuf.atMarker (b : EdgeBuf) : Bool := b.preempt == some 0

/-- EDGE_BUFFER_PASS: the head token goes on to the consumer channel, unchanged, two cycles behind its inlet and one per cycle; a
marker follows the tokens ahead of it (R246, R248). A damaged EBD holds its tokens (R375). -/
def execEdgeBufferPass (mt : Site) (l : Leaf) (x : Fin 8) (s : State) : Host.Outcome State Fault Refusal :=
  let b := s.ebuf mt l x
  let f := s.mtLeaf mt l
  let info : SendInfo := { src := .edge mt l x, part := f.part, leaf := l, graph := b.graph, due := s.cycleAt mt + 2 }
  if !b.out.bound ∨ b.passed = s.cycleAt mt + 1 then .next s
  else if s.regBad mt l (0x10 + x.val) then .next (s.tellReg mt l f.part (0x10 + x.val))
  else if b.atMarker then .next (s.onEbuf mt l x (fun b =>
    { b with out := b.out.enqueue info .preempt, preempt := none, passed := s.cycleAt mt + 1 }))
  else
    match s.ebufHead mt l x with
    | some (_, tok) =>
      if b.out.e = 0 then .next s
      else
        let o := { b.out.enqueue info (.publish b.out.w tok false) with w := (b.out.w + 1) % b.out.depth, e := b.out.e - 1 }
        .next ((s.ebufTake mt l x).onEbuf mt l x (fun b => { b with out := o, passed := s.cycleAt mt + 1 }))
    | none => .next s

/-- EDGE_BUFFER_RELEASE: a buffer marked for release that holds no tokens is released (R247). -/
def execEdgeBufferRelease (mt : Site) (l : Leaf) (x : Fin 8) (s : State) : Host.Outcome State Fault Refusal :=
  let b := s.ebuf mt l x
  if b.marked ∧ b.queue.isEmpty ∧ !b.freed then
    .next (s.onEbuf mt l x (fun b => { b with freed := true, marked := false }))
  else .next s

/-! ## Requests of a memory tile (R229, R306, R316) -/

/-- A request that a unit of a memory tile sends (R306, R316). -/
def State.unitReq (s : State) (mt : Site) (l : Leaf) (u : Fin 4) (why : Purpose) (body : ReqBody) : Req :=
  { id := s.nextId, src := { tile := mt, leaf := l, bank := u, bundle := 0, part := (s.mtLeaf mt l).part }, body := body, why := why }

/-- A configuration register of a template, or of the buffer that feeds it, holds an uncorrectable error (R375). -/
def State.unitBad (s : State) (mt : Site) (l : Leaf) (u : Fin 4) : Option Nat :=
  ((0x10 + (s.tpl mt l u).qbuf.val) :: (0x30 + u.val) :: (List.range 20).map (fun i => 0x80 + 20 * u.val + i)).find? (s.regBad mt l)

/-! ## Completion tags (R315) -/

/-- RCV of a completion tag. -/
def ctagRcv (x : W64) : Nat := (x.extractLsb' 40 24).toNat
/-- CCOUNT of a completion tag. -/
def ctagCount (x : W64) : Nat := (x.extractLsb' 0 24).toNat
/-- V of a completion tag. -/
def ctagV (x : W64) : Bool := x.getLsbD 31
/-- RCV of a completion tag set, holding at its top value (R315). -/
def ctagSet (x : W64) (n : Nat) : W64 := BitVec.ofNat 24 (min n 0xFFFFFF) ++ x.extractLsb' 0 40

/-- A completion token of a tag is due (R315). -/
def ctagDue (x : W64) : Bool := ctagV x && ctagCount x != 0 && decide (ctagCount x ≤ ctagRcv x)

/-- A completion token of a tag is due and not recorded for a restore (R315, R323). -/
def MtLeaf.tagWaits (f : MtLeaf) (tag : Fin 16) : Bool := ctagDue f.ctag[tag] && !f.ctagHeld.getLsbD tag.val

/-- The tag that a write of a run counts towards: none for a stream out or for a control core's run (R309, R315, R318). -/
def Template.countTag (t : Template) (byCore : Bool) : Option (Fin 16) :=
  if t.tv && t.mode != 2 && !byCore then some t.tag else none

/-- The runs that count towards a tag wait with its completion token (R315). -/
def State.tagBlocks (s : State) (mt : Site) (l : Leaf) (t : Template) (byCore : Bool) : Bool :=
  match t.countTag byCore with
  | some g => (s.mtLeaf mt l).tagWaits g
  | none => false

/-- COMPLETION_TOKEN_PUBLISH: the token follows the writes that it counts, and the loss of the gateway copies of all that its
partition has written: the join covers the copy's writes and what was ordered before them (R250, R259, R315; log 55). -/
def execCompletionTokenPublish (mt : Site) (l : Leaf) (tag : Fin 16) (s : State) : Host.Outcome State Fault Refusal :=
  let x := (s.mtLeaf mt l).ctag[tag]
  let n := ctagCount x
  let tok : Token := { side := { pred := true, bank := x.extractLsb' 26 2 },
                       payload := packVec 32 16 (fun i => if i = 0 then tag.val else if i = 1 then n else 0) }
  if !(s.mtLeaf mt l).tagWaits tag || !s.copiesGone (s.mtLeaf mt l).part then .next s
  else if s.regBad mt l (0x20 + tag.val) then .next (s.tellReg mt l (s.mtLeaf mt l).part (0x20 + tag.val))
  else
    match s.ebufPut mt l ((x.extractLsb' 28 3).toFin) tok with
    | none => .next s
    | some s1 =>
      .next (s1.onMtLeaf mt l (fun f => { f with ctag := f.ctag.set tag (ctagSet x (ctagRcv x - n)) }))

/-! ## Writing beats (R315, R321) -/

/-- What becomes of a destination beat: it is sent, it waits, or its fault. -/
inductive Beat where
  | sent (s : State)
  | waits (s : State)
  | fault (e : XFault)

/-- A write has no place in a full hold buffer (R386). -/
def State.holdFull (s : State) (mt : Site) (l : Leaf) (va : Nat) : Bool :=
  decide (16 ≤ (s.mt mt).hold.length) && (s.tlbHit mt l va).any (fun e => e.pte.getLsbD 7)

/-- A destination beat of a run or of a scatter stream: a request that carries its two chunks sets out from the memory tile, or
waits there, or its fault (R306, R321, R322, R381, R386, R403). -/
def State.sendBeat (s : State) (mt : Site) (l : Leaf) (u : Fin 4) (run : Nat) (byCore : Bool) (va : W64) (v : Vec) : Beat :=
  let t := s.tpl mt l u
  let q := s.unitReq mt l u (.chunk byCore (t.countTag byCore)) (.write va v)
  let c := fun (i : Nat) => Chunk.mk mt l u run byCore (t.countTag byCore) (va.toNat + 32 * i) q.id t.reads false 0
  let s1 := s.takeId.onTpl mt l u (fun t => { t with held := false })
  match { s1 with chunks := s1.chunks ++ [c 0, c 1] }.routeNow mt q with
  | .fault _ _ e => .fault e
  | .waits => .waits (s.onTpl mt l u (fun t => { t with held := s.holdFull mt l va.toNat }))
  | .goes s2 => .sent s2

/-- Words of a chunk count towards its tag; a token that becomes due in the decision cycle of a swap is recorded for the
restore (R315, R323). -/
def State.countWords (s : State) (c : Chunk) : State :=
  match c.tag with
  | none => s
  | some g =>
    let x := (s.mtLeaf c.mt c.leaf).ctag[g]
    let y := ctagSet x (ctagRcv x + 8)
    let late := !ctagDue x && ctagDue y && s.decidedNow (s.mtLeaf c.mt c.leaf).part (siteDie c.mt)
    s.onMtLeaf c.mt c.leaf (fun f =>
      { f with ctag := f.ctag.set g y, ctagHeld := if late then f.ctagHeld ||| (1#16 <<< g.val) else f.ctagHeld })

/-- The words of its line that a chunk covers. -/
def Chunk.words (c : Chunk) : BitVec 16 := if c.va % 64 < 32 then 0x00FF else 0xFF00

/-- A chunk is not written yet: the request of its beat is held or under way, and is not the one whose first half this chunk is
(R321, R386). -/
def State.chunkUnder (s : State) (c : Chunk) : Bool :=
  s.holds c.req || s.flight.any (fun f => f.req.id == c.req && !(f.half && f.req.firstWords == c.words))

/-- COPY_CHUNK_ACK: a chunk that its target has written is acknowledged (R315, R321). -/
def execCopyChunkAck (i : Nat) (s : State) : Host.Outcome State Fault Refusal :=
  match s.chunks[i]? with
  | none => .next s
  | some c =>
    if s.chunkUnder c then .next s
    else .next ((({ s with chunks := s.chunks.eraseIdx i } : State).countWords c).endRun c.mt c.leaf c.unit)

/-! ## Queues (R309, R320, R323) -/

/-- The pending changes written into TPLW (R320). -/
def Template.applied (t : Template) : Template :=
  { t with w := Vector.ofFn (fun (i : Fin 20) =>
              match t.pend.find? (fun p => p.1 == i.val) with
              | some p => p.2
              | none => t.w[i]),
           pend := [] }

/-- An end-of-stream token applies the pending set, or discards it with a notice (R320). -/
def State.applyPending (s : State) (mt : Site) (l : Leaf) (u : Fin 4) : State :=
  let t := s.tpl mt l u
  if t.pend.isEmpty then s
  else if t.applied.legal (s.mt mt).ebuf[l] then s.onTpl mt l u (fun t => t.applied)
  else (s.onTpl mt l u (fun t => { t with pend := [] })).tellTemplate mt l u Cause.tplchain.code 0

/-- A change enters the pending set, replacing an earlier one to the same index (R320). -/
def Template.addPending (t : Template) (tok : Token) : Template :=
  let i := (tok.side.aux.extractLsb' 16 8).toNat
  { t with pend := t.pend.filter (fun p => p.1 != i) ++ [(i, tok.payload.extractLsb' 0 32)] }

/-- A run that a token fires (R310). -/
def newRun (id : Nat) (payload : Vec) : CopyRun := { id := id, soff := getF payload 32 0, doff := getF payload 32 1 }

/-- The copy engine has moved its beat of the present cycle (R306). -/
def State.beatNow (s : State) (mt : Site) : State := s.uses mt (fun x n => { x with beat := n })

/-- A token of a scatter stream is written at the next destination beat; `none` while that write waits (R306, R309). -/
def State.scatterBeat (s : State) (mt : Site) (l : Leaf) (u : Fin 4) (v : Vec) : Option State :=
  let t := s.tpl mt l u
  let va := t.beatAddr 9 0 t.scatter
  if s.usedNow mt (s.mt mt).last.beat then none
  else
  match s.sendBeat mt l u s.nextId false va v with
  | .sent s1 => some ((s1.onTpl mt l u (fun t => { t with scatter := (t.scatter + 1) % t.walkLen 9 })).beatNow mt)
  | .waits _ => none
  | .fault e =>
    some ((s.onTpl mt l u (fun t => { t with state := 2, cause := e.cause.code })).tellTemplate mt l u e.cause.code va)

/-- A beat of a template stands in the hold buffer: its scatter stream does not go on before it (R386, R425). -/
def State.unitHeld (s : State) (mt : Site) (l : Leaf) (u : Fin 4) : Bool :=
  s.chunks.any (fun c => c.mt == mt && c.leaf == l && c.unit == u && s.holds c.req)

/-- What a template does with the token at the head of its queue; `none` when it waits (R309, R320). -/
def State.queueToken (s : State) (mt : Site) (l : Leaf) (u : Fin 4) (tok : Token) : Option State :=
  let t := s.tpl mt l u
  let idle := t.run.isNone && t.fired.isEmpty
  let kind := tok.side.kind
  if kind = 0 then
    if tok.side.null then some s
    else if t.mode = 1 then (if s.tagBlocks mt l t false || s.unitHeld mt l u then none else s.scatterBeat mt l u tok.payload)
    else if t.fired.isEmpty then some (s.takeId.onTpl mt l u (fun t => { t with fired := [newRun s.nextId tok.payload] }))
    else none
  else if kind = 1 then
    if t.mode = 2 then (if idle then s.ebufPut mt l t.obuf tok else none) else some s
  else if kind = 2 then
    if !idle then none
    else
      let s1 := (s.applyPending mt l u).onTpl mt l u (fun t => { t with scatter := 0 })
      if t.mode = 2 then s1.ebufPut mt l t.obuf tok else some s1
  else if kind = 4 then some (s.onTpl mt l u (fun t => t.addPending tok))
  else some s

/-- A token whose payload came out of the buffer with an uncorrectable error makes its template FAULTED (R322, R375; log 36). -/
def State.queueEcc (s : State) (mt : Site) (l : Leaf) (u : Fin 4) : State :=
  (s.onTpl mt l u (fun t => { t with state := 2, cause := Cause.ecc.code })).tellTemplate mt l u Cause.ecc.code 0

/-- The marker of a swap stands at the head of a template's queue: the template is not ARMED, or its buffer has passed all
that is ahead of the marker, or it is empty and is to get its marker from the engine itself (R323). -/
def State.queueMarked (s : State) (mt : Site) (l : Leaf) (t : Template) : Bool :=
  let b := s.ebuf mt l t.qbuf
  t.state != 1 || b.atMarker || (s.mtLeaf mt l).toMark.contains t.qbuf && b.queue.isEmpty

/-- Every run of a leaf's templates is over, with its writes acknowledged and its completion tokens published; no `fire` is on
its way to a queue (R317, R323). -/
def State.engineQuiet (s : State) (mt : Site) (l : Leaf) : Bool :=
  let f := s.mtLeaf mt l
  f.tpl.toList.all (fun t => t.run.isNone && (t.state != 1 || t.fired.isEmpty)) &&
    !s.chunks.any (fun c => c.mt == mt && c.leaf == l) && (List.finRange 16).all (fun g => !f.tagWaits g) &&
    !s.flight.any (fun x => x.target == .engine mt && x.req.src.part == f.part)

/-- The marker goes on into the buffers that the decision left to the engine: OBUF and every CEB of the leaf (R323). -/
def State.forwardMarker (s : State) (mt : Site) (l : Leaf) : State :=
  ((s.mtLeaf mt l).toMark.foldl (fun x e => x.onEbuf mt l e (fun b => { b with preempt := some b.queue.length })) s).onMtLeaf mt l (fun f =>
    { f with toMark := [] })

/-- TEMPLATE_QUEUE_HEAD: an ARMED template of the running leaf takes the token at the head of its queue, but none behind the
marker of a swap, nor while its partition is swapped out; once the markers of a swap stand at the heads of the queues and the engine rests, it forwards them (R306,
R309, R323). -/
def execTemplateQueueHead (mt : Site) (l : Leaf) (u : Fin 4) (s : State) : Host.Outcome State Fault Refusal :=
  let t := s.tpl mt l u
  let f := s.mtLeaf mt l
  if (s.mt mt).running ≠ l ∨ s.partHeld f.part then .next s
  else
    match s.ebufHead mt l t.qbuf, t.state == 1 && !(s.ebuf mt l t.qbuf).atMarker with
    | some (_, tok), true =>
      let s1 := s.ebufTake mt l t.qbuf
      match s.unitBad mt l u with
      | some n => .next (s.tellReg mt l f.part n)
      | none =>
        if tok.bad && !tok.side.null && (tok.side.kind == 0 || tok.side.kind == 4) then .next (s1.queueEcc mt l u)
        else .next ((s1.queueToken mt l u tok).getD s)
    | _, _ =>
      if !f.toMark.isEmpty && s.engineQuiet mt l && f.tpl.toList.all (s.queueMarked mt l) then .next (s.forwardMarker mt l)
      else .next s

/-- What control cores and the host wrote is gone from the gateway caches (R240, R389). -/
def State.coreWritesDone (s : State) : Bool := !s.invals.any (fun v => v.part.isNone)

/-- COPY_RUN_START: the oldest fired run starts after the previous one, while its partition runs; a control core's also after what cores wrote has taken
effect everywhere (R318, R321, R323, R389). -/
def execCopyRunStart (mt : Site) (l : Leaf) (u : Fin 4) (s : State) : Host.Outcome State Fault Refusal :=
  let t := s.tpl mt l u
  match t.fired with
  | [] => .next s
  | r :: rest =>
    if t.state = 1 ∧ t.run.isNone ∧ (s.mt mt).running = l ∧ s.partHeld (s.mtLeaf mt l).part = false ∧
        (!r.byCore || s.coreWritesDone) then
      .next (s.onTpl mt l u (fun t => { t with run := some r, fired := rest }))
    else .next s

/-! ## Beats (R306, R310, R313, R321) -/

/-- A run that can move a beat: it is neither over nor waiting for a source beat, a held beat or its tag (R306, R315, R386, R425). -/
def State.canBeat (s : State) (mt : Site) (l : Leaf) (t : Template) : Bool :=
  match t.run with
  | none => false
  | some r => !r.ended && r.fault.isNone && r.remote.isNone && !s.runHeld r.id && !s.tagBlocks mt l t r.byCore

/-- The next source beat of a run is asked for: the request goes the way of any read of the memory tile (R229, R238, R240, R241,
R306, R308, R310, R404). -/
def State.readBeat (s : State) (mt : Site) (l : Leaf) (u : Fin 4) (r : CopyRun) : State :=
  let va := (s.tpl mt l u).beatAddr 2 r.soff r.input.length
  let q := s.unitReq mt l u .beat (.read va)
  match (s.takeId.onRun mt l u (fun r => { r with remote := some q.id })).routeNow mt q with
  | .fault _ _ e => s.runFails mt l u e.cause va s.nextId
  | .waits => s
  | .goes s1 => s1

/-- A beat of a run has been sent; after the last one the run has sent its last write. -/
def State.beatSent (s : State) (mt : Site) (l : Leaf) (u : Fin 4) (last : Bool) : State :=
  (s.onRun mt l u (fun r => { r with sent := r.sent + 1, ended := last })).endRun mt l u

/-- A destination beat of a mode 0 run (R310, R313). -/
def State.writeBeat (s : State) (mt : Site) (l : Leaf) (u : Fin 4) (r : CopyRun) (v : Vec) : State :=
  let t := s.tpl mt l u
  let va := t.beatAddr 9 r.doff r.sent
  match s.sendBeat mt l u r.id r.byCore va v with
  | .sent s1 => s1.beatSent mt l u (r.sent + 1 == t.walkLen 9)
  | .waits s1 => s1
  | .fault e => s.runFails mt l u e.cause va s.nextId

/-- AUX of the head of a burst that a run streams out: E, k and n of a BP tensor (R118, R150). -/
def Template.burstAux (t : Template) (c : ChainAt) : BitVec 24 :=
  if c.cur = 0xD then BitVec.ofNat 16 t.be ++ BitVec.ofNat 4 c.planes ++ BitVec.ofNat 4 t.bn else 0

/-- A beat of a mode 2 run goes into OBUF (R309); ROUND and SCALED of its token are 0 (DESIGN CHOICE, log 33). -/
def State.streamBeat (s : State) (mt : Site) (l : Leaf) (u : Fin 4) (r : CopyRun) (c : ChainAt) (v : Vec) (last : Bool) :
    State :=
  let t := s.tpl mt l u
  let side : Sideband := { fmt := c.cur, head := r.sent == 0, tail := last, pred := true, bank := t.cbank,
                           aux := if r.sent = 0 then t.burstAux c else 0 }
  match s.ebufPut mt l t.obuf { side := side, payload := v } with
  | none => s
  | some s1 => s1.beatSent mt l u last

/-- One beat of a run: the next output beat that the chain gives, or the next source beat (R306, R310, R313). -/
def State.beat (s : State) (mt : Site) (l : Leaf) (u : Fin 4) (r : CopyRun) : State :=
  let t := s.tpl mt l u
  let final := decide (t.walkLen 2 ≤ r.input.length)
  let c := t.output r.input final
  let n := c.beats.length
  if c.conv then s.runFails mt l u .conv (t.beatAddr 2 r.soff (r.input.length - 1)) s.nextId
  else if t.mode = 2 then
    if r.sent + 1 < n ∨ final ∧ r.sent < n then
      s.streamBeat mt l u r c (c.beats.getD r.sent 0) (final && r.sent + 1 == n)
    else if final then (s.onRun mt l u (fun r => { r with ended := true })).endRun mt l u
    else s.readBeat mt l u r
  else if r.sent < n ∨ final then s.writeBeat mt l u r (c.beats.getD r.sent 0)
  else s.readBeat mt l u r

/-- The state after a beat of a unit, when it can move one: not while the beat has to wait (R306). -/
def State.unitBeat (s : State) (mt : Site) (l : Leaf) (u : Fin 4) : Option State :=
  match (s.tpl mt l u).run with
  | none => none
  | some r =>
    let s1 := s.beat mt l u r
    if s.canBeat mt l (s.tpl mt l u) && decide (s1 ≠ s) then some s1 else none

/-- The unit that the engine serves next, round-robin, with the state after its beat (R306). -/
def State.nextUnit (s : State) (mt : Site) (l : Leaf) : Option (Fin 4 × State) :=
  [0, 1, 2, 3].findSome? (fun (k : Fin 4) =>
    let u := (s.mt mt).rr + k
    (s.unitBeat mt l u).map (fun x => (u, x)))

/-- COPY_BEAT: the engine moves one beat a cycle, of the unit whose turn it is, while the partition of its leaf runs (R306,
R323). -/
def execCopyBeat (mt : Site) (l : Leaf) (u : Fin 4) (s : State) : Host.Outcome State Fault Refusal :=
  if (s.mt mt).running ≠ l ∨ s.fenced (siteDie mt) ∨ s.partHeld (s.mtLeaf mt l).part ∨ s.usedNow mt (s.mt mt).last.beat then .next s
  else
    match s.nextUnit mt l with
    | none => .next s
    | some (v, x) => if v = u then .next ((x.onMt mt (fun m => { m with rr := u + 1 })).beatNow mt) else .next s

/-! ## Host reads (R241) -/

/-- A read of host memory ends in an error, which the port counts (R241). -/
def State.hostReadFails (s : State) (f : Flying) (c : Cause) : State :=
  { s.land f.req.id with host := { s.host with readErrors := s.host.readErrors + 1 } }.failReq f.req c

/-- HOST_READ_COMPLETION (R241). -/
def execHostReadCompletion (i : Nat) (st : PcieStatus) (s : State) : Host.Outcome State Fault Refusal :=
  match s.inFlight i with
  | some f =>
    if f.target = .host ∧ s.firstOfLine f.req then
      match st with
      | .success => .next (s.takeEffect f (f.req.pa.getD 0))
      | .unsupportedOrAbort => .next (s.hostReadFails f .page)
      | .poisoned => .next (s.hostReadFails f .ecc)
    else .next s
  | none => .next s

/-- HOST_COMPLETION_TIMEOUT (R241). -/
def execHostCompletionTimeout (i : Nat) (s : State) : Host.Outcome State Fault Refusal :=
  match s.inFlight i with
  | some f => if f.target = .host then .next (s.hostReadFails f .ecc) else .next s
  | none => .next s

/-! ## arm, fire and the registers (R314, R316-R318) -/

/-- The leaf of the engine that a request reached, and its unit. -/
def State.engineOf (s : State) (f : Flying) : Option (Site × Leaf × Fin 4) :=
  match f.target with
  | .engine mt =>
    let sel := match f.req.body with
      | .arm _ x => x
      | .fire x _ _ => x
      | _ => 0
    (s.mtLeafOf f.req.src.part mt).map (fun l => (mt, l, (sel.extractLsb' 0 2).toFin))
  | _ => none

/-- A shape record of two lines as a template, and whether its words w20 to w31 are zero (R307, R312). -/
def shapeRecord (a b : Vec) : Vector W32 20 × Bool :=
  let w := fun (i : Nat) => if i < 16 then getF a 32 i else getF b 32 (i - 16)
  (Vector.ofFn (fun (i : Fin 20) => w i.val), (List.range 12).all (fun i => w (20 + i) == 0))

/-- A template armed with a record by a bank of a graph: TPLW, an empty pending set, ARMED, and its completion tag (R316). -/
def State.install (s : State) (mt : Site) (l : Leaf) (u : Fin 4) (g : Nat) (w : Vector W32 20) : State :=
  let s1 := s.onTpl mt l u (fun t => { t with graph := g, w := w, pend := [], state := 1, scatter := 0, held := false })
  let t := s1.tpl mt l u
  if t.tv then
    let low : W32 := 1#1 ++ BitVec.ofNat 3 t.ceb.val ++ t.cbank ++ 0#2 ++ t.ccount
    s1.onMtLeaf mt l (fun f => { f with ctag := f.ctag.set t.tag (f.ctag[t.tag].extractLsb' 32 32 ++ low) })
  else s1

/-- A template takes a record once its run in progress has ended (R316). -/
def State.armWith (s : State) (q : Req) (mt : Site) (l : Leaf) (u : Fin 4) (w : Vector W32 20) : State :=
  let t := s.tpl mt l u
  if t.run.isSome ∨ t.state = 1 ∧ !t.fired.isEmpty then s.onFlying q.id (fun f => { f with record := some w })
  else ((s.land q.id).install mt l u (s.ctx q.src.tile q.src.leaf).graph w).written q

/-- The read of the next line of an `arm`'s record sets out; the access counts once (R306, R316, R385). -/
def State.askLine (s : State) (f : Flying) (mt : Site) (l : Leaf) (u : Fin 4) (ea : W64) : State :=
  let n := f.lines.length
  let q := { s.unitReq mt l u (.line f.req.id) (.read (ea + BitVec.ofNat 64 (64 * n))) with counted := n != 0 }
  match (s.takeId.onFlying f.req.id (fun f => { f with asked := true })).routeNow mt q with
  | .fault _ x e => (s.land f.req.id).failReq { f.req with pa := x.pa } e.cause
  | .waits => s
  | .goes s1 => s1

/-- ARM_AT_MEMORY_TILE: the record is read line by line and checked once, and installed when the run in progress has ended
(R316, R385). -/
def execArmAtMemoryTile (i : Nat) (s : State) : Host.Outcome State Fault Refusal :=
  match s.inFlight i with
  | none => .next s
  | some f =>
    match f.req.body, s.engineOf f with
    | .arm ea _, some (mt, l, u) =>
      let q := f.req
      if s.fenced (siteDie mt) then .next ((s.land i).failReq q .page)
      else if !s.pathOpen (siteDie q.src.tile) (siteDie mt) then .next s
      else
        match f.record, f.lines with
        | some w, _ => .next (s.armWith q mt l u w)
        | none, [a, b] =>
          let r := shapeRecord a b
          if !(r.2 && ({ s.tpl mt l u with w := r.1 } : Template).legal (s.mt mt).ebuf[l]) then
            .next ((s.land i).failReq q .tplchain)
          else .next (s.armWith q mt l u r.1)
        | none, _ => if f.asked then .next s else .next (s.askLine f mt l u ea)
    | _, _ => .next s

/-- FIRE_TOKEN_ENQUEUE: the token joins the queue buffer when it has a free slot, in arrival order (R317). -/
def execFireTokenEnqueue (i : Nat) (s : State) : Host.Outcome State Fault Refusal :=
  match s.inFlight i with
  | none => .next s
  | some f =>
    match f.req.body, s.engineOf f with
    | .fire sel w0 w1, some (mt, l, u) =>
      let earlier := s.flight.any (fun g => decide (g.req.id < i) && g.target == f.target &&
        match g.req.body with
        | .fire x _ _ => x == sel
        | _ => false)
      let tok : Token := { side := { pred := true }, payload := setF (setF (0 : Vec) 32 0 w0) 32 1 w1 }
      if s.fenced (siteDie mt) then .next ((s.land i).failReq f.req .page)
      else if earlier || !s.pathOpen (siteDie f.req.src.tile) (siteDie mt) then .next s
      else
        match s.ebufPut mt l (s.tpl mt l u).qbuf tok with
        | none => .next s
        | some s1 => .next ((s1.land i).acknowledge f.req)
    | _, _ => .next s

/-- A write to TPLFIRE: a run of the unit's template is fired, or `none` when the write is refused with PERM (R318). -/
def State.tplfire (s : State) (mt : Site) (l : Leaf) (u : Fin 4) (v : W64) : Option State :=
  let t := s.tpl mt l u
  if t.state ≠ 1 ∨ t.mode ≠ 0 ∨ s.partRuns (s.mtLeaf mt l).part then none
  else
    let r : CopyRun := { id := s.nextId, soff := v.extractLsb' 0 32, doff := v.extractLsb' 32 32, byCore := true }
    some (s.takeId.onTpl mt l u (fun t => { t with fired := t.fired ++ [r] }))

/-- The selector of a tile-state register (R397). -/
def tileSelector (t : Site) (l : Leaf) (num : Nat) : W64 :=
  BitVec.ofNat 64 (t.toNat + 4096 * l.val + 65536 * num)

/-- TPLFIRE_WRITE: a refused write is a PERM exception of the control core that made it (R318, R396). -/
def execTplfireWrite (k : CoreId) (mt : Site) (l : Leaf) (u : Fin 4) (v : W64) (s : State) :
    Host.Outcome State Fault Refusal :=
  match s.tplfire mt l u v with
  | some s1 => .next s1
  | none => .next (s.ccException k .perm (tileSelector mt l (0x34 + u.val)))

/-- A write to TPLST: STATE is RW, the other fields RO (R314). -/
def State.setTplst (s : State) (mt : Site) (l : Leaf) (u : Fin 4) (v : W32) : State :=
  s.onTpl mt l u (fun t => { t with state := v.extractLsb' 30 2 })

/-- TPLST_WRITE (R314, R322). -/
def execTplstWrite (mt : Site) (l : Leaf) (u : Fin 4) (v : W32) (s : State) : Host.Outcome State Fault Refusal :=
  .next (s.setTplst mt l u v)

end Sys2Proof.Machine
end

