-- ==== Sys2Proof/Machine/Launching.lean ====
section
/-!
DEFINITION. `lnch`, which launches a child of the running graph through the launch pool (R345-R347). What the master and
the distributors do with it is in Distribution.
-/
namespace Sys2Proof.Machine

/-- A launch-table entry. -/
def State.entry (s : State) (n : Nat) : LaunchEntry := s.launch.get n {}
/-- PRIO (R340). -/
def LaunchEntry.prio (e : LaunchEntry) : BitVec 2 := e.w0.extractLsb' 27 2

/-- An entry of the launch pool, when it is in use. -/
def State.poolEntry (s : State) (n : Nat) : Option PoolEntry := s.pool.get n none

/-- The lowest free entry of `n` entries from `base`. -/
def State.freePool (s : State) (base n : Nat) : Option Nat :=
  (List.range n).findSome? (fun i => if (s.poolEntry (base + i)).isNone then some (base + i) else none)

/-- The pool entry that a launch at a depth takes: of its own reserve, else of the shared part (R346; log 11). -/
def State.poolFor (s : State) (d : BitVec 4) : Option Nat :=
  (s.freePool (64 * d.toNat) 64).orElse (fun _ => s.freePool 512 512)

/-- `lnch`: the launch carries FIRST, COUNT and PRIO of its template as they stand at issue (R347). -/
def planLnch (g : Pg) (a : BitVec 5) (range : Option (BitVec 4)) (ret : Option (BitVec 3)) : State → SlotPlan :=
  guarded .c g (fun s =>
    let k := s.curBank
    let entry := (k.rs a).extractLsb' 0 12
    let tpl := s.entry entry.toNat
    let depthFault :=
      if k.gdepth = 8 then some (faultOf .ldepth (entry.setWidth 32)) else none
    let rs := readsS [a] ++ (match range with | some q => readsPair q | none => [])
    let r := match range with | some q => (k.rs (q ++ 0#1), k.rs (q ++ 1#1)) | none => (tpl.w3, tpl.w4)
    let chCheck := match ret with | some ch => respCheck s.curCtx ch | none => none
    let chReady := match ret with | some ch => (s.curCtx.inCh ch).canReserve | none => true
    let slot := s.poolFor k.gdepth
    let n := slot.getD 0
    { reads := rs, check := firstFault [depthFault, chCheck], ready := slot.isSome && s.portFree && chReady,
      wait := if slot.isNone then 4 else if s.portFree then 1 else 5,
      act := fun x =>
        let src := s.sender ret
        let e : PoolEntry := { template := entry, range := r, depth := k.gdepth + 1, prio := tpl.prio,
                               parent := s.curCtx.graph, src := src, notify := ret.isSome }
        let y := x.toPort src (.lnch entry r (k.gdepth + 1) tpl.prio n ret.isSome) (s.covered s.curCtx k) (s.curCtx.spanDies 3)
        let z := { y with pool := y.pool.set n (some e) }
        match ret with
        | some ch => z.countRn ch
        | none => z }) nothing

/-! ## Meanings: each issues the op alone in its bundle -/

/-- The meaning of `lnch` (R347). -/
def execLnch (g : Pg) (a : BitVec 5) (range : Option (BitVec 4)) (ret : Option (BitVec 3)) (s : State) : Host.Outcome State Fault Refusal :=
  issueOne (planLnch g a range ret) s

end Sys2Proof.Machine
end

