-- ==== Sys2Proof/Machine/UmbraHost.lean ====
section
/-!
DEFINITION. Umbra hosts: the record of a key and what requests do to it (R287-R298), refusals (R290), stalls and the
deadlock probe (R300, R301), UMREL (R303), and the marker (R304).
-/
namespace Sys2Proof.Machine

/-! ## The record of a key (R287, R288) -/

/-- The record of a key; one that is not held reads as EXP 0 with nothing else (R287). -/
def MtLeaf.keyRec (f : MtLeaf) (key : W32) : KeyRec := (f.keys.find? (fun r => r.key == key)).getD { key := key }

/-- A key has a record. -/
def MtLeaf.hasKey (f : MtLeaf) (key : W32) : Bool := f.keys.any (fun r => r.key == key)

/-- A record is quiet at EXP 0 and is freed (R287). -/
def KeyRec.empty (r : KeyRec) : Bool :=
  r.exp == 0 && r.holder.isNone && !r.poison && r.waiters.isEmpty && r.skips.isEmpty

/-- The record of a key replaced, or freed when it is empty (R287). -/
def MtLeaf.setKey (f : MtLeaf) (r : KeyRec) : MtLeaf :=
  let rest := f.keys.filter (fun x => x.key != r.key)
  if r.empty then { f with keys := rest }
  else if f.hasKey r.key then { f with keys := f.keys.map (fun x => if x.key = r.key then r else x) }
  else { f with keys := f.keys ++ [r] }

/-- Waiting entries in use: waiters and skips (R290). -/
def MtLeaf.entries (f : MtLeaf) : Nat := f.keys.foldl (fun n r => n + r.waiters.length + r.skips.length) 0

/-- The sequence is past (R288). -/
def KeyRec.past (r : KeyRec) (q : W32) : Bool := (q - r.exp).getLsbD 31

/-- The sequence is held, waiting or skipped (R293). -/
def KeyRec.taken (r : KeyRec) (q : W32) : Bool :=
  (r.holder.isSome && q == r.exp) || r.waiters.any (fun w => w.seq == q) || r.skips.contains q

/-- The bank that a sender names. -/
def Sender.holder (x : Sender) : Holder := ⟨x.tile, x.leaf, x.bank⟩

/-- EXP moves on past the sequences in Skips, at most as many as there are (R293). -/
def KeyRec.passSkips (r : KeyRec) : Nat → KeyRec
  | 0 => r
  | n + 1 =>
    if r.skips.contains r.exp then
      KeyRec.passSkips { r with skips := r.skips.filter (fun q => q != r.exp), exp := r.exp + 1 } n
    else r

/-- advance() of R293: the record after it, and the waiter that is granted. -/
def KeyRec.advance (r : KeyRec) : KeyRec × Option Waiter :=
  let r1 := KeyRec.passSkips { r with exp := r.exp + 1 } r.skips.length
  match r1.waiters.find? (fun w => w.seq == r1.exp) with
  | none => (r1, none)
  | some w =>
    ({ r1 with waiters := r1.waiters.filter (fun x => x.seq != w.seq), holder := some w.src.holder }, some w)

/-! ## What a host does (R293) -/

/-- A grant sets out for a bank; one decided behind a marker, or in the decision cycle of a swap, is held until restore, and one
for a bank whose record lies in device memory is recorded with it (R293, R304, R355). -/
def State.grantTo (s : State) (mt : Site) (l : Leaf) (src : Sender) (key seq : W32) (poison : Bool) : State :=
  let held := (s.leafFor src.part mt l).marked || s.decidedNow src.part (siteDie mt)
  let g : Grant :=
    { src := src, key := key, seq := seq, poison := poison, due := s.dueOn (some (siteDie mt)) src.tile 4, held := held }
  if s.stashed src.part src.tile src.leaf then
    s.onStash src.part src.tile src.leaf (fun x => { x with lateGrants := x.lateGrants ++ [g] })
  else { s with grants := s.grants ++ [g] }

/-- advance() at the host of a partition, with the grant that it causes (R293). -/
def State.advanceKey (s : State) (part : BitVec 6) (mt : Site) (l : Leaf) (r : KeyRec) : State :=
  let a := r.advance
  let s1 := s.onLeafFor part mt l (fun f => f.setKey a.1)
  match a.2 with
  | none => s1
  | some w => s1.grantTo mt l w.src r.key w.seq r.poison

/-- leave(p) of R293, at the host of a partition: in its leaf, or in its image (R304). -/
def State.leaveKey (s : State) (part : BitVec 6) (mt : Site) (l : Leaf) (key : W32) (p : Bool) : State :=
  let r := (s.leafFor part mt l).keyRec key
  s.advanceKey part mt l { r with holder := none, poison := r.poison || p }

/-- An error that the host reports to the requesting bank (R299). -/
def State.umbraReport (s : State) (q : Req) (c : Cause) (key seq : W32) (reason : BitVec 8) (refused : Bool) : State :=
  s.reportTo q { faultOf c key with reason := reason, key := some (key, seq) } refused

/-- A probe asks the holder of a key whether it waits for a key that the new waiter holds (R301). -/
def State.startProbe (s : State) (mt : Site) (l : Leaf) (r : KeyRec) (id : Nat) (keys : List W32) : State :=
  match r.holder with
  | none => s
  | some b =>
    if keys.isEmpty then s
    else { s with probes := s.probes ++ [{ mt := mt, leaf := l, key := r.key, id := id, who := b, keys := keys }] }

/-- enter(q, w) of R293. -/
def State.enterKey (s : State) (mt : Site) (l : Leaf) (q : Req) (key seq : W32) (keys : List W32) : State :=
  let r := (s.mtLeaf mt l).keyRec key
  if r.past seq then s.umbraReport q .seq key seq 1 true
  else if r.taken seq then s.umbraReport q .seq key seq 2 true
  else if seq = r.exp then
    (s.onMtLeaf mt l (fun f => f.setKey { r with holder := some q.src.holder })).grantTo mt l q.src key seq r.poison
  else
    let w : Waiter := { id := q.id, seq := seq, src := q.src, keys := keys, age := q.age, reported := q.reported }
    (s.onMtLeaf mt l (fun f => f.setKey { r with waiters := r.waiters ++ [w] })).startProbe mt l r q.id keys

/-- skip(q, w) of R293. -/
def State.skipKey (s : State) (mt : Site) (l : Leaf) (q : Req) (key seq : W32) : State :=
  let r := (s.mtLeaf mt l).keyRec key
  if r.past seq then s.umbraReport q .seq key seq 1 false
  else if r.taken seq then s.umbraReport q .seq key seq 2 false
  else if seq = r.exp then s.advanceKey q.src.part mt l r
  else s.onMtLeaf mt l (fun f => f.setKey { r with skips := r.skips ++ [seq] })

/-- init(q, w) of R293. -/
def State.initKey (s : State) (mt : Site) (l : Leaf) (q : Req) (key seq : W32) : State :=
  let r := (s.mtLeaf mt l).keyRec key
  if r.holder.isSome ∨ !r.waiters.isEmpty ∨ !r.skips.isEmpty then s.umbraReport q .seq key seq 3 false
  else s.onMtLeaf mt l (fun f => f.setKey { r with exp := seq, poison := false })

/-- A request that needs a record or a waiting entry which the host cannot give goes back to the requester's home memory
tile (R290). Each leaf counts its own records and entries: the spec does not say whether two partitions at one memory tile share
them (DESIGN CHOICE, log 61). -/
def MtLeaf.refuses (f : MtLeaf) (key seq : W32) : Bool :=
  let r := f.keyRec key
  let needsRecord := !f.hasKey key && decide (2048 ≤ f.keys.length)
  let waits := !r.past seq && !r.taken seq && seq != r.exp
  (needsRecord && !r.past seq) || (waits && decide (4096 ≤ f.entries))

/-- A request in a list of refused ones, at its place by age: the number of its issue orders them (R290; DESIGN CHOICE, log
61). -/
def insertReq (q : Req) : List Req → List Req
  | [] => [q]
  | r :: rest => if q.id < r.id then q :: r :: rest else r :: insertReq q rest

/-- A refused request is kept at the requester's home memory tile, to be sent again in its turn (R290). -/
def State.refuse (s : State) (q : Req) : State :=
  let k := refusedKey q.src.tile q.src.leaf
  s.onMt (homeMemTile q.src.tile) (fun m =>
    { m with refused := m.refused.set k (insertReq { q with refused := true } (m.refused.get k [])) })

/-- The request at the head of a host's input queue, applied by `g`; a host handles one request a cycle (R290). One for a host on a fenced die is reported with PAGE
(R406), and the bank of a `umen` goes on waiting with its p7 pending, as after an error that the host finds (R299; DEDUCED,
log 61). -/
def State.atHost (s : State) (i : Nat) (g : Req → Site → Leaf → State → Option State) : State :=
  match s.inFlight i with
  | none => s
  | some f =>
    if !s.firstAt f then s
    else
      match f.target with
      | .umbra mt =>
        if s.fenced (siteDie mt) then (s.land i).failReq f.req .page
        else if !s.pathOpen (siteDie f.req.src.tile) (siteDie mt) || s.usedNow mt (s.mt mt).last.host then s
        else
          let s1 := (s.land i).uses mt (fun u n => { u with host := n })
          match s.mtLeafOf f.req.src.part mt with
          | none => s1.reportTo f.req (faultOf .chproto 0x0000000A) false
          | some l => (g f.req mt l s1).getD s
      | _ => s

/-- UMBRA_ENTER_AT_HOST (R290, R293). -/
def execUmbraEnterAtHost (i : Nat) (s : State) : Host.Outcome State Fault Refusal :=
  .next (s.atHost i (fun q mt l x =>
    match q.body with
    | .umen key seq _ keys =>
      if (x.mtLeaf mt l).refuses key seq then some (x.refuse q) else some (x.enterKey mt l q key seq keys)
    | _ => none))

/-- UMBRA_LEAVE_AT_HOST: `umlv` or `umabt`; one that needs a new record can be refused (R290, R293). -/
def execUmbraLeaveAtHost (i : Nat) (s : State) : Host.Outcome State Fault Refusal :=
  .next (s.atHost i (fun q mt l x =>
    let f := x.mtLeaf mt l
    let leave := fun (key : W32) (p : Bool) =>
      if !f.hasKey key && decide (2048 ≤ f.keys.length) then some (x.refuse q) else some (x.leaveKey q.src.part mt l key p)
    match q.body with
    | .umlv key => leave key false
    | .umabt key => leave key true
    | _ => none))

/-- UMBRA_SKIP_AT_HOST (R293, R297). -/
def execUmbraSkipAtHost (i : Nat) (s : State) : Host.Outcome State Fault Refusal :=
  .next (s.atHost i (fun q mt l x =>
    match q.body with
    | .umsk key seq =>
      if (x.mtLeaf mt l).refuses key seq then some (x.refuse q) else some (x.skipKey mt l q key seq)
    | _ => none))

/-- UMBRA_INIT_AT_HOST (R293, R298). -/
def execUmbraInitAtHost (i : Nat) (s : State) : Host.Outcome State Fault Refusal :=
  .next (s.atHost i (fun q mt l x =>
    match q.body with
    | .umini key seq =>
      let f := x.mtLeaf mt l
      if !f.hasKey key && seq != 0 && decide (2048 ≤ f.keys.length) then some (x.refuse q)
      else some (x.initKey mt l q key seq)
    | _ => none))

/-- A refused request can be sent again: its partition is not stopped for a swap, and its UMHOST entry is valid (R290, R304). -/
def State.canRetry (s : State) (mt : Site) (q : Req) : Bool :=
  !s.partStopped q.src.part (siteDie mt) && (s.umhostOf q.src.tile q.src.leaf q.body.flta).isSome

/-- No refused request that a home memory tile can send again is older, by its number (R290; DESIGN CHOICE, log 61). -/
def State.oldestRefused (s : State) (mt : Site) (q : Req) : Bool :=
  (s.mt mt).refused.all (fun p =>
    match p.2 with
    | [] => true
    | x :: _ => decide (q.id ≤ x.id) || !s.canRetry mt x)

/-- The refused request of a compute tile that its home memory tile sends next: the head of the list of the leaf that runs (R290,
R304). -/
def State.retryHead (s : State) (mt t : Site) : Option (Req × Nat × List Req) :=
  (List.finRange 2).findSome? (fun (l : Leaf) =>
    match (s.mt mt).refused.get (refusedKey t l) [] with
    | [] => none
    | q :: r => if s.canRetry mt q then some (q, refusedKey t l, r) else none)

/-- UMBRA_REFUSAL_RETRY: the oldest refused request of a home memory tile, which is one of this compute tile, is sent again, at
most one a cycle (R290, R304). -/
def execUmbraRefusalRetry (mt t : Site) (s : State) : Host.Outcome State Fault Refusal :=
  match s.retryHead mt t with
  | none => .next s
  | some (q, k, r) =>
    match s.umhostOf t q.src.leaf q.body.flta with
    | none => .next s
    | some e =>
      if !s.oldestRefused mt q || s.usedNow mt (s.mt mt).last.retry then .next s
      else
        .next (((s.onMt mt (fun m => { m with refused := m.refused.set k r })).uses mt (fun u n => { u with retry := n })).fly q
          (.umbra (umhostSite e)))

/-! ## Grants (R294, R304, R370) -/

/-- A bank takes its grant: the slot becomes valid, WAIT clears, and p7 and SEQST land with its values (R294). -/
def Bank.granted (k : Bank) (slot : Fin 4) (g : Grant) : Bank :=
  { k with umWait := none,
           held := k.held.set slot { key := g.key, seq := g.seq, valid := true },
           psn := if g.poison then k.psn ||| (1#4 <<< slot.val) else k.psn &&& ~~~(1#4 <<< slot.val),
           pending := k.pending.flatMap (fun w =>
             match w.val with
             | .grant _ => [{ rem := 0, val := .pred 7 g.poison },
                           { rem := 0, val := .sreg 0x00F (BitVec.ofBool g.poison ++ g.seq.extractLsb' 0 31) }]
             | _ => [w]) }

/-- The host of a key for a sender, with the leaf that serves its partition. -/
def State.hostOf (s : State) (src : Sender) (key : W32) : Option (Site × Leaf) :=
  match s.umhostOf src.tile src.leaf key with
  | none => none
  | some e => (s.mtLeafOf src.part (umhostSite e)).map (fun l => (umhostSite e, l))

/-- A grant that no bank waits for is left again with poison (R370). -/
def State.leaveGrant (s : State) (g : Grant) : State :=
  match s.hostOf g.src g.key with
  | some (mt, l) => s.leaveKey g.src.part mt l g.key true
  | none => s

/-- UMBRA_GRANT_ARRIVAL: the grant reaches the bank that waits for it (R294). One whose bank waits no more, because its
graph has been killed, is left again with poison (R370). A context that is saved, or that the grant reaches in the decision
cycle of its swap, gets it at restore (R32, R304, R355). -/
def execUmbraGrantArrival (i : Nat) (s : State) : Host.Outcome State Fault Refusal :=
  match s.grants[i]? with
  | none => .next s
  | some g =>
    let s1 := { s with grants := s.grants.eraseIdx i }
    if g.held ∨ s.away g.src.tile g.src.leaf then .next s
    else if s.recordsNow g.src.tile g.src.leaf then .next { s with grants := s.grants.set i { g with held := true } }
    else
      match (s.bank g.src.tile g.src.leaf g.src.bank).umWait with
      | some w =>
        if w.key = g.key ∧ w.seq = g.seq then
          .next (s1.onBank g.src.tile g.src.leaf g.src.bank (fun k => k.granted w.slot g))
        else .next (s1.leaveGrant g)
      | none => .next (s1.leaveGrant g)

/-! ## Stalls and deadlock (R300, R301) -/

/-- UMBSTALL's record (R300, R373). -/
def stallRecord (mt : Site) (src : Sender) (asid : W16) (key exp seq : W32) (holder : Option Holder) : Notice :=
  let h : W32 := match holder with
    | some b => 0#17 ++ BitVec.ofNat 2 b.bank.val ++ BitVec.ofNat 1 b.leaf.val ++ b.tile
    | none => 0xFFF
  noticeOf [noticeW0 0 Cause.umbstall.code 2, noticeW1 src.part src.tile src.leaf src.bank, 0, 0, 0, 0, 0, 0,
    asid.setWidth 32, key, exp, seq, h, mt.setWidth 32, 0]

/-- The requests that a host has refused, at their home memory tiles or on their way to a host again (R290). -/
def State.refusedReqs (s : State) : List Req :=
  (s.memTiles.flatMap (fun m => m.2.refused.flatMap (fun p => p.2)) ++ s.flight.map (fun f => f.req)).filter (fun q => q.refused)

/-- A refused enter request whose age has reached a limit (R300). -/
def Req.stalled (q : Req) (limit : Nat) : Bool := q.refused && !q.reported && limit != 0 && decide (limit ≤ q.age)

/-- A waiting enter request whose age has reached a limit (R300). -/
def Waiter.stalled (w : Waiter) (limit : Nat) : Bool := !w.reported && limit != 0 && decide (limit ≤ w.age)

/-- The refused enter request for a key and sequence of a host whose stall is due. -/
def State.stalledRefusal (s : State) (mt : Site) (l : Leaf) (limit : Nat) (key seq : W32) : Option Req :=
  s.refusedReqs.find? (fun q => q.stalled limit && s.hostOf q.src key == some (mt, l) &&
    match q.body with
    | .umen k n .. => k == key && n == seq
    | _ => false)

/-- UMBSTALL: an enter request that has waited LIMIT cycles is reported once, to the control core (R300). -/
def execUmbstall (mt : Site) (l : Leaf) (key seq : W32) (s : State) : Host.Outcome State Fault Refusal :=
  let f := s.mtLeaf mt l
  let r := f.keyRec key
  let limit := f.umblim.toNat
  let tell := fun (x : State) (src : Sender) =>
    x.notify (siteDie mt) src.part (stallRecord mt src (s.asidOf src.tile src.leaf) key r.exp seq r.holder)
  match r.waiters.find? (fun w => w.seq == seq && w.stalled limit) with
  | some w =>
    let ws := r.waiters.map (fun x => if x.seq = seq then { x with reported := true } else x)
    .next (tell (s.onMtLeaf mt l (fun f => f.setKey { r with waiters := ws })) w.src)
  | none =>
    match s.stalledRefusal mt l limit key seq with
    | none => .next s
    | some q =>
      let mark := fun (p : Req) => if p.id = q.id then { p with reported := true } else p
      let s1 := s.onMt (homeMemTile q.src.tile) (fun m => { m with refused := m.refused.map (fun p => (p.1, p.2.map mark)) })
      .next (tell { s1 with flight := s1.flight.map (fun f => { f with req := mark f.req }) } q.src)

/-- A stall report of a die is due: of a waiter at a host there, or of a refused request whose home memory tile lies there
(R300). -/
def State.stallDue (s : State) (d : DieId) : Bool :=
  s.memTiles.any (fun m => siteDie (BitVec.ofNat 12 m.1) == d && m.2.lf.toList.any (fun f =>
    f.keys.any (fun r => r.waiters.any (fun w => w.stalled f.umblim.toNat)))) ||
  s.refusedReqs.any (fun q => siteDie q.src.tile == d &&
    (match q.body with
     | .umen key .. =>
       (match s.hostOf q.src key with
        | some (mt, l) => q.stalled (s.mtLeaf mt l).umblim.toNat
        | none => false)
     | _ => false))

/-- A waiting request withdrawn from its record. -/
def State.withdraw (s : State) (mt : Site) (l : Leaf) (key : W32) (id : Nat) : State :=
  let r := (s.mtLeaf mt l).keyRec key
  s.onMtLeaf mt l (fun f => f.setKey { r with waiters := r.waiters.filter (fun w => w.id != id) })

/-- DEADLOCK_PROBE_ANSWER: a probe first reads the holder's bank at its tile; when it has come back, the host removes the
request that still waits and reports UMBDEAD, or does nothing (R301). -/
def execDeadlockProbeAnswer (i : Nat) (s : State) : Host.Outcome State Fault Refusal :=
  match s.probes[i]? with
  | none => .next s
  | some p =>
    match p.answer with
    | none =>
      let b := s.bank p.who.tile p.who.leaf p.who.bank
      let yes := match b.umWait with
        | some w => p.keys.contains w.key
        | none => false
      .next { s with probes := s.probes.set i { p with answer := some yes } }
    | some yes =>
      let s1 := { s with probes := s.probes.eraseIdx i }
      match ((s.mtLeaf p.mt p.leaf).keyRec p.key).waiters.find? (fun w => w.id == p.id) with
      | none => .next s1
      | some w =>
        if yes then
          let q : Req := { id := w.id, src := w.src, body := .umen p.key w.seq 0 w.keys }
          .next ((s1.withdraw p.mt p.leaf p.key w.id).umbraReport q .umbdead p.key w.seq 4 true)
        else .next s1

/-! ## UMREL and the marker (R303, R304) -/

/-- UMREL_WRITE: a write whose holder matches leaves the section with poison (R303). -/
def execUmrelWrite (mt : Site) (l : Leaf) (v : W64) (s : State) : Host.Outcome State Fault Refusal :=
  let key := v.extractLsb' 32 32
  let who : Holder := ⟨v.extractLsb' 20 12, (v.extractLsb' 17 1).toFin, (v.extractLsb' 18 2).toFin⟩
  if ((s.mtLeaf mt l).keyRec key).holder = some who then .next (s.leaveKey (s.mtLeaf mt l).part mt l key true) else .next s

/-- The compute tiles of a partition have all saved (R304, R354). -/
def State.tilesSaved (s : State) (part : BitVec 6) : Bool :=
  match s.parts.get part.toNat none with
  | some p => p.tiles.all (fun t => (s.ctx t.1 t.2).saved)
  | none => false

/-- A swap-out of a partition is in progress (R353). -/
def State.swappingOut (s : State) (part : BitVec 6) : Bool := s.swaps.any (fun w => w.part == part && !w.restore)

/-- UMBRA_HOST_MARKER: behind every request of the partition the host forwards the marker and sends no grant until
restore (R304). -/
def execUmbraHostMarker (mt : Site) (l : Leaf) (s : State) : Host.Outcome State Fault Refusal :=
  let part := (s.mtLeaf mt l).part
  let clear := !s.flight.any (fun f => f.target == .umbra mt && f.req.src.part == part) &&
    !s.memTiles.any (fun m => m.2.queues.any (fun q => q.2.any (fun r => r.src.part == part)))
  if s.swappingOut part && s.tilesSaved part && clear then
    .next (s.onMtLeaf mt l (fun f => { f with marked := true }))
  else .next s

end Sys2Proof.Machine
end

