-- ==== Sys2Proof/Machine/Distribution.lean ====
section
/-!
DEFINITION. The launch table and the distributors (R340-R344, R347-R349), the start, end and kill of a graph (R260, R270,
R271, R302, R344, R370, R424), barrier episodes (R265, R266) and the Milliner (R350, R351).
-/
namespace Sys2Proof.Machine

/-! ## The launch table (R340, R341) -/

/-- A launch-table entry changed. -/
def State.onEntry (s : State) (n : Nat) (f : LaunchEntry → LaunchEntry) : State :=
  { s with launch := s.launch.set n (f (s.entry n)) }
/-- V (R340). -/
def LaunchEntry.v (e : LaunchEntry) : Bool := e.w0.getLsbD 31
/-- STATE (R340). -/
def LaunchEntry.state (e : LaunchEntry) : BitVec 2 := e.w0.extractLsb' 29 2
/-- PREDS (R340). -/
def LaunchEntry.preds (e : LaunchEntry) : BitVec 12 := e.w0.extractLsb' 8 12
/-- PART (R340). -/
def LaunchEntry.part (e : LaunchEntry) : BitVec 6 := e.w0.extractLsb' 0 6
/-- STATE replaced. -/
def LaunchEntry.setState (e : LaunchEntry) (x : BitVec 2) : LaunchEntry :=
  { e with w0 := (e.w0 &&& 0x9FFFFFFF) ||| (x.setWidth 32 <<< 29) }
/-- PREDS replaced. -/
def LaunchEntry.setPreds (e : LaunchEntry) (x : BitVec 12) : LaunchEntry :=
  { e with w0 := (e.w0 &&& 0xFFF000FF) ||| (x.setWidth 32 <<< 8) }
/-- A word of an entry (R340). -/
def LaunchEntry.word (e : LaunchEntry) (j : Nat) : W32 :=
  if j = 0 then e.w0 else if j = 1 then e.w1 else if j = 2 then e.w2 else if j = 3 then e.w3 else if j = 4 then e.w4 else 0

/-- A word of an entry written; RO bits stay 0 (R340). -/
def LaunchEntry.setWord (e : LaunchEntry) (j : Nat) (v : W32) : LaunchEntry :=
  if j = 0 then { e with w0 := v &&& 0xF80FFF3F }
  else if j = 1 then { e with w1 := v &&& 0xFFFF0000 }
  else if j = 2 then { e with w2 := v &&& 0x8FFF8FFF }
  else if j = 3 then { e with w3 := v }
  else if j = 4 then { e with w4 := v }
  else e

/-- An entry that has become READY takes its place in the order (R341). -/
def State.makeReady (s : State) (n o : Nat) : State :=
  { s.onEntry n (fun e => { e.setState 1 with order := o }) with orders := max s.orders (o + 1) }

/-- A valid WAITING entry without unfinished predecessors becomes READY (R341). -/
def State.readyCheck (s : State) (n o : Nat) : State :=
  let e := s.entry n
  if e.v && e.state == 0 && e.preds == 0 then s.makeReady n o else s

/-- A `gtw` or a write through the launch window: a RUNNING entry takes only PRIO (R341, R397, R402). -/
def State.writeEntry (s : State) (n j : Nat) (v : W32) : State :=
  let e := s.entry n
  if e.state = 2 then
    if j = 0 then s.onEntry n (fun e => { e with w0 := (e.w0 &&& 0xE7FFFFFF) ||| (v &&& 0x18000000) }) else s
  else
    let s1 := s.onEntry n (fun e => e.setWord j v)
    if j = 0 ∧ (s1.entry n).state = 1 ∧ e.state ≠ 1 then s1.makeReady n s.orders else s1.readyCheck n s.orders

/-- A predecessor of an entry is done (R341). -/
def State.decrement (s : State) (n o : Nat) : State :=
  (s.onEntry n (fun e => e.setPreds (if e.preds = 0 then 0 else e.preds - 1))).readyCheck n o

/-- The entry is DONE, and its valid successors are decremented once each, at one moment (R341). -/
def State.completeEntry (s : State) (n : Nat) : State :=
  let w := (s.entry n).w2
  let s1 := s.onEntry n (fun e => e.setState 3)
  let s2 := if w.getLsbD 31 then s1.decrement (w.extractLsb' 16 12).toNat s.orders else s1
  if w.getLsbD 15 then s2.decrement (w.extractLsb' 0 12).toNat s.orders else s2

/-! ## Graphs -/

/-- The number of the loaded graph that an entry names: IMAGE 0 names none (R341). -/
def State.graphOf (s : State) (e : LaunchEntry) : Option Nat :=
  let image := e.w1.extractLsb' 20 12
  if image = 0 then none
  else
    s.graphs.findSome? (fun g =>
      match g.2 with
      | some x => if x.part = e.part ∧ x.image = image ∧ x.index = e.w1.extractLsb' 16 4 then some g.1 else none
      | none => none)

/-- A graph runs (R341). -/
def State.graphRuns (s : State) (g : Nat) : Bool := s.launches.any (fun l => l.graph == g)

/-- The slot number of a launch: the table entry, or the pool entry with bit 16 set (R373). -/
def poolSlot (n : Nat) : Nat := 65536 + n

/-- What identifies a launch at the master: its template entry, range, depth and slot (R342, R347). -/
structure Start where
  slot : Nat
  entry : Nat
  first : W32
  count : W32
  depth : BitVec 4
  prio : Nat
  order : Nat

/-- A table entry as a start. -/
def State.tableStart (s : State) (n : Nat) : Start :=
  let e := s.entry n
  { slot := n, entry := n, first := e.w3, count := e.w4, depth := 0, prio := e.prio.toNat, order := e.order }

/-- A launch of the pool as a start (R347). -/
def State.poolStart (n : Nat) (p : PoolEntry) : Start :=
  { slot := poolSlot n, entry := p.template.toNat, first := p.range.1, count := p.range.2, depth := p.depth,
    prio := p.prio.toNat, order := p.order }

/-- The live dies that host the sources of a graph, in ascending order (R342, R349). -/
def State.sourceDies (s : State) (g : Graph) : List DieId :=
  (List.finRange 4).filter (fun d => !s.fenced d && g.sources.any (fun t => siteDie t.1 == d))

/-- What control cores and the host wrote before is performed, for a graph of a partition: their runs are over, and the copies
of what they wrote are gone from the gateway caches (R260, R318). -/
def State.boundaryClear (s : State) (part : BitVec 6) : Bool :=
  let mine := fun (r : CopyRun) => r.byCore
  s.coreWritesDone &&
    !s.chunks.any (fun c => (s.mtLeaf c.mt c.leaf).part == part && c.byCore) &&
    !s.memTiles.any (fun m => m.2.lf.toList.any (fun f => f.part == part &&
      f.tpl.toList.any (fun t => t.run.toList.any mine || t.fired.any mine)))

/-- A start that the master can choose: it has no indices, or its graph is loaded with a source on a live die, does not run
and is not swapped out, and what was written before it is performed (R260, R340, R341; log 58). -/
def State.startable (s : State) (x : Start) : Bool :=
  let part := (s.entry x.entry).part
  x.count == 0 ||
    (match s.graphOf (s.entry x.entry) with
     | some g => !s.graphRuns g && !s.partAway part && s.boundaryClear part && !(s.graph g).any s.ownersWait &&
         (s.graph g).toList.any (fun y => !(s.sourceDies y).isEmpty)
     | none => false)

/-- The starts that the master can choose from (R341). -/
def State.candidates (s : State) : List Start :=
  let table := s.launch.filterMap (fun p => if p.2.v && p.2.state == 1 then some (s.tableStart p.1) else none)
  let pool := s.pool.filterMap (fun p =>
    match p.2 with
    | some e => if e.ready then some (State.poolStart p.1 e) else none
    | none => none)
  (table ++ pool).filter s.startable

/-- A start goes before another: higher priority, then READY first, then the lower number (R341). -/
def Start.before (a b : Start) : Bool :=
  decide (b.prio < a.prio) || (a.prio == b.prio && (decide (a.order < b.order) || (a.order == b.order && decide (a.slot < b.slot))))

/-- The start that goes first. -/
def bestStart : List Start → Option Start
  | [] => none
  | x :: r =>
    match bestStart r with
    | none => some x
    | some y => some (if x.before y then x else y)

/-! ## Notify tokens (R348) -/

/-- A pool launch is over: its notify token sets out, and its entry is free (R346, R348). -/
def State.endPool (s : State) (n : Nat) (status : W32) : State :=
  match s.poolEntry n with
  | none => s
  | some p =>
    let tok : Token :=
      { side := { pred := status == 1, bank := BitVec.ofFin p.src.bank },
        payload := packVec 32 16 (fun i => if i = 0 then p.template.toNat else if i = 1 then n else if i = 2 then status.toNat else 0) }
    let s1 := { s with pool := s.pool.set n none }
    match p.notify, p.src.chan with
    | true, some ch => s1.sendReady none p.src.part p.src.tile p.src.leaf ch tok
    | _, _ => s1

/-- A launch is over by its slot: the entry is DONE, with or without its successors, or the pool launch ends
(R341, R346, R348). -/
def State.finish (s : State) (slot : Nat) (ended : Bool) (status : W32) : State :=
  if slot < 65536 then (if ended then s.completeEntry slot else s.onEntry slot (fun e => e.setState 3))
  else s.endPool (slot - 65536) status

/-! ## The start of a graph (R270, R271, R342, R345, R424) -/

/-- An input channel at its load values, with the producer that a launch gives it (R153, R424). -/
def InCh.atLoad (c : InCh) : InCh :=
  { c with h := 0, f := 0, slots := [], q := 0, rn := 0, passed := 0, marker := false, openBack := false, port := [] }

/-- Producer depth of an output channel at load (R152, R153). -/
def OutCh.atLoad (c : OutCh) : OutCh :=
  { c with w := 0, e := c.depth, wr := 0, rc := 0, tc := 0, closed := false, pokes := [], outq := [] }

/-- An edge buffer at its load values (R245, R424). -/
def EdgeBuf.atLoad (b : EdgeBuf) : EdgeBuf :=
  { b with queue := [], marked := false, preempt := none, freed := false, out := b.out.atLoad, port := [] }

/-- The channels of a graph at their load values (R153, R424). -/
def State.channelsAtLoad (s : State) (g : Nat) (x : Graph) : State :=
  let s1 := x.tiles.foldl (fun y t =>
    y.onCtx t.1 t.2 (fun c => { c with inp := c.inp.map InCh.atLoad, outp := c.outp.map OutCh.atLoad })) s
  x.mts.foldl (fun y m =>
    y.onMt m.1 (fun z =>
      { z with ebuf := z.ebuf.set m.2 (z.ebuf[m.2].map (fun b => if b.graph = g then b.atLoad else b)) })) s1

/-- A slot release is on its way to a channel or an edge buffer of a graph, to a feeder of a launch slot, or to an elastic stage
of the graph: its producer state is at its load values already (R424). -/
def State.staleRelease (s : State) (gi : Nat) (g : Graph) (slot : Nat) (r : Release) : Bool :=
  match r.dest with
  | .tile t l _ => g.tiles.contains (t, l)
  | .edge mt l x => g.mts.contains (mt, l) && ((s.mt mt).ebuf[l][x]).graph == gi
  | .feeder _ n => n / 4096 == slot
  | .elastic d e _ => s.dies[d].elastic[e].pool.any (fun t => g.tiles.contains t)
  | .none => false

/-- What an earlier run of a graph has still on its way back to its producers is gone, as they start full (R153, R424). -/
def State.dropReleases (s : State) (gi : Nat) (g : Graph) (slot : Nat) : State :=
  { s with releases := s.releases.filter (fun r => !s.staleRelease gi g slot r) }

/-- Share i of n of a range: first index and end (R342). -/
def shareOf (first count : W32) (n i : Nat) : Nat × Nat :=
  (first.toNat + count.toNat * i / n, first.toNat + count.toNat * (i + 1) / n)

/-- The launch feeders of a start, with the share of each source's die; a fenced die has none (R342, R349). -/
def State.feedersOf (s : State) (g : Graph) (x : Start) : List Feeder :=
  let dies := s.sourceDies g
  (g.sources.filter (fun t => dies.contains (siteDie t.1))).map (fun t =>
    let d := siteDie t.1
    let r := shareOf x.first x.count dies.length (dies.findIdx (fun y => y == d))
    let depth := (s.ctx t.1 t.2.1).inp[t.2.2].depth
    let out : OutCh := { ocfg := 0x80000000 ||| BitVec.ofNat 32 (depth - 1), e := depth }
    { die := d, tile := t.1, leaf := t.2.1, ch := t.2.2, share := [r], left := if r.1 < r.2 then [r] else [], out := out })

/-- The trigger channels of a launch are bound to its feeders (R24, R342). -/
def State.bindFeeders (s : State) (slot : Nat) (fs : List Feeder) : State :=
  fs.zipIdx.foldl (fun y p =>
    y.onCtx p.1.tile p.1.leaf (fun c =>
      { c with inp := c.inp.set p.1.ch { c.inp[p.1.ch] with prod := .feeder p.1.die (slot * 4096 + p.2) } })) s

/-- The TYPE 2 notice of a graph that is refused at its start (R270); LEAF of w1, which the rule does not give, is 0 (DESIGN
CHOICE, log 65). -/
def refusedRecord (part : BitVec 6) (mt : Site) (asid : W16) (f : XFault) (va : Nat) : Notice :=
  noticeOf [noticeW0 0 f.cause.code 2, noticeW1 part mt 0 0, 0, 0, BitVec.ofNat 32 va, BitVec.ofNat 32 (va / 2 ^ 32), 0, 0,
    asid.setWidth 32]

/-- An elastic stage at the start of its graph: one active tile, counters at 0 (R350, R351). -/
def Elastic.atStart (e : Elastic) (s : State) : Elastic :=
  { e with above := 0, below := 0, change := none, active := (e.pool.take 1).map (fun t => t.1),
           outs := e.pool.map (fun t =>
             let i := (s.ctx t.1 t.2).inCh (s.ctx t.1 t.2).trig
             (t.1.toNat, { ocfg := 0x80000000 ||| BitVec.ofNat 32 (i.depth / i.ratio - 1), e := i.depth / i.ratio })) }

/-- The elastic stages whose pool tiles belong to a graph start anew, with their trigger channels bound to the queue. -/
def State.startElastic (s : State) (g : Graph) : State :=
  let mine := fun (e : Elastic) => e.pool.any (fun t => g.tiles.contains t)
  (List.finRange 4).foldl (fun y d =>
    (List.finRange 16).foldl (fun z e =>
      let x := z.dies[d].elastic[e]
      if mine x then
        x.pool.foldl (fun w t =>
          w.onCtx t.1 t.2 (fun c => c.onIn c.trig (fun i => { i with prod := .elastic d e t.1 })))
          (z.onDie d (fun w => { w with elastic := w.elastic.set e (x.atStart z) }))
      else z) y) s

/-- The fenced dies, as a mask: they count as having reported (R349). -/
def State.fenceMask (s : State) : BitVec 4 := s.host.fence

/-- The master starts a graph (R270, R271, R342, R345). -/
def State.startGraph (s : State) (x : Start) (gi : Nat) (g : Graph) : State :=
  match s.ownersBad g.mts with
  | some (mt, f, va) =>
    (s.finish x.slot false 8).notify (siteDie mt) g.part (refusedRecord g.part mt (s.asidOfPart g.part) f va)
  | none =>
    let s1 := (((s.fillOwners g).dropReleases gi g x.slot).channelsAtLoad gi g).startElastic g
    let fs := s1.feedersOf g x
    let s2 := g.tiles.foldl (fun y t =>
      y.onCtx t.1 t.2 (fun c => { c with banks := c.banks.map (fun b => { b with gdepth := x.depth }) })) s1
    let s3 := s2.bindFeeders x.slot fs
    { s3 with launches := s3.launches ++ [{ slot := x.slot, graph := gi, depth := x.depth, feeders := fs, reports := s.fenceMask }] }

/-- The pool entry of a start is no longer READY, or its table entry is RUNNING (R341). -/
def State.running (s : State) (slot : Nat) : State :=
  if slot < 65536 then s.onEntry slot (fun e => e.setState 2)
  else
    { s with pool := s.pool.set (slot - 65536) ((s.poolEntry (slot - 65536)).map (fun p => { p with ready := false })) }

/-- ENTRY_START: the master starts the entry or launch that goes first; one with no indices is done at once
(R340, R341, R349). -/
def execEntryStart (s : State) : Host.Outcome State Fault Refusal :=
  if s.election then .next s
  else
    match bestStart s.candidates with
    | none => .next s
    | some x =>
      if x.count = 0 then .next (s.finish x.slot true 1)
      else
        match s.graphOf (s.entry x.entry) with
        | none => .next s
        | some gi =>
          match s.graph gi with
          | none => .next s
          | some g => .next ((s.running x.slot).startGraph x gi g)

/-! ## Feeders (R342, R343, R353) -/

/-- GRAN as it acts: 0 is read as 1 (R343). -/
def Die.granule (d : Die) : Nat := if d.gran = 0 then 1 else d.gran.toNat

/-- An item reaches the input port of a trigger channel. -/
def State.toTrigger (s : State) (t : Site) (l : Leaf) (ch : Fin 8) (i : Item) : State :=
  s.onCtx t l (fun c => { c with inp := c.inp.set ch { c.inp[ch] with port := c.inp[ch].port ++ [⟨i, s.cycleAt t + 1⟩] } })

/-- The next token of a feeder: an index token, or the end-of-stream token behind its last index (R342). -/
def Feeder.token (f : Feeder) (gran slot : Nat) (depth : BitVec 4) : Option (Token × Feeder) :=
  let name := slot % 65536
  match f.left with
  | (a, b) :: r =>
    let n := min gran (b - a)
    let left := if a + n < b then (a + n, b) :: r else r
    let payload := packVec 32 16 (fun i =>
      if i = 0 then a % 2 ^ 32 else if i = 1 then n else if i = 2 then name else if i = 3 then depth.toNat else 0)
    some ({ side := { pred := true, bank := f.tag }, payload := payload }, { f with left := left, tag := f.tag + 1 })
  | [] =>
    if f.eos then none
    else
      some ({ side := { pred := true, kind := 2, bank := f.tag }, payload := BitVec.ofNat 512 name },
        { f with eos := true, tag := f.tag + 1 })

/-- INDEX_TOKEN_PUBLISH: feeder `i % 4096` of the launch in slot `i / 4096` publishes its next token, one per cycle, under the
channel's reservations (R342, R349, R353). -/
def execIndexTokenPublish (i : Nat) (s : State) : Host.Outcome State Fault Refusal :=
  match s.launches.find? (fun l => l.slot == i / 4096) with
  | none => .next s
  | some l =>
    match l.feeders[i % 4096]?, s.graph l.graph with
    | some f, some g =>
      if s.election ∨ s.partStopped g.part f.die ∨ s.fenced f.die ∨ l.stranded ∨ f.out.e = 0 ∨
          f.published = s.dies[f.die].cycle.toNat + 1 then .next s
      else
        match f.token s.dies[f.die].granule l.slot l.depth with
        | none => .next s
        | some (tok, f1) =>
          let item : Item := { src := .feeder f.die i, part := g.part, leaf := f.leaf, graph := l.graph,
                               body := .publish f.out.w tok false }
          let f2 := { f1 with out := { f.out with w := (f.out.w + 1) % f.out.depth, e := f.out.e - 1 },
                              published := s.dies[f.die].cycle.toNat + 1 }
          let up := fun (x : Launch) => if x.slot = l.slot then { x with feeders := x.feeders.set (i % 4096) f2 } else x
          let s1 := { s with launches := s.launches.map up }
          .next (s1.toTrigger f.tile f.leaf f.ch item)
    | _, _ => .next s

/-! ## The end of a graph (R260, R302, R344) -/

/-- The tiles of a graph on a die. -/
def Graph.tilesOn (g : Graph) (d : DieId) : List (Site × Leaf) := g.tiles.filter (fun t => siteDie t.1 == d)

/-- An item belongs to a graph and is a token or a poke. -/
def Item.of (i : Item) (g : Nat) : Bool := i.graph == g && i.body.isToken

/-- A track of a box, by its buffer key, leads over a bridge to a fenced die: what stands in it is lost with the die (R349). -/
def State.trackLost (s : State) (t : Site) (key : Nat) : Bool :=
  match trackEnd t (key / 2) with
  | .bridge n => s.fenced (siteDie n)
  | _ => false

/-- A class track of a box, by its buffer key, leads to a fenced die (R349). -/
def State.classTrackLost (s : State) (t : Site) (key : Nat) : Bool :=
  match classNeighbour t (key / 2) with
  | some n => s.fenced (siteDie n)
  | none => false

/-- Nothing of a graph is on a track, in a box buffer or on a bridge of a die, but for what stands before a fenced die (R344,
R349). -/
def State.fabricClear (s : State) (d : DieId) (g : Nat) : Bool :=
  s.boxes.all (fun b =>
    let t : Site := BitVec.ofNat 12 b.1
    siteDie t != d ||
      (b.2.buf.all (fun q => s.trackLost t q.1 || q.2.all (fun f => !f.item.of g)) &&
        b.2.bridge.all (fun q => q.2.all (fun f => !f.item.of g)) &&
        b.2.clsbuf.all (fun q => s.classTrackLost t q.1 || q.2.all (fun p => p.graph != g))))

/-- A compute tile's part of a graph is over (R344). -/
def State.tileOver (s : State) (g : Nat) (t : Site) (l : Leaf) : Bool :=
  let x := s.tile t
  let c := x.ctx[l]
  c.banks.toList.all (fun k => k.life != .running && k.out.all (fun o => !s.acks.contains o.id)) &&
    x.msq.all (fun e => e.leaf != l) && x.msrun.all (fun e => e.leaf != l) &&
    (match x.cact with
     | some r => r.leaf != l
     | none => true) &&
    c.inp.toList.all (fun i => i.f == 0 && i.port.all (fun f => !f.item.of g)) &&
    c.outp.toList.all (fun o => o.outq.all (fun i => !i.item.of g)) &&
    c.clsbuf.all (fun p => c.banks[p.tok.side.bank.toFin].life == .retired) && x.clsout.all (fun p => p.graph != g) &&
    x.port.all (fun q => q.src.leaf != l) &&
    ((s.mt (homeMemTile t)).queues.get t.toNat []).all (fun q => q.src.leaf != l) &&
    ((s.mt (homeMemTile t)).refused.get (refusedKey t l) []).isEmpty &&
    s.flight.all (fun f => f.req.src.tile != t || f.req.src.leaf != l)

/-- A template serves a graph (R309, R344; log 37). -/
def Template.serves (t : Template) (g : Nat) : Bool := t.graph == g

/-- A memory tile's part of a graph is over: its edge buffers hold no token, and the copy runs of its templates have ended,
with their writes acknowledged and their completion tokens published (R344). -/
def State.mtOver (s : State) (g : Nat) (mt : Site) (l : Leaf) : Bool :=
  let m := s.mt mt
  let f := m.lf[l]
  m.ebuf[l].toList.all (fun b =>
    b.graph != g || (b.queue.isEmpty && b.port.all (fun f => !f.item.of g) && b.out.outq.all (fun i => !i.item.of g))) &&
    f.tpl.toList.all (fun t => !t.serves g || (t.run.isNone && t.fired.isEmpty)) &&
    !s.chunks.any (fun c => c.mt == mt && c.leaf == l && f.tpl[c.unit].serves g) &&
    (List.finRange 16).all (fun x =>
      let b := m.ebuf[l][((f.ctag[x].extractLsb' 28 3).toFin)].graph
      !ctagDue f.ctag[x] || (b != g && b != 0))

/-- The memory tiles on which a graph can have templates: those that it was placed with, and every one of its partition, which an
`arm` of its banks reaches (R25, R316). -/
def State.reachedMts (s : State) (g : Graph) : List (Site × Leaf) :=
  match s.parts.get g.part.toNat none with
  | some p => g.mts ++ p.mts.filter (fun m => !g.mts.contains m)
  | none => g.mts

/-- The portion of a launch on a die is complete (R344). -/
def State.portionDone (s : State) (d : DieId) (l : Launch) (g : Graph) : Bool :=
  l.feeders.all (fun f => f.die != d || (f.left.isEmpty && f.eos)) &&
    (g.tilesOn d).all (fun t => s.tileOver l.graph t.1 t.2) && s.fabricClear d l.graph &&
    (s.reachedMts g).all (fun m => siteDie m.1 != d || s.mtOver l.graph m.1 m.2)

/-- DIE_SHARE_REPORT: the die reports its share of the launch in a slot (R344). A fenced die reports nothing (R349). A report
from the decision cycle of a swap on is recorded at the master, and the graph that it ends ends at restore (R355). -/
def execDieShareReport (d : DieId) (i : Nat) (s : State) : Host.Outcome State Fault Refusal :=
  match s.launches.find? (fun l => l.slot == i) with
  | none => .next s
  | some l =>
    match s.graph l.graph with
    | none => .next s
    | some g =>
      if !s.fenced d && s.portionDone d l g && !s.partHeld g.part then
        .next (s.onLaunchOf l.graph (fun x => { x with reports := x.reports ||| (1#4 <<< d.val) }))
      else .next s

/-- The sections that the banks of a context hold are left with poison (R302). -/
def State.leaveSections (s : State) (t : Site) (l : Leaf) : State :=
  let part := (s.ctx t l).part
  (List.finRange 4).foldl (fun y b =>
    (List.finRange 4).foldl (fun z j =>
      let h := (z.bank t l b).held[j]
      if h.valid then
        let src : Sender := { tile := t, leaf := l, bank := b, bundle := 0, part := part }
        let w := z.onBank t l b (fun k => k.freeHeld j)
        match z.hostOf src h.key with
        | some (mt, ml) => w.leaveKey part mt ml h.key true
        | none => w
      else z) y) s

/-- The edge buffers of a graph are released, with the tokens that have not left them (R247, R370). -/
def EdgeBuf.release (b : EdgeBuf) (g : Nat) : EdgeBuf :=
  if b.graph = g ∧ b.v then
    { b with queue := [], preempt := b.preempt.map (fun _ => 0), marked := false, freed := true, port := b.port.filter (fun f => !f.item.body.isToken),
             out := { b.out with outq := b.out.outq.filter (fun i => !i.item.body.isToken) } }
  else b

/-- The edge buffers of a graph are released (R247, R370). -/
def State.releaseEdges (s : State) (gi : Nat) (g : Graph) : State :=
  g.mts.foldl (fun y m =>
    y.onMt m.1 (fun z => { z with ebuf := z.ebuf.set m.2 (z.ebuf[m.2].map (fun b => b.release gi)) })) s

/-- What the end of a graph leaves at its tiles and memory tiles: packets for retired banks are discarded, retired banks
are idle again, pending sets are discarded, edge buffers released (R100, R247, R320, R344). -/
def State.settleEnd (s : State) (gi : Nat) (g : Graph) : State :=
  let s1 := g.tiles.foldl (fun y t =>
    y.onCtx t.1 t.2 (fun c =>
      { c with clsbuf := [],
               banks := c.banks.map (fun k => { k with life := if k.life = .retired then .idle else k.life }) })) s
  let s2 := (s.reachedMts g).foldl (fun y m =>
    y.onMt m.1 (fun z =>
      { z with lf := z.lf.set m.2 { z.lf[m.2] with
          tpl := z.lf[m.2].tpl.map (fun t => if t.serves gi then { t with pend := [] } else t) } })) s1
  s2.releaseEdges gi g

/-- No pool launch of a graph's banks is left (R344). -/
def State.childless (s : State) (g : Nat) : Bool :=
  s.pool.all (fun p => match p.2 with
    | some e => e.parent != g
    | none => true)

/-- A launch leaves the master's record. -/
def State.dropLaunch (s : State) (slot : Nat) : State := { s with launches := s.launches.filter (fun l => l.slot != slot) }

/-- A restore has restored every tile of its partition, so that what was recorded is delivered (R355, R359). -/
def State.allRestored (s : State) (part : BitVec 6) : Bool :=
  s.swaps.any (fun w => w.part == part && w.restore &&
    match s.parts.get part.toNat none with
    | some p => p.tiles.all (fun t => w.tiles.contains t && !(s.ctx t.1 t.2).saved)
    | none => false)

/-- The conditions of R344 on the end of a launch: every die's report stands and still holds, the bridge totals agree and no
child is left. One whose last die reported from the decision cycle of a swap on ends at the restore (R355). -/
def State.graphDue (s : State) (l : Launch) (g : Graph) : Bool :=
  let sum := fun (v : Vector Nat 4) => v.toList.foldl (fun a b => a + b) 0
  l.reports == 0xF && (List.finRange 4).all (fun d => s.fenced d || s.portionDone d l g) && sum l.sent == sum l.got &&
    s.childless l.graph && !l.stranded && (!s.partAway g.part || s.allRestored g.part)

/-- GRAPH_END: first the owners write back, as far as a fenced die between lets them; then, with the copies of everything that the graph wrote gone from the gateway
caches, held sections are left, the entry is DONE and its successors are decremented (R260, R271, R302, R341, R344). -/
def execGraphEnd (i : Nat) (s : State) : Host.Outcome State Fault Refusal :=
  match s.launches.find? (fun l => l.slot == i) with
  | none => .next s
  | some l =>
    match s.graph l.graph with
    | none => .next s
    | some g =>
      if !s.graphDue l g then .next s
      else if !l.backed && s.backWaits g then .next s
      else if !l.backed then .next ((s.backOwners g).onLaunchOf l.graph (fun x => { x with backed := true }))
      else if !s.copiesGone g.part then .next s
      else
        let s1 := g.tiles.foldl (fun y t => y.leaveSections t.1 t.2) s
        .next (((s1.settleEnd l.graph g).dropLaunch i).finish i true 1)

/-! ## A kill (R149, R370, R426) -/

/-- A bank of a killed graph is idle, with nothing pending, and neither faulted nor frozen (R370). -/
def Bank.kill (k : Bank) : Bank :=
  { k with life := .idle, pending := [], pendRaw := none, umWait := none, faulted := false, frozen := false, loops := [],
           emptyStep := false, ending := none, arrived := none, wait := 0, checked := false, out := [], fence := none }

/-- An input channel of a killed graph: what waits for it is gone, and a fault-drain token stands at its port behind the
marker of a swap (R149). -/
def InCh.drain (c : InCh) (i : Item) (due : Nat) : InCh :=
  { c with q := 0, rn := 0,
           port := c.port.filter (fun f => !f.item.body.isToken) ++ (if c.bound then [⟨{ i with src := c.prod }, due⟩] else []) }

/-- An output channel of a killed graph: its tokens are gone, and their slots are free again (R149). -/
def OutCh.drain (c : OutCh) (lost : Nat) : OutCh :=
  { c with outq := c.outq.filter (fun i => !i.item.body.isToken), pokes := [], wr := 0, e := c.e + lost }

/-- The context of a killed graph: `lost` counts the tokens of each output channel that its fault-drain token discards before
they are stored (R149, R370). -/
def LeafCtx.kill (c : LeafCtx) (l : Leaf) (due : Nat) (lost : Fin 8 → Nat) : LeafCtx :=
  let i : Item := { src := .none, part := c.part, leaf := l, graph := c.graph, body := .faultDrain }
  { c with banks := c.banks.map Bank.kill, inp := c.inp.map (fun x => x.drain i due),
           outp := c.outp.mapFinIdx (fun n o h => o.drain (lost ⟨n, h⟩)), clsbuf := [], msq := [], msrun := [],
           clsheld := c.clsheld.filter (fun p => p.graph != c.graph), sysArrived := [], sysSent := false, barDone := 0,
           fireHeld := none, killed := false }

/-- The entries of a killed leaf leave the macro sequencer and the Carder (R370). -/
def Tile.killLeaf (x : Tile) (l : Leaf) (due : Nat) (lost : Fin 8 → Nat) : Tile :=
  { x.onCtx l (fun c => c.kill l due lost) with
      msq := x.msq.filter (fun e => e.leaf != l), msrun := x.msrun.filter (fun e => e.leaf != l),
      cact := x.cact.filter (fun r => r.leaf != l), clsout := x.clsout.filter (fun p => p.graph != x.ctx[l].graph || p.isMarker) }

/-- A request of a killed bank that still runs answers nobody. -/
def Req.orphan (q : Req) : Req := { q with src := { q.src with chan := none } }

/-- A request enters a section. -/
def ReqBody.isEnter : ReqBody → Bool
  | .umen .. => true
  | _ => false

/-- Requests of killed banks in a list: those that enter a section are withdrawn, the others answer nobody (R370). -/
def orphaned (hit : Sender → Bool) (l : List Req) : List Req :=
  (l.filter (fun q => !(hit q.src && q.body.isEnter))).map (fun q => if hit q.src then q.orphan else q)

/-- The waiters of killed banks leave the records of a host (R287, R370). -/
def MtLeaf.unwait (f : MtLeaf) (hit : Sender → Bool) : MtLeaf :=
  { f with keys := (f.keys.map (fun r => { r with waiters := r.waiters.filter (fun w => !hit w.src) })).filter (fun r => !r.empty) }

/-- The enter requests of killed banks are withdrawn wherever they are, and the answers of their loads go nowhere; `here` are
the leaves in which those banks stand (R370). -/
def State.withdrawAll (s : State) (hit : Sender → Bool) (here : List (Site × Leaf)) : State :=
  let orphans := orphaned hit
  let mt := fun (m : MemTile) =>
    { m with queues := m.queues.map (fun p => (p.1, orphans p.2)), refused := m.refused.map (fun p => (p.1, orphans p.2)),
             hold := orphans m.hold, walks := m.walks.map (fun w => if hit w.req.src then { w with req := w.req.orphan } else w),
             rob := m.rob.map (fun p => (p.1, p.2.map (fun e => if hit e.src then { e with src := { e.src with chan := none } } else e))),
             lf := m.lf.map (fun f => f.unwait hit) }
  { s with
      memTiles := s.memTiles.map (fun p => (p.1, mt p.2)),
      tiles := s.tiles.map (fun p => (p.1, { p.2 with port := orphans p.2.port })),
      flight := (s.flight.filter (fun f => !(hit f.req.src && f.req.body.isEnter))).map (fun f =>
        if hit f.req.src then { f with req := f.req.orphan } else f),
      reports := s.reports.filter (fun r => !hit { tile := r.tile, leaf := r.leaf, bank := r.bank, bundle := 0, part := r.part }),
      ready := s.ready.filter (fun r => !here.contains (r.tile, r.leaf)) }

/-- Tokens of a list of items, published by a producer. -/
def tokensFrom (p : Producer) (q : List Item) : Nat :=
  (q.filter (fun i => i.src == p && (match i.body with
    | .publish .. => true
    | _ => false))).length

/-- Tokens of a producer that are on their way: in its queue, on tracks and at input ports (R149). -/
def State.underWay (s : State) (t : Site) (l : Leaf) (ch : Fin 8) : Nat :=
  let n := fun (q : List Flight) => tokensFrom (.tile t l ch) (q.map (fun f => f.item))
  let sum := fun (q : List Nat) => q.foldl (fun a b => a + b) 0
  tokensFrom (.tile t l ch) ((s.ctx t l).outp[ch].outq.map (fun i => i.item)) +
    sum (s.boxes.map (fun b => sum ((b.2.buf ++ b.2.bridge).map (fun q => n q.2)))) +
    sum (s.tiles.map (fun x => sum (x.2.ctx.toList.map (fun c => sum (c.inp.toList.map (fun i => n i.port))))))

/-- The tokens and packets of a graph leave the fabric of the package; markers of a swap go on (R149). -/
def State.clearFabric (s : State) (g : Nat) : State :=
  let keep := fun (q : List Flight) => q.filter (fun f => f.item.graph != g || !f.item.body.isToken)
  let box := fun (b : Box) =>
    { b with buf := b.buf.map (fun p => (p.1, keep p.2)), bridge := b.bridge.map (fun p => (p.1, keep p.2)),
             clsbuf := b.clsbuf.map (fun p => (p.1, p.2.filter (fun c => c.graph != g || c.isMarker))) }
  { s with boxes := s.boxes.map (fun p => (p.1, box p.2)) }

/-- A killed template is DISARMED with no run (R370, R426). -/
def Template.kill (t : Template) : Template := { t with state := 0, run := none, fired := [], pend := [], held := false }

/-- The templates of a killed graph are DISARMED with no run, on whichever memory tile of its partition a bank armed them
(R316, R370, R426). -/
def State.killTemplates (s : State) (gi : Nat) (g : Graph) : State :=
  g.mts.foldl (fun y m =>
    y.onMt m.1 (fun z =>
      { z with lf := z.lf.set m.2 { z.lf[m.2] with
          tpl := z.lf[m.2].tpl.map (fun t => if t.serves gi then t.kill else t) } })) s

/-- What the kill of a graph does to a unit of its partition in device memory: the waiters of its banks leave the hosts, its
templates and edge buffers are killed now; its tiles are killed as they come back, so that a grant that was decided is
left again with poison then, and a leave that was refused still goes out (R304, R358, R370; log 10). -/
def Stash.kill (x : Stash) (hit : Sender → Bool) (gi : Nat) (g : Graph) : Stash :=
  if x.part ≠ g.part then x
  else
    let y := { x with mtLeaf := x.mtLeaf.unwait hit, refused := orphaned hit x.refused }
    if g.tiles.contains (x.site, x.leaf) then { y with ctx := { x.ctx with killed := true }, ready := [], lateReady := [], reports := [] }
    else if isMemory x.site then
      { y with mtLeaf := { y.mtLeaf with tpl := y.mtLeaf.tpl.map (fun t => if t.serves gi then t.kill else t) },
               ebufs := x.ebufs.map (fun b => b.release gi) }
    else y

/-- The banks of a context leave their sections with poison, and its graph is killed there (R149, R302, R370). -/
def State.killCtx (s : State) (t : Site) (l : Leaf) (lost : Fin 8 → Nat) : State :=
  (s.leaveSections t l).onTile t (fun x => x.killLeaf l (s.cycleAt t + 1) lost)

/-- The units of a list whose records do not lie in device memory (R358). -/
def State.inPlace (s : State) (part : BitVec 6) (l : List (Site × Leaf)) : List (Site × Leaf) :=
  l.filter (fun t => !s.stash.any (fun x => x.part == part && x.site == t.1 && x.leaf == t.2))

/-- The kill of a running launch; the units of its partition whose records lie in device memory are dealt with there (R370). The
owners write back at once: a store that is still on its way to one lands in its storage afterwards (DESIGN CHOICE, log 65). -/
def State.kill (s : State) (l : Launch) (g : Graph) : State :=
  let here : Graph := { g with tiles := s.inPlace g.part g.tiles, mts := s.inPlace g.part (s.reachedMts g) }
  let hit := fun (x : Sender) => x.part == g.part && g.tiles.any (fun t => t.1 == x.tile && t.2 == x.leaf)
  let s1 := (s.backOwners g).withdrawAll hit here.tiles
  let s2 := { s1 with stash := s1.stash.map (fun (x : Stash) => x.kill hit l.graph g) }
  let s3 := here.tiles.foldl (fun y t => y.killCtx t.1 t.2 (s.underWay t.1 t.2)) s2
  let s4 := (s3.killTemplates l.graph here).releaseEdges l.graph here
  ((s4.clearFabric l.graph).dropLaunch l.slot).finish l.slot false 2

/-! ## Launches from tiles (R347) -/

/-- LAUNCH_AT_MASTER: the master checks the template of a launch; a bad one frees the pool entry and is reported PERM
(R347, R348). -/
def execLaunchAtMaster (i : Nat) (s : State) : Host.Outcome State Fault Refusal :=
  match s.inFlight i with
  | none => .next s
  | some f =>
    match f.req.body with
    | .lnch entry range _ prio n _ =>
      let e := s.entry entry.toNat
      let s1 := s.land i
      if e.v && e.part == f.req.src.part then
        let up := fun (p : PoolEntry) => { p with ready := true, order := s.orders, range := range, prio := prio }
        .next { s1 with pool := s1.pool.set n ((s1.poolEntry n).map up), orders := s.orders + 1 }
      else .next ((s1.endPool n 8).failReq f.req .perm)
    | _ => .next s

/-! ## Election (R349) -/

/-- The live dies that a launch's sources lie on. -/
def State.liveSources (s : State) (l : Launch) : List DieId :=
  (List.finRange 4).filter (fun d => !s.fenced d && l.feeders.any (fun f => f.die == d))

/-- The ranges of a share cut for die i of n (R342, R349). -/
def cutShare (n i : Nat) (r : Nat × Nat) : List (Nat × Nat) :=
  let a := r.1 + (r.2 - r.1) * i / n
  let b := r.1 + (r.2 - r.1) * (i + 1) / n
  if a < b then [(a, b)] else []

/-- The shares of a launch that were issued to fenced dies and not reported complete. -/
def State.lostShares (s : State) (l : Launch) : List (Nat × Nat) :=
  (List.finRange 4).flatMap (fun d =>
    if s.fenced d && !l.reports.getLsbD d.val then
      match l.feeders.find? (fun f => f.die == d) with
      | some f => f.share
      | none => []
    else [])

/-- A launch after an election: lost shares are issued again to the live dies of its sources; one whose sources all lie on
fenced dies is stranded, and their shares never count as reported (R349). -/
def State.reissue (s : State) (l : Launch) : Launch :=
  let live := s.liveSources l
  let lost := s.lostShares l
  let away := l.feeders.foldl (fun (m : BitVec 4) f => m ||| (1#4 <<< f.die.val)) 0
  if live.isEmpty then { l with stranded := true, reports := l.reports &&& ~~~away }
  else
    let give := fun (f : Feeder) =>
      let add := lost.flatMap (cutShare live.length (live.findIdx (fun d => d == f.die)))
      if s.fenced f.die ∨ add.isEmpty then f
      else { f with share := f.share ++ add, left := f.left ++ add, eos := false }
    let busy := live.foldl (fun (m : BitVec 4) d => m ||| (1#4 <<< d.val)) 0
    let reports := if lost.isEmpty then l.reports else l.reports &&& ~~~busy
    { l with feeders := l.feeders.map give, reports := reports ||| s.fenceMask }

/-- The TYPE 5 record of a launch whose sources all lay on a fenced die (R349, R373). -/
def dieLossRecord (part : BitVec 6) (asid : W16) (slot : Nat) (d : DieId) : Notice :=
  noticeOf [noticeW0 0 0 5, noticeW1 part (siteAt d 0 0) 0 0, 0, 0, 0, 0, 0, 0, asid.setWidth 32, BitVec.ofNat 32 slot,
    BitVec.ofNat 32 d.val]

/-- MASTER_ELECTION: the lowest-numbered live die becomes master, deals with each running launch, and takes the writes of the
host that waited (R349, R406). -/
def execMasterElection (s : State) : Host.Outcome State Fault Refusal :=
  if !s.election then .next s
  else
    match (List.finRange 4).find? (fun d => !s.fenced d) with
    | none => .next s
    | some m =>
      let old := s.launches
      let s1 := { s with election := false, launches := s.launches.map s.reissue, host := { s.host with held := [] },
                         dies := s.dies.map (fun d => { d with master := BitVec.ofNat 2 m.val }) }
      let s2 := old.foldl (fun y l =>
        if (s.reissue l).stranded && !l.stranded then
          match s.graph l.graph, l.feeders.find? (fun f => s.fenced f.die) with
          | some g, some f => y.notify m g.part (dieLossRecord g.part (s.asidOfPart g.part) l.slot f.die)
          | _, _ => y
        else y) s1
      .next (s.host.held.foldl (fun y w => y.writeEntry (w.1 / 32) (w.1 % 32 / 4) w.2) s2)

/-! ## Barriers (R264-R268) -/

/-- The barrier channel of a scope in a context: TILE uses none, a die channel counts per die (R264). -/
def LeafCtx.barrierChannel (c : LeafCtx) (t : Site) (l : Leaf) (scope : Fin 5) : Nat × Nat :=
  let field := fun (lo n : Nat) => (c.barch.toNat / 2 ^ lo) % 2 ^ n
  let die := (siteDie t).val
  if scope = 0 then (0, 2 * t.toNat + l.val)
  else if scope = 1 then (if c.barch.getLsbD 28 then (1, field 10 4) else (2 + die, field 4 6))
  else if scope = 2 then (if c.barch.getLsbD 29 then (1, field 20 4) else (2 + die, field 14 6))
  else (1, field 24 4)

/-- A member bank has arrived, or counts as arrived because it has retired (R265). -/
def Bank.hasArrived (k : Bank) (scope : Fin 5) : Bool :=
  k.arrived == some (BitVec.ofNat 3 scope.val) || k.life == .retired

/-- The contexts on the channel of a scope: those with member banks on it. -/
def State.onChannel (s : State) (t : Site) (l : Leaf) (scope : Fin 5) : List (Site × Leaf) :=
  let ch := (s.ctx t l).barrierChannel t l scope
  s.tiles.flatMap (fun p =>
    let u : Site := BitVec.ofNat 12 p.1
    (List.finRange 2).filterMap (fun m =>
      let c : LeafCtx := p.2.ctx[m]
      if c.members (BitVec.ofNat 3 scope.val) ≠ 0 ∧ c.barrierChannel u m scope = ch then some (u, m) else none))

/-- Every member bank of a context has arrived (R265). -/
def LeafCtx.allArrived (c : LeafCtx) (scope : Fin 5) : Bool :=
  (List.finRange 4).all (fun b => !(c.members (BitVec.ofNat 3 scope.val)).getLsbD b.val || c.banks[b].hasArrived scope)

/-- Some bank of a context waits in an episode. -/
def LeafCtx.waitsIn (c : LeafCtx) (scope : Fin 5) : Bool :=
  c.banks.toList.any (fun k => k.arrived == some (BitVec.ofNat 3 scope.val))

/-- The waiting members of a context go on (R265). -/
def LeafCtx.goOn (c : LeafCtx) (scope : Fin 5) : LeafCtx :=
  { c with banks := c.banks.map (fun k =>
             if k.arrived = some (BitVec.ofNat 3 scope.val) then { k with arrived := none } else k) }

/-- The episode of a scope is over for a context: its waiting members go on, at once or at its restore (R265, R268). -/
def LeafCtx.releaseBarrier (c : LeafCtx) (scope : Fin 5) (later : Bool) : LeafCtx :=
  let c1 := if later then { c with barDone := c.barDone ||| (1#5 <<< scope.val) } else c.goOn scope
  { c1 with sysArrived := if scope = 4 then c.sysPeers.foldl (fun l m => l.erase m) c.sysArrived else c.sysArrived,
            sysSent := if scope = 4 then false else c.sysSent }

/-- The tiles that the barrier channel of a scope of a context spans: those of its stage, of its graph, or of every graph of its
image (R432). -/
def State.channelTiles (s : State) (c : LeafCtx) (scope : Fin 5) : List (Site × Leaf) :=
  match s.graph c.graph with
  | none => []
  | some g =>
    if scope = 0 then []
    else if scope = 1 then g.tiles.filter (fun t => (s.ctx t.1 t.2).stage == c.stage)
    else if scope = 2 then g.tiles
    else s.graphs.flatMap (fun q =>
      match q.2 with
      | some h => if h.part = g.part ∧ h.image = g.image then h.tiles else []
      | none => [])

/-- The channel of a scope spans no die that is fenced off (R268, R432). -/
def State.spansLive (s : State) (c : LeafCtx) (scope : Fin 5) : Bool :=
  (s.channelTiles c scope).all (fun t => !s.fenced (siteDie t.1))

/-- A partition has contexts or units in device memory that are not restored yet (R358). -/
def State.partStashed (s : State) (part : BitVec 6) : Bool := s.stash.any (fun x => x.part == part)

/-- The episode of a scope that a context takes part in can complete within the module: some bank waits, or other modules of the
SYSTEM binding may, when all members here have retired; every member of every tile has arrived since the last one, and the channel
spans no fenced die; no member's context lies in device memory (R265, R268). -/
def State.episodeDone (s : State) (t : Site) (l : Leaf) (scope : Fin 5) : Bool :=
  let on := s.onChannel t l scope
  let others := scope == 4 && !(s.ctx t l).sysPeers.isEmpty && !on.isEmpty
  (on.any (fun u => (s.ctx u.1 u.2).waitsIn scope) || others) && !s.partStashed (s.ctx t l).part &&
    on.all (fun u => (s.ctx u.1 u.2).allArrived scope && !(s.ctx u.1 u.2).barDone.getLsbD scope.val && !s.fenced (siteDie u.1) &&
      s.spansLive (s.ctx u.1 u.2) scope)

/-- The cycle in which the episode of a STAGE, GRAPH or DEVICE channel whose members stand on one die completes: after the last
arrival, with the retirement of a member taken as one, and a time that R266 only calls typical (R265, R266, R420; log 41). -/
def State.episodeDue (s : State) (t : Site) (l : Leaf) (scope : Fin 5) : Option Nat :=
  let on := s.onChannel t l scope
  if 1 ≤ scope.val ∧ scope.val ≤ 3 ∧ on.all (fun u => siteDie u.1 == siteDie t) then
    let at_ := on.flatMap (fun u => (List.finRange 4).map (fun (b : BankId) =>
      if ((s.ctx u.1 u.2).members (BitVec.ofNat 3 scope.val)).getLsbD b.val then (s.bank u.1 u.2 b).arrivedAt else 0))
    some (at_.foldl max 0 + 1 + Config.barrierCycles scope.val)
  else none

/-- Every other module of a SYSTEM binding has arrived (R265). -/
def LeafCtx.peersArrived (c : LeafCtx) : Bool := c.sysPeers.all (fun m => c.sysArrived.contains m)

/-- The arrival of this module in a SYSTEM episode goes to the other modules of the binding (R265, R403). -/
def State.sendArrivals (s : State) (c : LeafCtx) : State :=
  c.sysPeers.foldl (fun x m =>
    match x.domain.get m.toNat none with
    | some p => x.sendLink p m 4096 c.part (.barrierArrive (c.barcfg.extractLsb' 20 12))
    | none => x) s

/-- The episode completes for every context on the channel; one that is saved or in the decision cycle of its swap learns of
it at its restore (R265, R268). -/
def State.completeBarrier (s : State) (t : Site) (l : Leaf) (scope : Fin 5) : State :=
  (s.onChannel t l scope).foldl (fun x u =>
    x.onCtx u.1 u.2 (fun c => c.releaseBarrier scope (s.away u.1 u.2 || s.recordsNow u.1 u.2))) s

/-- BARRIER_EPISODE_COMPLETE. A TILE episode completes in the cycle after its last arrival (R266); a SYSTEM episode first
sends the module's arrival and completes when the other modules have arrived (R265). -/
def execBarrierEpisodeComplete (t : Site) (l : Leaf) (scope : Fin 5) (s : State) : Host.Outcome State Fault Refusal :=
  let c := s.ctx t l
  if !s.episodeDone t l scope then .next s
  else if scope = 0 ∧ ((s.tile t).issued ∨ (s.tile t).idled ≠ 0) then .next s
  else if scope = 4 ∧ !c.sysSent then
    .next ((s.onChannel t l scope).foldl (fun x u => x.onCtx u.1 u.2 (fun c => { c with sysSent := true })) (s.sendArrivals c))
  else if scope = 4 ∧ !c.peersArrived then .next s
  else .next (s.completeBarrier t l scope)

/-! ## The Milliner (R350, R351, R305) -/

/-- An elastic stage of a die. -/
def State.elastic (s : State) (d : DieId) (e : Fin 16) : Elastic := s.dies[d].elastic[e]
/-- An elastic stage changed. -/
def State.onElastic (s : State) (d : DieId) (e : Fin 16) (f : Elastic → Elastic) : State :=
  s.onDie d (fun x => { x with elastic := x.elastic.set e (f x.elastic[e]) })
/-- V of ELSTG (R350). -/
def Elastic.v (e : Elastic) : Bool := e.reg.getLsbD 63
/-- POOL of ELSTG (R350). -/
def Elastic.poolSize (e : Elastic) : Nat := (e.reg.extractLsb' 56 7).toNat
/-- HIGH of ELSTG (R350). -/
def Elastic.high (e : Elastic) : Nat := (e.reg.extractLsb' 14 14).toNat
/-- LOW of ELSTG (R350). -/
def Elastic.low (e : Elastic) : Nat := (e.reg.extractLsb' 0 14).toNat
/-- The queue of an elastic stage: its memory tile and edge buffer (R350). -/
def Elastic.queue (e : Elastic) (d : DieId) : Site × Fin 8 :=
  (memTileSite d (e.reg.extractLsb' 34 7).toNat, (e.reg.extractLsb' 31 3).toFin)
/-- The leaf in which the queue's memory tile serves the stage's partition. -/
def State.elasticLeaf (s : State) (d : DieId) (e : Elastic) : Leaf := (s.mtLeafOf e.part (e.queue d).1).getD 0
/-- ELSTG with its counters (R350). -/
def Elastic.word (e : Elastic) : W64 :=
  (e.reg &&& 0xFF0001FF8FFFFFFF) ||| (BitVec.ofNat 64 e.active.length <<< 49) ||| (BitVec.ofNat 64 e.above <<< 45) |||
    (BitVec.ofNat 64 e.below <<< 41)

/-- The counters after a sample of the queue (R351). -/
def Elastic.counted (e : Elastic) (q : Nat) : Elastic :=
  if e.change.isSome then { e with above := 0, below := 0 }
  else if e.high < q then { e with above := min (e.above + 1) 4, below := 0 }
  else if q < e.low then { e with below := min (e.below + 1) 8, above := 0 }
  else { e with above := 0, below := 0 }

/-- The change that the counters call for (R351). -/
def Elastic.decide (e : Elastic) : Elastic :=
  let find := fun (l : List (Site × Leaf)) (act : Bool) => l.find? (fun t => e.active.contains t.1 == act)
  if e.change.isSome then e
  else if e.above = 4 ∧ e.active.length < e.poolSize then
    match find e.pool false with
    | some t => { e with above := 0, change := some ⟨t.1, t.2, true⟩ }
    | none => e
  else if e.below = 8 ∧ 1 < e.active.length then
    match find e.pool.reverse true with
    | some t => { e with below := 0, change := some ⟨t.1, t.2, false⟩ }
    | none => e
  else e

/-- A stage of a die is to be sampled in the present cycle (R351). -/
def State.sampleDue (s : State) (d : DieId) (e : Fin 16) : Bool :=
  let x := s.elastic d e
  let c := s.dies[d].cycle.toNat
  x.v && c % 4800 == 0 && x.sampled != c + 1 && !s.partAway x.part

/-- MILLINER_SAMPLE: every 4,800 cycles, unless the partition is swapped out (R351). -/
def execMillinerSample (d : DieId) (e : Fin 16) (s : State) : Host.Outcome State Fault Refusal :=
  let x := s.elastic d e
  let q := x.queue d
  if s.sampleDue d e then
    let n := (s.ebuf q.1 (s.elasticLeaf d x) q.2).queue.length
    .next (s.onElastic d e (fun y => { (y.counted n).decide with sampled := s.dies[d].cycle.toNat + 1 }))
  else .next s

/-- TILE_ACTIVATION: an activated tile becomes ready, and ACTIVE counts it (R351). -/
def execTileActivation (d : DieId) (e : Fin 16) (s : State) : Host.Outcome State Fault Refusal :=
  match (s.elastic d e).change with
  | some ⟨t, _, true⟩ =>
    .next (s.onElastic d e (fun x => { x with active := x.active ++ [t], change := none }))
  | _ => .next s

/-- A pool tile can be let go: its banks are idle and hold or await no section, and its trigger channel is empty
(R305, R351). -/
def State.tileQuiet (s : State) (t : Site) (l : Leaf) : Bool :=
  let c := s.ctx t l
  let i := c.inCh c.trig
  c.banks.toList.all (fun k => k.life == .idle && k.heldKeys.isEmpty && k.umWait.isNone) && i.f == 0 && i.port.isEmpty

/-- TILE_DEACTIVATION: a deactivated tile has drained, and ACTIVE falls (R305, R351). -/
def execTileDeactivation (d : DieId) (e : Fin 16) (s : State) : Host.Outcome State Fault Refusal :=
  match (s.elastic d e).change with
  | some ⟨t, l, false⟩ =>
    if s.tileQuiet t l then
      .next (s.onElastic d e (fun x => { x with active := x.active.filter (fun u => u != t), change := none }))
    else .next s
  | _ => .next s

/-- The tiles that receive tokens: the active ones but for one that is being let go (R351). -/
def Elastic.receivers (e : Elastic) : List (Site × Leaf) :=
  e.pool.filter (fun t => e.active.contains t.1 &&
    match e.change with
    | some c => c.up || c.tile != t.1
    | none => true)

/-- Filled slots of a tile's trigger channel. -/
def State.triggerFill (s : State) (t : Site × Leaf) : Nat := let c := s.ctx t.1 t.2; (c.inCh c.trig).f

/-- The receiver with the fewest filled trigger slots; the pool is ordered by TILEID, so a tie goes to the lowest
(R350, R351). -/
def State.leastFilled (s : State) : List (Site × Leaf) → Option (Site × Leaf)
  | [] => none
  | t :: r =>
    match s.leastFilled r with
    | none => some t
    | some u => some (if s.triggerFill u < s.triggerFill t then u else t)

/-- ELASTIC_QUEUE_PASS: the queue's outlet passes its head token to the active tile with the fewest filled trigger slots,
one per cycle, under that channel's reservations, and a pre-empt marker behind the tokens to every tile of the pool (R246, R248,
R351). -/
def execElasticQueuePass (d : DieId) (e : Fin 16) (s : State) : Host.Outcome State Fault Refusal :=
  let x := s.elastic d e
  let q := x.queue d
  let l := s.elasticLeaf d x
  let b := s.ebuf q.1 l q.2
  let now := s.cycleAt q.1 + 1
  if !x.v ∨ b.passed = now then .next s
  else if b.atMarker then
    let mark := fun (y : State) (t : Site × Leaf) =>
      let item : Item := { src := .elastic d e t.1, part := x.part, leaf := t.2, graph := b.graph, body := .preempt }
      y.toTrigger t.1 t.2 (s.ctx t.1 t.2).trig.toFin item
    .next (x.pool.foldl mark (s.onEbuf q.1 l q.2 (fun b => { b with preempt := none, passed := now })))
  else
    match s.ebufHead q.1 l q.2, s.leastFilled x.receivers with
    | some (_, tok), some t =>
      let o := x.outs.get t.1.toNat {}
      if o.e = 0 then .next s
      else
        let item : Item := { src := .elastic d e t.1, part := x.part, leaf := t.2, graph := b.graph,
                             body := .publish o.w tok false }
        let o1 := { o with w := (o.w + 1) % o.depth, e := o.e - 1 }
        let s1 := ((s.ebufTake q.1 l q.2).onEbuf q.1 l q.2 (fun b => { b with passed := now })).onElastic d e (fun y => { y with outs := y.outs.set t.1.toNat o1 })
        .next (s1.toTrigger t.1 t.2 (s.ctx t.1 t.2).trig.toFin item)
    | _, _ => .next s

end Sys2Proof.Machine
end

