-- ==== Sys2Proof/Machine/Vector.lean ====
section
/-!
DEFINITION. The V slot (R128-R147): lane arithmetic, logic and shifts, conversion, compares, element moves, reductions,
functions and pair dot products. Every result is one pending write of a whole register.
-/
namespace Sys2Proof.Machine

/-- A V-slot op that reads vector registers and writes one after some steps. -/
def planVec (lat : Nat) (rs : List (BitVec 4)) (d : BitVec 4) (f : Bank → Vec) (g : Pg) (s : State) : SlotPlan :=
  guarded .v g (fun s => { reads := readsV rs, writes := [(lat, .vec d (f s.curBank))] }) nothing s

/-- The lane results of a float op on the values of two elements. -/
def laneFloat (t : BitVec 4) (md : Mode) (f : FV → FV → FV) (a b : Vec) : Vec :=
  mapLanes t (fun i => roundFV (fmtOf t) md false (f (elemF a i t) (elemF b i t)))

/-- The lane results of an integer op on the values of two elements (R106). -/
def laneInt (t : BitVec 4) (sat : Bool) (f : Int → Int → Int) (a b : Vec) : Vec :=
  mapLanes t (fun i => putInt t sat (f (elemI a i t) (elemI b i t)))

/-- Lane arithmetic of R131: one rounding in the mode for a float type, wrap or saturation for an integer type. -/
def laneArith (t : BitVec 4) (m : BitVec 3) (ff : Mode → FV → FV → FV) (fi : Int → Int → Int) (k : Bank)
    (a b : BitVec 4) : Vec :=
  if floatT t then
    let md := modeOf k.rmode m
    laneFloat t md (ff md) (k.rv a) (k.rv b)
  else laneInt t (m == 1) fi (k.rv a) (k.rv b)

/-! ## Arithmetic (R131-R133) -/

/-- `vadd` (R131). -/
def planVadd (g : Pg) (d a b : BitVec 4) (t : BitVec 4) (m : BitVec 3) : State → SlotPlan :=
  planVec 2 [a, b] d (fun k => laneArith t m FV.add (fun x y => x + y) k a b) g

/-- `vsub` (R131). -/
def planVsub (g : Pg) (d a b : BitVec 4) (t : BitVec 4) (m : BitVec 3) : State → SlotPlan :=
  planVec 2 [a, b] d (fun k => laneArith t m (fun md x y => x.add md y.neg) (fun x y => x - y) k a b) g

/-- `vmul` (R131). -/
def planVmul (g : Pg) (d a b : BitVec 4) (t : BitVec 4) (m : BitVec 3) : State → SlotPlan :=
  planVec 4 [a, b] d (fun k => laneArith t m (fun _ x y => x.mul y) (fun x y => x * y) k a b) g

/-- a · b + c in every lane, exact and rounded once (R124, R131). -/
def laneFma (t : BitVec 4) (m : BitVec 3) (k : Bank) (a b c : Vec) : Vec :=
  if floatT t then
    let md := modeOf k.rmode m
    mapLanes t (fun i =>
      roundFV (fmtOf t) md false (((elemF a i t).mul (elemF b i t)).add md (elemF c i t)))
  else mapLanes t (fun i => putInt t (m == 1) (elemI a i t * elemI b i t + elemI c i t))

/-- `vfma` (R131). -/
def planVfma (g : Pg) (d a b : BitVec 4) (t : BitVec 4) (m : BitVec 3) : State → SlotPlan :=
  planVec 4 [a, b, d] d (fun k => laneFma t m k (k.rv a) (k.rv b) (k.rv d)) g

/-- The smaller of two elements in every lane (R132). -/
def laneMin (t : BitVec 4) (a b : Vec) : Vec :=
  if floatT t then laneFloat t .rne FV.min a b else laneInt t false min a b
/-- The larger of two elements in every lane (R132). -/
def laneMax (t : BitVec 4) (a b : Vec) : Vec :=
  if floatT t then laneFloat t .rne FV.max a b else laneInt t false max a b

/-- `vmin` (R132). -/
def planVmin (g : Pg) (d a b : BitVec 4) (t : BitVec 4) : State → SlotPlan :=
  planVec 2 [a, b] d (fun k => laneMin t (k.rv a) (k.rv b)) g

/-- `vmax` (R132). -/
def planVmax (g : Pg) (d a b : BitVec 4) (t : BitVec 4) : State → SlotPlan :=
  planVec 2 [a, b] d (fun k => laneMax t (k.rv a) (k.rv b)) g

/-- A sign operation in every lane: on float values, or on exact integers (R133). -/
def laneSign (t : BitVec 4) (sat : Bool) (ff : FV → FV) (fi : Int → Int) (a : Vec) : Vec :=
  if floatT t then mapLanes t (fun i => roundFV (fmtOf t) .rne false (ff (elemF a i t)))
  else mapLanes t (fun i => putInt t sat (fi (elemI a i t)))

/-- `vabs` (R133). -/
def planVabs (g : Pg) (d a : BitVec 4) (t : BitVec 4) (sat : Bool) : State → SlotPlan :=
  planVec 2 [a] d (fun k => laneSign t sat FV.abs (fun x => (x.natAbs : Int)) (k.rv a)) g

/-- `vneg` (R133). -/
def planVneg (g : Pg) (d a : BitVec 4) (t : BitVec 4) (sat : Bool) : State → SlotPlan :=
  planVec 2 [a] d (fun k => laneSign t sat FV.neg (fun x => -x) (k.rv a)) g

/-! ## Logic and shifts (R134, R135) -/

/-- `vand` (R134). -/
def planVand (g : Pg) (d a b : BitVec 4) (_t : BitVec 4) : State → SlotPlan :=
  planVec 2 [a, b] d (fun k => k.rv a &&& k.rv b) g

/-- `vor` (R134). -/
def planVor (g : Pg) (d a b : BitVec 4) (_t : BitVec 4) : State → SlotPlan :=
  planVec 2 [a, b] d (fun k => k.rv a ||| k.rv b) g

/-- `vxor` (R134). -/
def planVxor (g : Pg) (d a b : BitVec 4) (_t : BitVec 4) : State → SlotPlan :=
  planVec 2 [a, b] d (fun k => k.rv a ^^^ k.rv b) g

/-- `vshl` (R135). -/
def planVshl (g : Pg) (d a b : BitVec 4) (t : BitVec 4) : State → SlotPlan :=
  planVec 2 [a, b] d (fun k => mapLanes t (fun i =>
    let c := elemBits (k.rv b) i t
    if widthT t ≤ c then 0 else elemBits (k.rv a) i t <<< c)) g

/-- `vshr` (R135). -/
def planVshr (g : Pg) (d a b : BitVec 4) (t : BitVec 4) : State → SlotPlan :=
  planVec 2 [a, b] d (fun k => mapLanes t (fun i =>
    wrapW (elemI (k.rv a) i t / (2 ^ (min (elemBits (k.rv b) i t) (widthT t)) : Nat)) (widthT t))) g

/-! ## Conversion, compare and select (R136-R139) -/

/-- All lanes converted: the low lanes that both types have, the rest 0 (R136). -/
def laneConvert (md : Mode) (ovf : Bool) (src dst : BitVec 4) (a : Vec) : Vec :=
  packVec (widthT dst) (512 / max (widthT src) (widthT dst)) (fun i => convertT md ovf src dst (elemBits a i src))

/-- CONV of a `vcvt` between RAW or CTL and another code (R137). -/
def cvtFault (src dst : BitVec 4) : Option FaultInfo :=
  let raw := fun (t : BitVec 4) => t == 0x0 || t == 0xF
  if src != dst && (raw src || raw dst) then some (faultOf .conv (0#24 ++ src ++ dst)) else none

/-- `vcvt` (R136, R137). -/
def planVcvt (g : Pg) (d a : BitVec 4) (src dst : BitVec 4) (ovf : Bool) (m : BitVec 3) : State → SlotPlan :=
  guarded .v g (fun s =>
    { reads := readsV [a], check := cvtFault src dst,
      writes := [(3, .vec d (laneConvert (modeOf s.curBank.rmode m) ovf src dst (s.curBank.rv a)))] }) nothing

/-- The mask of a condition between the elements of two vectors (R138). -/
def laneCmp (t : BitVec 4) (cond : BitVec 3) (a b : Vec) : Vec :=
  mapLanes t (fun i =>
    let c := if floatT t then condFloat cond (elemF a i t) (elemF b i t) else condInt cond (elemI a i t) (elemI b i t)
    if c then 2 ^ widthT t - 1 else 0)

/-- `vcmp` (R138). -/
def planVcmp (g : Pg) (d a b : BitVec 4) (t : BitVec 4) (cond : BitVec 3) : State → SlotPlan :=
  planVec 2 [a, b] d (fun k => laneCmp t cond (k.rv a) (k.rv b)) g

/-- `vsel` (R139). -/
def planVsel (g : Pg) (d a b c : BitVec 4) : State → SlotPlan :=
  planVec 2 [a, b, c] d (fun k => (k.rv a &&& k.rv c) ||| (k.rv b &&& ~~~k.rv c)) g

/-! ## Moving elements (R140-R143) -/

/-- `vbcast` (R140). -/
def planVbcast (g : Pg) (d : BitVec 4) (a : BitVec 5) (t : BitVec 4) : State → SlotPlan :=
  guarded .v g (fun s => { reads := readsS [a],
                           writes := [(2, .vec d (mapLanes t (fun _ => (s.curBank.rs a).toNat)))] }) nothing

/-- The element that `vext` reads, extended as its type says (R141). -/
def extValue (t : BitVec 4) (v : Vec) (j : W32) : W32 :=
  let x := elemBits v (j.toNat % lanesT t) t
  if signedT t then BitVec.ofInt 32 (intVal t x) else BitVec.ofNat 32 x

/-- `vext` (R141). -/
def planVext (g : Pg) (d : BitVec 5) (a : BitVec 4) (b : BitVec 5) (t : BitVec 4) : State → SlotPlan :=
  guarded .v g (fun s => { reads := readsV [a] ++ readsS [b],
                           writes := [(2, .scalar d (extValue t (s.curBank.rv a) (s.curBank.rs b)))] }) nothing

/-- A vector with one element replaced (R142). -/
def insElem (t : BitVec 4) (v : Vec) (j : Nat) (x : Nat) : Vec :=
  mapLanes t (fun i => if i = j then x else elemBits v i t)

/-- `vins` (R142). -/
def planVins (g : Pg) (d : BitVec 4) (a b : BitVec 5) (t : BitVec 4) : State → SlotPlan :=
  guarded .v g (fun s =>
    let k := s.curBank
    { reads := readsV [d] ++ readsS [a, b],
      writes := [(2, .vec d (insElem t (k.rv d) ((k.rs b).toNat % lanesT t) (k.rs a).toNat))] }) nothing

/-- Elements gathered by index, with a zero flag in the top bit of each index (R143). -/
def lanePerm (t : BitVec 4) (a b : Vec) : Vec :=
  mapLanes t (fun i =>
    let k := elemBits b i t
    if 2 ^ (widthT t - 1) ≤ k then 0 else elemBits a (k % lanesT t) t)

/-- `vperm` (R143). -/
def planVperm (g : Pg) (d a b : BitVec 4) (t : BitVec 4) : State → SlotPlan :=
  planVec 3 [a, b] d (fun k => lanePerm t (k.rv a) (k.rv b)) g

/-! ## Reductions and scans (R144) -/

/-- One ⊕ of a reduction on element patterns: an add rounded in the mode or wrapping, a maximum or a minimum (R144). -/
def combine (t : BitVec 4) (md : Mode) (fn : BitVec 3) (x y : Nat) : Nat :=
  if floatT t then
    let a := decodeF (fmtOf t) x
    let b := decodeF (fmtOf t) y
    roundFV (fmtOf t) md false (if fn = 0 then a.add md b else if fn = 1 then a.max b else a.min b)
  else
    let a := intVal t x
    let b := intVal t y
    putInt t false (if fn = 0 then a + b else if fn = 1 then max a b else min a b)

/-- The elements of a vector as patterns, element 0 first. -/
def elemList (t : BitVec 4) (v : Vec) : List Nat := (List.range (lanesT t)).map (fun i => elemBits v i t)

/-- `vred` (R144). -/
def planVred (g : Pg) (d a : BitVec 4) (t : BitVec 4) (fn : BitVec 3) (rnd : BitVec 3) : State → SlotPlan :=
  planVec 5 [a] d (fun k =>
    let l := redTree (combine t (modeOf k.rmode rnd) fn) (Nat.log2 (lanesT t)) (elemList t (k.rv a))
    packVec (widthT t) 1 (fun _ => l.headD 0)) g

/-- An element as a computing op writes it when it stands alone: a NaN is the canonical one (R108, R130). -/
def canonElem (t : BitVec 4) (x : Nat) : Nat :=
  if floatT t && (decodeF (fmtOf t) x).isNan then roundFV (fmtOf t) .rne false .nan else x

/-- `vscan` (R144). -/
def planVscan (g : Pg) (d a : BitVec 4) (t : BitVec 4) (fn : BitVec 3) (rnd : BitVec 3) : State → SlotPlan :=
  planVec 5 [a] d (fun k =>
    let l := scanTree (combine t (modeOf k.rmode rnd) fn) (Nat.log2 (lanesT t)) 0 ((elemList t (k.rv a)).map (canonElem t))
    mapLanes t (fun i => l.getD i 0)) g

/-! ## Functions and dot products (R145-R147) -/

/-- `vfn` (R145). -/
def planVfn (g : Pg) (d a : BitVec 4) (fn : BitVec 3) : State → SlotPlan :=
  planVec 8 [a] d (fun k => mapLanes 0x6 (fun i => vfnLane fn (elemBits (k.rv a) i 0x6))) g

/-- The 16 pair sums of `vdot` (R147). -/
def laneDot (t : BitVec 4) (m : BitVec 3) (k : Bank) (a b : Vec) : Vec :=
  packVec 32 16 (fun i =>
    if floatT t then
      let md := modeOf k.rmode m
      let p := (elemF a (2 * i) t).mul (elemF b (2 * i) t)
      let q := (elemF a (2 * i + 1) t).mul (elemF b (2 * i + 1) t)
      roundFV fmtF32 md false (p.add md q)
    else
      let x := elemI a (2 * i) t * elemI b (2 * i) t + elemI a (2 * i + 1) t * elemI b (2 * i + 1) t
      wrapW (if m = 1 then (if signedT t then satS x 32 else satN x 32) else x) 32)

/-- `vdot` (R147). -/
def planVdot (g : Pg) (d a b : BitVec 4) (t : BitVec 4) (m : BitVec 3) : State → SlotPlan :=
  planVec 4 [a, b] d (fun k => laneDot t m k (k.rv a) (k.rv b)) g

/-! ## Meanings: each issues the op alone in its bundle -/

/-- The meaning of `vadd` (R131). -/
def execVadd (g : Pg) (d a b : BitVec 4) (t : BitVec 4) (m : BitVec 3) (s : State) : Host.Outcome State Fault Refusal :=
  issueOne (planVadd g d a b t m) s

/-- The meaning of `vsub` (R131). -/
def execVsub (g : Pg) (d a b : BitVec 4) (t : BitVec 4) (m : BitVec 3) (s : State) : Host.Outcome State Fault Refusal :=
  issueOne (planVsub g d a b t m) s

/-- The meaning of `vmul` (R131). -/
def execVmul (g : Pg) (d a b : BitVec 4) (t : BitVec 4) (m : BitVec 3) (s : State) : Host.Outcome State Fault Refusal :=
  issueOne (planVmul g d a b t m) s

/-- The meaning of `vfma` (R131). -/
def execVfma (g : Pg) (d a b : BitVec 4) (t : BitVec 4) (m : BitVec 3) (s : State) : Host.Outcome State Fault Refusal :=
  issueOne (planVfma g d a b t m) s

/-- The meaning of `vmin` (R132). -/
def execVmin (g : Pg) (d a b : BitVec 4) (t : BitVec 4) (s : State) : Host.Outcome State Fault Refusal :=
  issueOne (planVmin g d a b t) s

/-- The meaning of `vmax` (R132). -/
def execVmax (g : Pg) (d a b : BitVec 4) (t : BitVec 4) (s : State) : Host.Outcome State Fault Refusal :=
  issueOne (planVmax g d a b t) s

/-- The meaning of `vabs` (R133). -/
def execVabs (g : Pg) (d a : BitVec 4) (t : BitVec 4) (sat : Bool) (s : State) : Host.Outcome State Fault Refusal :=
  issueOne (planVabs g d a t sat) s

/-- The meaning of `vneg` (R133). -/
def execVneg (g : Pg) (d a : BitVec 4) (t : BitVec 4) (sat : Bool) (s : State) : Host.Outcome State Fault Refusal :=
  issueOne (planVneg g d a t sat) s

/-- The meaning of `vand` (R134). -/
def execVand (g : Pg) (d a b : BitVec 4) (_t : BitVec 4) (s : State) : Host.Outcome State Fault Refusal :=
  issueOne (planVand g d a b _t) s

/-- The meaning of `vor` (R134). -/
def execVor (g : Pg) (d a b : BitVec 4) (_t : BitVec 4) (s : State) : Host.Outcome State Fault Refusal :=
  issueOne (planVor g d a b _t) s

/-- The meaning of `vxor` (R134). -/
def execVxor (g : Pg) (d a b : BitVec 4) (_t : BitVec 4) (s : State) : Host.Outcome State Fault Refusal :=
  issueOne (planVxor g d a b _t) s

/-- The meaning of `vshl` (R135). -/
def execVshl (g : Pg) (d a b : BitVec 4) (t : BitVec 4) (s : State) : Host.Outcome State Fault Refusal :=
  issueOne (planVshl g d a b t) s

/-- The meaning of `vshr` (R135). -/
def execVshr (g : Pg) (d a b : BitVec 4) (t : BitVec 4) (s : State) : Host.Outcome State Fault Refusal :=
  issueOne (planVshr g d a b t) s

/-- The meaning of `vcvt` (R136, R137). -/
def execVcvt (g : Pg) (d a : BitVec 4) (src dst : BitVec 4) (ovf : Bool) (m : BitVec 3) (s : State) : Host.Outcome State Fault Refusal :=
  issueOne (planVcvt g d a src dst ovf m) s

/-- The meaning of `vcmp` (R138). -/
def execVcmp (g : Pg) (d a b : BitVec 4) (t : BitVec 4) (cond : BitVec 3) (s : State) : Host.Outcome State Fault Refusal :=
  issueOne (planVcmp g d a b t cond) s

/-- The meaning of `vsel` (R139). -/
def execVsel (g : Pg) (d a b c : BitVec 4) (s : State) : Host.Outcome State Fault Refusal :=
  issueOne (planVsel g d a b c) s

/-- The meaning of `vbcast` (R140). -/
def execVbcast (g : Pg) (d : BitVec 4) (a : BitVec 5) (t : BitVec 4) (s : State) : Host.Outcome State Fault Refusal :=
  issueOne (planVbcast g d a t) s

/-- The meaning of `vext` (R141). -/
def execVext (g : Pg) (d : BitVec 5) (a : BitVec 4) (b : BitVec 5) (t : BitVec 4) (s : State) : Host.Outcome State Fault Refusal :=
  issueOne (planVext g d a b t) s

/-- The meaning of `vins` (R142). -/
def execVins (g : Pg) (d : BitVec 4) (a b : BitVec 5) (t : BitVec 4) (s : State) : Host.Outcome State Fault Refusal :=
  issueOne (planVins g d a b t) s

/-- The meaning of `vperm` (R143). -/
def execVperm (g : Pg) (d a b : BitVec 4) (t : BitVec 4) (s : State) : Host.Outcome State Fault Refusal :=
  issueOne (planVperm g d a b t) s

/-- The meaning of `vred` (R144). -/
def execVred (g : Pg) (d a : BitVec 4) (t : BitVec 4) (fn : BitVec 3) (rnd : BitVec 3) (s : State) : Host.Outcome State Fault Refusal :=
  issueOne (planVred g d a t fn rnd) s

/-- The meaning of `vscan` (R144). -/
def execVscan (g : Pg) (d a : BitVec 4) (t : BitVec 4) (fn : BitVec 3) (rnd : BitVec 3) (s : State) : Host.Outcome State Fault Refusal :=
  issueOne (planVscan g d a t fn rnd) s

/-- The meaning of `vfn` (R145). -/
def execVfn (g : Pg) (d a : BitVec 4) (fn : BitVec 3) (s : State) : Host.Outcome State Fault Refusal :=
  issueOne (planVfn g d a fn) s

/-- The meaning of `vdot` (R147). -/
def execVdot (g : Pg) (d a b : BitVec 4) (t : BitVec 4) (m : BitVec 3) (s : State) : Host.Outcome State Fault Refusal :=
  issueOne (planVdot g d a b t m) s

end Sys2Proof.Machine
end

