-- ==== Sys2Proof/Machine/Graphics.lean ====
section
/-!
DEFINITION. The graphics ops of the V slot (R324-R339): coverage and interpolation, visibility and depth, blending,
splats, rays, and signatures. Coordinates and intersections are computed exactly; each float result is rounded once.
-/
namespace Sys2Proof.Machine

/-- The value of a vector's 32-bit lane as I32. -/
def laneI (v : Vec) (i : Nat) : Int := elemI v i 0x5
/-- The value of a vector's 32-bit lane as F32. -/
def laneF (v : Vec) (i : Nat) : FV := elemF v i 0x6
/-- The pattern of a vector's 32-bit lane. -/
def laneN (v : Vec) (i : Nat) : Nat := elemBits v i 0x5
/-- A vector of sixteen 32-bit lanes. -/
def lanes16 (f : Nat → Nat) : Vec := packVec 32 16 f
/-- All ones or zero in a lane of `w` bits. -/
def maskLane (w : Nat) (b : Bool) : Nat := if b then 2 ^ w - 1 else 0

/-! ## Rasterising (R325, R326) -/

/-- Edge vector k of the triangle in lanes 0 to 5: (dx, dy) (R325). -/
def edgeVec (v : Vec) (k : Nat) : Int × Int :=
  let j := (k + 1) % 3
  (laneI v (2 * j) - laneI v (2 * k), laneI v (2 * j + 1) - laneI v (2 * k + 1))

/-- The sample point of lane i, in units of 1/256 pixel (R325). -/
def sampleAt (b : Vec) (i : Nat) : Int × Int := (256 * (laneI b 0 + i) + 128, 256 * laneI b 1 + 128)

/-- Edge function k at a sample point (R325). -/
def edgeFn (v : Vec) (p : Int × Int) (k : Nat) : Int :=
  let d := edgeVec v k
  d.1 * (p.2 - laneI v (2 * k + 1)) - d.2 * (p.1 - laneI v (2 * k))

/-- One edge of a normalised triangle takes a sample: inside, or on an edge that owns it (R325). -/
def edgeTakes (s e dx dy : Int) : Bool :=
  let ek := s * e
  let ey := s * dy
  decide (0 < ek) || ek == 0 && (decide (0 < ey) || ey == 0 && decide (s * dx < 0))

/-- Lane i of `vedge` is covered (R325). -/
def edgeCovered (m : BitVec 3) (a b : Vec) (i : Nat) : Bool :=
  let p := sampleAt b i
  let e := edgeFn a p
  let area := e 0 + e 1 + e 2
  if area = 0 ∨ m = 1 ∧ area < 0 ∨ m = 2 ∧ 0 < area then false
  else [0, 1, 2].all (fun k => edgeTakes area.sign (e k) (edgeVec a k).1 (edgeVec a k).2)

/-- `vedge` (R325). -/
def planVedge (g : Pg) (d a b : BitVec 4) (m : BitVec 3) : State → SlotPlan :=
  planVec 4 [a, b] d (fun k => lanes16 (fun i => maskLane 32 (edgeCovered m (k.rv a) (k.rv b) i))) g

/-- The exact value of a finite float, when it is one. -/
def FV.dy? : FV → Option Dy
  | .fin _ d => some d
  | _ => none

/-- All values of a list of float lanes when every one is finite. -/
def finLanes (v : Vec) : List Nat → Option (List Dy)
  | [] => some []
  | i :: r =>
    match (laneF v i).dy?, finLanes v r with
    | some x, some l => some (x :: l)
    | _, _ => none

/-- An exact quotient of two dyadic numbers, rounded once; an exact zero is +0. -/
def roundRatio (md : Mode) (n d : Dy) : Nat :=
  if n.m = 0 then 0
  else
    let num := n.num * d.den
    let den := n.den * d.num
    roundFrac fmtF32 md false (if den < 0 then -num else num) den.natAbs

/-- Lane i of `vbary` (R326): with the common factor 1/A cancelled, the sum of e·a·q over the sum of e·q. -/
def baryLane (md : Mode) (a b : Vec) (i : Nat) : Nat :=
  let p := sampleAt b i
  let e := fun k => (⟨edgeFn a p k, 0⟩ : Dy)
  match finLanes a [6, 7, 8, 9, 10, 11] with
  | some [a0, a1, a2, q0, q1, q2] =>
    let l0 := (e 1).mul q0
    let l1 := (e 2).mul q1
    let l2 := (e 0).mul q2
    let den := (l0.add l1).add l2
    if edgeFn a p 0 + edgeFn a p 1 + edgeFn a p 2 = 0 ∨ den.m = 0 then nanBits fmtF32
    else roundRatio md (((l0.mul a0).add (l1.mul a1)).add (l2.mul a2)) den
  | _ => nanBits fmtF32

/-- `vbary` (R326). -/
def planVbary (g : Pg) (d a b : BitVec 4) (m : BitVec 3) : State → SlotPlan :=
  planVec 6 [a, b] d (fun k => lanes16 (baryLane (modeOf k.rmode m) (k.rv a) (k.rv b))) g

/-! ## Visibility and depth (R327, R328) -/

/-- The leader of a valid sample: the first valid lane with the same identifier (R327). -/
def dedupLeader (a b : Vec) (i : Nat) : Nat :=
  ((List.range 16).find? (fun j => laneN b j != 0 && laneN a j == laneN a i)).getD i

/-- Lane i of `vdedup` (R327). -/
def dedupLane (a b : Vec) (i : Nat) : Nat :=
  if laneN b i = 0 then 0xFFFFFFFF
  else
    let ld := dedupLeader a b i
    let rk := ((List.range ld).filter (fun j => laneN b j != 0 && dedupLeader a b j == j)).length
    (if ld = i then 2 ^ 31 else 0) + rk * 256 + ld

/-- `vdedup` (R327). -/
def planVdedup (g : Pg) (d a b : BitVec 4) : State → SlotPlan :=
  planVec 6 [a, b] d (fun k => lanes16 (dedupLane (k.rv a) (k.rv b))) g

/-- The comparison of `vdepth`: lt, le, gt, ge (R328); a NaN fails (R114). -/
def depthCmp (t : BitVec 4) (c : BitVec 2) (a b : Vec) (i : Nat) : Bool :=
  let lt := if floatT t then (elemF a i t).lt (elemF b i t) else decide (elemI a i t < elemI b i t)
  let eq := if floatT t then (elemF a i t).eq (elemF b i t) else elemI a i t == elemI b i t
  let gt := if floatT t then (elemF b i t).lt (elemF a i t) else decide (elemI b i t < elemI a i t)
  if c = 0 then lt else if c = 1 then lt || eq else if c = 2 then gt else gt || eq

/-- Lane i of `vdepth` (R328). -/
def depthLane (t : BitVec 4) (m : BitVec 3) (a b dOld : Vec) (i : Nat) : Nat :=
  let pass := elemBits dOld i t != 0 && depthCmp t (m.extractLsb' 0 2) a b i
  if m.getLsbD 2 then (if pass then elemBits a i t else elemBits b i t) else maskLane (widthT t) pass

/-- `vdepth` (R328). -/
def planVdepth (g : Pg) (d a b : BitVec 4) (t : BitVec 4) (m : BitVec 3) : State → SlotPlan :=
  planVec 4 [a, b, d] d (fun k => mapLanes t (depthLane t m (k.rv a) (k.rv b) (k.rv d))) g

/-! ## Blending (R329) -/

/-- The value 1. -/
def FV.one : FV := .fin false ⟨1, 0⟩

/-- One channel of a blend (R329). -/
def blendValue (fn : BitVec 3) (s d sa : FV) : FV :=
  if fn = 0 then s.add .rne (d.mul (FV.one.add .rne sa.neg))
  else if fn = 1 then s.add .rne d
  else if fn = 2 then s.mul d
  else if fn = 3 then s.max d
  else s.min d

/-- `vblend` (R329): RNE, whatever RMODE holds. -/
def planVblend (g : Pg) (d a b : BitVec 4) (t : BitVec 4) (fn : BitVec 3) : State → SlotPlan :=
  planVec 4 [a, b] d (fun k =>
    mapLanes t (fun i =>
      roundFV (fmtOf t) .rne false
        (blendValue fn (elemF (k.rv a) i t) (elemF (k.rv b) i t) (elemF (k.rv a) (i / 4 * 4 + 3) t)))) g

/-! ## Splats (R331, R332) -/

/-- The digit of lane i in pass p (R331). -/
def sortDigit (a b : Vec) (i : Nat) : Nat := laneN a i / 16 ^ (laneN b 0 % 8) % 16

/-- The number of valid lanes (R331). -/
def sortCount (b : Vec) : Nat := min (laneN b 1) 16

/-- The place of a valid lane in the stable order (R331). -/
def sortRank (a b : Vec) (i : Nat) : Nat :=
  ((List.range (sortCount b)).filter (fun j =>
    decide (sortDigit a b j < sortDigit a b i) || decide (j < i) && sortDigit a b j == sortDigit a b i)).length

/-- Lane r of `vsort` (R331). -/
def sortLane (m : BitVec 3) (a b : Vec) (r : Nat) : Nat :=
  let n := sortCount b
  if m = 1 then ((List.range n).filter (fun j => sortDigit a b j == r)).length
  else if n ≤ r then r
  else if m = 2 then sortRank a b r
  else ((List.range n).find? (fun j => sortRank a b j == r)).getD r

/-- `vsort` (R331). -/
def planVsort (g : Pg) (d a b : BitVec 4) (m : BitVec 3) : State → SlotPlan :=
  planVec 4 [a, b] d (fun k => lanes16 (sortLane m (k.rv a) (k.rv b))) g

/-- The opacity clamped to [0, 1]; a NaN counts as 0 (R332). -/
def clampAlpha (x : FV) : FV :=
  if x.isNan then .fin false ⟨0, 0⟩ else (x.max (.fin false ⟨0, 0⟩)).min FV.one

/-- Lane i of `vcomp` (R332). -/
def compLane (md : Mode) (othr : W32) (a b dOld : Vec) (i : Nat) : Nat :=
  let p := i / 4 * 4
  let t := laneF dOld (p + 3)
  let done := FV.one.add .rne t.neg
  let o := decodeF fmtF32 othr.toNat
  let al := clampAlpha (laneF a (p + 3))
  if laneN b p = 0 ∨ (o.lt done || o.eq done) then laneN dOld i
  else if i = p + 3 then roundFV fmtF32 md false (t.mul (FV.one.add .rne al.neg))
  else roundFV fmtF32 md false ((laneF dOld i).add md ((t.mul al).mul (laneF a i)))

/-- `vcomp` (R332). -/
def planVcomp (g : Pg) (d a b : BitVec 4) (m : BitVec 3) : State → SlotPlan :=
  planVec 6 [a, b, d] d (fun k => lanes16 (compLane (modeOf k.rmode m) k.othr (k.rv a) (k.rv b) (k.rv d))) g

/-! ## Rays (R333-R335) -/

/-- Exact product where 0 · ±∞ is 0 (R334). -/
def slabMul (a b : FV) : FV := if a.isZero || b.isZero then .fin false ⟨0, 0⟩ else a.mul b

/-- The slab of one axis: its rounded bounds, or nothing when it is empty (R334). -/
def boxSlab (ray box : Vec) (base ax : Nat) : Option (FV × FV) :=
  let lo := laneF box (base + ax)
  let hi := laneF box (base + 3 + ax)
  let o := laneF ray ax
  if (laneF ray (3 + ax)).isZero then
    if (lo.lt o || lo.eq o) && (o.lt hi || o.eq hi) then some (.inf true, .inf false) else none
  else
    let inv := laneF ray (8 + ax)
    let t1 := slabMul (lo.add .rne o.neg) inv
    let t2 := slabMul (hi.add .rne o.neg) inv
    some (decodeF fmtF32 (roundFV fmtF32 .rdn false (t1.min t2)), decodeF fmtF32 (roundFV fmtF32 .rup false (t1.max t2)))

/-- A lane is NaN or infinite. -/
def FV.nonFinite (x : FV) : Bool := x.dy?.isNone

/-- The lanes of a box and a ray rule a hit out (R333, R334). -/
def boxRefused (ray box : Vec) (base : Nat) : Bool :=
  (List.range 6).any (fun i => (laneF box (base + i)).nonFinite || (laneF ray i).nonFinite) ||
  (List.range 3).any (fun i => (laneF ray (8 + i)).isNan || (laneF box (base + 3 + i)).lt (laneF box (base + i))) ||
  (laneF ray 6).isNan || (laneF ray 7).isNan

/-- near of a box that the ray hits (R334). -/
def boxHit (ray box : Vec) (base : Nat) : Option FV :=
  if boxRefused ray box base then none
  else
    match boxSlab ray box base 0, boxSlab ray box base 1, boxSlab ray box base 2 with
    | some x, some y, some z =>
      let near := (((laneF ray 6).max x.1).max y.1).max z.1
      let far := (((laneF ray 7).min x.2).min y.2).min z.2
      if near.lt far || near.eq far then some near else none
    | _, _, _ => none

/-- The vector that `vrbox` writes (R334). -/
def rboxVec (ray box : Vec) : Vec :=
  let h0 := boxHit ray box 0
  let h1 := boxHit ray box 6
  let w := fun (h : Option FV) =>
    match h with
    | some v => roundFV fmtF32 .rne false v
    | none => 0x7F800000
  let nearer :=
    match h0, h1 with
    | _, none => 0
    | none, some _ => 1
    | some n0, some n1 => if n1.lt n0 then 1 else 0
  lanes16 (fun i =>
    if i = 0 then w h0 else if i = 1 then w h1
    else if i = 2 then (if h0.isSome then 1 else 0) + (if h1.isSome then 2 else 0)
    else if i = 3 then nearer else 0)

/-- `vrbox` (R334). -/
def planVrbox (g : Pg) (d a b : BitVec 4) : State → SlotPlan :=
  planVec 6 [a, b] d (fun k => rboxVec (k.rv a) (k.rv b)) g

/-- A point or direction in space, exactly. -/
structure Dy3 where
  x : Dy
  y : Dy
  z : Dy

/-- Difference of two points. -/
def Dy3.sub (a b : Dy3) : Dy3 := ⟨a.x.add b.x.neg, a.y.add b.y.neg, a.z.add b.z.neg⟩
/-- Dot product. -/
def Dy3.dot (a b : Dy3) : Dy := ((a.x.mul b.x).add (a.y.mul b.y)).add (a.z.mul b.z)
/-- Cross product. -/
def Dy3.cross (a b : Dy3) : Dy3 :=
  ⟨(a.y.mul b.z).add (a.z.mul b.y).neg, (a.z.mul b.x).add (a.x.mul b.z).neg, (a.x.mul b.y).add (a.y.mul b.x).neg⟩

/-- A dyadic number with the sign of another one turned out. -/
def Dy.withSign (a d : Dy) : Dy := if d.m < 0 then a.neg else a

/-- The ray meets the triangle at t = n / |det|, within the interval (R333, R335). -/
def inInterval (lo hi : FV) (n det : Dy) : Bool :=
  let leL := match lo with
    | .nan => false
    | .inf neg => neg
    | .fin _ x => !n.lt (x.mul det)
  let leH := match hi with
    | .nan => false
    | .inf neg => !neg
    | .fin _ x => !(x.mul det).lt n
  leL && leH

/-- What a hit of `vrtri` writes: t, u, v rounded once, and the side (R335). -/
def triHit (m : BitVec 3) (lo hi : FV) (o dir p0 p1 p2 : Dy3) : Option (Nat × Nat × Nat × Nat) :=
  let e1 := p1.sub p0
  let e2 := p2.sub p0
  let s := o.sub p0
  let h := dir.cross e2
  let q := s.cross e1
  let det := e1.dot h
  let ad := det.withSign det
  let u := (s.dot h).withSign det
  let v := (dir.dot q).withSign det
  let t := (e2.dot q).withSign det
  let culled := decide (m = 1 ∧ det.m < 0 ∨ m = 2 ∧ 0 < det.m)
  if det.m = 0 ∨ culled ∨ u.m < 0 ∨ v.m < 0 ∨ ad.lt (u.add v) ∨ !inInterval lo hi t ad then none
  else
    some (roundRatio .rne t ad, roundRatio .rne u ad, roundRatio .rne v ad, 1 + (if det.m < 0 then 2 else 0))

/-- The vector that `vrtri` writes (R335). -/
def rtriVec (m : BitVec 3) (ray tri : Vec) : Vec :=
  let miss := lanes16 (fun i => if i = 0 then 0x7F800000 else 0)
  match finLanes ray [0, 1, 2, 3, 4, 5], finLanes tri [0, 1, 2, 3, 4, 5, 6, 7, 8] with
  | some [ox, oy, oz, dx, dy, dz], some [a, b, c, d, e, f, g, h, i] =>
    match triHit m (laneF ray 6) (laneF ray 7) ⟨ox, oy, oz⟩ ⟨dx, dy, dz⟩ ⟨a, b, c⟩ ⟨d, e, f⟩ ⟨g, h, i⟩ with
    | some r => lanes16 (fun j => if j = 0 then r.1 else if j = 1 then r.2.1 else if j = 2 then r.2.2.1
        else if j = 3 then r.2.2.2 else 0)
    | none => miss
  | _, _ => miss

/-- `vrtri` (R335). -/
def planVrtri (g : Pg) (d a b : BitVec 4) (m : BitVec 3) : State → SlotPlan :=
  planVec 12 [a, b] d (fun k => rtriVec m (k.rv a) (k.rv b)) g

/-! ## Signatures (R337-R339) -/

/-- The words of a line folded into a signature, word 0 first (R337). -/
def sigFold (a : Vec) : W64 → List Nat → W64
  | h, [] => h
  | h, j :: r => sigFold a ((h ^^^ (getF a 32 j).setWidth 64) * 0x00000100000001B3) r

/-- The signature in lanes 0 and 1 (R337). -/
def sigOf (b : Vec) : W64 := getF b 64 0

/-- `vsig` (R337). -/
def planVsig (g : Pg) (d a b : BitVec 4) : State → SlotPlan :=
  planVec 3 [a, b] d (fun k => (sigFold (k.rv a) (sigOf (k.rv b)) (List.range 16)).setWidth 512) g

/-- The place of a signature entry: the slot that the running leaf holds, and the entry (R338, R339). -/
def LeafCtx.sigPlace (c : LeafCtx) (e : Nat) : Option Nat :=
  if c.sigcfg.getLsbD 4 then some ((c.sigcfg.extractLsb' 0 4).toNat * 256 + e % 256) else none

/-- A signature entry written, with the error that stands in it, when one does, counted and gone (R338; log 36). -/
def State.putSig (s : State) (die : DieId) (n : Nat) (v : W64) (bad : Bool) : State :=
  let put := fun (x : Die) => { x with sigs := x.sigs.set n (some v) }
  if bad then { s with ecc := s.ecc.filter (fun e => e != Ecc.sig die n) }.onDie die (fun x => (put x).countEcc)
  else s.onDie die put

/-- `vsig.chk` (R338). The table is read and written in the issue cycle; an entry that holds an uncorrectable error reads as
invalid. -/
def planVsigChk (g : Pg) (d a b : BitVec 4) : State → SlotPlan :=
  guarded .v g (fun s =>
    let k := s.curBank
    let die := siteDie s.cur.tile
    let new := sigOf (k.rv b)
    let rs := readsV [a, b]
    match s.curCtx.sigPlace (laneN (k.rv a) 0) with
    | none => { reads := rs, writes := [(3, .vec d 0)] }
    | some n =>
      let bad := s.ecc.contains (.sig die n)
      let old := if bad then none else s.dies[die].sigs.get n none
      let v := old.getD 0
      let flag : W32 := if old = some new then 0xFFFFFFFF else 0
      { reads := rs, writes := [(3, .vec d ((1#32 ++ v ++ flag).setWidth 512))],
        act := fun x => x.putSig die n new bad }) nothing

/-! ## Meanings: each issues the op alone in its bundle -/

/-- The meaning of `vedge` (R325). -/
def execVedge (g : Pg) (d a b : BitVec 4) (m : BitVec 3) (s : State) : Host.Outcome State Fault Refusal :=
  issueOne (planVedge g d a b m) s

/-- The meaning of `vbary` (R326). -/
def execVbary (g : Pg) (d a b : BitVec 4) (m : BitVec 3) (s : State) : Host.Outcome State Fault Refusal :=
  issueOne (planVbary g d a b m) s

/-- The meaning of `vdedup` (R327). -/
def execVdedup (g : Pg) (d a b : BitVec 4) (s : State) : Host.Outcome State Fault Refusal :=
  issueOne (planVdedup g d a b) s

/-- The meaning of `vdepth` (R328). -/
def execVdepth (g : Pg) (d a b : BitVec 4) (t : BitVec 4) (m : BitVec 3) (s : State) : Host.Outcome State Fault Refusal :=
  issueOne (planVdepth g d a b t m) s

/-- The meaning of `vblend` (R329). -/
def execVblend (g : Pg) (d a b : BitVec 4) (t : BitVec 4) (fn : BitVec 3) (s : State) : Host.Outcome State Fault Refusal :=
  issueOne (planVblend g d a b t fn) s

/-- The meaning of `vsort` (R331). -/
def execVsort (g : Pg) (d a b : BitVec 4) (m : BitVec 3) (s : State) : Host.Outcome State Fault Refusal :=
  issueOne (planVsort g d a b m) s

/-- The meaning of `vcomp` (R332). -/
def execVcomp (g : Pg) (d a b : BitVec 4) (m : BitVec 3) (s : State) : Host.Outcome State Fault Refusal :=
  issueOne (planVcomp g d a b m) s

/-- The meaning of `vrbox` (R334). -/
def execVrbox (g : Pg) (d a b : BitVec 4) (s : State) : Host.Outcome State Fault Refusal :=
  issueOne (planVrbox g d a b) s

/-- The meaning of `vrtri` (R335). -/
def execVrtri (g : Pg) (d a b : BitVec 4) (m : BitVec 3) (s : State) : Host.Outcome State Fault Refusal :=
  issueOne (planVrtri g d a b m) s

/-- The meaning of `vsig` (R337). -/
def execVsig (g : Pg) (d a b : BitVec 4) (s : State) : Host.Outcome State Fault Refusal :=
  issueOne (planVsig g d a b) s

/-- The meaning of `vsig.chk` (R338). -/
def execVsigChk (g : Pg) (d a b : BitVec 4) (s : State) : Host.Outcome State Fault Refusal :=
  issueOne (planVsigChk g d a b) s

end Sys2Proof.Machine
end

