-- ==== Sys2Proof/Machine/Scalar.lean ====
section
/-!
DEFINITION. The S slot: integer arithmetic (R82-R84, R87), compares and predicate logic (R85, R86), flow (R88-R94), the
spill stack (R95-R97), state registers (R98, R99) and ends of a firing (R100, R101). A plan is what the op asks for in
its bundle; its meaning issues it alone.
-/
namespace Sys2Proof.Machine

/-- An op that reads two scalars and writes a third after some steps. -/
def planScalar (lat : Nat) (f : W32 → W32 → W32) (g : Pg) (d a b : BitVec 5) (s : State) : SlotPlan :=
  guarded .s g (fun s => { reads := readsS [a, b],
                           writes := [(lat, .scalar d (f (s.curBank.rs a) (s.curBank.rs b)))] }) nothing s

/-- An op that reads one scalar and writes another in one step. -/
def planScalarImm (f : W32 → W32) (g : Pg) (d a : BitVec 5) (s : State) : SlotPlan :=
  guarded .s g (fun s => { reads := readsS [a], writes := [(1, .scalar d (f (s.curBank.rs a)))] }) nothing s

/-! ## alu (R82) -/

/-- `add` (R82). -/
def planAdd (g : Pg) (d a b : BitVec 5) : State → SlotPlan :=
  planScalar 1 (fun a b => a + b) g d a b

/-- `sub` (R82). -/
def planSub (g : Pg) (d a b : BitVec 5) : State → SlotPlan :=
  planScalar 1 (fun a b => a - b) g d a b

/-- `and` (R82). -/
def planAnd (g : Pg) (d a b : BitVec 5) : State → SlotPlan :=
  planScalar 1 (fun a b => a &&& b) g d a b

/-- `or` (R82). -/
def planOr (g : Pg) (d a b : BitVec 5) : State → SlotPlan :=
  planScalar 1 (fun a b => a ||| b) g d a b

/-- `xor` (R82). -/
def planXor (g : Pg) (d a b : BitVec 5) : State → SlotPlan :=
  planScalar 1 (fun a b => a ^^^ b) g d a b

/-- `shl` (R82). -/
def planShl (g : Pg) (d a b : BitVec 5) : State → SlotPlan :=
  planScalar 1 (fun a b => a <<< b.extractLsb' 0 5) g d a b

/-- `shr` (R82). -/
def planShr (g : Pg) (d a b : BitVec 5) : State → SlotPlan :=
  planScalar 1 (fun a b => a >>> b.extractLsb' 0 5) g d a b

/-- `sra` (R82). -/
def planSra (g : Pg) (d a b : BitVec 5) : State → SlotPlan :=
  planScalar 1 (fun a b => a.sshiftRight (b.extractLsb' 0 5).toNat) g d a b

/-- `mul` (R82). -/
def planMul (g : Pg) (d a b : BitVec 5) : State → SlotPlan :=
  planScalar 3 (fun a b => a * b) g d a b

/-- `mulh` (R82). -/
def planMulh (g : Pg) (d a b : BitVec 5) : State → SlotPlan :=
  planScalar 3 (fun a b => BitVec.ofInt 32 (a.toInt * b.toInt / 4294967296)) g d a b

/-- `mulhn` (R82). -/
def planMulhn (g : Pg) (d a b : BitVec 5) : State → SlotPlan :=
  planScalar 3 (fun a b => BitVec.ofNat 32 (a.toNat * b.toNat / 4294967296)) g d a b

/-- `min` (R82). -/
def planMin (g : Pg) (d a b : BitVec 5) : State → SlotPlan :=
  planScalar 1 (fun a b => if a.slt b then a else b) g d a b

/-- `max` (R82). -/
def planMax (g : Pg) (d a b : BitVec 5) : State → SlotPlan :=
  planScalar 1 (fun a b => if a.slt b then b else a) g d a b

/-- `minn` (R82). -/
def planMinn (g : Pg) (d a b : BitVec 5) : State → SlotPlan :=
  planScalar 1 (fun a b => if a.ult b then a else b) g d a b

/-- `maxn` (R82). -/
def planMaxn (g : Pg) (d a b : BitVec 5) : State → SlotPlan :=
  planScalar 1 (fun a b => if a.ult b then b else a) g d a b

/-- `clz` (R82). -/
def planClz (g : Pg) (d a : BitVec 5) : State → SlotPlan := planScalarImm clz32 g d a

/-! ## Immediates (R83, R84) -/

/-- `addi` (R83). -/
def planAddi (g : Pg) (d a : BitVec 5) (imm : BitVec 12) : State → SlotPlan := planScalarImm (fun x => x + imm32 imm) g d a

/-- `andi` (R83). -/
def planAndi (g : Pg) (d a : BitVec 5) (imm : BitVec 12) : State → SlotPlan := planScalarImm (fun x => x &&& imm32 imm) g d a

/-- `ori` (R83). -/
def planOri (g : Pg) (d a : BitVec 5) (imm : BitVec 12) : State → SlotPlan := planScalarImm (fun x => x ||| imm32 imm) g d a

/-- `xori` (R83). -/
def planXori (g : Pg) (d a : BitVec 5) (imm : BitVec 12) : State → SlotPlan := planScalarImm (fun x => x ^^^ imm32 imm) g d a

/-- `shli` (R83). -/
def planShli (g : Pg) (d a : BitVec 5) (count : BitVec 5) : State → SlotPlan := planScalarImm (fun x => x <<< count) g d a

/-- `shri` (R83). -/
def planShri (g : Pg) (d a : BitVec 5) (count : BitVec 5) : State → SlotPlan := planScalarImm (fun x => x >>> count) g d a

/-- `srai` (R83). -/
def planSrai (g : Pg) (d a : BitVec 5) (count : BitVec 5) : State → SlotPlan :=
  planScalarImm (fun x => x.sshiftRight count.toNat) g d a

/-- `li` (R84). -/
def planLi (g : Pg) (d : BitVec 5) (imm : BitVec 17) : State → SlotPlan :=
  guarded .s g (fun _ => { writes := [(1, .scalar d (imm.signExtend 32))] }) nothing

/-- `lui` (R84). -/
def planLui (g : Pg) (d : BitVec 5) (imm : BitVec 17) : State → SlotPlan :=
  guarded .s g (fun _ => { writes := [(1, .scalar d (imm ++ 0#15))] }) nothing

/-! ## Compares and predicate logic (R85, R86) -/

/-- `cmp` (R85). -/
def planCmp (g : Pg) (d : BitVec 3) (a b : BitVec 5) (cond : BitVec 3) : State → SlotPlan :=
  guarded .s g (fun s => { reads := readsS [a, b],
                           writes := [(1, .pred d (condHolds cond (s.curBank.rs a) (s.curBank.rs b)))] }) nothing

/-- `cmpi` (R85). -/
def planCmpi (g : Pg) (d : BitVec 3) (cond : BitVec 2) (a : BitVec 5) (imm : BitVec 12) : State → SlotPlan :=
  guarded .s g (fun s => { reads := readsS [a],
                           writes := [(1, .pred d (condHolds (0#1 ++ cond) (s.curBank.rs a) (imm32 imm)))] }) nothing

/-- An op that reads two predicates and writes a third in one step (R86). -/
def planPred (f : Bool → Bool → Bool) (g : Pg) (d a b : BitVec 3) (s : State) : SlotPlan :=
  guarded .s g (fun s => { reads := readsP [a, b],
                           writes := [(1, .pred d (f (s.curBank.rp a) (s.curBank.rp b)))] }) nothing s

/-- `pand` (R86). -/
def planPand (g : Pg) (d a b : BitVec 3) : State → SlotPlan := planPred (fun x y => x && y) g d a b

/-- `por` (R86). -/
def planPor (g : Pg) (d a b : BitVec 3) : State → SlotPlan := planPred (fun x y => x || y) g d a b

/-- `pxor` (R86). -/
def planPxor (g : Pg) (d a b : BitVec 3) : State → SlotPlan := planPred (fun x y => x != y) g d a b

/-- `pandn` (R86). -/
def planPandn (g : Pg) (d a b : BitVec 3) : State → SlotPlan := planPred (fun x y => x && !y) g d a b

/-! ## Division (R87) -/

/-- Signed quotient, truncated toward zero; all ones by zero (R87). -/
def divS (a b : W32) : W32 := if b = 0 then 0xFFFFFFFF else a.sdiv b
/-- Unsigned quotient; all ones by zero (R87). -/
def divU (a b : W32) : W32 := if b = 0 then 0xFFFFFFFF else a / b
/-- Signed remainder with the sign of the dividend; the dividend by zero (R87). -/
def remS (a b : W32) : W32 := if b = 0 then a else a.srem b
/-- Unsigned remainder; the dividend by zero (R87). -/
def remU (a b : W32) : W32 := if b = 0 then a else a % b

/-- `div` (R87). -/
def planDiv (g : Pg) (d a b : BitVec 5) : State → SlotPlan := planScalar 18 divS g d a b

/-- `divn` (R87). -/
def planDivn (g : Pg) (d a b : BitVec 5) : State → SlotPlan := planScalar 18 divU g d a b

/-- `rem` (R87). -/
def planRem (g : Pg) (d a b : BitVec 5) : State → SlotPlan := planScalar 18 remS g d a b

/-- `remn` (R87). -/
def planRemn (g : Pg) (d a b : BitVec 5) : State → SlotPlan := planScalar 18 remU g d a b

/-! ## Flow (R88-R94) -/

/-- The target of a branch, relative to the bundle that holds it (R52, R89). -/
def branchTarget (pc : Nat) (off : BitVec 22) : Int := pc + off.toInt

/-- BRANGE of a taken branch whose target lies outside the leaf (R52, R89). -/
def targetFault (target : Int) : Option W32 :=
  if 0 ≤ target ∧ target < 0x1000 then none else some (BitVec.ofInt 32 target)

/-- `nop` (R48). -/
def planNop : State → SlotPlan := fun _ => (.s, {})

/-- `br` (R89). -/
def planBr (g : Pg) (off : BitVec 22) : State → SlotPlan :=
  guarded .s g (fun s =>
    let target := branchTarget s.curBank.pc off
    { brange := targetFault target, flow := .taken target.toNat false }) nothing

/-- `call` (R90). -/
def planCall (g : Pg) (off : BitVec 22) : State → SlotPlan :=
  guarded .s g (fun s =>
    let target := branchTarget s.curBank.pc off
    { brange := targetFault target, flow := .taken target.toNat true,
      writes := [(1, .scalar 31 (BitVec.ofNat 32 (s.curBank.pc + 1)))] }) nothing

/-- `jr` (R91). -/
def planJr (g : Pg) (a : BitVec 5) : State → SlotPlan :=
  guarded .s g (fun s =>
    let x := s.curBank.rs a
    { reads := readsS [a], brange := if x.ult 0x1000 then none else some x, flow := .taken x.toNat false }) nothing

/-- BRANGE of a `loop`, whatever its count (R93). -/
def loopFault (pc : Nat) (len : Nat) (ls : List LoopEntry) : Option W32 :=
  let last := pc + len
  if len = 0 then some (BitVec.ofNat 32 pc)
  else if last > 0xFFF then some (BitVec.ofNat 32 last)
  else if ls.length ≥ 2 then some 0xFFFFFFFF
  else
    match ls with
    | e :: _ => if last > e.last then some (BitVec.ofNat 32 last) else none
    | [] => none

/-- `loop` (R92, R93). -/
def planLoop (g : Pg) (a : BitVec 5) (len : BitVec 12) : State → SlotPlan :=
  guarded .s g (fun s =>
    { reads := readsS [a], brange := loopFault s.curBank.pc len.toNat s.curBank.loops,
      flow := .loopIn len.toNat (s.curBank.rs a) }) nothing

/-! ## Spill stack (R95-R97) -/

/-- Number of registers of a range; an empty range when the first lies above the last (R95). -/
def rangeLen (a b : Nat) : Nat := if a ≤ b then b - a + 1 else 0

/-- The check of a push of `bytes` bytes (R97). -/
def pushCheck (c : LeafCtx) (k : Bank) (bytes : Nat) (vector : Bool) : Option FaultInfo :=
  if bytes = 0 then none
  else firstFault
    [ if vector && k.sp.toNat % 64 != 0 then some (faultOf .align k.sp) else none,
      if k.sp.toNat + bytes > k.splim.toNat ∨ k.sp.toNat < k.spbase.toNat then some (faultOf .spill k.sp) else none,
      (c.outside k.sp.toNat bytes).map (fun x => faultOf .srange (BitVec.ofNat 32 x)) ]

/-- The check of a pop of `bytes` bytes (R97). -/
def popCheck (c : LeafCtx) (k : Bank) (bytes : Nat) (vector : Bool) : Option FaultInfo :=
  if bytes = 0 then none
  else firstFault
    [ if vector && k.sp.toNat % 64 != 0 then some (faultOf .align k.sp) else none,
      if k.sp.toNat < k.spbase.toNat + bytes ∨ k.sp.toNat > k.splim.toNat then some (faultOf .spill k.sp) else none,
      (c.outside (k.sp.toNat - bytes) bytes).map (fun x => faultOf .srange (BitVec.ofNat 32 x)) ]

/-- The write of SP by a stack op, one step later (R95, R99). -/
def spWrite (n : Nat) (sp : Nat) : List (Nat × PVal) := if n = 0 then [] else [(1, .sreg 0x007 (BitVec.ofNat 32 sp))]

/-- ECC of a scratch line that a `popm` or `vpopm` reads (R97). -/
def popEcc (s : State) (base bytes : Nat) : Option FaultInfo :=
  if bytes = 0 then none
  else (s.scratchEcc base bytes).map (fun l => faultOf .ecc (BitVec.ofNat 32 l))

/-- `pushm` (R95). -/
def planPushm (g : Pg) (a b : BitVec 5) : State → SlotPlan :=
  guarded .s g (fun s =>
    let n := rangeLen a.toNat b.toNat
    let k := s.curBank
    let regs := (List.range n).map (fun i => BitVec.ofNat 5 (a.toNat + i))
    { reads := readsS regs, check := pushCheck s.curCtx k (4 * n) false,
      writes := spWrite n (k.sp.toNat + 4 * n),
      act := if n = 0 then id else fun x => x.onCurTile (fun t =>
        t.putScratch k.sp.toNat (4 * n) (packNat 32 (fun i => (k.rs (BitVec.ofNat 5 (a.toNat + i))).toNat) n)) }) nothing

/-- `vpushm` (R95). -/
def planVpushm (g : Pg) (a b : BitVec 4) : State → SlotPlan :=
  guarded .s g (fun s =>
    let n := rangeLen a.toNat b.toNat
    let k := s.curBank
    let regs := (List.range n).map (fun i => BitVec.ofNat 4 (a.toNat + i))
    { reads := readsV regs, check := pushCheck s.curCtx k (64 * n) true,
      writes := spWrite n (k.sp.toNat + 64 * n),
      act := if n = 0 then id else fun x => x.onCurTile (fun t =>
        t.putScratch k.sp.toNat (64 * n) (packNat 512 (fun i => (k.rv (BitVec.ofNat 4 (a.toNat + i))).toNat) n)) }) nothing

/-- `popm` (R95). -/
def planPopm (g : Pg) (a b : BitVec 5) : State → SlotPlan :=
  guarded .s g (fun s =>
    let n := rangeLen a.toNat b.toNat
    let base := s.curBank.sp.toNat - 4 * n
    { check := popCheck s.curCtx s.curBank (4 * n) false, late := popEcc s base (4 * n),
      writes := (List.range n).map (fun i =>
          (1, PVal.scalar (BitVec.ofNat 5 (a.toNat + i)) (s.curTile.scratch.readW32 (base + 4 * i)))) ++
        spWrite n base }) nothing

/-- `vpopm` (R95). -/
def planVpopm (g : Pg) (a b : BitVec 4) : State → SlotPlan :=
  guarded .s g (fun s =>
    let n := rangeLen a.toNat b.toNat
    let base := s.curBank.sp.toNat - 64 * n
    { check := popCheck s.curCtx s.curBank (64 * n) true, late := popEcc s base (64 * n),
      writes := (List.range n).map (fun i =>
          (1, PVal.vec (BitVec.ofNat 4 (a.toNat + i)) (s.curTile.scratch.readVec (base + 64 * i)))) ++
        spWrite n base }) nothing

/-! ## State registers (R98, R99) -/

/-- `rdsr` (R98). -/
def planRdsr (g : Pg) (d : BitVec 5) (num : BitVec 12) : State → SlotPlan :=
  guarded .s g (fun s => { writes := [(2, .scalar d (s.readSr num))] }) nothing

/-- `wrsr` (R99). -/
def planWrsr (g : Pg) (a : BitVec 5) (num : BitVec 12) : State → SlotPlan :=
  guarded .s g (fun s =>
    let x := s.curBank.rs a
    { reads := readsS [a], writes := if num = 0x010 then [(1, .mask x)] else if srWritable num then [(1, .sreg num x)] else [],
      act := if num = 0x010 then fun y => y.maskNext (x.extractLsb' 0 16) else id }) nothing

/-! ## Ends (R100, R101) -/

/-- `yield` (R100). -/
def planYield (g : Pg) : State → SlotPlan := guarded .s g (fun _ => { flow := .yield }) nothing

/-- `halt` (R100). -/
def planHalt (g : Pg) : State → SlotPlan := guarded .s g (fun _ => { flow := .halt }) nothing

/-- `trap` (R101). -/
def planTrap (g : Pg) (code : BitVec 12) : State → SlotPlan := guarded .s g (fun _ => { flow := .trap code }) nothing

/-! ## Meanings: each issues the op alone in its bundle -/

/-- The meaning of `add` (R82). -/
def execAdd (g : Pg) (d a b : BitVec 5) (s : State) : Host.Outcome State Fault Refusal :=
  issueOne (planAdd g d a b) s

/-- The meaning of `sub` (R82). -/
def execSub (g : Pg) (d a b : BitVec 5) (s : State) : Host.Outcome State Fault Refusal :=
  issueOne (planSub g d a b) s

/-- The meaning of `and` (R82). -/
def execAnd (g : Pg) (d a b : BitVec 5) (s : State) : Host.Outcome State Fault Refusal :=
  issueOne (planAnd g d a b) s

/-- The meaning of `or` (R82). -/
def execOr (g : Pg) (d a b : BitVec 5) (s : State) : Host.Outcome State Fault Refusal :=
  issueOne (planOr g d a b) s

/-- The meaning of `xor` (R82). -/
def execXor (g : Pg) (d a b : BitVec 5) (s : State) : Host.Outcome State Fault Refusal :=
  issueOne (planXor g d a b) s

/-- The meaning of `shl` (R82). -/
def execShl (g : Pg) (d a b : BitVec 5) (s : State) : Host.Outcome State Fault Refusal :=
  issueOne (planShl g d a b) s

/-- The meaning of `shr` (R82). -/
def execShr (g : Pg) (d a b : BitVec 5) (s : State) : Host.Outcome State Fault Refusal :=
  issueOne (planShr g d a b) s

/-- The meaning of `sra` (R82). -/
def execSra (g : Pg) (d a b : BitVec 5) (s : State) : Host.Outcome State Fault Refusal :=
  issueOne (planSra g d a b) s

/-- The meaning of `mul` (R82). -/
def execMul (g : Pg) (d a b : BitVec 5) (s : State) : Host.Outcome State Fault Refusal :=
  issueOne (planMul g d a b) s

/-- The meaning of `mulh` (R82). -/
def execMulh (g : Pg) (d a b : BitVec 5) (s : State) : Host.Outcome State Fault Refusal :=
  issueOne (planMulh g d a b) s

/-- The meaning of `mulhn` (R82). -/
def execMulhn (g : Pg) (d a b : BitVec 5) (s : State) : Host.Outcome State Fault Refusal :=
  issueOne (planMulhn g d a b) s

/-- The meaning of `min` (R82). -/
def execMin (g : Pg) (d a b : BitVec 5) (s : State) : Host.Outcome State Fault Refusal :=
  issueOne (planMin g d a b) s

/-- The meaning of `max` (R82). -/
def execMax (g : Pg) (d a b : BitVec 5) (s : State) : Host.Outcome State Fault Refusal :=
  issueOne (planMax g d a b) s

/-- The meaning of `minn` (R82). -/
def execMinn (g : Pg) (d a b : BitVec 5) (s : State) : Host.Outcome State Fault Refusal :=
  issueOne (planMinn g d a b) s

/-- The meaning of `maxn` (R82). -/
def execMaxn (g : Pg) (d a b : BitVec 5) (s : State) : Host.Outcome State Fault Refusal :=
  issueOne (planMaxn g d a b) s

/-- The meaning of `clz` (R82). -/
def execClz (g : Pg) (d a : BitVec 5) (s : State) : Host.Outcome State Fault Refusal :=
  issueOne (planClz g d a) s

/-- The meaning of `addi` (R83). -/
def execAddi (g : Pg) (d a : BitVec 5) (imm : BitVec 12) (s : State) : Host.Outcome State Fault Refusal :=
  issueOne (planAddi g d a imm) s

/-- The meaning of `andi` (R83). -/
def execAndi (g : Pg) (d a : BitVec 5) (imm : BitVec 12) (s : State) : Host.Outcome State Fault Refusal :=
  issueOne (planAndi g d a imm) s

/-- The meaning of `ori` (R83). -/
def execOri (g : Pg) (d a : BitVec 5) (imm : BitVec 12) (s : State) : Host.Outcome State Fault Refusal :=
  issueOne (planOri g d a imm) s

/-- The meaning of `xori` (R83). -/
def execXori (g : Pg) (d a : BitVec 5) (imm : BitVec 12) (s : State) : Host.Outcome State Fault Refusal :=
  issueOne (planXori g d a imm) s

/-- The meaning of `shli` (R83). -/
def execShli (g : Pg) (d a : BitVec 5) (count : BitVec 5) (s : State) : Host.Outcome State Fault Refusal :=
  issueOne (planShli g d a count) s

/-- The meaning of `shri` (R83). -/
def execShri (g : Pg) (d a : BitVec 5) (count : BitVec 5) (s : State) : Host.Outcome State Fault Refusal :=
  issueOne (planShri g d a count) s

/-- The meaning of `srai` (R83). -/
def execSrai (g : Pg) (d a : BitVec 5) (count : BitVec 5) (s : State) : Host.Outcome State Fault Refusal :=
  issueOne (planSrai g d a count) s

/-- The meaning of `li` (R84). -/
def execLi (g : Pg) (d : BitVec 5) (imm : BitVec 17) (s : State) : Host.Outcome State Fault Refusal :=
  issueOne (planLi g d imm) s

/-- The meaning of `lui` (R84). -/
def execLui (g : Pg) (d : BitVec 5) (imm : BitVec 17) (s : State) : Host.Outcome State Fault Refusal :=
  issueOne (planLui g d imm) s

/-- The meaning of `cmp` (R85). -/
def execCmp (g : Pg) (d : BitVec 3) (a b : BitVec 5) (cond : BitVec 3) (s : State) : Host.Outcome State Fault Refusal :=
  issueOne (planCmp g d a b cond) s

/-- The meaning of `cmpi` (R85). -/
def execCmpi (g : Pg) (d : BitVec 3) (cond : BitVec 2) (a : BitVec 5) (imm : BitVec 12) (s : State) : Host.Outcome State Fault Refusal :=
  issueOne (planCmpi g d cond a imm) s

/-- The meaning of `pand` (R86). -/
def execPand (g : Pg) (d a b : BitVec 3) (s : State) : Host.Outcome State Fault Refusal :=
  issueOne (planPand g d a b) s

/-- The meaning of `por` (R86). -/
def execPor (g : Pg) (d a b : BitVec 3) (s : State) : Host.Outcome State Fault Refusal :=
  issueOne (planPor g d a b) s

/-- The meaning of `pxor` (R86). -/
def execPxor (g : Pg) (d a b : BitVec 3) (s : State) : Host.Outcome State Fault Refusal :=
  issueOne (planPxor g d a b) s

/-- The meaning of `pandn` (R86). -/
def execPandn (g : Pg) (d a b : BitVec 3) (s : State) : Host.Outcome State Fault Refusal :=
  issueOne (planPandn g d a b) s

/-- The meaning of `div` (R87). -/
def execDiv (g : Pg) (d a b : BitVec 5) (s : State) : Host.Outcome State Fault Refusal :=
  issueOne (planDiv g d a b) s

/-- The meaning of `divn` (R87). -/
def execDivn (g : Pg) (d a b : BitVec 5) (s : State) : Host.Outcome State Fault Refusal :=
  issueOne (planDivn g d a b) s

/-- The meaning of `rem` (R87). -/
def execRem (g : Pg) (d a b : BitVec 5) (s : State) : Host.Outcome State Fault Refusal :=
  issueOne (planRem g d a b) s

/-- The meaning of `remn` (R87). -/
def execRemn (g : Pg) (d a b : BitVec 5) (s : State) : Host.Outcome State Fault Refusal :=
  issueOne (planRemn g d a b) s

/-- The meaning of `nop` (R48). -/
def execNop (s : State) : Host.Outcome State Fault Refusal :=
  issueOne (planNop) s

/-- The meaning of `br` (R89). -/
def execBr (g : Pg) (off : BitVec 22) (s : State) : Host.Outcome State Fault Refusal :=
  issueOne (planBr g off) s

/-- The meaning of `call` (R90). -/
def execCall (g : Pg) (off : BitVec 22) (s : State) : Host.Outcome State Fault Refusal :=
  issueOne (planCall g off) s

/-- The meaning of `jr` (R91). -/
def execJr (g : Pg) (a : BitVec 5) (s : State) : Host.Outcome State Fault Refusal :=
  issueOne (planJr g a) s

/-- The meaning of `loop` (R92, R93). -/
def execLoop (g : Pg) (a : BitVec 5) (len : BitVec 12) (s : State) : Host.Outcome State Fault Refusal :=
  issueOne (planLoop g a len) s

/-- The meaning of `pushm` (R95). -/
def execPushm (g : Pg) (a b : BitVec 5) (s : State) : Host.Outcome State Fault Refusal :=
  issueOne (planPushm g a b) s

/-- The meaning of `vpushm` (R95). -/
def execVpushm (g : Pg) (a b : BitVec 4) (s : State) : Host.Outcome State Fault Refusal :=
  issueOne (planVpushm g a b) s

/-- The meaning of `popm` (R95). -/
def execPopm (g : Pg) (a b : BitVec 5) (s : State) : Host.Outcome State Fault Refusal :=
  issueOne (planPopm g a b) s

/-- The meaning of `vpopm` (R95). -/
def execVpopm (g : Pg) (a b : BitVec 4) (s : State) : Host.Outcome State Fault Refusal :=
  issueOne (planVpopm g a b) s

/-- The meaning of `rdsr` (R98). -/
def execRdsr (g : Pg) (d : BitVec 5) (num : BitVec 12) (s : State) : Host.Outcome State Fault Refusal :=
  issueOne (planRdsr g d num) s

/-- The meaning of `wrsr` (R99). -/
def execWrsr (g : Pg) (a : BitVec 5) (num : BitVec 12) (s : State) : Host.Outcome State Fault Refusal :=
  issueOne (planWrsr g a num) s

/-- The meaning of `yield` (R100). -/
def execYield (g : Pg) (s : State) : Host.Outcome State Fault Refusal :=
  issueOne (planYield g) s

/-- The meaning of `halt` (R100). -/
def execHalt (g : Pg) (s : State) : Host.Outcome State Fault Refusal :=
  issueOne (planHalt g) s

/-- The meaning of `trap` (R101). -/
def execTrap (g : Pg) (code : BitVec 12) (s : State) : Host.Outcome State Fault Refusal :=
  issueOne (planTrap g code) s

end Sys2Proof.Machine
end

