-- ==== Sys2Proof/Machine/Plans.lean ====
section
/-!
DEFINITION. The plan of every tile op: what the op asks for when it issues in a bundle (R44, R59-R61). A control-core
instruction or an event has none. The bundle that a bank holds, and what it waits for (R42, R43, R367).
-/
namespace Sys2Proof.Machine

/-- The plan of a tile op. -/
def planOf (i : Instr) : Option (State → SlotPlan) :=
  match i with
  | .nop => some (planNop)
  | .add g d a b => some (planAdd g d a b)
  | .sub g d a b => some (planSub g d a b)
  | .and g d a b => some (planAnd g d a b)
  | .or g d a b => some (planOr g d a b)
  | .xor g d a b => some (planXor g d a b)
  | .shl g d a b => some (planShl g d a b)
  | .shr g d a b => some (planShr g d a b)
  | .sra g d a b => some (planSra g d a b)
  | .mul g d a b => some (planMul g d a b)
  | .mulh g d a b => some (planMulh g d a b)
  | .mulhn g d a b => some (planMulhn g d a b)
  | .min g d a b => some (planMin g d a b)
  | .max g d a b => some (planMax g d a b)
  | .minn g d a b => some (planMinn g d a b)
  | .maxn g d a b => some (planMaxn g d a b)
  | .clz g d a => some (planClz g d a)
  | .cmp g d a b cond => some (planCmp g d a b cond)
  | .addi g d a imm => some (planAddi g d a imm)
  | .andi g d a imm => some (planAndi g d a imm)
  | .ori g d a imm => some (planOri g d a imm)
  | .xori g d a imm => some (planXori g d a imm)
  | .shli g d a count => some (planShli g d a count)
  | .shri g d a count => some (planShri g d a count)
  | .srai g d a count => some (planSrai g d a count)
  | .cmpi g d cond a imm => some (planCmpi g d cond a imm)
  | .li g d imm => some (planLi g d imm)
  | .lui g d imm => some (planLui g d imm)
  | .pand g d a b => some (planPand g d a b)
  | .por g d a b => some (planPor g d a b)
  | .pxor g d a b => some (planPxor g d a b)
  | .pandn g d a b => some (planPandn g d a b)
  | .div g d a b => some (planDiv g d a b)
  | .divn g d a b => some (planDivn g d a b)
  | .rem g d a b => some (planRem g d a b)
  | .remn g d a b => some (planRemn g d a b)
  | .br g off => some (planBr g off)
  | .call g off => some (planCall g off)
  | .jr g a => some (planJr g a)
  | .loop g a len => some (planLoop g a len)
  | .pushm g a b => some (planPushm g a b)
  | .popm g a b => some (planPopm g a b)
  | .vpushm g a b => some (planVpushm g a b)
  | .vpopm g a b => some (planVpopm g a b)
  | .rdsr g d num => some (planRdsr g d num)
  | .wrsr g a num => some (planWrsr g a num)
  | .yield g => some (planYield g)
  | .halt g => some (planHalt g)
  | .trap g code => some (planTrap g code)
  | .vadd g d a b t m => some (planVadd g d a b t m)
  | .vsub g d a b t m => some (planVsub g d a b t m)
  | .vmul g d a b t m => some (planVmul g d a b t m)
  | .vfma g d a b t m => some (planVfma g d a b t m)
  | .vmin g d a b t => some (planVmin g d a b t)
  | .vmax g d a b t => some (planVmax g d a b t)
  | .vabs g d a t sat => some (planVabs g d a t sat)
  | .vneg g d a t sat => some (planVneg g d a t sat)
  | .vand g d a b t => some (planVand g d a b t)
  | .vor g d a b t => some (planVor g d a b t)
  | .vxor g d a b t => some (planVxor g d a b t)
  | .vshl g d a b t => some (planVshl g d a b t)
  | .vshr g d a b t => some (planVshr g d a b t)
  | .vcvt g d a src dst ovf m => some (planVcvt g d a src dst ovf m)
  | .vcmp g d a b t cond => some (planVcmp g d a b t cond)
  | .vsel g d a b c => some (planVsel g d a b c)
  | .vbcast g d a t => some (planVbcast g d a t)
  | .vext g d a b t => some (planVext g d a b t)
  | .vins g d a b t => some (planVins g d a b t)
  | .vperm g d a b t => some (planVperm g d a b t)
  | .vred g d a t fn rnd => some (planVred g d a t fn rnd)
  | .vscan g d a t fn rnd => some (planVscan g d a t fn rnd)
  | .vfn g d a fn => some (planVfn g d a fn)
  | .vdot g d a b t m => some (planVdot g d a b t m)
  | .vedge g d a b m => some (planVedge g d a b m)
  | .vbary g d a b m => some (planVbary g d a b m)
  | .vdedup g d a b => some (planVdedup g d a b)
  | .vblend g d a b t fn => some (planVblend g d a b t fn)
  | .vdepth g d a b t m => some (planVdepth g d a b t m)
  | .vrbox g d a b => some (planVrbox g d a b)
  | .vrtri g d a b m => some (planVrtri g d a b m)
  | .vsort g d a b m => some (planVsort g d a b m)
  | .vcomp g d a b m => some (planVcomp g d a b m)
  | .vsig g d a b => some (planVsig g d a b)
  | .vsigChk g d a b => some (planVsigChk g d a b)
  | .mlat g a t latch gather => some (planMlat g a t latch gather)
  | .mlatc g ch t latch => some (planMlatc g ch t latch)
  | .mma g d t bt => some (planMma g d t bt)
  | .mzero g d => some (planMzero g d)
  | .mdrain g d u sh steer => some (planMdrain g d u sh steer)
  | .msav g d a => some (planMsav g d a)
  | .mrst g d a => some (planMrst g d a)
  | .msync g => some (planMsync g)
  | .cmap g k a => some (planCmap g k a)
  | .cdif g k a => some (planCdif g k a)
  | .cact g h a t sc => some (planCact g h a t sc)
  | .cstep g d k h => some (planCstep g d k h)
  | .cclr g d => some (planCclr g d)
  | .cout g d a b hi h m => some (planCout g d a b hi h m)
  | .csav g d a => some (planCsav g d a)
  | .crst g d a => some (planCrst g d a)
  | .pop g ch d cap => some (planPop g ch d cap)
  | .peek g ch d k cap => some (planPeek g ch d k cap)
  | .pops g ch d e => some (planPops g ch d e)
  | .hdr g ch d => some (planHdr g ch d)
  | .adv g ch n => some (planAdv g ch n)
  | .waitf g ch n => some (planWaitf g ch n)
  | .push g ch a => some (planPush g ch a)
  | .poke g ch a k => some (planPoke g ch a k)
  | .pub g ch n => some (planPub g ch n)
  | .waite g ch n => some (planWaite g ch n)
  | .pushs g ch a e => some (planPushs g ch a e)
  | .null g ch => some (planNull g ch)
  | .markRe g ch a => some (planMarkRe g ch a)
  | .markEos g ch a => some (planMarkEos g ch a)
  | .lds g d b imm => some (planLds g d b imm)
  | .sts g d b imm => some (planSts g d b imm)
  | .ldsw g d b imm => some (planLdsw g d b imm)
  | .stsw g d b imm => some (planStsw g d b imm)
  | .ldg g ch pair imm => some (planLdg g ch pair imm)
  | .stg g d pair imm => some (planStg g d pair imm)
  | .ldw g ch b imm => some (planLdw g ch b imm)
  | .amo g pair b fn ret => some (planAmo g pair b fn ret)
  | .fence g scope => some (planFence g scope)
  | .bar g scope => some (planBar g scope)
  | .umen g a b => some (planUmen g a b)
  | .umlv g a => some (planUmlv g a)
  | .umsk g a b => some (planUmsk g a b)
  | .umini g a b => some (planUmini g a b)
  | .umabt g a => some (planUmabt g a)
  | .arm g pair b => some (planArm g pair b)
  | .fire g d a b => some (planFire g d a b)
  | .cfgt g ch a b => some (planCfgt g ch a b)
  | .send g b cls tag => some (planSend g b cls tag)
  | .cmask g cls => some (planCmask g cls)
  | .cunm g cls => some (planCunm g cls)
  | .redc g d pair imm => some (planRedc g d pair imm)
  | .fillc g d pair imm => some (planFillc g d pair imm)
  | .lnch g a range ret => some (planLnch g a range ret)
  | .ccAdd _ _ _ => none
  | .ccSub _ _ _ => none
  | .ccAnd _ _ _ => none
  | .ccOr _ _ _ => none
  | .ccXor _ _ _ => none
  | .ccShl _ _ _ => none
  | .ccShr _ _ _ => none
  | .ccSra _ _ _ => none
  | .ccSlt _ _ _ => none
  | .ccSltn _ _ _ => none
  | .ccMul _ _ _ => none
  | .ccAddi _ _ _ => none
  | .ccAndi _ _ _ => none
  | .ccOri _ _ _ => none
  | .ccXori _ _ _ => none
  | .ccShli _ _ _ => none
  | .ccShri _ _ _ => none
  | .ccSrai _ _ _ => none
  | .ccSlti _ _ _ => none
  | .ccLui _ _ => none
  | .ccLdD _ _ _ => none
  | .ccLdW _ _ _ => none
  | .ccLdB _ _ _ => none
  | .ccStD _ _ _ => none
  | .ccStW _ _ _ => none
  | .ccStB _ _ _ => none
  | .ccBeq _ _ _ => none
  | .ccBne _ _ _ => none
  | .ccBlt _ _ _ => none
  | .ccBge _ _ _ => none
  | .ccBltn _ _ _ => none
  | .ccBgen _ _ _ => none
  | .ccJal _ _ => none
  | .ccJalr _ _ _ => none
  | .csrr _ _ => none
  | .csrw _ _ => none
  | .eret => none
  | .wfe => none
  | .tinv _ _ _ => none
  | .cfgw _ _ _ => none
  | .tload _ _ => none
  | .tsr _ _ => none
  | .tsw _ _ => none
  | .frd _ _ => none
  | .frzFreeze _ _ _ => none
  | .frzSwapOut _ _ _ => none
  | .frzSwapOutMemory _ _ _ => none
  | .frzKill _ _ _ => none
  | .thwThaw _ _ _ => none
  | .thwRestore _ _ _ => none
  | .thwRestoreMemory _ _ _ => none
  | .gtw _ _ => none
  | .wfeEnd _ => none
  | .timerExpiry _ => none
  | .msgWrite _ => none
  | .registerWrite _ _ => none
  | .actorFiring _ => none
  | .classHandlerStart _ => none
  | .bankBecomesIdle _ _ => none
  | .pendingWriteLanding _ _ => none
  | .asyncReportArrival _ => none
  | .freezeReachesBank _ _ _ => none
  | .bstatResumeWrite _ _ _ => none
  | .tokenArrival _ _ _ => none
  | .faultDrainArrival _ _ _ => none
  | .preEmptMarkerArrival _ _ _ => none
  | .slotReleaseArrival _ => none
  | .tokenHop _ _ _ => none
  | .bridgeCrossing _ _ => none
  | .classPacketHop _ _ _ => none
  | .classPacketArrival _ _ => none
  | .msEntryStart _ => none
  | .msEntryEnd _ _ => none
  | .mlatcTokenTake _ _ => none
  | .mdrainTokenPublish _ _ => none
  | .cactRunEnd _ => none
  | .memoryPortSend _ => none
  | .portQueueDispatch _ _ => none
  | .pageWalk _ _ => none
  | .sramBankAccess _ => none
  | .responseDelivery _ _ => none
  | .l2Request _ _ => none
  | .l2FillArrival _ => none
  | .gddr7WriteAccept _ => none
  | .gatewayRequest _ => none
  | .gatewayInvalidation _ => none
  | .hostReadCompletion _ _ => none
  | .hostCompletionTimeout _ => none
  | .weightStoreRead _ => none
  | .weightStoreRefresh _ => none
  | .writeAcknowledgement _ => none
  | .ownerRequest _ => none
  | .amoApply _ => none
  | .fillcAtOwner _ => none
  | .redcAtOwner _ => none
  | .readyTokenDelivery _ => none
  | .counterTimeout _ _ _ => none
  | .umbraEnterAtHost _ => none
  | .umbraLeaveAtHost _ => none
  | .umbraSkipAtHost _ => none
  | .umbraInitAtHost _ => none
  | .umbraGrantArrival _ => none
  | .umbraRefusalRetry _ _ => none
  | .umbstall _ _ _ _ => none
  | .deadlockProbeAnswer _ => none
  | .umrelWrite _ _ _ => none
  | .templateQueueHead _ _ _ => none
  | .copyRunStart _ _ _ => none
  | .copyBeat _ _ _ => none
  | .copyChunkAck _ => none
  | .completionTokenPublish _ _ _ => none
  | .armAtMemoryTile _ => none
  | .fireTokenEnqueue _ => none
  | .tplfireWrite _ _ _ _ _ => none
  | .tplstWrite _ _ _ _ => none
  | .edgeBufferPass _ _ _ => none
  | .edgeBufferRelease _ _ _ => none
  | .barrierEpisodeComplete _ _ _ => none
  | .entryStart => none
  | .indexTokenPublish _ => none
  | .dieShareReport _ _ => none
  | .graphEnd _ => none
  | .launchAtMaster _ => none
  | .notifyTokenDelivery _ => none
  | .masterElection => none
  | .millinerSample _ _ => none
  | .tileActivation _ _ => none
  | .tileDeactivation _ _ => none
  | .elasticQueuePass _ _ => none
  | .swapDecision _ _ => none
  | .tileSave _ _ => none
  | .swapComplete _ => none
  | .restoreAtTile _ _ => none
  | .noticeRecordWrite _ _ => none
  | .nqsizeWrite _ _ _ => none
  | .tinvAcknowledgement _ => none
  | .heldWriteRetranslate _ => none
  | .counterIncrement _ => none
  | .doorbellWrite _ => none
  | .pwrTargetWrite _ => none
  | .powerStateChangeComplete => none
  | .fenceWrite _ => none
  | .dierstWrite _ => none
  | .moduleReset => none
  | .attctlGoWrite => none
  | .attnonceWrite _ _ => none
  | .attestationReportDone => none
  | .tempAlarm _ _ => none
  | .hostBar4Access _ => none
  | .launchWindowWrite _ _ => none
  | .linkFlitReceive _ _ => none
  | .linkRetrainComplete _ => none
  | .powerRemoval => none
  | .firmwareCheckEnd _ => none
  | .umbraHostMarker _ _ => none

/-! ## Bundles (R42, R43, R59) -/

/-- The four slots of a bundle in checking order (R59). -/
def tileSlots : List Slot := [.s, .v, .m, .c]

/-- The bundle at an address of a program leaf (R42, R43). -/
def State.bundleAt (s : State) (t : Site) (l : Leaf) (a : Nat) : Bundle :=
  BitVec.ofNat 128 ((s.tile t).prog[l].readNat (16 * a) 16)

/-- The bundle that the issuing bank holds. -/
def State.curBundle (s : State) : Bundle := s.bundleAt s.cur.tile s.curLeaf s.curBank.pc

/-- The first slot of a bundle whose word faults ILLOP (R59, R60). -/
def illSlot (w : Bundle) : Option Slot := tileSlots.find? (fun k => (decodeSlot k (bundleWord w k)).isNone)

/-- The plans of the four ops of a bundle, by the registers of the issuing bank. -/
def bundlePlans (w : Bundle) (s : State) : List SlotPlan :=
  tileSlots.filterMap (fun k => ((decodeSlot k (bundleWord w k)).bind planOf).map (fun p => p s))

/-- The state with the bank of a tile as the one that issues. -/
def State.atBank (s : State) (t : Site) (b : BankId) : State := { s with cur := { s.cur with tile := t, bank := b } }

/-- WAIT of BSTAT for a bank in the present cycle: what keeps the bundle that it holds from issuing, when its issue checks
pass and some op of it waits (R61, R367). A saved context keeps what its banks waited for. -/
def State.waitNow (s0 : State) (t : Site) (l : Leaf) (b : BankId) : BitVec 4 :=
  let k0 := s0.bank t l b
  if (s0.tile t).running ≠ l ∨ (s0.ctx t l).saved then k0.wait
  else
    let s := (s0.atBank t b).settle
    let k := s.curBank
    let ps := bundlePlans s.curBundle s
    if k.life ≠ .running ∨ k.faulted ∨ k.frozen ∨ k.emptyStep ∨ k.ending.isSome ∨ k.arrived.isSome ∨ k.umWait.isSome then 0
    else if 0x1000 ≤ k.pc ∨ (illSlot s.curBundle).isSome ∨ ps.any (fun q => q.2.brange.isSome) ∨
        (wclash k.pending ps).isSome ∨ !k.checked ∧ (s.phase1 ps).isSome then 0
    else ((ps.find? (fun q => !q.2.ready)).map (fun q => q.2.wait)).getD 0

/-- A bank as BSTAT and the image show it, with its present WAIT (R356, R367). -/
def State.shownBank (s : State) (t : Site) (l : Leaf) (b : BankId) : Bank := { s.bank t l b with wait := s.waitNow t l b }

end Sys2Proof.Machine
end

