-- ==== Sys2Proof/Machine/Image.lean ====
section
/-!
DEFINITION. The context image of a program leaf (R356) as words: what a control core reads and writes at a byte offset of
the 64 KiB record, and the context area at the top of the scratch share. The record is a view of the structured context;
where R356 names contents without their places, the places are log 10's.
-/
namespace Sys2Proof.Machine

/-- A 32-bit field of a wide value. -/
def wordOf {n : Nat} (x : BitVec n) (i : Nat) : W32 := getF x 32 i

/-- A truth value as a word. -/
def word1 (b : Bool) : W32 := if b then 1 else 0

/-! ## Bank record (R356) -/

/-- The status word of a bank record: BSTAT, the wait of its bundle, and the scope of the barrier in which the bank has arrived,
plus 1 (log 10). -/
def Bank.statusWord (k : Bank) : W32 :=
  let arrived : BitVec 4 := match k.arrived with
    | some x => x.setWidth 4 + 1
    | none => 0
  k.bstat ||| (k.wait.setWidth 32) ||| (arrived.setWidth 32 <<< 20)

/-- A loop entry as words: start and end, then left (log 10). -/
def Bank.loopWord (k : Bank) (i : Nat) (left : Bool) : W32 :=
  match k.loops[i]? with
  | some e => if left then e.left else BitVec.ofNat 16 e.last ++ BitVec.ofNat 16 e.start
  | none => 0

/-- The awaited grant of a bank. -/
def Bank.waitWord (k : Bank) (j : Nat) : W32 :=
  match k.umWait with
  | some g => if j = 0 then g.key else if j = 1 then g.seq else BitVec.ofNat 32 g.slot.val
  | none => 0

/-- Words 0x080-0x0FC of a bank record (R356, log 10). -/
def Bank.flowWord (k : Bank) (i : Nat) : W32 :=
  if i = 0 then BitVec.ofNat 32 k.pc
  else if i = 1 then k.step
  else if i = 2 then ofFields 32 1 (fun j => BitVec.ofBool (if j = 0 then true else k.p.toList.getD j false)) 8
  else if i = 3 then k.rmode.setWidth 32
  else if i = 4 then k.sp
  else if i = 5 then k.othr
  else if i = 6 then k.seqst
  else if i = 7 then k.umbh
  else if i = 8 then k.round.setWidth 32
  else if i = 9 then k.fltc.setWidth 32
  else if i = 10 then k.flta
  else if i = 11 then k.fltb
  else if i = 12 then k.gdepth.setWidth 32
  else if i = 13 then BitVec.ofNat 32 k.loops.length
  else if i = 14 then k.loopWord 0 false
  else if i = 15 then k.loopWord 0 true
  else if i = 16 then k.loopWord 1 false
  else if i = 17 then k.loopWord 1 true
  else if i = 18 then k.statusWord
  else if i = 19 then k.waitWord 0
  else if i = 20 then k.waitWord 1
  else if i = 21 then k.waitWord 2
  else if i = 22 then k.spbase
  else if i = 23 then k.splim
  else if i = 24 then k.fltx.extractLsb' 0 32
  else if i = 25 then k.fltx.extractLsb' 32 32
  else 0

/-- A held-key slot as four words: key, sequence, valid and poison (log 10). -/
def Bank.heldWord (k : Bank) (i : Nat) : W32 :=
  let h := k.held.toList.getD (i / 4) {}
  if i % 4 = 0 then h.key
  else if i % 4 = 1 then h.seq
  else if i % 4 = 2 then word1 h.valid ||| (word1 (k.psn.getLsbD (i / 4)) <<< 1)
  else 0

/-- Word i of a batt register in the layout of R219. -/
def Batt.halfWord (x : Batt) (i : Nat) : W32 := wordOf (x.word (i / 2)) (i % 2)

/-- The word at a byte offset of a bank record (R356). -/
def Bank.recordWord (k : Bank) (o : Nat) : W32 :=
  if o < 0x80 then k.rs (BitVec.ofNat 5 (o / 4))
  else if o < 0x100 then k.flowWord ((o - 0x80) / 4)
  else if o < 0x140 then k.heldWord ((o - 0x100) / 4)
  else if o < 0x180 then word1 (k.ak.toList.getD ((o - 0x140) / 4) false)
  else if o < 0x580 then wordOf (k.rv (BitVec.ofNat 4 ((o - 0x180) / 64))) (o % 64 / 4)
  else if o < 0x980 then (k.rb (BitVec.ofNat 2 ((o - 0x580) / 256))).halfWord ((o - 0x580) % 256 / 4)
  else if o < 0x2980 then wordOf (k.acc[(Fin.ofNat 2 ((o - 0x980) / 4096))]) ((o - 0x980) % 4096 / 4)
  else k.pendArea.readW32 (o - 0x2980)

/-- LIFE from its code (R367). -/
def lifeOf (x : BitVec 2) : Life := if x = 0 then .idle else if x = 1 then .running else .retired

/-- The status word of a bank record written. -/
def Bank.setStatus (k : Bank) (v : W32) : Bank :=
  { k with life := lifeOf (v.extractLsb' 8 2), faulted := v.getLsbD 7, frozen := v.getLsbD 6, wait := v.extractLsb' 0 4,
           arrived := if v.extractLsb' 20 4 = 0 then none else some ((v.extractLsb' 20 4 - 1).setWidth 3) }

/-- A word of the loop stack written. -/
def Bank.setLoop (k : Bank) (i : Nat) (left : Bool) (v : W32) : Bank :=
  { k with loops := k.loops.mapIdx (fun j e =>
      if j = i then
        (if left then { e with left := v } else { e with start := (v.extractLsb' 0 16).toNat, last := (v.extractLsb' 16 16).toNat })
      else e) }

/-- A word of the awaited grant written. -/
def Bank.setWaitWord (k : Bank) (j : Nat) (v : W32) : Bank :=
  { k with umWait := k.umWait.map (fun g =>
      if j = 0 then { g with key := v } else if j = 1 then { g with seq := v }
      else { g with slot := (v.extractLsb' 0 2).toFin }) }

/-- The valid bits of the held-key slots (R292). -/
def Bank.setHeldBits (k : Bank) (v : BitVec 4) : Bank :=
  { k with held := k.held.mapFinIdx (fun i h _ => { h with valid := v.getLsbD i }) }

/-- Words 0x080-0x0FC of a bank record written (R356, log 10). A next bundle above 0x1000 keeps 13 bits and faults at issue as
0x1000 does (R88, R102; DESIGN CHOICE, log 10). -/
def Bank.setFlowWord (k : Bank) (i : Nat) (v : W32) : Bank :=
  if i = 0 then { k with pc := v.toNat % 8192, checked := false }
  else if i = 1 then { k with step := v }
  else if i = 2 then { k with p := Vector.ofFn (fun (j : Fin 8) => v.getLsbD j.val && j.val != 0) }
  else if i = 3 then k.wsr 0x006 v
  else if i = 4 then k.wsr 0x007 v
  else if i = 5 then k.wsr 0x00E v
  else if i = 6 then k.wsr 0x00F v
  else if i = 7 then
    { k.setHeldBits (v.extractLsb' 0 4) with
        psn := v.extractLsb' 4 4,
        umWait := if v.getLsbD 8 then some (k.umWait.getD { key := 0, seq := 0, slot := 0 }) else none }
  else if i = 8 then k.wsr 0x012 v
  else if i = 9 then { k with fltc := v.extractLsb' 0 8 }
  else if i = 10 then { k with flta := v }
  else if i = 11 then { k with fltb := v &&& 0xC000BFFF }
  else if i = 12 then { k with gdepth := v.extractLsb' 0 4 }
  else if i = 13 then { k with loops := (k.loops ++ List.replicate 2 (LoopEntry.mk 0 0 0)).take (min v.toNat 2) }
  else if i = 14 then k.setLoop 0 false v
  else if i = 15 then k.setLoop 0 true v
  else if i = 16 then k.setLoop 1 false v
  else if i = 17 then k.setLoop 1 true v
  else if i = 18 then k.setStatus v
  else if i = 19 then k.setWaitWord 0 v
  else if i = 20 then k.setWaitWord 1 v
  else if i = 21 then k.setWaitWord 2 v
  else if i = 22 then { k with spbase := v &&& 0x3FFC0 }
  else if i = 23 then { k with splim := v &&& 0x3FFC0 }
  else if i = 24 then { k with fltx := k.fltx.extractLsb' 32 32 ++ v }
  else if i = 25 then { k with fltx := v ++ k.fltx.extractLsb' 0 32 }
  else k

/-- A held-key slot changed. -/
def Bank.onHeld (k : Bank) (j : Nat) (f : HeldKey → HeldKey) : Bank :=
  { k with held := k.held.mapFinIdx (fun i h _ => if i = j then f h else h) }

/-- Poison bit of a slot. -/
def Bank.setPsn (k : Bank) (j : Nat) (p : Bool) : Bank :=
  { k with psn := (k.psn &&& ~~~(1#4 <<< j)) ||| (if p then 1#4 <<< j else 0) }

/-- A word of a held-key slot written (log 10). -/
def Bank.setHeldWord (k : Bank) (i : Nat) (v : W32) : Bank :=
  let j := i / 4
  if i % 4 = 0 then k.onHeld j (fun h => { h with key := v })
  else if i % 4 = 1 then k.onHeld j (fun h => { h with seq := v })
  else if i % 4 = 2 then (k.onHeld j (fun h => { h with valid := v.getLsbD 0 })).setPsn j (v.getLsbD 1)
  else k

/-- Word i of a batt register written in the layout of R219; the copies of bit 47 are ignored. -/
def Batt.setHalfWord (x : Batt) (i : Nat) (v : W32) : Batt :=
  battOfWords (fun j => if j = i / 2 then setF (x.word j) 32 (i % 2) v else x.word j)

/-- The word at a byte offset of a bank record written (R356). -/
def Bank.setRecordWord (k : Bank) (o : Nat) (v : W32) : Bank :=
  if o < 0x80 then k.ws (BitVec.ofNat 5 (o / 4)) v
  else if o < 0x100 then k.setFlowWord ((o - 0x80) / 4) v
  else if o < 0x140 then k.setHeldWord ((o - 0x100) / 4) v
  else if o < 0x180 then
    { k with ak := k.ak.mapFinIdx (fun i a _ => if i = (o - 0x140) / 4 then v.getLsbD 0 else a) }
  else if o < 0x580 then
    let r := BitVec.ofNat 4 ((o - 0x180) / 64)
    k.wv r (setF (k.rv r) 32 (o % 64 / 4) v)
  else if o < 0x980 then
    let r := BitVec.ofNat 2 ((o - 0x580) / 256)
    k.wb r ((k.rb r).setHalfWord ((o - 0x580) % 256 / 4) v)
  else if o < 0x2980 then
    let d : Fin 2 := Fin.ofNat 2 ((o - 0x980) / 4096)
    { k with acc := k.acc.set d (setF k.acc[d] 32 ((o - 0x980) % 4096 / 4) v) }
  else { k with pendRaw := some (k.pendArea.writeW32 (o - 0x2980) v) }

/-! ## Macro-sequencer entries (R205, R356; log 10) -/

/-- The addresses of the lines that an `mlat` reads, in 64-byte units, 12 bits each. -/
def linesField (l : List Nat) : BitVec 384 := ofFields 384 12 (fun i => BitVec.ofNat 12 (l.getD i 0 / 64)) 32

/-- An op as a code, its fields, an address in 64-byte units, and the lines of an `mlat`. -/
def MsOp.fields : MsOp → BitVec 3 × BitVec 16 × Nat × BitVec 384
  | .mlat latch t a => (1, 0#11 ++ BitVec.ofBool latch ++ t, a.length, linesField a)
  | .mlatc latch t ch => (2, 0#8 ++ BitVec.ofNat 3 ch.val ++ BitVec.ofBool latch ++ t, 0, 0)
  | .mma d t bt mode => (3, 0#8 ++ mode ++ BitVec.ofBool bt ++ BitVec.ofNat 1 d.val ++ t, 0, 0)
  | .mzero d => (4, 0#11 ++ BitVec.ofNat 1 d.val ++ 0#4, 0, 0)
  | .mdrain d u sh e h =>
    let en : BitVec 4 := match e with
      | some x => 1#1 ++ BitVec.ofNat 3 x.val
      | none => 0
    (5, 0#3 ++ BitVec.ofNat 3 h.val ++ en ++ BitVec.ofBool sh ++ BitVec.ofNat 1 d.val ++ u, 0, 0)
  | .msav d a => (6, 0#11 ++ BitVec.ofNat 1 d.val ++ 0#4, a / 64, 0)
  | .mrst d a => (7, 0#11 ++ BitVec.ofNat 1 d.val ++ 0#4, a / 64, 0)

/-- The op of an entry from its code, fields, address and lines; no op has code 0. -/
def msOpOf (code : BitVec 3) (f : BitVec 16) (n : Nat) (lines : BitVec 384) : Option MsOp :=
  let t := f.extractLsb' 0 4
  let d : Fin 2 := (f.extractLsb' 4 1).toFin
  if code = 1 then some (.mlat (f.getLsbD 4) t ((List.range (min n 32)).map (fun i => 64 * (getF lines 12 i).toNat)))
  else if code = 2 then some (.mlatc (f.getLsbD 4) t (f.extractLsb' 5 3).toFin)
  else if code = 3 then some (.mma d t (f.getLsbD 5) (f.extractLsb' 6 2))
  else if code = 4 then some (.mzero d)
  else if code = 5 then
    some (.mdrain d t (f.getLsbD 5) (if f.getLsbD 9 then some (f.extractLsb' 6 3).toFin else none) (f.extractLsb' 10 3).toFin)
  else if code = 6 then some (.msav d (64 * (n % 4096)))
  else if code = 7 then some (.mrst d (64 * (n % 4096)))
  else none

/-- A queue entry as 64 bytes: code, bank, fields; bundle; progress; address; lines (R356, log 10). -/
def MsEntry.image (e : MsEntry) : Vec :=
  let (code, f, n, lines) := e.op.fields
  lines ++ BitVec.ofNat 32 n ++ BitVec.ofNat 32 e.done ++ BitVec.ofNat 32 e.bundle ++
    (f ++ 0#11 ++ BitVec.ofNat 2 e.bank.val ++ code : W32)

/-- A queue entry with one word of its 64 bytes written. -/
def MsEntry.setWord (e : MsEntry) (i : Nat) (v : W32) : MsEntry :=
  let x := setF e.image 32 i v
  let w0 : W32 := wordOf x 0
  { e with op := (msOpOf (w0.extractLsb' 0 3) (w0.extractLsb' 16 16) (wordOf x 3).toNat (x.extractLsb' 128 384)).getD e.op,
           bank := (w0.extractLsb' 3 2).toFin, bundle := (wordOf x 1).toNat % 4096, done := (wordOf x 2).toNat }

/-! ## Tile header, queue, channels, class buffer, handlers, events (R356; log 10) -/

/-- The macro-sequencer queue of a leaf: in the tile while the leaf runs, in its context once it is saved (R205). -/
def Tile.queueOf (x : Tile) (l : Leaf) : List MsEntry :=
  if x.ctx[l].saved then x.ctx[l].msq else x.msq.filter (fun e => e.leaf == l)

/-- The started entries of a leaf (R205). -/
def Tile.partialOf (x : Tile) (l : Leaf) : List MsEntry :=
  if x.ctx[l].saved then x.ctx[l].msrun else x.msrun.filter (fun e => e.leaf == l)

/-- The entries of a leaf changed, wherever they stand. -/
def Tile.onEntries (x : Tile) (l : Leaf) (run : Bool) (f : Nat → MsEntry → MsEntry) : Tile :=
  let ids := ((if run then x.partialOf l else x.queueOf l).map (fun e => e.id)).zipIdx
  let g := fun (e : MsEntry) =>
    match ids.find? (fun p => p.1 == e.id) with
    | some p => f p.2 e
    | none => e
  let c := x.ctx[l]
  if c.saved then
    { x with ctx := x.ctx.set l (if run then { c with msrun := c.msrun.map g } else { c with msq := c.msq.map g }) }
  else if run then { x with msrun := x.msrun.map g }
  else { x with msq := x.msq.map g }

/-- Progress of a started entry, in the header: present, code, bank, steps or tokens done. -/
def MsEntry.progress (e : MsEntry) : W32 :=
  1#1 ++ e.op.fields.1 ++ BitVec.ofNat 2 e.bank.val ++ 0#14 ++ BitVec.ofNat 12 e.done

/-- A word of the tile header (R356, log 10); `n` events are pending. -/
def Tile.headerWord (x : Tile) (l : Leaf) (n i : Nat) : W32 :=
  let c := x.ctx[l]
  let a := if c.saved then c.cura else x.cura
  let b := if c.saved then c.curb else x.curb
  if i = 0 then BitVec.ofNat 32 l.val ||| (c.rrp.setWidth 32 <<< 8) ||| (word1 a <<< 16) ||| (word1 b <<< 17)
  else if i = 1 then BitVec.ofNat 32 n
  else if i < 6 then
    match (x.partialOf l)[i - 2]? with
    | some e => e.progress
    | none => 0
  else if i = 6 then c.part.setWidth 32 ||| (c.trig.setWidth 32 <<< 8)
  else 0

/-- A word of the tile header written; the leaf, which says whose record it is, is not (log 10). -/
def Tile.setHeaderWord (x : Tile) (l : Leaf) (i : Nat) (v : W32) : Tile :=
  let c := x.ctx[l]
  if i = 0 then
    let y := x.onCtx l (fun c => { c with rrp := v.extractLsb' 8 2 })
    if c.saved then y.onCtx l (fun c => { c with cura := v.getLsbD 16, curb := v.getLsbD 17 })
    else { y with cura := v.getLsbD 16, curb := v.getLsbD 17 }
  else if 2 ≤ i ∧ i < 6 then
    x.onEntries l true (fun j e => if j = i - 2 then { e with done := (v.extractLsb' 0 12).toNat } else e)
  else if i = 6 then x.onCtx l (fun c => { c with part := v.extractLsb' 0 6, trig := v.extractLsb' 8 3 })
  else x

/-- A word of the queue (R356, log 10). -/
def Tile.queueWord (x : Tile) (l : Leaf) (i : Nat) : W32 :=
  match (x.queueOf l)[i / 16]? with
  | some e => wordOf e.image (i % 16)
  | none => 0

/-- A word of an input channel's record (R356, log 10). -/
def InCh.recordWord (c : InCh) (i : Nat) : W32 :=
  if i = 0 then BitVec.ofNat 32 c.h
  else if i = 1 then BitVec.ofNat 32 c.f
  else if i = 2 then BitVec.ofNat 32 c.q
  else if i = 3 then BitVec.ofNat 32 c.rn
  else if i = 4 then word1 c.marker ||| (word1 c.openBack <<< 1)
  else if i = 5 then BitVec.ofNat 32 c.passed
  else 0

/-- A word of an input channel's record written. -/
def InCh.setRecordWord (c : InCh) (i : Nat) (v : W32) : InCh :=
  if i = 0 then { c with h := v.toNat % 256 }
  else if i = 1 then { c with f := v.toNat % 512 }
  else if i = 2 then { c with q := v.toNat % 512 }
  else if i = 3 then { c with rn := v.toNat % 512 }
  else if i = 4 then { c with marker := v.getLsbD 0, openBack := v.getLsbD 1 }
  else if i = 5 then { c with passed := v.toNat % 4 }
  else c

/-- A word of an output channel's record (R356, log 10). -/
def OutCh.recordWord (c : OutCh) (i : Nat) : W32 :=
  if i = 0 then BitVec.ofNat 32 c.w
  else if i = 1 then BitVec.ofNat 32 c.e
  else if i = 2 then c.wr.extractLsb' 0 32
  else if i = 3 then c.wr.extractLsb' 32 32
  else if i = 4 then c.rc.setWidth 32
  else if i = 5 then c.tc.setWidth 32
  else if i = 6 then word1 c.closed
  else 0

/-- A word of an output channel's record written. -/
def OutCh.setRecordWord (c : OutCh) (i : Nat) (v : W32) : OutCh :=
  if i = 0 then { c with w := v.toNat % 16384 }
  else if i = 1 then { c with e := v.toNat % 32768 }
  else if i = 2 then { c with wr := c.wr.extractLsb' 32 32 ++ v }
  else if i = 3 then { c with wr := v ++ c.wr.extractLsb' 0 32 }
  else if i = 4 then { c with rc := v.extractLsb' 0 8 }
  else if i = 5 then { c with tc := v.extractLsb' 0 2 }
  else if i = 6 then { c with closed := v.getLsbD 0 }
  else c

/-- A word of the channel area: i0-i7, then o0-o7, 64 bytes each (R356). -/
def LeafCtx.channelWord (c : LeafCtx) (i : Nat) : W32 :=
  if i < 128 then (c.inp[(Fin.ofNat 8 (i / 16))]).recordWord (i % 16)
  else (c.outp[(Fin.ofNat 8 (i / 16))]).recordWord (i % 16)

/-- A word of the channel area written. -/
def LeafCtx.setChannelWord (c : LeafCtx) (i : Nat) (v : W32) : LeafCtx :=
  let ch : Fin 8 := Fin.ofNat 8 (i / 16)
  if i < 128 then { c with inp := c.inp.set ch (c.inp[ch].setRecordWord (i % 16) v) }
  else { c with outp := c.outp.set ch (c.outp[ch].setRecordWord (i % 16) v) }

/-- A sideband as 64 bits (log 10). -/
def Sideband.image (x : Sideband) : W64 :=
  0#18 ++ x.aux ++ x.round ++ BitVec.ofBool x.pred ++ BitVec.ofBool x.scaled ++ x.bank ++ x.kind ++ BitVec.ofBool x.null ++
    BitVec.ofBool x.tail ++ BitVec.ofBool x.head ++ x.fmt

/-- The sideband of 64 bits. -/
def sidebandOf (v : W64) : Sideband :=
  { fmt := v.extractLsb' 0 4, head := v.getLsbD 4, tail := v.getLsbD 5, null := v.getLsbD 6, kind := v.extractLsb' 7 3,
    bank := v.extractLsb' 10 2, scaled := v.getLsbD 12, pred := v.getLsbD 13, round := v.extractLsb' 14 8,
    aux := v.extractLsb' 22 24 }

/-- A class packet as 80 bytes: payload, sideband, a bit that the packet is there (R356, log 10). -/
def ClassPkt.image (p : ClassPkt) : BitVec 640 := (1#32 ++ 0#32 ++ p.tok.side.image ++ p.tok.payload : BitVec 640)

/-- A word of the class buffer. -/
def LeafCtx.classWord (c : LeafCtx) (i : Nat) : W32 :=
  match c.clsbuf[i / 20]? with
  | some p => wordOf p.image (i % 20)
  | none => 0

/-- A word of the class buffer written: a packet's payload or sideband; the last word of a place adds a packet behind the
others or takes one out. -/
def LeafCtx.setClassWord (c : LeafCtx) (i : Nat) (v : W32) : LeafCtx :=
  let n := i / 20
  if i % 20 = 19 then
    if v.getLsbD 0 then
      (if n = c.clsbuf.length ∧ n < 16 then { c with clsbuf := c.clsbuf ++ [{ tok := {}, part := c.part, graph := c.graph }] }
       else c)
    else { c with clsbuf := c.clsbuf.eraseIdx n }
  else
    let up := fun (p : ClassPkt) =>
      let x := setF p.image 32 (i % 20) v
      { p with tok := { side := sidebandOf (x.extractLsb' 512 64), payload := x.extractLsb' 0 512 } }
    { c with clsbuf := c.clsbuf.mapIdx (fun j p => if j = n then up p else p) }

/-- A word of the handler table, two entries a word, and CLSMASK behind it (R356, log 10). -/
def LeafCtx.handlerWord (c : LeafCtx) (i : Nat) : W32 :=
  let h := fun (j : Nat) => (c.handlers.toList.getD j 0).setWidth 16
  if i < 8 then h (2 * i + 1) ++ h (2 * i) else if i = 8 then (c.clsnext.getD c.clsmask).setWidth 32 else 0

/-- A word of the handler table or CLSMASK written. -/
def LeafCtx.setHandlerWord (c : LeafCtx) (i : Nat) (v : W32) : LeafCtx :=
  if i < 8 then
    { c with handlers := c.handlers.mapFinIdx (fun j h _ =>
        if j = 2 * i then v.extractLsb' 0 13 else if j = 2 * i + 1 then v.extractLsb' 16 13 else h) }
  else if i = 8 then { c with clsmask := v.extractLsb' 0 16, clsnext := none }
  else c

/-! ## Pending events (R355; log 10) -/

/-- A grant as 16 bytes: kind 1, bank, poison; key; sequence. -/
def Grant.image (g : Grant) : BitVec 128 :=
  0#32 ++ g.seq ++ g.key ++ (word1 g.poison <<< 8 ||| BitVec.ofNat 32 (1 + 16 * g.src.bank.val))

/-- A grant edited. -/
def Grant.edited (g : Grant) (x : BitVec 128) : Grant :=
  { g with src := { g.src with bank := (x.extractLsb' 4 2).toFin }, poison := x.getLsbD 8, key := x.extractLsb' 32 32,
           seq := x.extractLsb' 64 32 }

/-- A token as 16 bytes: kind 2, channel; the low 96 bits of its payload (R282, R348). -/
def Ready.image (r : Ready) : BitVec 128 := r.tok.payload.extractLsb' 0 96 ++ BitVec.ofNat 32 (2 + 16 * r.ch.val)

/-- A token edited. -/
def Ready.edited (r : Ready) (x : BitVec 128) : Ready :=
  { r with ch := (x.extractLsb' 4 3).toFin,
           tok := { r.tok with payload := r.tok.payload.extractLsb' 96 416 ++ x.extractLsb' 32 96 } }

/-- A report as 16 bytes: kind 3, bank; code; FLTA. -/
def Report.image (r : Report) : BitVec 128 :=
  0#32 ++ r.flta ++ r.code.setWidth 32 ++ BitVec.ofNat 32 (3 + 16 * r.bank.val)

/-- A report edited. -/
def Report.edited (r : Report) (x : BitVec 128) : Report :=
  { r with bank := (x.extractLsb' 4 2).toFin, code := x.extractLsb' 32 8, flta := x.extractLsb' 64 32 }

/-- A completed barrier episode as 16 bytes: kind 4, scope (R268). -/
def episodeImage (scope : Fin 5) : BitVec 128 := BitVec.ofNat 128 (4 + 16 * scope.val)

/-- A firing as 16 bytes: kind 5, bank (R355). -/
def firingImage (b : BankId) : BitVec 128 := BitVec.ofNat 128 (5 + 16 * b.val)

/-- The numbers of the entries of a list that a context's events are. -/
def placesOf {α : Type} (l : List α) (mine : α → Bool) : List Nat :=
  (List.range l.length).filter (fun i => l[i]?.any mine)

/-- The pending events of a context, by kind: the places of its grants, tokens and reports, the scopes whose episode has
completed, and the bank that is to fire. -/
structure EventPlaces where
  grants : List Nat
  ready : List Nat
  reports : List Nat
  scopes : List (Fin 5)
  fires : List BankId
  deriving DecidableEq, Repr

/-- Where the pending events of a context stand (R355). -/
def State.eventPlaces (s : State) (t : Site) (l : Leaf) : EventPlaces :=
  { grants := placesOf s.grants (fun g => g.src.tile == t && g.src.leaf == l),
    ready := placesOf s.ready (fun r => r.tile == t && r.leaf == l),
    reports := placesOf s.reports (fun r => r.tile == t && r.leaf == l),
    scopes := (List.finRange 5).filter (fun n => (s.ctx t l).barDone.getLsbD n.val),
    fires := (s.ctx t l).fireHeld.toList }

/-- The pending events of a context: grants, tokens and reports on their way to it, then completed barrier episodes and a firing
(R355). -/
def State.pendingEvents (s : State) (t : Site) (l : Leaf) : List (BitVec 128) :=
  let p := s.eventPlaces t l
  p.grants.filterMap (fun i => (s.grants[i]?).map Grant.image) ++ p.ready.filterMap (fun i => (s.ready[i]?).map Ready.image) ++
    p.reports.filterMap (fun i => (s.reports[i]?).map Report.image) ++ p.scopes.map episodeImage ++ p.fires.map firingImage

/-- The scope mask of a context edited. -/
def State.setEpisode (s : State) (t : Site) (l : Leaf) (scope : Nat) (on : Bool) : State :=
  s.onCtx t l (fun c => { c with barDone := if on then c.barDone ||| (1#5 <<< scope) else c.barDone &&& ~~~(1#5 <<< scope) })

/-- The firing of a context edited. -/
def State.setFiring (s : State) (t : Site) (l : Leaf) (b : Option BankId) : State := s.onCtx t l (fun c => { c with fireHeld := b })

/-- An event joins those of its kind; kind 0 and the kinds above 5 are none. -/
def State.addEvent (s : State) (t : Site) (l : Leaf) (x : BitVec 128) : State :=
  let part := (s.ctx t l).part
  let kind := x.extractLsb' 0 4
  if kind = 1 then
    let g : Grant :=
      { src := { tile := t, leaf := l, bank := 0, bundle := 0, part := part }, key := 0, seq := 0, poison := false, held := true }
    { s with grants := s.grants ++ [g.edited x] }
  else if kind = 2 then { s with ready := s.ready ++ [({ tile := t, leaf := l, ch := 0, tok := {}, held := true } : Ready).edited x] }
  else if kind = 3 then
    let r : Report := { tile := t, leaf := l, bank := 0, slot := 0, bundle := 0, code := 0, flta := 0, part := part }
    { s with reports := s.reports ++ [r.edited x] }
  else if kind = 4 then s.setEpisode t l (x.extractLsb' 4 3).toNat true
  else if kind = 5 then s.setFiring t l (some (x.extractLsb' 4 2).toFin)
  else s

/-- Event n of a context replaced by 16 bytes: edited in its place when its kind stays, else taken out, and the new one added
behind those of its kind; the first absent place adds one. -/
def State.setEvent (s : State) (t : Site) (l : Leaf) (n : Nat) (x : BitVec 128) : State :=
  let p := s.eventPlaces t l
  let kind := x.extractLsb' 0 4
  let a := p.grants.length
  let b := a + p.ready.length
  let c := b + p.reports.length
  let d := c + p.scopes.length
  if n < a then
    let i := p.grants.getD n 0
    if kind = 1 then { s with grants := s.grants.mapIdx (fun j g => if j = i then g.edited x else g) }
    else { s with grants := s.grants.eraseIdx i }.addEvent t l x
  else if n < b then
    let i := p.ready.getD (n - a) 0
    if kind = 2 then { s with ready := s.ready.mapIdx (fun j r => if j = i then r.edited x else r) }
    else { s with ready := s.ready.eraseIdx i }.addEvent t l x
  else if n < c then
    let i := p.reports.getD (n - b) 0
    if kind = 3 then { s with reports := s.reports.mapIdx (fun j r => if j = i then r.edited x else r) }
    else { s with reports := s.reports.eraseIdx i }.addEvent t l x
  else if n < d then (s.setEpisode t l (p.scopes.getD (n - c) 0).val false).addEvent t l x
  else if n < d + p.fires.length then (s.setFiring t l none).addEvent t l x
  else if n = d + p.fires.length then s.addEvent t l x
  else s

/-- A word of the pending events written. -/
def State.setEventWord (s : State) (t : Site) (l : Leaf) (i : Nat) (v : W32) : State :=
  s.setEvent t l (i / 4) (setF ((s.pendingEvents t l).getD (i / 4) 0) 32 (i % 4) v)

/-- The count of pending events written: those from that place on are taken out. -/
def State.cutEvents (s : State) (t : Site) (l : Leaf) (n : Nat) : State :=
  (List.range (s.pendingEvents t l).length).reverse.foldl (fun x i => if n ≤ i then x.setEvent t l i 0 else x) s

/-- A word of the queue written: the first word of a place takes its entry out when it names no op, and adds one in the first
absent place when it does (R205, R356; log 10). -/
def State.setQueueWord (s : State) (t : Site) (l : Leaf) (i : Nat) (v : W32) : State :=
  let q := (s.tile t).queueOf l
  let n := i / 16
  let up := fun (f : List MsEntry → List MsEntry) => s.onTile t (fun x =>
    if x.ctx[l].saved then x.onCtx l (fun c => { c with msq := f c.msq }) else { x with msq := f x.msq })
  if n < q.length then
    if i % 16 = 0 ∧ v.extractLsb' 0 3 = 0 then up (fun m => m.filter (fun e => some e.id != (q[n]?).map (fun e => e.id)))
    else s.onTile t (fun x => x.onEntries l false (fun j e => if j = n then e.setWord (i % 16) v else e))
  else if n = q.length ∧ n < 4 ∧ i % 16 = 0 ∧ v.extractLsb' 0 3 ≠ 0 then
    let e : MsEntry := { id := s.nextId, leaf := l, bank := 0, bundle := 0, op := .mzero 0, issued := s.cycleAt t }
    { up (fun m => m ++ [e.setWord 0 v]) with nextId := s.nextId + 1 }
  else s

/-! ## The record as a whole (R356, R398) -/

/-- A tile with the due writes of a leaf's banks landed, as its record shows them (R80). -/
def LeafCtx.settleAll (c : LeafCtx) : LeafCtx := (List.finRange 4).foldl (fun x b => x.settle b) c

/-- The bank whose record an offset lies in, when it lies in one (R356). -/
def recordBank (o : Nat) : Option BankId := if o < 0xD780 then some (Fin.ofNat 4 (o / 0x35E0)) else none

/-- The word at a byte offset of a leaf's record (R356). -/
def State.recordWord (s : State) (t : Site) (l : Leaf) (o : Nat) : W32 :=
  let c := (s.ctx t l).settleAll
  let x := s.tile t
  match recordBank o with
  | some b => ({ c.banks[b] with wait := s.waitNow t l b } : Bank).recordWord (o % 0x35E0)
  | none =>
    if o < 0xD800 then x.headerWord l (s.pendingEvents t l).length ((o - 0xD780) / 4)
    else if o < 0xD900 then x.queueWord l ((o - 0xD800) / 4)
    else if o < 0xDD00 then c.channelWord ((o - 0xD900) / 4)
    else if o < 0xE200 then c.classWord ((o - 0xDD00) / 4)
    else if o < 0xE240 then c.handlerWord ((o - 0xE200) / 4)
    else if o < 0xE340 then wordOf ((s.pendingEvents t l).getD ((o - 0xE240) / 16) 0) (o % 16 / 4)
    else 0

/-- The word at a byte offset of a leaf's record written; the reserved words stay (R356, log 10). -/
def State.setRecordWord (s : State) (t : Site) (l : Leaf) (o : Nat) (v : W32) : State :=
  match recordBank o with
  | some b => s.onCtx t l (fun c => (c.settle b).onBank b (fun k => k.setRecordWord (o % 0x35E0) v))
  | none =>
    if o = 0xD784 then s.cutEvents t l v.toNat
    else if o < 0xD800 then s.onTile t (fun x => x.setHeaderWord l ((o - 0xD780) / 4) v)
    else if o < 0xD900 then s.setQueueWord t l ((o - 0xD800) / 4) v
    else if o < 0xDD00 then s.onCtx t l (fun c => c.setChannelWord ((o - 0xD900) / 4) v)
    else if o < 0xE200 then s.onCtx t l (fun c => c.setClassWord ((o - 0xDD00) / 4) v)
    else if o < 0xE240 then s.onCtx t l (fun c => c.setHandlerWord ((o - 0xE200) / 4) v)
    else if o < 0xE340 then s.setEventWord t l ((o - 0xE240) / 4) v
    else s

/-- The record written to physical memory, word by word, through the home slices (R238, R358). -/
def State.recordOut (s : State) (t : Site) (l : Leaf) (pa : Nat) : Nat → State
  | 0 => s
  | n + 1 =>
    (s.putHome (pa + 4 * n) 4 (s.recordWord t l (4 * n)).toNat (some (s.ctx t l).part)).recordOut t l pa n

/-- The record read from physical memory: the words that differ are written into it (R358). -/
def State.recordIn (s : State) (t : Site) (l : Leaf) (pa : Nat) : Nat → State
  | 0 => s
  | n + 1 =>
    let v := s.mem.readW32 (pa + 4 * n)
    let s1 := s.touch (pa + 4 * n) false
    (if v = s.recordWord t l (4 * n) then s1 else s1.setRecordWord t l (4 * n) v).recordIn t l pa n

/-- A record loaded from physical memory: what the first pass adds, the second fills (R358). -/
def State.recordLoad (s : State) (t : Site) (l : Leaf) (pa : Nat) : State :=
  (s.recordIn t l pa 16384).recordIn t l pa 16384

/-! ## The context area (R356) -/

/-- The start of a leaf's context area, at the top of its scratch share (R356). -/
def LeafCtx.areaBase (c : LeafCtx) : Nat := c.shareHi - 24576

/-- A latch buffer as 2,432 bytes: lines, scales, type (R356). -/
def LatchBuf.image (b : LatchBuf) : BitVec 19456 := b.t.setWidth 512 ++ b.scales ++ b.lines

/-- The latch buffer of 2,432 bytes. -/
def latchOf (v : BitVec 19456) : LatchBuf :=
  { lines := v.extractLsb' 0 16384, scales := v.extractLsb' 16384 2560, t := v.extractLsb' 18944 4 }

/-- A half as 4,224 bytes: rows, scales, type, valid (R356). -/
def Half.image (h : Half) : BitVec 33792 :=
  (BitVec.ofBool h.valid).setWidth 376 ++ h.t.setWidth 8 ++ h.scales ++ h.rows

/-- The half of 4,224 bytes. -/
def halfOf (v : BitVec 33792) : Half :=
  { rows := v.extractLsb' 0 32768, scales := v.extractLsb' 32768 640, t := v.extractLsb' 33408 4, valid := v.getLsbD 33416 }

/-- A card slot as 112 bytes: the map, then the base and the differences as bytes (R356). -/
def Card.image (c : Card) : BitVec 896 := c.diffs ++ c.base ++ c.map

/-- The card slot of 112 bytes. -/
def cardOf (v : BitVec 896) : Card :=
  { map := v.extractLsb' 0 384, base := v.extractLsb' 384 8, diffs := v.extractLsb' 392 504 }

/-- The context area written into scratch (R356). -/
def Tile.areaOut (x : Tile) (a : Nat) : Tile :=
  let m0 := (List.finRange 4).foldl (fun m k => m.writeNat (a + 2432 * k.val) (x.latches[k]).image.toNat 2432) x.scratch
  let m1 := (List.finRange 2).foldl (fun m h => m.writeNat (a + 0x2600 + 4224 * h.val) (x.halves[h]).image.toNat 4224) m0
  { x with scratch :=
      (List.finRange 16).foldl (fun m k => m.writeNat (a + 0x4700 + 112 * k.val) (x.cards[k]).image.toNat 112) m1 }

/-- The context area read back from scratch (R359). -/
def Tile.areaIn (x : Tile) (a : Nat) : Tile :=
  { x with
      latches := Vector.ofFn (fun k => latchOf (BitVec.ofNat 19456 (x.scratch.readNat (a + 2432 * k.val) 2432))),
      halves := Vector.ofFn (fun h => halfOf (BitVec.ofNat 33792 (x.scratch.readNat (a + 0x2600 + 4224 * h.val) 4224))),
      cards := Vector.ofFn (fun k => cardOf (BitVec.ofNat 896 (x.scratch.readNat (a + 0x4700 + 112 * k.val) 112))) }

end Sys2Proof.Machine
end

