-- ==== Sys2Proof/Machine/Swap.lean ====
section
/-!
DEFINITION. Swap-outs and restores of a partition: the command and its decision on every die (R353, R399), the save of a
tile behind the markers (R205, R220, R304, R354), the restore (R206, R359), and the completion of both (R354, R358).
-/
namespace Sys2Proof.Machine

/-! ## Partitions and swaps -/

/-- A loaded partition. -/
def State.part (s : State) (p : BitVec 6) : Option Partition := s.parts.get p.toNat none

/-- A partition changed. -/
def State.onPart (s : State) (p : BitVec 6) (f : Partition → Partition) : State :=
  { s with parts := s.parts.set p.toNat ((s.part p).map f) }

/-- The dies that a partition spans. -/
def Partition.dies (p : Partition) : List DieId :=
  (List.finRange 4).filter (fun d => (p.tiles ++ p.mts).any (fun t => siteDie t.1 == d))

/-- The swap or restore of a partition that is in progress. -/
def State.swapOf (s : State) (p : BitVec 6) : Option Swap := s.swaps.find? (fun w => w.part == p)

/-- The swap of a partition changed. -/
def State.onSwap (s : State) (p : BitVec 6) (f : Swap → Swap) : State :=
  { s with swaps := s.swaps.map (fun w => if w.part = p then f w else w) }

/-- The command has reached a die (R353). -/
def Swap.reached (w : Swap) (d : DieId) : Bool := w.dies.getLsbD d.val

/-- A partition runs: it is loaded and neither swapped out nor being swapped. -/
def State.resident (s : State) (p : BitVec 6) : Bool :=
  match s.part p with
  | some x => !x.swapped && (s.swapOf p).isNone
  | none => false

/-- A control core commands a swap or a restore: its SWSTAT bit sets, and the instruction waits until the command has
reached every die (R399). -/
def State.beginSwap (s : State) (p : BitVec 6) (k : CoreId) (memory : Option Nat) (restore : Bool) : State :=
  { s.onCore k (fun c => { c with swstat := c.swstat ||| (1#64 <<< p.toNat), busy := .swap p }) with
      swaps := s.swaps ++ [{ part := p, core := k, memory := memory, restore := restore }] }

/-- The places of the records of a partition's tiles in an image in device memory (R358; log 10). -/
def State.imagePlaces (s : State) (p : BitVec 6) (pa : Nat) : List (Site × Nat) :=
  match s.part p with
  | some x => x.tiles.zipIdx.map (fun t => (t.1.1, pa + 65536 * t.2))
  | none => []

/-- A place of memory is homed on a fenced die (R406). -/
def State.homeFenced (s : State) (pa : Nat) : Bool := (placeOf pa).die.any s.fenced

/-- A record of the image of a partition is homed on a fenced die (R406). -/
def State.imageFenced (s : State) (p : BitVec 6) (pa : Nat) : Bool := (s.imagePlaces p pa).any (fun t => s.homeFenced t.2)

/-- A record of the image of a partition cannot cross to its home, for a fenced die between (R10; log 58). -/
def State.imageShut (s : State) (p : BitVec 6) (pa : Nat) : Bool := (s.imagePlaces p pa).any (fun t => s.pathShut (siteDie t.1) t.2)

/-- The other leaf of a tile. -/
def otherLeaf (l : Leaf) : Leaf := 1 - l

/-- Some partition whose record or context stands in a leaf of a tile. -/
def State.leafHeldBy (s : State) (t : Site) (l : Leaf) (ok : Partition → Bool) : Bool :=
  s.parts.any (fun q => match q.2 with
    | some x => x.tiles.contains (t, l) && !x.inMemory && ok x
    | none => false)

/-- A restore cannot go onto the tiles of a partition: it is not swapped out, another leaf of a tile runs, or a record
that it needs is occupied or elsewhere (R399). -/
def State.restoreBad (s : State) (p : BitVec 6) (memory : Bool) : Bool :=
  match s.part p with
  | none => true
  | some x =>
    !x.swapped || (s.swapOf p).isSome || x.inMemory != memory ||
      x.tiles.any (fun t => s.leafHeldBy t.1 (otherLeaf t.2) (fun q => !q.swapped) ||
        (memory && s.leafHeldBy t.1 t.2 (fun _ => true)))

/-! ## The decision on a die (R353) -/

/-- An elastic stage feeds a trigger channel of a tile (R351). -/
def State.elasticFed (s : State) (t : Site) (l : Leaf) (ch : Fin 8) : Bool :=
  (s.ctx t l).trig.toFin == ch && s.dies.toList.any (fun d => d.elastic.toList.any (fun e => e.v && e.pool.contains (t, l)))

/-- A channel of a tile is an ingress of its partition: no route of it, no elastic stage and no back-edge feeds the channel, so
that its tokens come from a launch feeder or a host queue (R353). -/
def State.ingress (s : State) (t : Site) (l : Leaf) (ch : Fin 8) : Bool :=
  !(s.ctx t l).inp[ch].backedge && !s.routeFed (s.ctx t l).part t l ch && !s.elasticFed t l ch

/-- A pre-empt marker enters the input channels of a tile that are ingresses: those of launch feeders and host queues behind
their tokens, and the response channels at their ports (R248, R353). -/
def State.markIngress (s : State) (t : Site) (l : Leaf) : State :=
  (List.finRange 8).foldl (fun (x : State) (ch : Fin 8) =>
    let c := x.ctx t l
    let i : InCh := c.inp[ch]
    if !i.bound then x
    else if c.respmask.getLsbD ch.val then
      x.onCtx t l (fun c => { c with inp := c.inp.set ch { c.inp[ch] with marker := true } })
    else if s.ingress t l ch then
      x.toTrigger t l ch { src := i.prod, part := c.part, leaf := l, graph := c.graph, body := .preempt }
    else x) s

/-- The marker of a class (R189). -/
def classMarker (cls : BitVec 4) (part : BitVec 6) (due : Nat) : ClassPkt :=
  { tok := { side := { kind := 3, aux := cls ++ 0#20 } }, part := part, graph := 0, due := due }

/-- The class port of a tile takes one marker for each class that its box leads on, and closes behind them (R189, R353). -/
def State.markClassPort (s : State) (t : Site) (l : Leaf) : State :=
  let c := s.ctx t l
  let ms := (List.range 16).filterMap (fun k =>
    if ((s.box t).exit l (BitVec.ofNat 4 k)).isSome then some (classMarker (BitVec.ofNat 4 k) c.part (s.cycleAt t + 1)) else none)
  (s.onTile t (fun x => { x with clsout := x.clsout ++ ms })).onCtx t l (fun c => { c with clsshut := true, clsmarks := 0 })

/-- A box through which classes of a partition pass without coming from anywhere sends their markers itself (R189). -/
def State.markClassBox (s : State) (t : Site) (part : BitVec 6) : State :=
  (List.finRange 2).foldl (fun (x : State) (l : Fin 2) =>
    if (x.box t).ctxPart l = some part then
      (List.range 16).foldl (fun (y : State) (k : Nat) =>
        if (y.classFeeders t l (BitVec.ofNat 4 k) part).isEmpty then
          y.markOn t l (classMarker (BitVec.ofNat 4 k) part (y.cycleAt t))
        else y) x
    else x) s

/-- The boxes of a die that the state lists. -/
def State.boxesOf (s : State) (d : DieId) : List Site :=
  (s.boxes.map (fun q => BitVec.ofNat 12 q.1)).filter (fun t => siteDie t == d)

/-- The buffers that the copy engine fills, which get their marker from it (R323). -/
def MtLeaf.engineBuffers (f : MtLeaf) : List (Fin 8) :=
  (f.tpl.toList.filter (fun t => t.state == 1 && t.mode == 2)).map (fun t => t.obuf) ++
    (f.ctag.toList.filter ctagV).map (fun c => (c.extractLsb' 28 3).toFin)

/-- A marker enters the edge buffers of a memory tile that no route feeds; those that the engine fills get theirs from it
(R323, R353). -/
def State.markBuffers (s : State) (mt : Site) (l : Leaf) : State :=
  let own := (List.finRange 8).filter (fun e =>
    (s.ebuf mt l e).v && !s.routeFed (s.mtLeaf mt l).part mt l e)
  let later := own.filter (fun e => (s.mtLeaf mt l).engineBuffers.contains e)
  (own.filter (fun e => !later.contains e)).foldl (fun (x : State) (e : Fin 8) =>
    x.onEbuf mt l e (fun b => { b with preempt := some b.queue.length })) (s.onMtLeaf mt l (fun f => { f with toMark := later }))

/-- The stash of a unit of a partition. -/
def State.stashOf (s : State) (p : BitVec 6) (t : Site) (l : Leaf) : Option Stash :=
  s.stash.find? (fun x => x.part == p && x.site == t && x.leaf == l)

/-- What an event leaves behind, whatever its outcome. -/
def afterEvent (s : State) : Host.Outcome State Fault Refusal → State
  | .next t => t
  | _ => s

/-- The units of a memory tile leaf as its image holds them; the registers that no image holds keep their values (R248, R286,
R304, R323, R398). -/
def MtLeaf.loaded (f x : MtLeaf) : MtLeaf :=
  { f with ctag := x.ctag, ctagHeld := x.ctagHeld, tpl := x.tpl, keys := x.keys, store := x.store, lanes := x.lanes,
           records := x.records, pages := x.pages }

/-- The completion tokens that became due in the decision cycle are published, before any bundle issues (R323). -/
def State.publishHeld (s : State) (mt : Site) (l : Leaf) : State :=
  let tags := (List.finRange 16).filter (fun g => (s.mtLeaf mt l).ctagHeld.getLsbD g.val)
  tags.foldl (fun x g => afterEvent x (execCompletionTokenPublish mt l g x)) (s.onMtLeaf mt l (fun f => { f with ctagHeld := 0 }))

/-- A memory tile serves a restored partition again (R304, R359). -/
def State.restoreMt (s : State) (p : BitVec 6) (mt : Site) (l : Leaf) : State :=
  let s1 := match s.stashOf p mt l with
    | some x =>
      { s.onMt mt (fun m => { m with lf := m.lf.set l (m.lf[l].loaded x.mtLeaf), ebuf := m.ebuf.set l x.ebufs }) with
          stash := s.stash.filter (fun x => !(x.part == p && x.site == mt && x.leaf == l)) }
    | none => s
  (s1.onMt mt (fun m =>
    { m with running := l,
             lf := m.lf.set l { m.lf[l] with occupied := true, marked := false, toMark := [], part := p } })).publishHeld mt l

/-- The cycle of a swap command on a die: markers enter every ingress there, or the memory tiles serve the partition
again (R353, R359). -/
def State.swapDecided (s : State) (d : DieId) (w : Swap) (p : Partition) : State :=
  let mts := p.mts.filter (fun m => siteDie m.1 == d)
  if w.restore then mts.foldl (fun x m => x.restoreMt w.part m.1 m.2) s
  else
    let s1 := (p.tiles.filter (fun t => siteDie t.1 == d)).foldl (fun x t => (x.markIngress t.1 t.2).markClassPort t.1 t.2) s
    let s2 := (s.boxesOf d).foldl (fun x t => x.markClassBox t w.part) s1
    mts.foldl (fun x m => x.markBuffers m.1 m.2) s2

/-- SWAP_DECISION: the command has come to a die of the partition, whose next cycle is its decision cycle: the swap takes
effect before everything else in it (R32, R353). -/
def execSwapDecision (d : DieId) (part : BitVec 6) (s : State) : Host.Outcome State Fault Refusal :=
  match s.swapOf part, s.part part with
  | some w, some p =>
    if w.reached d ∨ !p.dies.contains d then .next s
    else .next (s.onSwap part (fun w => { w with coming := w.coming ||| (1#4 <<< d.val) }))
  | _, _ => .next s

/-- The decision cycle of a swap on a die begins; the commanding instruction completes when the command has reached every die
of the partition (R353, R399). -/
def State.decideSwap (s : State) (d : DieId) (w : Swap) : State :=
  match s.part w.part with
  | none => s
  | some p =>
    if w.reached d || !w.coming.getLsbD d.val then s
    else
      let w1 := { w with dies := w.dies ||| (1#4 <<< d.val), cycles := w.cycles.set d s.dies[d].cycle.toNat }
      let s1 := (s.onSwap w.part (fun _ => w1)).swapDecided d w p
      if p.dies.all w1.reached ∧ s1.cores[w.core].busy = .swap w.part then
        s1.onCore w.core (fun c => ({ c with busy := .none } : Core).done)
      else s1

/-- The commands that a die's new cycle begins with (R32, R353). -/
def State.decideSwaps (s : State) (d : DieId) : State := s.swaps.foldl (fun x w => x.decideSwap d w) s

/-! ## The save of a tile (R205, R220, R354) -/

/-- The marker stands at the head of an input channel, as the save asks: it is held at the port and the tokens ahead of it have
been consumed; a response channel keeps its responses and needs Q = 0; unbound channels and back-edges do not wait (R149,
R248, R354; log 59). -/
def LeafCtx.markedIn (c : LeafCtx) (ch : Fin 8) : Bool :=
  let i := c.inp[ch]
  !i.bound || i.backedge || i.marker && (if c.respmask.getLsbD ch.val then i.q == 0 else i.f == 0)

/-- No class packet of a partition is on the class network or in a class port (R189). -/
def State.classClear (s : State) (part : BitVec 6) : Bool :=
  s.boxes.all (fun b => b.2.clsbuf.all (fun q => q.2.all (fun p => p.part != part))) &&
    s.tiles.all (fun t => t.2.clsout.all (fun p => p.part != part))

/-- The marker has arrived on every class inlet that is configured for a context, and its own have left its class port
(R189, R354). -/
def State.classMarked (s : State) (t : Site) (l : Leaf) : Bool :=
  (List.range 16).all (fun k =>
    (((s.box t).exit l (BitVec.ofNat 4 k)).map Fin.val) != some 4 || (s.ctx t l).clsmarks.getLsbD k) &&
    (s.tile t).clsout.all (fun p => !p.isMarker)

/-- A tile can decide to save a context (R354). -/
def State.canSave (s : State) (t : Site) (l : Leaf) : Bool :=
  let x := s.tile t
  let c := x.ctx[l]
  match s.swapOf c.part with
  | some w =>
    !w.restore && w.reached (siteDie t) && isCompute t && x.running == l && !c.saved && x.saving.isNone &&
      (List.finRange 8).all c.markedIn && s.classMarked t l && x.port.isEmpty
  | none => false

/-- A running entry rests at the decision to save: an `mma` at its step boundary, an `mlatc` or `mdrain` that would wait
(R205). -/
def State.entryRests (s : State) (t : Site) (e : MsEntry) : Bool :=
  let x := s.tile t
  let c := x.ctx[e.leaf]
  match e.op with
  | .mma .. => decide (e.done < 4) && decide (x.savedAt < e.start + 8 * e.done)
  | .mlatc _ _ ch => !e.over (s.cycleAt t) && c.inp[ch].f == 0
  | .mdrain _ _ _ en head =>
    !e.over (s.cycleAt t) &&
      (match en.orElse (fun _ => e.out) with
       | some n => (c.outCh (BitVec.ofFin n)).e == 0 && (producerCheck c (BitVec.ofFin n) false).isNone
       | none => c.inp[head].f == 0)
  | _ => false

/-- A bank stands at a step boundary: no empty step is owed and no end is under way (R80). -/
def Bank.atBoundary (k : Bank) : Bool := !k.emptyStep && (k.ending.isNone || k.umWait.isSome)

/-- The banks, the macro sequencer and the load port of a tile that decided to save have stopped (R80, R205, R220). -/
def State.atRest (s : State) (t : Site) (l : Leaf) : Bool :=
  let x := s.tile t
  x.ctx[l].banks.toList.all Bank.atBoundary && x.msrun.all (s.entryRests t) && x.cact.isNone && x.port.isEmpty

/-- A saved input channel: its marker is taken off, and a back-edge without its marker stays open (R354). -/
def InCh.saved (c : InCh) : InCh :=
  if c.bound && c.backedge then { c with marker := false, openBack := !c.marker } else { c with marker := false }

/-- The context image of a tile is written, with a firing that is due, and one marker goes out on every bound output channel
(R205, R354, R355, R356). The checks of a bundle that waits are made again after the restore (R61). -/
def State.saveTile (s : State) (t : Site) (l : Leaf) : State :=
  let x := s.tile t
  let c0 := x.ctx[l].settleAll
  let c := { c0 with banks := c0.banks.mapFinIdx (fun b k h => { k with wait := s.waitNow t l ⟨b, h⟩, checked := false }) }
  let out := fun (ch : Fin 8) (o : OutCh) =>
    if o.bound then
      o.enqueue { src := .tile t l ch, part := c.part, leaf := l, graph := c.graph, due := s.cycleAt t + 1 } .preempt
    else o
  let c1 : LeafCtx := { c with saved := true, fireHeld := c.firing, clsheld := x.clsout, clsshut := false, clsmarks := 0, msq := x.msq.filter (fun e => e.leaf == l),
                               msrun := x.msrun.filter (fun e => e.leaf == l), cura := x.cura, curb := x.curb,
                               inp := c.inp.map InCh.saved, outp := c.outp.mapFinIdx (fun i o h => out ⟨i, h⟩ o) }
  let x1 := { x.areaOut c.areaBase with clsout := [], msq := x.msq.filter (fun e => e.leaf != l),
                                        msrun := x.msrun.filter (fun e => e.leaf != l), saving := none }
  (s.setTile t { x1 with ctx := x1.ctx.set l c1 }).onSwap c.part (fun w => { w with tiles := w.tiles ++ [(t, l)] })

/-- TILE_SAVE: the tile decides to save when the markers have come, and its image is written once its banks and units have
stopped (R205, R354). -/
def execTileSave (t : Site) (l : Leaf) (s : State) : Host.Outcome State Fault Refusal :=
  if (s.tile t).saving = some l then (if s.atRest t l then .next (s.saveTile t l) else .next s)
  else if s.canSave t l then .next (s.onTile t (fun x => { x with saving := some l, savedAt := s.cycleAt t }))
  else .next s

/-! ## The restore of a tile (R206, R220, R355, R359) -/

/-- A partial entry resumes: the cycles that it has run count from now (R206). -/
def MsEntry.resumed (e : MsEntry) (cycle : Nat) : MsEntry :=
  match e.op with
  | .mma .. => { e with start := cycle - 8 * e.done, due := cycle }
  | _ => { e with due := cycle }

/-- The first pending event of a restored context is delivered (R355). -/
def State.deliverOne (s : State) (t : Site) (l : Leaf) : Option State :=
  match s.grants.findIdx? (fun g => g.src.tile == t && g.src.leaf == l) with
  | some i => some (afterEvent s (execUmbraGrantArrival i s))
  | none =>
    match s.ready.findIdx? (fun r => r.tile == t && r.leaf == l) with
    | some i => some (afterEvent s (execReadyTokenDelivery i s))
    | none =>
      match s.reports.findIdx? (fun r => r.tile == t && r.leaf == l) with
      | some i => some (afterEvent s (execAsyncReportArrival i s))
      | none => none

/-- Pending events of a restored context are delivered (R355). -/
def State.deliverPending (s : State) (t : Site) (l : Leaf) : Nat → State
  | 0 => s
  | n + 1 =>
    match s.deliverOne t l with
    | some s1 => s1.deliverPending t l n
    | none => s

/-- The firing that was recorded for a context starts its bank (R355). -/
def State.deliverFiring (s : State) (t : Site) (l : Leaf) : State :=
  let s1 := s.onCtx t l (fun c => { c with fireHeld := none })
  match (s.ctx t l).fireHeld with
  | some b => if (s.bank t l b).canStart then s1.startBank t b 0 else s1
  | none => s1

/-- Everything that was recorded for a context is delivered to it: grants, tokens and reports, the barrier episodes that
completed meanwhile, and a firing (R268, R355). -/
def State.deliverAll (s : State) (t : Site) (l : Leaf) : State :=
  let grant := fun (g : Grant) => if g.src.tile = t ∧ g.src.leaf = l then { g with held := false } else g
  let token := fun (r : Ready) => if r.tile = t ∧ r.leaf = l then { r with held := false } else r
  let s1 := { s with grants := s.grants.map grant, ready := s.ready.map token }
  let s2 := s1.deliverPending t l (s1.grants.length + s1.ready.length + s1.reports.length)
  (s2.onCtx t l (fun c =>
    { (List.finRange 5).foldl (fun x n => if c.barDone.getLsbD n.val then x.goOn n else x) c with barDone := 0 })).deliverFiring t l

/-- An uncorrectable error stops the restore of a tile: a TYPE 4 record, and every bank is left FAULTED with FLTC 0x11 and FLTB
0; the tile stays unrestored (R362, R375). -/
def State.restoreStops (s : State) (t : Site) (l : Leaf) (part : BitVec 6) (unit loc : Nat) : State :=
  (s.onCtx t l (fun c =>
    { c with banks := c.banks.map (fun k =>
        { k with faulted := true, fltc := Cause.ecc.code, fltb := 0, wait := 0, checked := false }) })).notify
    (siteDie t) part (softRecord part t l (s.asidOf t l) unit loc 0)

/-- The offset of the first line of a context area that holds an uncorrectable error. -/
def State.areaBad (s : State) (t : Site) (a : Nat) : Option Nat :=
  ((List.range 384).find? (fun i => s.ecc.contains (.scratch t (a + 64 * i)))).map (fun i => 64 * i)

/-- The offset of an uncorrectable error in the record that a restore reads: in the shadow store, or in the lines of device
memory from which it comes (R358, R375). -/
def State.recordBad (s : State) (t : Site) (l : Leaf) (memory : Option Nat) : Option Nat :=
  let shadow := s.ecc.findSome? (fun e => match e with
    | .shadow u m o => if u = t ∧ m = l then some o else none
    | _ => none)
  match memory with
  | some pa => (((List.range 1024).find? (fun i => s.ecc.contains (.phys (pa + 64 * i)))).map (fun i => 64 * i)).orElse (fun _ => shadow)
  | none => shadow

/-- The restore fault of a bank whose pending writes cannot re-enter (R81, R357). -/
def State.restoreFault (s : State) (t : Site) (l : Leaf) (b : BankId) : Option FaultInfo :=
  match (s.bank t l b).reenter with
  | .ok _ => none
  | .error f => some f

/-- The entries of a signature table on a die (R339). -/
def Die.sigTable (x : Die) (base : Nat) : FMap (Option W64) := x.sigs.filter (fun q => q.1 / 256 * 256 == base)

/-- A die with a signature table replaced; the empty table makes every entry invalid (R339). -/
def Die.setSigTable (x : Die) (base : Nat) (q : FMap (Option W64)) : Die :=
  { x with sigs := q.foldl (fun m e => m.set e.1 e.2) (x.sigs.filter (fun q => q.1 / 256 * 256 != base)) }

/-- The signature table of a leaf replaced, when it holds a slot (R339). -/
def State.setSigs (s : State) (t : Site) (c : LeafCtx) (q : FMap (Option W64)) : State :=
  match c.sigPlace 0 with
  | some base => s.onDie (siteDie t) (fun x => x.setSigTable base q)
  | none => s

/-- What went out comes back into its leaf: the context, and beside the words of the record its pending events, refused umbra
requests and signature table (R304, R339, R355, R358). -/
def State.unstash (s : State) (x : Stash) : State :=
  let key := refusedKey x.site x.leaf
  let s1 := (s.onCtx x.site x.leaf (fun _ => x.ctx)).onMt (homeMemTile x.site) (fun m =>
    { m with refused := m.refused.set key (x.refused.foldr insertReq (m.refused.get key [])) })
  { s1.setSigs x.site x.ctx x.sigs with
      grants := s1.grants ++ x.grants, ready := s1.ready ++ x.ready, reports := s1.reports ++ x.reports,
      stash := s1.stash.filter (fun y => !(y.part == x.part && y.site == x.site && y.leaf == x.leaf)) }

/-- What was made for a tile while its record lay in device memory joins its pending events (R355). -/
def State.addLate (s : State) (x : Option Stash) : State :=
  match x with
  | some y => { s with grants := s.grants ++ y.lateGrants, ready := s.ready ++ y.lateReady }
  | none => s

/-- The record and the context area of a tile are loaded, its entries and pending writes re-enter, and its pending events
are delivered (R359); a tile whose graph was killed meanwhile is killed then (R370; log 10). -/
def State.loadTile (s : State) (t : Site) (l : Leaf) : State :=
  let cycle := s.cycleAt t
  let x := s.tile t
  let c := x.ctx[l]
  let x1 := x.areaIn c.areaBase
  let c1 : LeafCtx := { c with saved := false, clsheld := [], msq := [], msrun := [] }
  let x2 := { x1 with ctx := x1.ctx.set l c1, running := l, cura := c.cura, curb := c.curb, clsout := c.clsheld,
                      msq := c.msq.map (fun e => e.resumed cycle), msrun := c.msrun.map (fun e => e.resumed cycle) }
  let s1 := (List.finRange 4).foldl (fun y b => y.reenter t l b) (s.setTile t x2)
  let s2 := s1.deliverAll t l
  if c.killed then s2.killCtx t l (s2.underWay t l) else s2

/-- The restore of a tile: it is loaded, or, when a bank has a restore fault, that bank is faulted with FLTB 0 and the tile
stays unrestored until a control core restores again (R362). -/
def State.restoreTile (s : State) (t : Site) (l : Leaf) : State :=
  if (List.finRange 4).any (fun b => (s.restoreFault t l b).isSome) then
    (List.finRange 4).foldl (fun (y : State) (b : BankId) =>
      match s.restoreFault t l b with
      | some f => y.takeFault t l b 0 f
      | none => y) s
  else s.loadTile t l

/-- The restore in progress that a tile belongs to. -/
def State.restoreFor (s : State) (t : Site) (l : Leaf) : Option Swap :=
  s.swaps.find? (fun w => w.restore && w.reached (siteDie t) && !w.tiles.contains (t, l) &&
    match s.part w.part with
    | some p => p.tiles.contains (t, l)
    | none => false)

/-- RESTORE_AT_TILE: a tile that an earlier restore has restored stays as it is; a record that a fenced die keeps from the tile is
waited for (R359, R362, R375, R406; log 58). -/
def execRestoreAtTile (t : Site) (l : Leaf) (s : State) : Host.Outcome State Fault Refusal :=
  match s.restoreFor t l with
  | none => .next s
  | some w =>
    let s1 := s.onSwap w.part (fun w => { w with tiles := w.tiles ++ [(t, l)] })
    let s2 := match s.stashOf w.part t l with
      | some x => s1.unstash x
      | none => s1
    let n := ((s.part w.part).map (fun p => p.tiles.findIdx (fun u => u == (t, l)))).getD 0
    let place := w.memory.map (fun pa => pa + 65536 * n)
    let s3 := (match place with
      | some pa => s2.recordLoad t l pa
      | none => s2).addLate (s.stashOf w.part t l)
    if place.any (fun pa => s.homeFenced pa || s.pathShut (siteDie t) pa) then .next s
    else if !(s2.ctx t l).saved then .next s1
    else
      match s.recordBad t l place, s.areaBad t (s3.ctx t l).areaBase with
      | some o, _ => .next (s3.restoreStops t l w.part 4 o)
      | none, some o => .next (s3.restoreStops t l w.part 5 o)
      | none, none => .next (s3.restoreTile t l)

/-! ## Completion (R354, R358, R359, R399) -/

/-- A slot release is on its way to a channel of a partition, to one of its edge buffers, feeders or elastic stages (R154). -/
def State.releasesTo (s : State) (part : BitVec 6) (p : Partition) (r : Release) : Bool :=
  match r.dest with
  | .tile t l _ => p.tiles.contains (t, l)
  | .edge mt l _ => p.mts.contains (mt, l)
  | .feeder _ n => s.launches.any (fun l => l.slot == n / 4096 && (s.graph l.graph).any (fun g => g.part == part))
  | .elastic d e _ => (s.elastic d e).part == part
  | .none => false

/-- Nothing of a partition is in flight: no token, packet, request or slot release (R153, R354), and no deadlock probe of its
hosts (R301). -/
def State.partQuiet (s : State) (part : BitVec 6) (p : Partition) : Bool :=
  let mine := fun (q : List Flight) => q.all (fun f => f.item.part != part)
  let none := fun (q : List Req) => q.all (fun r => r.src.part != part)
  s.classClear part && !s.releases.any (s.releasesTo part p) && !s.probes.any (fun q => p.mts.contains (q.mt, q.leaf)) &&
    s.flight.all (fun f => f.req.src.part != part || !f.req.virtual) &&
    s.boxes.all (fun b => b.2.buf.all (fun q => mine q.2) && b.2.bridge.all (fun q => mine q.2)) &&
    s.memTiles.all (fun m => m.2.queues.all (fun q => none q.2) && none m.2.hold && none (m.2.walks.map (fun w => w.req)))

/-- A memory tile has saved: its host has forwarded the marker, its engine rests with the markers at the heads of its queues and
has forwarded its own, and its edge buffers have passed theirs on (R248, R304, R323). -/
def State.mtSaved (s : State) (mt : Site) (l : Leaf) : Bool :=
  let m := s.mt mt
  let f := m.lf[l]
  f.marked && f.toMark.isEmpty && s.engineQuiet mt l && f.tpl.toList.all (s.queueMarked mt l) &&
    m.ebuf[l].toList.all (fun b => b.port.isEmpty && b.out.outq.isEmpty && (!b.out.bound || b.preempt.isNone))

/-- Every node of a partition has saved and every back-edge marker has arrived (R354). -/
def State.swapOutDone (s : State) (w : Swap) (p : Partition) : Bool :=
  p.dies.all w.reached && s.partQuiet w.part p &&
    p.tiles.all (fun t => (s.ctx t.1 t.2).saved && (s.ctx t.1 t.2).inp.toList.all (fun i => !i.openBack) &&
      (s.ctx t.1 t.2).outp.toList.all (fun o => o.outq.isEmpty)) &&
    p.mts.all (fun m => s.mtSaved m.1 m.2)

/-- Every tile of a partition has been restored, and the graphs that ended meanwhile have ended (R355, R359). -/
def State.restoreDone (s : State) (w : Swap) (p : Partition) : Bool :=
  p.dies.all w.reached && p.tiles.all (fun t => w.tiles.contains t) &&
    !s.launches.any (fun l => match s.graph l.graph with
      | some g => g.part == w.part && s.graphDue l g
      | none => false)

/-- A record goes out to device memory with what belongs to it, and leaves its leaf free (R304, R339, R355, R358). -/
def State.sendOut (s : State) (part : BitVec 6) (pa : Nat) (n : Nat) (t : Site × Leaf) : State :=
  let s1 := if s.homeFenced (pa + 65536 * n) then s else s.recordOut t.1 t.2 (pa + 65536 * n) 16384
  let c := s1.ctx t.1 t.2
  let m := s1.mt (homeMemTile t.1)
  let key := refusedKey t.1 t.2
  let grant := fun (g : Grant) => g.src.tile == t.1 && g.src.leaf == t.2
  let token := fun (r : Ready) => r.tile == t.1 && r.leaf == t.2
  let report := fun (r : Report) => r.tile == t.1 && r.leaf == t.2
  let x : Stash :=
    { part := part, site := t.1, leaf := t.2, ctx := c, grants := s1.grants.filter grant, ready := s1.ready.filter token,
      reports := s1.reports.filter report, refused := m.refused.get key [],
      sigs := match c.sigPlace 0 with
        | some base => s1.dies[siteDie t.1].sigTable base
        | none => [] }
  let s2 := (s1.onCtx t.1 t.2 (fun _ => {})).onMt (homeMemTile t.1) (fun m => { m with refused := m.refused.set key [] })
  { s2.setSigs t.1 c [] with
      grants := s1.grants.filter (fun g => !grant g), ready := s1.ready.filter (fun r => !token r),
      reports := s1.reports.filter (fun r => !report r), stash := s1.stash ++ [x] }

/-- The units of a memory tile go out with their partition; the registers of the leaf keep their values (R358, R398). -/
def State.sendOutMt (s : State) (part : BitVec 6) (m : Site × Leaf) : State :=
  let x := s.mt m.1
  let f := x.lf[m.2]
  { s.onMtLeaf m.1 m.2 (fun f =>
      { f with keys := [], store := [], lanes := [], records := [],
               tpl := f.tpl.map (fun t => { t with pend := [], fired := [], run := none }) }) with
      stash := s.stash ++ [{ part := part, site := m.1, leaf := m.2, mtLeaf := f, ebufs := x.ebuf[m.2] }] }

/-- The commanding core learns that its swap is complete: SWSTAT clears and EVPEND[2] sets (R395, R399, R407). -/
def State.tellSwap (s : State) (w : Swap) : State :=
  if s.cores[w.core].swstat.getLsbD w.part.toNat then
    s.onCore w.core (fun c => ({ c with swstat := c.swstat &&& ~~~(1#64 <<< w.part.toNat) } : Core).raise 2)
  else s

/-- A swap-out or a restore is complete; a restore that left a tile unrestored leaves the partition swapped out (R362). What a
host decided for a tile before the host itself was restored is delivered at the end of the restore (R304, R355). -/
def State.endSwap (s : State) (w : Swap) (p : Partition) : State :=
  let s1 := { s with swaps := s.swaps.filter (fun x => x.part != w.part) }
  let left := w.restore && p.tiles.any (fun t => (s.ctx t.1 t.2).saved)
  let s2 := s1.onPart w.part (fun p => { p with swapped := !w.restore || left, inMemory := (!w.restore || left) && w.memory.isSome })
  let s3 :=
    if left then s2
    else if !w.restore then
      let s3 := p.mts.foldl (fun x m =>
        (x.onMtLeaf m.1 m.2 (fun f => { f with occupied := false })).onMt m.1 (fun y =>
          { y with ebuf := y.ebuf.set m.2 (y.ebuf[m.2].map (fun b => { b with preempt := none })) })) s2
      match w.memory with
      | some pa => p.mts.foldl (fun x m => x.sendOutMt w.part m) (p.tiles.zipIdx.foldl (fun x t => x.sendOut w.part pa t.2 t.1) s3)
      | none => s3
    else
      p.tiles.foldl (fun x t => x.deliverAll t.1 t.2) { s2 with stash := s2.stash.filter (fun x => x.part != w.part) }
  s3.tellSwap w

/-- SWAP_COMPLETE; an image in device memory waits while a fenced die lies between (R10, R354, R359, R399; log 58). -/
def execSwapComplete (part : BitVec 6) (s : State) : Host.Outcome State Fault Refusal :=
  match s.swapOf part, s.part part with
  | some w, some p =>
    let shut := !w.restore && w.memory.any (s.imageShut part)
    happens (!shut && (if w.restore then s.restoreDone w p else s.swapOutDone w p)) s (s.endSwap w p)
  | _, _ => .next s

end Sys2Proof.Machine
end

