-- ==== Sys2Proof/Machine/CoreFabric.lean ====
section
/-!
DEFINITION. The fabric instructions of a control core (R397-R399) and the registers that they reach: box registers (R175),
tile-state registers (R398), program leaves (`tload`), translation caches (`tinv`), launch-table and pool words (R340,
R346), and the commands of `frz` and `thw`.
-/
namespace Sys2Proof.Machine

/-! ## Selectors (R397) -/

/-- SITE of a selector. -/
def selSite (a : W64) : Site := a.extractLsb' 0 12
/-- LEAF of a selector. -/
def selLeaf (a : W64) : Leaf := (a.extractLsb' 12 1).toFin
/-- BANK of a selector. -/
def selBank (a : W64) : BankId := (a.extractLsb' 13 2).toFin
/-- NUM of a selector. -/
def selNum (a : W64) : Nat := (a.extractLsb' 16 20).toNat

/-! ## Box registers (R174, R175, R179, R181, R182) -/

/-- A box register; numbers above 0x63 read 0 (R175). -/
def Box.reg (b : Box) (n : Nat) : W32 :=
  if n < 0x40 then (b.words.toList.getD n 0).setWidth 32
  else if n < 0x50 then (b.cls0.toList.getD (n - 0x40) 0).setWidth 32
  else if n < 0x60 then (b.cls1.toList.getD (n - 0x50) 0).setWidth 32
  else if n = 0x60 then b.gcfg.setWidth 32
  else if n = 0x61 then b.grpt
  else if n = 0x62 then b.gfirst
  else if n = 0x63 then b.bxpart.setWidth 32
  else 0

/-- A vector with one of its entries replaced, by a number that may lie outside. -/
def setAt {α : Type} {n : Nat} (v : Vector α n) (i : Nat) (x : α) : Vector α n :=
  v.mapFinIdx (fun j y _ => if j = i then x else y)

/-- A box register written; NOTE is W1C, GFIRST is RO, numbers above 0x63 are ignored (R175, R181). -/
def Box.setReg (b : Box) (n : Nat) (v : W32) : Box :=
  if n < 0x40 then { b with words := setAt b.words n (v.extractLsb' 0 16) }
  else if n < 0x50 then { b with cls0 := setAt b.cls0 (n - 0x40) (v.extractLsb' 0 4) }
  else if n < 0x60 then { b with cls1 := setAt b.cls1 (n - 0x50) (v.extractLsb' 0 4) }
  else if n = 0x60 then { b with gcfg := v.extractLsb' 0 10 }
  else if n = 0x61 then
    { b with grpt := v.extractLsb' 16 16 ++ BitVec.ofBool (b.grpt.getLsbD 15 && !v.getLsbD 15) ++ 0#15 }
  else if n = 0x63 then { b with bxpart := (v &&& 0x7F7F).setWidth 15 }
  else b

/-! ## Tile-state registers of a compute tile (R398) -/

/-- A bank whose record a control core can reach: stopped at a step boundary, idle or retired (R368, R398). -/
def Bank.reachable (k : Bank) : Bool := k.life != .running || ((k.faulted || k.frozen) && k.atBoundary)

/-- The context words, UMK, UMQ and UMV of a bank can be reached while the bank is stopped, idle or retired, and the words
of the tile header, queue, channel and class areas while every bank of the leaf is; a save has stopped every bank (R354,
R398). -/
def State.regOpen (s : State) (t : Site) (l : Leaf) (b : BankId) (n : Nat) : Bool :=
  let c := s.ctx t l
  let reach := fun (k : Bank) => c.saved || k.reachable
  if 0x34 ≤ n ∧ n ≤ 0x3C then reach c.banks[b]
  else if 0x4000 ≤ n ∧ n < 0x8000 then
    let o := 4 * (n - 0x4000)
    match recordBank o with
    | some k => reach c.banks[k]
    | none => decide (0xE240 ≤ o) || c.banks.toList.all reach
  else true

/-- A tile-state register of a compute tile (R398). -/
def State.computeReg (s : State) (t : Site) (l : Leaf) (b : BankId) (n : Nat) : W64 :=
  let c := s.ctx t l
  let k : Bank := c.banks[b]
  let w : W32 :=
    if n < 8 then (c.inp[(Fin.ofNat 8 n)]).icfg
    else if n < 0x10 then (c.outp[(Fin.ofNat 8 n)]).ocfg
    else if n = 0x10 then c.sshare
    else if n = 0x11 then c.respmask.setWidth 32
    else if n = 0x12 then c.wswin
    else if n = 0x13 then c.barcfg
    else if n = 0x14 then c.barch
    else if n = 0x15 then c.sigcfg
    else if 0x18 ≤ n ∧ n < 0x20 then (c.drain[(Fin.ofNat 8 n)]).setWidth 32
    else if 0x20 ≤ n ∧ n < 0x30 then (c.handlers[(Fin.ofNat 16 n)]).setWidth 32
    else if n = 0x30 then (s.shownBank t l b).bstat
    else if 0x34 ≤ n ∧ n < 0x38 then (k.held[(Fin.ofNat 4 n)]).key
    else if 0x38 ≤ n ∧ n < 0x3C then (k.held[(Fin.ofNat 4 n)]).seq
    else if n = 0x3C then 0#24 ++ k.psn ++ k.heldBits
    else if 0x4000 ≤ n ∧ n < 0x8000 then s.recordWord t l (4 * (n - 0x4000))
    else if 0x10000 ≤ n ∧ n < 0x20000 then (s.tile t).scratch.readW32 (4 * (n - 0x10000))
    else 0
  if n = 0x31 then k.fltx else w.setWidth 64

/-- A resident partition holds a signature slot of the die in a leaf of a tile other than this one (R339, R358). -/
def State.sigTaken (s : State) (t : Site) (l : Leaf) (base : Nat) : Bool :=
  s.tiles.any (fun q =>
    let u : Site := BitVec.ofNat 12 q.1
    siteDie u == siteDie t && (List.finRange 2).any (fun m =>
      (u, m) != (t, l) && (q.2.ctx[m]).sigPlace 0 == some base && s.leafHeldBy u m (fun _ => true)))

/-- SIGCFG written: the loader writes it to allot a slot, whose entries are invalid from then on, unless another resident
partition holds the slot (R339; that every write allots is DEDUCED, log 37). -/
def State.setSigcfg (s : State) (t : Site) (l : Leaf) (w : W32) : State :=
  let s1 := s.onCtx t l (fun c => { c with sigcfg := w })
  match (s1.ctx t l).sigPlace 0 with
  | some base => if s.sigTaken t l base then s1 else s1.setSigs t (s1.ctx t l) []
  | none => s1

/-- A tile-state register of a compute tile written in its width; RO bits stay (R152, R224, R231, R236, R264, R398). -/
def State.setComputeReg (s : State) (t : Site) (l : Leaf) (b : BankId) (n : Nat) (v : W64) : State :=
  let w : W32 := v.extractLsb' 0 32
  let onK := fun (f : Bank → Bank) => s.onBank t l b f
  if n < 8 then
    s.onCtx t l (fun c => { c with inp := c.inp.set (Fin.ofNat 8 n) { c.inp[(Fin.ofNat 8 n)] with icfg := w &&& 0x80FFFFFF } })
  else if n < 0x10 then
    s.onCtx t l (fun c => { c with outp := c.outp.set (Fin.ofNat 8 n) { c.outp[(Fin.ofNat 8 n)] with ocfg := w &&& 0xC0FFF0FF } })
  else if n = 0x10 then s.onCtx t l (fun c => { c with sshare := w &&& 0x7F3F })
  else if n = 0x11 then s.onCtx t l (fun c => { c with respmask := w.extractLsb' 0 8 })
  else if n = 0x12 then s.onCtx t l (fun c => { c with wswin := w &&& 0x03FF01FF })
  else if n = 0x13 then s.onCtx t l (fun c => { c with barcfg := w })
  else if n = 0x14 then s.onCtx t l (fun c => { c with barch := w &&& 0x3FFFFFF0 })
  else if n = 0x15 then s.setSigcfg t l (w &&& 0x1F)
  else if 0x18 ≤ n ∧ n < 0x20 then s.onCtx t l (fun c => { c with drain := c.drain.set (Fin.ofNat 8 n) (w.extractLsb' 0 4) })
  else if 0x20 ≤ n ∧ n < 0x30 then
    s.onCtx t l (fun c => { c with handlers := c.handlers.set (Fin.ofNat 16 n) (w.extractLsb' 0 13) })
  else if n = 0x30 then (if w.getLsbD 7 then s.resumeBank t l b else s)
  else if 0x34 ≤ n ∧ n < 0x38 then onK (fun k => k.onHeld (n - 0x34) (fun h => { h with key := w }))
  else if 0x38 ≤ n ∧ n < 0x3C then onK (fun k => k.onHeld (n - 0x38) (fun h => { h with seq := w }))
  else if n = 0x3C then onK (fun k => { k.setHeldBits (w.extractLsb' 0 4) with psn := w.extractLsb' 4 4 })
  else if 0x4000 ≤ n ∧ n < 0x8000 then s.setRecordWord t l (4 * (n - 0x4000)) w
  else if 0x10000 ≤ n ∧ n < 0x20000 then s.onTile t (fun x => x.putScratch (4 * (n - 0x10000)) 4 w.toNat)
  else s

/-! ## Tile-state registers of a memory tile (R398) -/

/-- EBD of an edge buffer (R245). -/
def EdgeBuf.ebd (b : EdgeBuf) : W32 := BitVec.ofBool b.v ++ BitVec.ofBool b.freed ++ b.drops ++ b.cap64 ++ 0#1 ++ b.base

/-- EBD written; FREED is RO, and a write of V clears it (R245, R247). -/
def EdgeBuf.setEbd (b : EdgeBuf) (w : W32) : EdgeBuf :=
  { b with freed := b.freed && !w.getLsbD 31, v := w.getLsbD 31, drops := w.extractLsb' 24 6, cap64 := w.extractLsb' 16 8, base := w.extractLsb' 0 15 }

/-- A tile-state register of a memory tile (R398). UMREL and TPLFIRE are WO. -/
def State.memoryReg (s : State) (t : Site) (l : Leaf) (n : Nat) : W64 :=
  let m := s.mt t
  let f : MtLeaf := m.lf[l]
  if n < 8 then f.ownr[(Fin.ofNat 8 n)]
  else if n = 0x08 then f.umhcfg.setWidth 64
  else if n = 0x09 then f.umblim.setWidth 64
  else if n = 0x0B then f.redto.setWidth 64
  else if n = 0x0C then (m.trcfg[l]).setWidth 64
  else if n = 0x0D then f.domwin
  else if n = 0x0E then m.mtwin.setWidth 64
  else if 0x10 ≤ n ∧ n < 0x18 then ((m.ebuf[l][(Fin.ofNat 8 n)]).ebd).setWidth 64
  else if 0x20 ≤ n ∧ n < 0x30 then f.ctag[(Fin.ofNat 16 n)]
  else if 0x30 ≤ n ∧ n < 0x34 then ((f.tpl[(Fin.ofNat 4 n)]).tplst).setWidth 64
  else if 0x40 ≤ n ∧ n < 0x80 then (f.umhost[(Fin.ofNat 64 n)]).setWidth 64
  else if 0x80 ≤ n ∧ n < 0xD0 then
    let u : Template := f.tpl[(Fin.ofNat 4 ((n - 0x80) / 20))]
    (u.word ((n - 0x80) % 20)).setWidth 64
  else if 0x40000 ≤ n ∧ n < 0x80000 then (f.storageWord t (n - 0x40000)).setWidth 64
  else 0

/-- A tile-state register of a memory tile written in its width; RO bits stay. A refused TPLFIRE is a PERM fault (R245,
R269, R279, R289, R300, R303, R314, R315, R318, R377, R398, R404, R435). -/
def State.setMemoryReg (s : State) (t : Site) (l : Leaf) (n : Nat) (v : W64) : Except Cause State :=
  let w : W32 := v.extractLsb' 0 32
  let onF := fun (f : MtLeaf → MtLeaf) => Except.ok (ε := Cause) (s.onMtLeaf t l f)
  if n < 8 then onF (fun f => { f with ownr := f.ownr.set (Fin.ofNat 8 n) (v &&& 0xFFFFFFFFFFFFF1FF) })
  else if n = 0x08 then onF (fun f => { f with umhcfg := w.extractLsb' 0 7 })
  else if n = 0x09 then onF (fun f => { f with umblim := w })
  else if n = 0x0A then .ok (afterEvent s (execUmrelWrite t l v s))
  else if n = 0x0B then onF (fun f => { f with redto := w.extractLsb' 0 24 })
  else if n = 0x0C then .ok (s.onMt t (fun m => { m with trcfg := m.trcfg.set l (v.extractLsb' 0 60) }))
  else if n = 0x0D then onF (fun f => { f with domwin := v &&& 0x800000000000007F })
  else if n = 0x0E then .ok (s.onMt t (fun m => { m with mtwin := w.extractLsb' 0 6 }))
  else if 0x10 ≤ n ∧ n < 0x18 then .ok (s.onEbuf t l (Fin.ofNat 8 n) (fun b => b.setEbd w))
  else if 0x20 ≤ n ∧ n < 0x30 then onF (fun f => { f with ctag := f.ctag.set (Fin.ofNat 16 n) (v &&& 0xFFFFFF00FCFFFFFF) })
  else if 0x30 ≤ n ∧ n < 0x34 then .ok (s.setTplst t l (Fin.ofNat 4 n) w)
  else if 0x34 ≤ n ∧ n < 0x38 then
    match s.tplfire t l (Fin.ofNat 4 n) v with
    | some s1 => .ok s1
    | none => .error .perm
  else if 0x40 ≤ n ∧ n < 0x80 then onF (fun f => { f with umhost := f.umhost.set (Fin.ofNat 64 n) (w &&& 0x800001FF) })
  else if 0x80 ≤ n ∧ n < 0xD0 then
    .ok (s.onTpl t l (Fin.ofNat 4 ((n - 0x80) / 20)) (fun u => { u with w := setAt u.w ((n - 0x80) % 20) w }))
  else if 0x40000 ≤ n ∧ n < 0x80000 then onF (fun f => f.setStorageWord t (n - 0x40000) w)
  else .ok s

/-- A tile-state register by its selector: a number or a kind of site that the table does not assign reads 0 (R398). -/
def State.tileRead (s : State) (a : W64) : Except Cause W64 :=
  match siteKind (selSite a) with
  | .compute =>
    if s.regOpen (selSite a) (selLeaf a) (selBank a) (selNum a) then
      .ok (s.computeReg (selSite a) (selLeaf a) (selBank a) (selNum a))
    else .error .perm
  | .memory => .ok (s.memoryReg (selSite a) (selLeaf a) (selNum a))
  | _ => .ok 0

/-- A tile-state register written by its selector (R398). -/
def State.tileWrite (s : State) (a v : W64) : Except Cause State :=
  match siteKind (selSite a) with
  | .compute =>
    if s.regOpen (selSite a) (selLeaf a) (selBank a) (selNum a) then
      .ok (s.setComputeReg (selSite a) (selLeaf a) (selBank a) (selNum a) v)
    else .error .perm
  | .memory => s.setMemoryReg (selSite a) (selLeaf a) (selNum a) v
  | _ => .ok s

/-! ## The instructions (R397) -/

/-- What stands between a control core and a site: it lies on a fenced die, which no instruction reaches, or behind one, and the
instruction waits (R10, R406; log 58). -/
inductive Reach where
  | open
  | waits
  | lost
  deriving DecidableEq, Repr

/-- How a control core reaches a site. -/
def State.reach (s : State) (k : CoreId) (t : Site) : Reach :=
  if s.fenced (siteDie t) then .lost else if s.pathOpen (coreDie k) (siteDie t) then .open else .waits

/-- An instruction of the executing core that acts on the site of a selector: PAGE when the site lies on a fenced die (R406; log
58). -/
def State.onSite (s : State) (x : W64) (f : Host.Outcome State Fault Refusal) : Host.Outcome State Fault Refusal :=
  match s.reach s.cur.core (selSite x) with
  | .open => f
  | .waits => .next s
  | .lost => .next (s.coreFault .page x)

/-- `tsr` (R397, R398). -/
def execTsr (d a : BitVec 5) (s : State) : Host.Outcome State Fault Refusal :=
  let x := s.curCore.rx a
  s.onSite x (match s.tileRead x with
    | .ok v => .next (s.onCurCore (fun c => (c.wx d v).done))
    | .error f => .next (s.coreFault f x))

/-- `tsw` (R397, R398): the write waits for the next cycle boundary of the die of its target; a site of the wrong kind ignores
it. -/
def execTsw (a b : BitVec 5) (s : State) : Host.Outcome State Fault Refusal :=
  let x := s.curCore.rx a
  let v := s.curCore.rx b
  s.onSite x (match s.tileWrite x v with
    | .ok _ =>
      if isCompute (selSite x) ∨ isMemory (selSite x) then .next (s.onCurCore (fun c => { c with busy := .tsw x v }))
      else .next (s.onCurCore Core.done)
    | .error f => .next (s.coreFault f x))

/-- `cfgw` (R175, R176, R397): with B = x0 it only reads; a write waits for the next cycle boundary of the box. -/
def execCfgw (d a b : BitVec 5) (s : State) : Host.Outcome State Fault Refusal :=
  let x := s.curCore.rx a
  let t := selSite x
  let there := siteKind t != .none
  s.onSite x (
    if b = 0 ∨ !there then
      let old : W32 := if there then (s.box t).reg (selNum x) else 0
      .next (s.onCurCore (fun c => (c.wx d (old.setWidth 64)).done))
    else .next (s.onCurCore (fun c => { c with busy := .cfgw d t (selNum x) ((s.curCore.rx b).extractLsb' 0 32) })))

/-- How a bundle at a virtual address is fetched for a leaf: at once, over the host port, not yet, or its fault (R241, R397). -/
inductive Fetch where
  | now (w : Bundle) (s : State)
  | host (pa : Nat) (s : State)
  | waits
  | fault (f : XFault)

/-- The bundle at a virtual address, for a leaf (R397): the page has to carry V, R and X; it waits while a table or the bundle
cannot be read, and one in host memory is read over the host port (R237, R241; log 58). -/
def State.fetchFor (s : State) (t : Site) (l : Leaf) (va : Nat) : Fetch :=
  let mt := homeMemTile t
  match s.translateNow mt l va with
  | none => .waits
  | some (.error f) => .fault f
  | some (.ok (e, s1)) =>
    let pa := e.pa va
    if !e.pte.getLsbD 3 then .fault .perm
    else
      match s.accessCheck (s.mtLeaf mt l).part (siteDie t) .read e.pte pa 16 with
      | some f => .fault f
      | none =>
        if isHost pa then .host pa s1
        else if s.refreshes pa || s.pathShut (siteDie t) pa then .waits
        else if s.lineBad pa then .fault .ecc
        else
          match s1.passSlice pa false with
          | none => .waits
          | some x => .now (BitVec.ofNat 128 (s.mem.readNat pa 16)) x

/-- How far a `tload` has come: to its end, to a fault at an address, to a bundle that it waits for, or to one that the host is to
read. -/
inductive Loaded where
  | done
  | fault (c : Cause) (va : Nat)
  | waits (first va n : Nat)
  | host (pa first va n : Nat)
  deriving DecidableEq, Repr

/-- Bundles copied one after another; a fault leaves those already copied (R397). -/
def State.copyBundles (s : State) (t : Site) (l : Leaf) (first va : Nat) : Nat → State × Loaded
  | 0 => (s, .done)
  | n + 1 =>
    match s.fetchFor t l va with
    | .waits => (s, .waits first va (n + 1))
    | .fault f => (s, .fault f.cause va)
    | .host pa s1 => (s1, .host pa first va (n + 1))
    | .now w s1 => (s1.putBundle t l first w).copyBundles t l (first + 1) (va + 16) n

/-- A `tload` of a core copies what it can: it completes, faults, waits and goes on with the next cycle of the core's die, or
waits for the host's answer (R237, R241, R397). -/
def State.loadBundles (s : State) (k : CoreId) (t : Site) (l : Leaf) (first va n : Nat) : State :=
  let free := fun (c : Core) => { c with busy := .none }
  match s.copyBundles t l first va n with
  | (s1, .done) => s1.onCore k (fun c => (free c).done)
  | (s1, .fault f at_) => (s1.onCore k free).ccException k f (BitVec.ofNat 64 at_)
  | (s1, .waits i a m) => s1.onCore k (fun c => { c with busy := .tload t l i a m })
  | (s1, .host pa i a m) => s1.hostRead k (BitVec.ofNat 64 a) pa (.bundle k t l i m)

/-- `tload` (R397). -/
def execTload (a b : BitVec 5) (s : State) : Host.Outcome State Fault Refusal :=
  let x := s.curCore.rx a
  let va := (s.curCore.rx b).toNat
  let t := selSite x
  let l := selLeaf x
  let first := (x.extractLsb' 16 12).toNat
  let count := (x.extractLsb' 32 13).toNat
  let busy := (s.ctx t l).banks.toList.any (fun k => k.life == .running && !k.faulted && !k.frozen)
  if count = 0 ∨ 4096 < count ∨ 4096 < first + count then .next (s.coreFault .srange x)
  else if !isCompute t ∨ busy then .next (s.coreFault .perm x)
  else if va % 16 ≠ 0 then .next (s.coreFault .align (BitVec.ofNat 64 va))
  else s.onSite x (.next (s.loadBundles s.cur.core t l first va count))

/-- What a core waits for at the start of a cycle of a die: its `tsw` or `cfgw` takes effect at its target there, and completes,
or faults as the target then stands; a `tload` of a core of the die goes on (R176, R237, R397). One whose target lies on a fenced
die faults PAGE (R406; log 58). -/
def State.applyWrite (s : State) (d : DieId) (k : CoreId) : State :=
  let free := fun (c : Core) => { c with busy := .none }
  match s.cores[k].busy with
  | .tsw sel v =>
    if siteDie (selSite sel) ≠ d then s
    else if s.fenced d then (s.onCore k free).ccException k .page sel
    else
      match s.tileWrite sel v with
      | .ok s1 => s1.onCore k (fun c => (free c).done)
      | .error f => (s.onCore k free).ccException k f sel
  | .cfgw x t n v =>
    if siteDie t ≠ d then s
    else if s.fenced d then (s.onCore k free).ccException k .page (BitVec.ofNat 64 (t.toNat + 65536 * n))
    else
      let old := (s.box t).reg n
      (s.onBox t (fun q => q.setReg n v)).onCore k (fun c => ((free c).wx x (old.setWidth 64)).done)
  | .tload t l i va n =>
    if coreDie k ≠ d then s
    else if s.fenced (siteDie t) then (s.onCore k free).ccException k .page (BitVec.ofNat 64 va)
    else s.loadBundles k t l i va n
  | _ => s

/-- The instructions of the control cores that wait for the start of a cycle of a die (R397). -/
def State.applyWrites (s : State) (d : DieId) : State := (List.finRange 16).foldl (fun x k => x.applyWrite d k) s

/-- `tinv` (R383, R397): the entries are dropped, and the core waits for the acknowledgement. -/
def execTinv (d a b : BitVec 5) (s : State) : Host.Outcome State Fault Refusal :=
  let count := s.curCore.rx b
  let lo := (s.curCore.rx a).toNat / 4096 * 4096
  if count = 0 ∨ 2 ^ 42 < count.toNat then .next (s.coreFault .srange count)
  else
    .next ((s.tinvDrop s.cur.core ((s.curCore.rx d).extractLsb' 0 16) lo (lo + 4096 * count.toNat)).onCurCore (fun c =>
      { c with busy := .tinv }))

/-- TINV_ACKNOWLEDGEMENT: the conditions of R383 hold, and the core's `tinv` completes. -/
def execTinvAcknowledgement (k : CoreId) (s : State) : Host.Outcome State Fault Refusal :=
  match s.tinvs.find? (fun t => t.core == k) with
  | none => .next s
  | some t =>
    if s.tinvDone t then
      let s1 := { s with tinvs := s.tinvs.filter (fun u => u.core != k) }
      .next (s1.onCore k (fun c => if c.busy = .tinv then ({ c with busy := .none } : Core).done else c))
    else .next s

/-! ## Launch-table and pool words (R340, R341, R346, R397) -/

/-- A word of a pool entry, laid out as a table entry: a child has its template's graph and priority and no successors
(R340, R346, R347). -/
def State.poolWord (s : State) (n j : Nat) : W32 :=
  match s.poolEntry n with
  | none => 0
  | some p =>
    let e := s.entry p.template.toNat
    let state : BitVec 2 := if s.launches.any (fun l => l.slot == poolSlot n) then 2 else if p.ready then 1 else 0
    if j = 0 then 1#1 ++ state ++ p.prio ++ p.depth ++ 0#17 ++ p.src.part
    else if j = 1 then e.w1
    else if j = 3 then p.range.1
    else if j = 4 then p.range.2
    else 0

/-- `frd` (R397): words 5-7 read 0. -/
def execFrd (d a : BitVec 5) (s : State) : Host.Outcome State Fault Refusal :=
  let x := s.curCore.rx a
  let n := (x.extractLsb' 4 12).toNat
  let j := (x.extractLsb' 0 3).toNat
  let v := if x.getLsbD 16 then s.poolWord (n % 1024) j else (s.entry n).word j
  .next (s.onCurCore (fun c => (c.wx d (v.setWidth 64)).done))

/-- `gtw` (R341, R349, R397): it waits while an election is in progress; a pool entry and words 5-7 cannot be written. -/
def execGtw (a b : BitVec 5) (s : State) : Host.Outcome State Fault Refusal :=
  let x := s.curCore.rx a
  let j := (x.extractLsb' 0 3).toNat
  if s.election then .next s
  else
    let s1 := if x.getLsbD 16 ∨ 4 < j then s
      else s.writeEntry (x.extractLsb' 4 12).toNat j ((s.curCore.rx b).extractLsb' 0 32)
    .next (s1.onCurCore Core.done)

/-! ## Commands (R399) -/

/-- Every bank of a mask of SITE and LEAF changed; a site of the wrong kind has none. -/
def State.onMask (s : State) (a : W64) (f : State → BankId → State) : State :=
  if isCompute (selSite a) then
    (List.finRange 4).foldl (fun x b => if a.getLsbD (16 + b.val) then f x b else x) s
  else s

/-- `frz` command 0: the named banks are frozen (R368, R399). -/
def execFrzFreeze (_d a _b : BitVec 5) (s : State) : Host.Outcome State Fault Refusal :=
  let x := s.curCore.rx a
  s.onSite x (.next ((s.onMask x (fun y b => y.onBank (selSite x) (selLeaf x) b (fun k => { k with frozen := true }))).onCurCore Core.done))

/-- `thw` command 0: FROZEN of the named banks clears (R368, R399). -/
def execThwThaw (_d a _b : BitVec 5) (s : State) : Host.Outcome State Fault Refusal :=
  let x := s.curCore.rx a
  s.onSite x (.next ((s.onMask x (fun y b => y.thawBank (selSite x) (selLeaf x) b)).onCurCore Core.done))

/-- The partition that a command names. -/
def State.cmdPart (s : State) (a : BitVec 5) : BitVec 6 := (s.curCore.rx a).extractLsb' 0 6

/-- A swap through memory begins, or takes PAGE when a record of the image is homed on a fenced die (R358, R399, R406; log 58). -/
def State.swapCmd (s : State) (part : BitVec 6) (memory : Option Nat) (restore : Bool) : State :=
  match memory with
  | some pa =>
    if s.imageFenced part pa then s.coreFault .page (BitVec.ofNat 64 pa) else s.beginSwap part s.cur.core memory restore
  | none => s.beginSwap part s.cur.core memory restore

/-- A swap-out command: PERM when the partition does not run (R399). -/
def State.swapOutCmd (s : State) (a : BitVec 5) (memory : Option Nat) : State :=
  if s.resident (s.cmdPart a) then s.swapCmd (s.cmdPart a) memory false else s.coreFault .perm 0

/-- A restore command: PERM when the partition cannot be restored onto its tiles (R399). -/
def State.restoreCmd (s : State) (a : BitVec 5) (memory : Option Nat) : State :=
  if s.restoreBad (s.cmdPart a) memory.isSome then s.coreFault .perm 0
  else s.swapCmd (s.cmdPart a) memory true

/-- `frz` command 1 (R353, R399). -/
def execFrzSwapOut (_d a _b : BitVec 5) (s : State) : Host.Outcome State Fault Refusal := .next (s.swapOutCmd a none)
/-- `frz` command 2 (R358, R399). -/
def execFrzSwapOutMemory (d a _b : BitVec 5) (s : State) : Host.Outcome State Fault Refusal :=
  .next (s.swapOutCmd a (some (s.curCore.rx d).toNat))
/-- `thw` command 1 (R359, R399). -/
def execThwRestore (_d a _b : BitVec 5) (s : State) : Host.Outcome State Fault Refusal := .next (s.restoreCmd a none)
/-- `thw` command 2 (R358, R399). -/
def execThwRestoreMemory (d a _b : BitVec 5) (s : State) : Host.Outcome State Fault Refusal :=
  .next (s.restoreCmd a (some (s.curCore.rx d).toNat))

/-- `frz` command 3: the graph that an entry started is killed; of an entry that is not RUNNING nothing changes (R370,
R399). -/
def execFrzKill (_d a _b : BitVec 5) (s : State) : Host.Outcome State Fault Refusal :=
  let x := s.curCore.rx a
  let n := (x.extractLsb' 0 12).toNat
  let slot := if x.getLsbD 12 then poolSlot n else n
  let s1 :=
    match s.launches.find? (fun l => l.slot == slot) with
    | none => s
    | some l =>
      match s.graph l.graph with
      | some g => s.kill l g
      | none => s
  .next (s1.onCurCore Core.done)

end Sys2Proof.Machine
end

