-- ==== Sys2Proof/Machine/Sign.lean ====
section
/-!
DEFINITION. The hash and the signature that the boot ROM and the attestation unit use (R408, R409): SHAKE256 of FIPS 202, and the
verification of SLH-DSA-SHAKE-256s of FIPS 205. The spec names the two standards and prints neither (PRESUMED, log 60).
-/
namespace Sys2Proof.Machine

/-! ## SHAKE256 (FIPS 202) -/

/-- The lanes of the permutation: lane (x, y) is at 5y + x. -/
abbrev Lanes := Vector W64 25

/-- The constants of the 24 rounds. -/
def roundConstants : List W64 :=
  [0x0000000000000001, 0x0000000000008082, 0x800000000000808A, 0x8000000080008000, 0x000000000000808B, 0x0000000080000001,
   0x8000000080008081, 0x8000000000008009, 0x000000000000008A, 0x0000000000000088, 0x0000000080008009, 0x000000008000000A] ++
  [0x000000008000808B, 0x800000000000008B, 0x8000000000008089, 0x8000000000008003, 0x8000000000008002, 0x8000000000000080,
   0x000000000000800A, 0x800000008000000A, 0x8000000080008081, 0x8000000000008080, 0x0000000080000001, 0x8000000080008008]

/-- The distance by which each lane is rotated. -/
def laneRotations : List Nat :=
  [0, 1, 62, 28, 27, 36, 44, 6, 55, 20, 3, 10, 43, 25, 39, 41, 45, 15, 21, 8, 18, 2, 61, 56, 14]

/-- A lane of the state. -/
def Lanes.lane (a : Lanes) (x y : Nat) : W64 := a.toList.getD (5 * (y % 5) + x % 5) 0

/-- One round of the permutation. -/
def keccakRound (a : Lanes) (rc : W64) : Lanes :=
  let col : Vector W64 5 := Vector.ofFn (fun x => a.lane x 0 ^^^ a.lane x 1 ^^^ a.lane x 2 ^^^ a.lane x 3 ^^^ a.lane x 4)
  let c := fun (x : Nat) => col.toList.getD (x % 5) 0
  let theta : Lanes := Vector.ofFn (fun i => a[i] ^^^ c (i.val % 5 + 4) ^^^ (c (i.val % 5 + 1)).rotateLeft 1)
  let turned : Lanes := Vector.ofFn (fun i =>
    let x := (i.val % 5 + 3 * (i.val / 5)) % 5
    let y := i.val % 5
    (theta.lane x y).rotateLeft (laneRotations.getD (5 * y + x) 0))
  Vector.ofFn (fun i =>
    let x := i.val % 5
    let y := i.val / 5
    turned[i] ^^^ (~~~(turned.lane (x + 1) y) &&& turned.lane (x + 2) y) ^^^ (if i.val = 0 then rc else 0))

/-- The permutation of the sponge. -/
def keccakF (a : Lanes) : Lanes := roundConstants.foldl keccakRound a

/-- Bytes as a number, the first lowest. -/
def bytesLe (l : List Byte) : Nat := l.foldr (fun x n => x.toNat + 256 * n) 0

/-- Bytes as a number, the first highest. -/
def bytesBe (l : List Byte) : Nat := l.foldl (fun n x => 256 * n + x.toNat) 0

/-- A number as n bytes, the highest first. -/
def beBytes (v n : Nat) : List Byte := (List.range n).map (fun i => BitVec.ofNat 8 (v / 2 ^ (8 * (n - 1 - i))))

/-- Bytes that one application of the permutation takes in or gives out. -/
def shakeRate : Nat := 136

/-- A message with its padding (1111, then 10*1), a multiple of the rate. -/
def shakePad (m : List Byte) : List Byte :=
  let p := shakeRate - m.length % shakeRate
  m ++ (if p = 1 then [0x9F] else [0x1F] ++ List.replicate (p - 2) 0 ++ [0x80])

/-- A block of a message enters the state. -/
def absorbBlock (a : Lanes) (b : List Byte) : Lanes :=
  keccakF (Vector.ofFn (fun i => a[i] ^^^ BitVec.ofNat 64 (bytesLe ((b.drop (8 * i.val)).take (min 8 (shakeRate - 8 * i.val))))))

/-- The bytes of the state that one application of the permutation gives. -/
def squeezeBlock (a : Lanes) : List Byte :=
  (a.toList.flatMap (fun w => (List.range 8).map (fun i => w.extractLsb' (8 * i) 8))).take shakeRate

/-- The first n bytes of SHAKE256 of a message. -/
def shake256 (m : List Byte) (n : Nat) : List Byte :=
  let p := shakePad m
  let start : Lanes := Vector.replicate 25 0
  let full := (List.range (p.length / shakeRate)).foldl (fun (q : Lanes × List Byte) _ =>
    (absorbBlock q.1 (q.2.take shakeRate), q.2.drop shakeRate)) (start, p)
  let out := (List.range ((n + shakeRate - 1) / shakeRate)).foldl (fun (q : Lanes × List Byte) _ =>
    (keccakF q.1, q.2 ++ squeezeBlock q.1)) (full.1, [])
  out.2.take n

/-! ## SLH-DSA-SHAKE-256s (FIPS 205): n 32, h 64, d 8, h' 8, a 14, k 22, w 16 -/

/-- An address of the hash functions: layer, tree and type, then three words that depend on the type. -/
structure HashAddress where
  layer : Nat := 0
  tree : Nat := 0
  kind : Nat := 0
  pair : Nat := 0
  height : Nat := 0
  index : Nat := 0
  deriving DecidableEq, Repr, Inhabited

/-- The 32 bytes of an address. -/
def HashAddress.bytes (x : HashAddress) : List Byte :=
  beBytes x.layer 4 ++ beBytes x.tree 12 ++ beBytes x.kind 4 ++ beBytes x.pair 4 ++ beBytes x.height 4 ++ beBytes x.index 4

/-- The tweakable hash of 32 bytes: F, H and T of the standard. -/
def tweakHash (seed : List Byte) (x : HashAddress) (m : List Byte) : List Byte := shake256 (seed ++ x.bytes ++ m) 32

/-- The n digits of b bits that a byte string starts with, the highest bits first. -/
def digits (m : List Byte) (b n : Nat) : List Nat :=
  let v := bytesBe m
  (List.range n).map (fun i => v / 2 ^ (8 * m.length - b * (i + 1)) % 2 ^ b)

/-- Element i of a byte string whose elements have 32 bytes. -/
def element (l : List Byte) (i : Nat) : List Byte := (l.drop (32 * i)).take 32

/-- Steps of a hash chain from step i on. -/
def chainHash (seed : List Byte) (x : HashAddress) (m : List Byte) (i steps : Nat) : List Byte :=
  (List.range steps).foldl (fun v j => tweakHash seed { x with index := i + j } v) m

/-- The one-time public key that a one-time signature of a message gives. -/
def wotsKey (seed sig m : List Byte) (x : HashAddress) : List Byte :=
  let msg := digits m 4 64
  let sum := msg.foldl (fun n v => n + (15 - v)) 0
  let all := msg ++ digits (beBytes (sum * 16) 2) 4 3
  let tops := (List.range 67).flatMap (fun i =>
    let v := all.getD i 0
    chainHash seed { x with height := i } (element sig i) v (15 - v))
  tweakHash seed { x with kind := 1, height := 0, index := 0 } tops

/-- The root of a tree of hashes above a leaf of an index; the index in the address runs on from the given one. -/
def treeRoot (seed leaf path : List Byte) (x : HashAddress) (leafIx nodeIx levels : Nat) : List Byte :=
  (List.range levels).foldl (fun v j =>
    let y := { x with height := j + 1, index := nodeIx / 2 ^ (j + 1) }
    tweakHash seed y (if leafIx / 2 ^ j % 2 = 0 then v ++ element path j else element path j ++ v)) leaf

/-- The root of a layer's tree that a signature of a message by one of its leaves gives. -/
def xmssRoot (seed sig m : List Byte) (x : HashAddress) (leaf : Nat) : List Byte :=
  treeRoot seed (wotsKey seed sig m { x with kind := 0, pair := leaf }) (sig.drop (32 * 67)) { x with kind := 2 } leaf leaf 8

/-- The key of the few-time signature that a signature of a digest gives. -/
def forsKey (seed sig md : List Byte) (tree leaf : Nat) : List Byte :=
  let x : HashAddress := { tree := tree, kind := 3, pair := leaf }
  let ix := digits md 14 22
  let roots := (List.range 22).flatMap (fun i =>
    let v := ix.getD i 0
    let part := sig.drop (480 * i)
    treeRoot seed (tweakHash seed { x with index := i * 2 ^ 14 + v } (element part 0)) (part.drop 32) x v (i * 2 ^ 14 + v) 14)
  tweakHash seed { x with kind := 4 } roots

/-- The root of the hypertree that a signature of a key gives. -/
def hypertreeRoot (seed sig m : List Byte) (tree leaf : Nat) : List Byte :=
  (List.range 8).foldl (fun v j =>
    let below := tree / 2 ^ (8 * j)
    let at_ := if j = 0 then leaf else tree / 2 ^ (8 * (j - 1)) % 2 ^ 8
    xmssRoot seed (sig.drop (2400 * j)) v { layer := j, tree := below } at_) m

/-- A signature of 29,792 bytes over a message verifies under a public key of 64: the pure form, with an empty context. -/
def slhVerify (key msg sig : List Byte) : Bool :=
  let seed := key.take 32
  let root := key.drop 32
  let dig := shake256 (sig.take 32 ++ key ++ ([0, 0] ++ msg)) 47
  let tree := bytesBe ((dig.drop 39).take 7) % 2 ^ 56
  let leaf := bytesBe ((dig.drop 46).take 1) % 2 ^ 8
  let forsPart := (sig.drop 32).take 10560
  let pk := forsKey seed forsPart (dig.take 39) tree leaf
  sig.length == 29792 && key.length == 64 && hypertreeRoot seed (sig.drop 10592) pk tree leaf == root

end Sys2Proof.Machine
end

