-- ==== Sys2Proof/Machine/Host.lean ====
section
/-!
DEFINITION. The host port and the module: BAR0, BAR2 and BAR4 (R400-R402), links to other modules (R403, R404), power and
fencing (R405-R407), firmware and attestation (R408, R409), and register writes as events of their own (R6).
-/
namespace Sys2Proof.Machine

/-- HostRegs changed. -/
def State.onHost (s : State) (f : HostRegs → HostRegs) : State := { s with host := f s.host }

/-- BAR2 and BAR4 answer: the module is in P0 or P1 (R405). -/
def State.barsUp (s : State) : Bool := s.powered && decide (s.host.cur.toNat < 2)

/-! ## Reset and power (R37, R39, R405-R408) -/

/-- Host memory starts here (R222): it belongs to the host, and no reset of the module touches it. -/
def hostBase : Nat := 0x8000000000000

/-- The cells of a memory at and above an address. -/
def Memory.dropBelow (m : Memory) (a : Nat) : Memory := m.filter (fun c => decide (a ≤ c.1))

/-- The module right after a module reset: everything at reset but the flash, the module's place in the domain, which the
host's link configuration gives, the host's own memory, and the order of the model's turns. -/
def State.moduleReset (s : State) : State :=
  { State.reset with agenda := s.agenda, solo := s.solo, choices := s.choices, module := s.module, domain := s.domain,
                     mem := s.mem.dropBelow hostBase, host := { State.reset.host with flash := s.host.flash } }

/-- MODULE_RESET; power comes back with it (R39, R406). -/
def execModuleReset (s : State) : Host.Outcome State Fault Refusal := .next s.moduleReset

/-- POWER_REMOVAL: nothing of the module survives but the flash; the host has to configure the links again (R39, R404). -/
def execPowerRemoval (s : State) : Host.Outcome State Fault Refusal :=
  .next { s.moduleReset with powered := false, module := 0, domain := [] }

/-- Some graph is RUNNING (R405). -/
def State.anyRunning (s : State) : Bool := !s.launches.isEmpty

/-- A write to PWR: REFUSED is W1C, and TARGET starts a change or is refused (R401, R405). -/
def State.writePwr (s : State) (v : W32) : State :=
  let t : BitVec 2 := v.extractLsb' 0 2
  let h := s.host
  if h.busy || (decide (2 ≤ t.toNat) && s.anyRunning) then s.onHost (fun h => { h with refused := true })
  else s.onHost (fun h => { h with target := t, busy := true, refused := h.refused && !v.getLsbD 9 })

/-- PWR_TARGET_WRITE (R405). -/
def execPwrTargetWrite (v : W32) (s : State) : Host.Outcome State Fault Refusal := .next (s.writePwr v)

/-- POWER_STATE_CHANGE_COMPLETE: P3 loses the contents of GDDR7, and leaving it is a module reset (R405). -/
def execPowerStateChangeComplete (s : State) : Host.Outcome State Fault Refusal :=
  let h := s.host
  if !h.busy then .next s
  else if h.cur = 3 ∧ h.target ≠ 3 then .next (s.moduleReset.onHost (fun x => { x with target := h.target, cur := h.target }))
  else
    let s1 := s.onHost (fun h => { h with cur := h.target, busy := false })
    .next (if h.target = 3 then { s1 with mem := s1.mem.dropBelow 0x4800000000 } else s1)

/-- Dies that a mask names. -/
def maskDies (m : BitVec 4) : List DieId := (List.finRange 4).filter (fun d => m.getLsbD d.val)

/-- A write to FENCE: a bit once set stays; the control cores of a fenced die halt, the live distributors clear its LIVE
bit, and an election follows (R349, R401, R406). -/
def State.writeFence (s : State) (v : W32) : State :=
  let m : BitVec 4 := v.extractLsb' 0 4
  let new := m &&& ~~~s.host.fence
  if new = 0 then s
  else
    let s1 := s.onHost (fun h => { h with fence := h.fence ||| m })
    let s2 := (maskDies new).foldl (fun x d =>
      (List.finRange 4).foldl (fun y k => y.onCore (coreOf d k) (fun c => { c with halted := true })) x) s1
    { s2 with election := true, dies := s2.dies.map (fun d => { d with live := d.live &&& ~~~new }) }

/-- FENCE_WRITE (R406). -/
def execFenceWrite (v : W32) (s : State) : Host.Outcome State Fault Refusal := .next (s.writeFence v)

/-- The control cores of a die return to reset, local memory with its errors included, and the boot ROM checks the firmware
again; acknowledgements of their `tinv` are discarded, and swaps that they commanded run on (R407). -/
def State.resetCores (s : State) (d : DieId) : State :=
  let s1 := (List.finRange 4).foldl (fun y k => y.onCore (coreOf d k) (fun _ => {})) s
  let kept := fun (e : Ecc) => match e with
    | .localMem k _ => coreDie k != d
    | _ => true
  { s1.onDie d (fun x => { x with boot := 0 }) with
      tinvs := s1.tinvs.filter (fun t => coreDie t.core != d), ecc := s1.ecc.filter kept }

/-- A write to DIERST; a fenced die is not affected (R407). -/
def State.writeDierst (s : State) (v : W32) : State :=
  (maskDies (v.extractLsb' 0 4)).foldl (fun x d => if x.fenced d then x else x.resetCores d) s

/-- DIERST_WRITE (R407). -/
def execDierstWrite (v : W32) (s : State) : Host.Outcome State Fault Refusal := .next (s.writeDierst v)

/-- A write to DOORBELL: bit k sets EVPEND[1] of control core k (R401). -/
def State.writeDoorbell (s : State) (v : W32) : State :=
  (List.finRange 16).foldl (fun x k => if v.getLsbD k.val then x.onCore k (fun c => c.raise 1) else x) s

/-- DOORBELL_WRITE (R401). -/
def execDoorbellWrite (v : W32) (s : State) : Host.Outcome State Fault Refusal := .next (s.writeDoorbell v)

/-- TEMP_ALARM: a die's telemetry shows a temperature; ALARM sets at 105 °C (R401). -/
def execTempAlarm (d : DieId) (temp : W16) (s : State) : Host.Outcome State Fault Refusal :=
  .next (s.onDie d (fun x => { x with temp := temp, alarm := x.alarm || decide (1680 ≤ temp.toNat) }))

/-! ## Firmware (R408) -/

/-- The cells of a memory in an address range, moved to start at 0. -/
def Memory.slice (m : Memory) (lo n : Nat) : Memory :=
  (m.filter (fun c => decide (lo ≤ c.1 ∧ c.1 < lo + n))).map (fun c => (c.1 - lo, c.2))

/-- Length of the core segment of an image (R408). -/
def firmwareLength (flash : Memory) : Nat := flash.readNat 8 4

/-- Bytes of a signature (R408). -/
def signatureBytes : Nat := 29792

/-- Bytes of a SHAKE256 digest, a length that the spec does not give (DESIGN CHOICE, log 60). -/
def digestBytes : Nat := 64

/-- The magic value, the length and the reserved word of an image are as R408 gives them. -/
def firmwareHeader (flash : Memory) : Bool :=
  let n := firmwareLength flash
  flash.readNat 0 4 == 0x48314657 && n % 4 == 0 && decide (4 ≤ n ∧ n ≤ 262144) && flash.readNat 12 4 == 0

/-- The checks that the boot ROM of a die makes: the header, the digest of the public key against the fuses, and the signature
over everything before it (R408). -/
def firmwareGood (d : DieId) (flash : Memory) : Bool :=
  let n := firmwareLength flash
  let key := flash.readBytes (0x10 + n) 64
  firmwareHeader flash && shake256 key digestBytes == Config.keyHash d &&
    slhVerify key (flash.readBytes 0 (0x50 + n)) (flash.readBytes (0x50 + n) signatureBytes)

/-- FIRMWARE_CHECK_END: the cores of a die are loaded and released, or stay held (R388, R408). -/
def execFirmwareCheckEnd (d : DieId) (s : State) : Host.Outcome State Fault Refusal :=
  let f := s.host.flash
  if s.dies[d].boot ≠ 0 then .next s
  else if firmwareGood d f then
    let seg := f.slice 16 (firmwareLength f)
    .next (((List.finRange 4).foldl (fun y k =>
      y.onCore (coreOf d k) (fun c => { c with lmem := seg, pc := 0, started := true })) s).onDie d (fun x => { x with boot := 1 }))
  else .next (s.onDie d (fun x => { x with boot := 2 }))

/-! ## Attestation (R409) -/

/-- A write to ATTNONCE; while a report is produced it waits (R409). -/
def State.writeNonce (s : State) (w : Fin 8) (v : W32) : State :=
  s.onHost (fun h => if h.attBusy then { h with noncePend := h.noncePend ++ [(w, v)] } else { h with nonce := h.nonce.set w v })

/-- ATTNONCE_WRITE (R409). -/
def execAttnonceWrite (w : Fin 8) (v : W32) (s : State) : Host.Outcome State Fault Refusal := .next (s.writeNonce w v)

/-- A write of GO: a report starts, unless one is being produced (R401, R409). -/
def State.writeAttctl (s : State) (v : W32) : State :=
  if v.getLsbD 0 && !s.host.attBusy then s.onHost (fun h => { h with attBusy := true, attDone := false }) else s

/-- ATTCTL_GO_WRITE (R409). -/
def execAttctlGoWrite (s : State) : Host.Outcome State Fault Refusal := .next (s.writeAttctl 1)

/-- The nonce as 256 bits. -/
def HostRegs.nonceBits (h : HostRegs) : BitVec 256 := ofFields 256 32 (fun i => h.nonce.toList.getD i 0) 8

/-- The digest of the firmware of a die: of the image that serves every die, its key and signature included (R408, R409;
log 60). -/
def firmwareDigest (flash : Memory) : List Byte :=
  shake256 (flash.readBytes 0 (0x50 + firmwareLength flash + signatureBytes)) digestBytes

/-- What a report states, in the order of R409: the ID register, the digest of each die's firmware, the device identity and the
nonce (log 60). -/
def reportContent (h : HostRegs) : List Byte :=
  let le := fun (v n : Nat) => (List.range n).map (fun i => BitVec.ofNat 8 (v / 2 ^ (8 * i)))
  let dig := firmwareDigest h.flash
  le 0x48120000 4 ++ (dig ++ dig ++ dig ++ dig) ++ le Config.deviceIdentity.toNat 32 ++ le h.nonceBits.toNat 32

/-- A report: its content, the signature over it, and the certificate of the key (R409; log 60). -/
def attReport (h : HostRegs) : Memory :=
  let body := reportContent h
  let sig := (List.range signatureBytes).map (Config.attestationSignature body)
  let rest := 32768 - (body.length + signatureBytes)
  Memory.writeBytes [] 0 (body ++ sig ++ (List.range rest).map Config.attestationCertificate)

/-- ATTESTATION_REPORT_DONE: the report is written, and waiting nonce writes are applied (R409). -/
def execAttestationReportDone (s : State) : Host.Outcome State Fault Refusal :=
  if s.host.attBusy then
    .next (s.onHost (fun h =>
      { h with attBusy := false, attDone := true, report := attReport h, noncePend := [],
               nonce := h.noncePend.foldl (fun n p => n.set p.1 p.2) h.nonce }))
  else .next s

/-! ## BAR0 (R401) -/

/-- A port carries traffic: it is trained, its die is not fenced, and the fabric runs; in P2 and P3 none does (R401, R403, R405,
R406). -/
def State.linkUp (s : State) (p : Fin 18) : Bool := s.links[p].up && s.barsUp && !s.portFenced p

/-- A BAR0 register as the host reads it; offsets not listed read 0 (R401). -/
def State.bar0 (s : State) (off : Nat) : W32 :=
  let h := s.host
  let die := fun (d : Nat) => s.dies[(Fin.ofNat 4 d)]
  if off = 0x000000 then 0x48120000
  else if off = 0x000020 then
    0#22 ++ BitVec.ofBool h.refused ++ BitVec.ofBool h.busy ++ 0#2 ++ h.cur ++ 0#2 ++ h.target
  else if off = 0x000030 then h.fence.setWidth 32
  else if 0x001000 ≤ off ∧ off < 0x001400 then
    let d := die ((off - 0x1000) / 256)
    let r := off % 256
    if r = 0 then d.temp.setWidth 32
    else if r = 4 then d.powerw.setWidth 32
    else if r = 8 then d.ecccor
    else if r = 12 then word1 d.alarm
    else if r = 16 then d.boot.setWidth 32
    else 0
  else if 0x001400 ≤ off ∧ off < 0x001448 ∧ off % 4 = 0 then (s.links[(Fin.ofNat 18 ((off - 0x1400) / 4))]).err
  else if 0x001480 ≤ off ∧ off < 0x0014C8 ∧ off % 4 = 0 then
    let p : Fin 18 := Fin.ofNat 18 ((off - 0x1480) / 4)
    word1 (s.linkUp p) ||| (word1 s.links[p].lost <<< 1)
  else if 0x002000 ≤ off ∧ off < 0x002020 ∧ off % 4 = 0 then h.nonce[(Fin.ofNat 8 ((off - 0x2000) / 4))]
  else if off = 0x002020 then word1 h.attDone <<< 1
  else if 0x010000 ≤ off ∧ off < 0x018000 then h.report.readW32 (off - 0x10000)
  else 0

/-- A BAR0 register written by the host; RO registers and offsets not listed stay (R401). -/
def State.setBar0 (s : State) (off : Nat) (v : W32) : State :=
  if off = 0x000010 then s.writeDoorbell v
  else if off = 0x000020 then s.writePwr v
  else if off = 0x000030 then s.writeFence v
  else if off = 0x000040 then s.writeDierst v
  else if 0x001000 ≤ off ∧ off < 0x001400 ∧ off % 256 = 12 then
    s.onDie (Fin.ofNat 4 ((off - 0x1000) / 256)) (fun d => { d with alarm := d.alarm && !v.getLsbD 0 })
  else if 0x001480 ≤ off ∧ off < 0x0014C8 ∧ off % 4 = 0 then
    let p : Fin 18 := Fin.ofNat 18 ((off - 0x1480) / 4)
    { s with links := s.links.set p { s.links[p] with lost := s.links[p].lost && !v.getLsbD 1 } }
  else if 0x002000 ≤ off ∧ off < 0x002020 ∧ off % 4 = 0 then s.writeNonce (Fin.ofNat 8 ((off - 0x2000) / 4)) v
  else if off = 0x002020 then s.writeAttctl v
  else s

/-- REGISTER_WRITE: a write to a tile-state register, a CSR or a BAR0 register, by the rules of its table (R6, R395, R398,
R401). -/
def execRegisterWrite (r : RegSel) (v : W64) (s : State) : Host.Outcome State Fault Refusal :=
  match r with
  | .tileState sel =>
    match s.tileWrite sel v with
    | .ok s1 => .next s1
    | .error _ => .next s
  | .csr k n => .next (s.setCsr k n v)
  | .bar0 off => .next (s.setBar0 off (v.extractLsb' 0 32))

/-! ## BAR2 and BAR4 (R400, R402, R405, R406) -/

/-- LAUNCH_WINDOW_WRITE: a write through BAR2 acts as a `gtw`; during an election it waits, and it is discarded when BAR2 does
not answer (R402, R405, R406). -/
def execLaunchWindowWrite (off : Nat) (v : W32) (s : State) : Host.Outcome State Fault Refusal :=
  let j := off % 32 / 4
  if !s.barsUp ∨ 131072 ≤ off ∨ 4 < j then .next s
  else if s.election then .next (s.onHost (fun h => { h with held := h.held ++ [(off, v)] }))
  else .next (s.writeEntry (off / 32) j v)

/-- A word of the launch window as the host reads it: an Unsupported Request in P2 and P3, and no answer yet during an
election (R402, R405, R406). -/
def State.bar2 (s : State) (off : Nat) : Option (Option W32) :=
  if !s.barsUp then some none
  else if s.election then none
  else some (some ((s.entry (off / 32)).word (off % 32 / 4)))

/-- Bytes of GDDR7 end here (R400). -/
def gddrEnd : Nat := 0x4800000000

/-- An access through BAR4 touches memory homed on a fenced die (R406). -/
def State.bar4Fenced (s : State) (off n : Nat) : Bool :=
  (List.range n).any (fun i => decide (off + i < gddrEnd) && s.fenced (Fin.ofNat 4 (homeDie (off + i))))

/-- Bytes written by the host, one after another, through their home slices; those beyond GDDR7 are ignored (R238, R400). -/
def State.hostPut (s : State) (off : Nat) : List Byte → State
  | [] => s
  | x :: r => (if off < gddrEnd then s.putHome off 1 x.toNat none else s).hostPut (off + 1) r

/-- HOST_BAR4_ACCESS: a read is answered or completes as an Unsupported Request; a write is performed or discarded (R400,
R405, R406). -/
def execHostBar4Access (acc : Bar4Access) (s : State) : Host.Outcome State Fault Refusal :=
  match acc with
  | .read off n =>
    let bad := !s.barsUp || s.bar4Fenced off n
    let one := fun (i : Nat) => if off + i < gddrEnd then s.mem.read (off + i) else 0
    let s1 := if bad then s else (List.range n).foldl (fun x i => x.touch (off + i) false) s
    .next (s1.onHost (fun h => { h with answers := h.answers ++ [if bad then none else some ((List.range n).map one)] }))
  | .write off bytes =>
    if !s.barsUp || s.bar4Fenced off bytes.length then .next s else .next (s.hostPut off bytes)

/-! ## Links (R265, R403, R404) -/

/-- A flit is reported lost: LOST sets and the port retrains (R403). -/
def LinkPort.lose (p : LinkPort) : LinkPort := { p with lost := true, up := false, replays := 0 }

/-- A flit that fails its CRC is replayed; after 8 failed replays it is lost (R403). -/
def LinkPort.bad (p : LinkPort) : LinkPort :=
  if p.replays = 8 then p.lose
  else { p with replays := p.replays + 1, err := if p.err = 0xFFFFFFFF then p.err else p.err + 1 }

/-- The key of a source at a port: its module and unit. -/
def msgSource (m : LinkMsg) : Nat := linkSource m.unit m.module

/-- The partition of this module bound to a SYSTEM scope binding, by one of its memory tiles (R404). -/
def State.boundMt (s : State) (b : Option (BitVec 12)) : Option (Site × Leaf) :=
  match b with
  | none => none
  | some _ =>
    s.parts.findSome? (fun p =>
      if s.bindingOf (BitVec.ofNat 6 p.1) = b then
        match p.2 with
        | some x => x.mts.head?
        | none => none
      else none)

/-- A request of another module as the memory tile that serves it takes it: its number here, and the one it has for `amo` (R276,
R404). -/
def State.servedReq (s : State) (p : Fin 18) (m : LinkMsg) (mt : Site) (l : Leaf) (body : ReqBody) (serial : Option (BitVec 12)) :
    Req :=
  { id := s.nextId, src := { tile := mt, leaf := l, bank := 0, bundle := 0, part := (s.mtLeaf mt l).part }, body := body,
    why := .served p m, serial := serial }

/-- The SYSTEM binding, the contents and the serial of a request of another module; `none` for a message that is no request
(R404). -/
def asksFor (b : LinkBody) : Option (Option (BitVec 12) × ReqBody × Option (BitVec 12)) :=
  match b with
  | .read b va => some (b, .read va, none)
  | .write b va v => some (b, .write va v, none)
  | .amo b va fn op nw serial => some (b, .amo va fn op nw true, some serial)
  | .redc b va v => some (b, .redc va v, none)
  | .fillc b va c .. => some (b, .fillc va c, none)
  | _ => none

/-- A request from another module: it goes from a memory tile of the partition bound to its SYSTEM binding as a request of that
memory tile does, and is answered with PERM when no partition is bound; it waits while the partition is swapped out (R404).
`none` while it waits. -/
def State.serve (s : State) (p : Fin 18) (m : LinkMsg) (ask : Option (BitVec 12) × ReqBody × Option (BitVec 12)) : Option State :=
  match s.boundMt ask.1 with
  | none => some (s.respondTo p m m.part 0 Cause.perm.code)
  | some (mt, l) =>
    let q := s.servedReq p m mt l ask.2.1 ask.2.2
    if s.partAway q.src.part then none else (s.takeId.routeNow mt q).settle mt

/-- The cause that a code of another module's answer stands for. -/
def answerCause (code : BitVec 8) : Cause :=
  if code = 0x05 then .page else if code = 0x06 then .perm else if code = 0x13 then .chproto else .ecc

/-- The answer of another module completes the request that awaits it; a `fillc` turned away there gets its REFUSED token by
a message of its own (R285, R322, R404). -/
def State.answered (s : State) (id : Nat) (data : Vec) (fault : BitVec 8) : State :=
  match s.inFlight id with
  | none => s
  | some f =>
    let q := f.req
    let s1 := s.land id
    if q.why = .op ∧ fault = Cause.chproto.code then s1.reportTo q { faultOf .chproto q.body.flta with fltx := q.fltx } false
    else if fault ≠ 0 then s1.failReq q (answerCause fault)
    else
      match q.body with
      | .amo _ _ _ _ ret => s1.replyAmo q ret (data.extractLsb' 0 32)
      | .read _ => s1.answer q data
      | _ => s1.written q

/-- The arrival of another module in a SYSTEM episode, of contexts here and in the images of a swap (R265, R268). -/
def State.peerArrives (s : State) (m : BitVec 8) (sysid : BitVec 12) : State :=
  let up := fun (c : LeafCtx) =>
    if c.sysBound && c.barcfg.extractLsb' 20 12 == sysid && c.sysPeers.contains m then
      { c with sysArrived := c.sysArrived ++ [m] }
    else c
  { s with tiles := s.tiles.map (fun t => (t.1, { t.2 with ctx := t.2.ctx.map up })),
           stash := s.stash.map (fun x => { x with ctx := up x.ctx }) }

/-- A token of a counter on another module reaches the response channel of the partition that subscribed (R282, R355, R404). -/
def State.tokenComes (s : State) (part : BitVec 6) (t : Site) (l : Leaf) (b : BankId) (ch : Fin 8) (pred : Bool) (v : Vec) : State :=
  if isCompute t then s.sendReady none part t l ch { side := { pred := pred, bank := BitVec.ofFin b }, payload := v } else s

/-- A port goes on to the next serial of a source, and forgets the reply to the message that had this serial before (R403). -/
def LinkPort.passes (l : LinkPort) (m : LinkMsg) : LinkPort :=
  { l with next := l.next.set (msgSource m) (m.serial + 1),
           replies := l.replies.filter (fun r => !(msgSource r.1 == msgSource m && r.1.serial == m.serial)) }

/-- A message that is the next of its source is delivered; a request is answered through the port (R403, R404). `none` while
it has to wait. -/
def State.deliverMsg (s : State) (p : Fin 18) (m : LinkMsg) : Option State :=
  let s1 := s.onLink p (fun l => l.passes m)
  match m.body with
  | .barrierArrive sysid => some (s1.peerArrives m.module sysid)
  | .token part t l b ch pred v => some (s1.tokenComes part t l b ch pred v)
  | .response unit serial data fault =>
    match s1.links[p].awaited.find? (fun a => a.module == m.module && a.unit == unit && a.serial == serial) with
    | some a =>
      some ((s1.onLink p (fun l => { l with awaited := l.awaited.filter (fun b => b.id != a.id) })).answered a.id data fault)
    | none => some s1
  | b =>
    match asksFor b with
    | none => some s1
    | some ask => s1.serve p m ask

/-- The message of a source that comes next, among those held behind a gap or waiting (R403). -/
def LinkPort.nextHeld (l : LinkPort) (tried : List Nat) : Option LinkMsg :=
  l.held.find? (fun m => l.next.get (msgSource m) 0 == m.serial && !tried.contains (msgSource m))

/-- Held messages whose turn has come are delivered; a source whose message has to wait is passed over (R403). -/
def State.releaseHeld (s : State) (p : Fin 18) (tried : List Nat) : Nat → State
  | 0 => s
  | n + 1 =>
    match s.links[p].nextHeld tried with
    | some m =>
      match (s.onLink p (fun l => { l with held := l.held.erase m })).deliverMsg p m with
      | some s1 => s1.releaseHeld p tried n
      | none => s.releaseHeld p (tried ++ [msgSource m]) n
    | none => s

/-- A message arrives: in turn it is delivered; ahead of a gap, or while it has to wait, it is held; one delivered already is
discarded, and the reply that it got is given again (R403). -/
def State.receiveMsg (s : State) (p : Fin 18) (m : LinkMsg) : State :=
  let l := s.links[p]
  let want := l.next.get (msgSource m) 0
  let hold := if l.held.any (fun h => msgSource h == (msgSource m) && h.serial == m.serial) then s
    else s.onLink p (fun l => { l with held := l.held ++ [m] })
  if m.serial = want then (s.deliverMsg p m).getD hold
  else if (want - m.serial).toNat < 2048 then
    match l.replies.reverse.find? (fun r => msgSource r.1 == (msgSource m) && r.1.serial == m.serial) with
    | some r => s.sendLink p m.module 8192 r.2.1 r.2.2
    | none => s
  else hold

/-- LINK_FLIT_RECEIVE: with every flit the messages that wait are tried again (R403, R404). -/
def execLinkFlitReceive (p : Fin 18) (f : Flit) (s : State) : Host.Outcome State Fault Refusal :=
  if !s.linkUp p then .next s
  else
    match f with
    | .badCrc => .next (s.onLink p LinkPort.bad)
    | .lost => .next (s.onLink p LinkPort.lose)
    | .intact acks msgs =>
      let s1 := s.onLink p (fun l =>
        { l with replays := 0,
                 out := l.out.filter (fun m => !(acks.contains (m.dest, m.unit, m.serial) && l.carried.contains m)) })
      let s2 := msgs.foldl (fun x m => x.receiveMsg p m) s1
      .next (s2.releaseHeld p [] s2.links[p].held.length)

/-- LINK_RETRAIN_COMPLETE: the port carries flits, and what was not acknowledged is sent again with its serials (R403). -/
def execLinkRetrainComplete (p : Fin 18) (s : State) : Host.Outcome State Fault Refusal :=
  .next (s.onLink p (fun l => { l with up := true }))

end Sys2Proof.Machine
end

