-- ==== Sys2Proof/Machine/Dispatch.lean ====
section
/-!
DEFINITION. One arm per instruction and event, each a direct call of its meaning.
-/
namespace Sys2Proof.Machine

/-- The meaning of an instruction or event. -/
def exec (i : Instr) (s : State) : Host.Outcome State Fault Refusal :=
  match i with
  | .nop => Sys2Proof.Machine.execNop s
  | .add g d a b => Sys2Proof.Machine.execAdd g d a b s
  | .sub g d a b => Sys2Proof.Machine.execSub g d a b s
  | .and g d a b => Sys2Proof.Machine.execAnd g d a b s
  | .or g d a b => Sys2Proof.Machine.execOr g d a b s
  | .xor g d a b => Sys2Proof.Machine.execXor g d a b s
  | .shl g d a b => Sys2Proof.Machine.execShl g d a b s
  | .shr g d a b => Sys2Proof.Machine.execShr g d a b s
  | .sra g d a b => Sys2Proof.Machine.execSra g d a b s
  | .mul g d a b => Sys2Proof.Machine.execMul g d a b s
  | .mulh g d a b => Sys2Proof.Machine.execMulh g d a b s
  | .mulhn g d a b => Sys2Proof.Machine.execMulhn g d a b s
  | .min g d a b => Sys2Proof.Machine.execMin g d a b s
  | .max g d a b => Sys2Proof.Machine.execMax g d a b s
  | .minn g d a b => Sys2Proof.Machine.execMinn g d a b s
  | .maxn g d a b => Sys2Proof.Machine.execMaxn g d a b s
  | .clz g d a => Sys2Proof.Machine.execClz g d a s
  | .cmp g d a b cond => Sys2Proof.Machine.execCmp g d a b cond s
  | .addi g d a imm => Sys2Proof.Machine.execAddi g d a imm s
  | .andi g d a imm => Sys2Proof.Machine.execAndi g d a imm s
  | .ori g d a imm => Sys2Proof.Machine.execOri g d a imm s
  | .xori g d a imm => Sys2Proof.Machine.execXori g d a imm s
  | .shli g d a count => Sys2Proof.Machine.execShli g d a count s
  | .shri g d a count => Sys2Proof.Machine.execShri g d a count s
  | .srai g d a count => Sys2Proof.Machine.execSrai g d a count s
  | .cmpi g d cond a imm => Sys2Proof.Machine.execCmpi g d cond a imm s
  | .li g d imm => Sys2Proof.Machine.execLi g d imm s
  | .lui g d imm => Sys2Proof.Machine.execLui g d imm s
  | .pand g d a b => Sys2Proof.Machine.execPand g d a b s
  | .por g d a b => Sys2Proof.Machine.execPor g d a b s
  | .pxor g d a b => Sys2Proof.Machine.execPxor g d a b s
  | .pandn g d a b => Sys2Proof.Machine.execPandn g d a b s
  | .div g d a b => Sys2Proof.Machine.execDiv g d a b s
  | .divn g d a b => Sys2Proof.Machine.execDivn g d a b s
  | .rem g d a b => Sys2Proof.Machine.execRem g d a b s
  | .remn g d a b => Sys2Proof.Machine.execRemn g d a b s
  | .br g off => Sys2Proof.Machine.execBr g off s
  | .call g off => Sys2Proof.Machine.execCall g off s
  | .jr g a => Sys2Proof.Machine.execJr g a s
  | .loop g a len => Sys2Proof.Machine.execLoop g a len s
  | .pushm g a b => Sys2Proof.Machine.execPushm g a b s
  | .popm g a b => Sys2Proof.Machine.execPopm g a b s
  | .vpushm g a b => Sys2Proof.Machine.execVpushm g a b s
  | .vpopm g a b => Sys2Proof.Machine.execVpopm g a b s
  | .rdsr g d num => Sys2Proof.Machine.execRdsr g d num s
  | .wrsr g a num => Sys2Proof.Machine.execWrsr g a num s
  | .yield g => Sys2Proof.Machine.execYield g s
  | .halt g => Sys2Proof.Machine.execHalt g s
  | .trap g code => Sys2Proof.Machine.execTrap g code s
  | .vadd g d a b t m => Sys2Proof.Machine.execVadd g d a b t m s
  | .vsub g d a b t m => Sys2Proof.Machine.execVsub g d a b t m s
  | .vmul g d a b t m => Sys2Proof.Machine.execVmul g d a b t m s
  | .vfma g d a b t m => Sys2Proof.Machine.execVfma g d a b t m s
  | .vmin g d a b t => Sys2Proof.Machine.execVmin g d a b t s
  | .vmax g d a b t => Sys2Proof.Machine.execVmax g d a b t s
  | .vabs g d a t sat => Sys2Proof.Machine.execVabs g d a t sat s
  | .vneg g d a t sat => Sys2Proof.Machine.execVneg g d a t sat s
  | .vand g d a b t => Sys2Proof.Machine.execVand g d a b t s
  | .vor g d a b t => Sys2Proof.Machine.execVor g d a b t s
  | .vxor g d a b t => Sys2Proof.Machine.execVxor g d a b t s
  | .vshl g d a b t => Sys2Proof.Machine.execVshl g d a b t s
  | .vshr g d a b t => Sys2Proof.Machine.execVshr g d a b t s
  | .vcvt g d a src dst ovf m => Sys2Proof.Machine.execVcvt g d a src dst ovf m s
  | .vcmp g d a b t cond => Sys2Proof.Machine.execVcmp g d a b t cond s
  | .vsel g d a b c => Sys2Proof.Machine.execVsel g d a b c s
  | .vbcast g d a t => Sys2Proof.Machine.execVbcast g d a t s
  | .vext g d a b t => Sys2Proof.Machine.execVext g d a b t s
  | .vins g d a b t => Sys2Proof.Machine.execVins g d a b t s
  | .vperm g d a b t => Sys2Proof.Machine.execVperm g d a b t s
  | .vred g d a t fn rnd => Sys2Proof.Machine.execVred g d a t fn rnd s
  | .vscan g d a t fn rnd => Sys2Proof.Machine.execVscan g d a t fn rnd s
  | .vfn g d a fn => Sys2Proof.Machine.execVfn g d a fn s
  | .vdot g d a b t m => Sys2Proof.Machine.execVdot g d a b t m s
  | .vedge g d a b m => Sys2Proof.Machine.execVedge g d a b m s
  | .vbary g d a b m => Sys2Proof.Machine.execVbary g d a b m s
  | .vdedup g d a b => Sys2Proof.Machine.execVdedup g d a b s
  | .vblend g d a b t fn => Sys2Proof.Machine.execVblend g d a b t fn s
  | .vdepth g d a b t m => Sys2Proof.Machine.execVdepth g d a b t m s
  | .vrbox g d a b => Sys2Proof.Machine.execVrbox g d a b s
  | .vrtri g d a b m => Sys2Proof.Machine.execVrtri g d a b m s
  | .vsort g d a b m => Sys2Proof.Machine.execVsort g d a b m s
  | .vcomp g d a b m => Sys2Proof.Machine.execVcomp g d a b m s
  | .vsig g d a b => Sys2Proof.Machine.execVsig g d a b s
  | .vsigChk g d a b => Sys2Proof.Machine.execVsigChk g d a b s
  | .mlat g a t latch gather => Sys2Proof.Machine.execMlat g a t latch gather s
  | .mlatc g ch t latch => Sys2Proof.Machine.execMlatc g ch t latch s
  | .mma g d t bt => Sys2Proof.Machine.execMma g d t bt s
  | .mzero g d => Sys2Proof.Machine.execMzero g d s
  | .mdrain g d u sh steer => Sys2Proof.Machine.execMdrain g d u sh steer s
  | .msav g d a => Sys2Proof.Machine.execMsav g d a s
  | .mrst g d a => Sys2Proof.Machine.execMrst g d a s
  | .msync g => Sys2Proof.Machine.execMsync g s
  | .cmap g k a => Sys2Proof.Machine.execCmap g k a s
  | .cdif g k a => Sys2Proof.Machine.execCdif g k a s
  | .cact g h a t sc => Sys2Proof.Machine.execCact g h a t sc s
  | .cstep g d k h => Sys2Proof.Machine.execCstep g d k h s
  | .cclr g d => Sys2Proof.Machine.execCclr g d s
  | .cout g d a b hi h m => Sys2Proof.Machine.execCout g d a b hi h m s
  | .csav g d a => Sys2Proof.Machine.execCsav g d a s
  | .crst g d a => Sys2Proof.Machine.execCrst g d a s
  | .pop g ch d cap => Sys2Proof.Machine.execPop g ch d cap s
  | .peek g ch d k cap => Sys2Proof.Machine.execPeek g ch d k cap s
  | .pops g ch d e => Sys2Proof.Machine.execPops g ch d e s
  | .hdr g ch d => Sys2Proof.Machine.execHdr g ch d s
  | .adv g ch n => Sys2Proof.Machine.execAdv g ch n s
  | .waitf g ch n => Sys2Proof.Machine.execWaitf g ch n s
  | .push g ch a => Sys2Proof.Machine.execPush g ch a s
  | .poke g ch a k => Sys2Proof.Machine.execPoke g ch a k s
  | .pub g ch n => Sys2Proof.Machine.execPub g ch n s
  | .waite g ch n => Sys2Proof.Machine.execWaite g ch n s
  | .pushs g ch a e => Sys2Proof.Machine.execPushs g ch a e s
  | .null g ch => Sys2Proof.Machine.execNull g ch s
  | .markRe g ch a => Sys2Proof.Machine.execMarkRe g ch a s
  | .markEos g ch a => Sys2Proof.Machine.execMarkEos g ch a s
  | .lds g d b imm => Sys2Proof.Machine.execLds g d b imm s
  | .sts g d b imm => Sys2Proof.Machine.execSts g d b imm s
  | .ldsw g d b imm => Sys2Proof.Machine.execLdsw g d b imm s
  | .stsw g d b imm => Sys2Proof.Machine.execStsw g d b imm s
  | .ldg g ch pair imm => Sys2Proof.Machine.execLdg g ch pair imm s
  | .stg g d pair imm => Sys2Proof.Machine.execStg g d pair imm s
  | .ldw g ch b imm => Sys2Proof.Machine.execLdw g ch b imm s
  | .amo g pair b fn ret => Sys2Proof.Machine.execAmo g pair b fn ret s
  | .fence g scope => Sys2Proof.Machine.execFence g scope s
  | .bar g scope => Sys2Proof.Machine.execBar g scope s
  | .umen g a b => Sys2Proof.Machine.execUmen g a b s
  | .umlv g a => Sys2Proof.Machine.execUmlv g a s
  | .umsk g a b => Sys2Proof.Machine.execUmsk g a b s
  | .umini g a b => Sys2Proof.Machine.execUmini g a b s
  | .umabt g a => Sys2Proof.Machine.execUmabt g a s
  | .arm g pair b => Sys2Proof.Machine.execArm g pair b s
  | .fire g d a b => Sys2Proof.Machine.execFire g d a b s
  | .cfgt g ch a b => Sys2Proof.Machine.execCfgt g ch a b s
  | .send g b cls tag => Sys2Proof.Machine.execSend g b cls tag s
  | .cmask g cls => Sys2Proof.Machine.execCmask g cls s
  | .cunm g cls => Sys2Proof.Machine.execCunm g cls s
  | .redc g d pair imm => Sys2Proof.Machine.execRedc g d pair imm s
  | .fillc g d pair imm => Sys2Proof.Machine.execFillc g d pair imm s
  | .lnch g a range ret => Sys2Proof.Machine.execLnch g a range ret s
  | .ccAdd d a b => Sys2Proof.Machine.execCcAdd d a b s
  | .ccSub d a b => Sys2Proof.Machine.execCcSub d a b s
  | .ccAnd d a b => Sys2Proof.Machine.execCcAnd d a b s
  | .ccOr d a b => Sys2Proof.Machine.execCcOr d a b s
  | .ccXor d a b => Sys2Proof.Machine.execCcXor d a b s
  | .ccShl d a b => Sys2Proof.Machine.execCcShl d a b s
  | .ccShr d a b => Sys2Proof.Machine.execCcShr d a b s
  | .ccSra d a b => Sys2Proof.Machine.execCcSra d a b s
  | .ccSlt d a b => Sys2Proof.Machine.execCcSlt d a b s
  | .ccSltn d a b => Sys2Proof.Machine.execCcSltn d a b s
  | .ccMul d a b => Sys2Proof.Machine.execCcMul d a b s
  | .ccAddi d a imm => Sys2Proof.Machine.execCcAddi d a imm s
  | .ccAndi d a imm => Sys2Proof.Machine.execCcAndi d a imm s
  | .ccOri d a imm => Sys2Proof.Machine.execCcOri d a imm s
  | .ccXori d a imm => Sys2Proof.Machine.execCcXori d a imm s
  | .ccShli d a count => Sys2Proof.Machine.execCcShli d a count s
  | .ccShri d a count => Sys2Proof.Machine.execCcShri d a count s
  | .ccSrai d a count => Sys2Proof.Machine.execCcSrai d a count s
  | .ccSlti d a imm => Sys2Proof.Machine.execCcSlti d a imm s
  | .ccLui d imm => Sys2Proof.Machine.execCcLui d imm s
  | .ccLdD d a imm => Sys2Proof.Machine.execCcLdD d a imm s
  | .ccLdW d a imm => Sys2Proof.Machine.execCcLdW d a imm s
  | .ccLdB d a imm => Sys2Proof.Machine.execCcLdB d a imm s
  | .ccStD d a imm => Sys2Proof.Machine.execCcStD d a imm s
  | .ccStW d a imm => Sys2Proof.Machine.execCcStW d a imm s
  | .ccStB d a imm => Sys2Proof.Machine.execCcStB d a imm s
  | .ccBeq a b off => Sys2Proof.Machine.execCcBeq a b off s
  | .ccBne a b off => Sys2Proof.Machine.execCcBne a b off s
  | .ccBlt a b off => Sys2Proof.Machine.execCcBlt a b off s
  | .ccBge a b off => Sys2Proof.Machine.execCcBge a b off s
  | .ccBltn a b off => Sys2Proof.Machine.execCcBltn a b off s
  | .ccBgen a b off => Sys2Proof.Machine.execCcBgen a b off s
  | .ccJal d off => Sys2Proof.Machine.execCcJal d off s
  | .ccJalr d a imm => Sys2Proof.Machine.execCcJalr d a imm s
  | .csrr d num => Sys2Proof.Machine.execCsrr d num s
  | .csrw a num => Sys2Proof.Machine.execCsrw a num s
  | .eret => Sys2Proof.Machine.execEret s
  | .wfe => Sys2Proof.Machine.execWfe s
  | .tinv d a b => Sys2Proof.Machine.execTinv d a b s
  | .cfgw d a b => Sys2Proof.Machine.execCfgw d a b s
  | .tload a b => Sys2Proof.Machine.execTload a b s
  | .tsr d a => Sys2Proof.Machine.execTsr d a s
  | .tsw a b => Sys2Proof.Machine.execTsw a b s
  | .frd d a => Sys2Proof.Machine.execFrd d a s
  | .frzFreeze d a b => Sys2Proof.Machine.execFrzFreeze d a b s
  | .frzSwapOut d a b => Sys2Proof.Machine.execFrzSwapOut d a b s
  | .frzSwapOutMemory d a b => Sys2Proof.Machine.execFrzSwapOutMemory d a b s
  | .frzKill d a b => Sys2Proof.Machine.execFrzKill d a b s
  | .thwThaw d a b => Sys2Proof.Machine.execThwThaw d a b s
  | .thwRestore d a b => Sys2Proof.Machine.execThwRestore d a b s
  | .thwRestoreMemory d a b => Sys2Proof.Machine.execThwRestoreMemory d a b s
  | .gtw a b => Sys2Proof.Machine.execGtw a b s
  | .wfeEnd k => Sys2Proof.Machine.execWfeEnd k s
  | .timerExpiry k => Sys2Proof.Machine.execTimerExpiry k s
  | .msgWrite v => Sys2Proof.Machine.execMsgWrite v s
  | .registerWrite r v => Sys2Proof.Machine.execRegisterWrite r v s
  | .actorFiring t => Sys2Proof.Machine.execActorFiring t s
  | .classHandlerStart t => Sys2Proof.Machine.execClassHandlerStart t s
  | .bankBecomesIdle t b => Sys2Proof.Machine.execBankBecomesIdle t b s
  | .pendingWriteLanding t b => Sys2Proof.Machine.execPendingWriteLanding t b s
  | .asyncReportArrival n => Sys2Proof.Machine.execAsyncReportArrival n s
  | .freezeReachesBank t l b => Sys2Proof.Machine.execFreezeReachesBank t l b s
  | .bstatResumeWrite t l b => Sys2Proof.Machine.execBstatResumeWrite t l b s
  | .tokenArrival t l ch => Sys2Proof.Machine.execTokenArrival t l ch s
  | .faultDrainArrival t l ch => Sys2Proof.Machine.execFaultDrainArrival t l ch s
  | .preEmptMarkerArrival t l ch => Sys2Proof.Machine.execPreEmptMarkerArrival t l ch s
  | .slotReleaseArrival n => Sys2Proof.Machine.execSlotReleaseArrival n s
  | .tokenHop t src ph => Sys2Proof.Machine.execTokenHop t src ph s
  | .bridgeCrossing t w => Sys2Proof.Machine.execBridgeCrossing t w s
  | .classPacketHop t from_ ph => Sys2Proof.Machine.execClassPacketHop t from_ ph s
  | .classPacketArrival t l => Sys2Proof.Machine.execClassPacketArrival t l s
  | .msEntryStart t => Sys2Proof.Machine.execMsEntryStart t s
  | .msEntryEnd t n => Sys2Proof.Machine.execMsEntryEnd t n s
  | .mlatcTokenTake t n => Sys2Proof.Machine.execMlatcTokenTake t n s
  | .mdrainTokenPublish t n => Sys2Proof.Machine.execMdrainTokenPublish t n s
  | .cactRunEnd t => Sys2Proof.Machine.execCactRunEnd t s
  | .memoryPortSend t => Sys2Proof.Machine.execMemoryPortSend t s
  | .portQueueDispatch mt t => Sys2Proof.Machine.execPortQueueDispatch mt t s
  | .pageWalk mt n => Sys2Proof.Machine.execPageWalk mt n s
  | .sramBankAccess n => Sys2Proof.Machine.execSramBankAccess n s
  | .responseDelivery mt n => Sys2Proof.Machine.execResponseDelivery mt n s
  | .l2Request n evict => Sys2Proof.Machine.execL2Request n evict s
  | .l2FillArrival n => Sys2Proof.Machine.execL2FillArrival n s
  | .gddr7WriteAccept n => Sys2Proof.Machine.execGddr7WriteAccept n s
  | .gatewayRequest n => Sys2Proof.Machine.execGatewayRequest n s
  | .gatewayInvalidation n => Sys2Proof.Machine.execGatewayInvalidation n s
  | .hostReadCompletion n st => Sys2Proof.Machine.execHostReadCompletion n st s
  | .hostCompletionTimeout n => Sys2Proof.Machine.execHostCompletionTimeout n s
  | .weightStoreRead n => Sys2Proof.Machine.execWeightStoreRead n s
  | .weightStoreRefresh d => Sys2Proof.Machine.execWeightStoreRefresh d s
  | .writeAcknowledgement n => Sys2Proof.Machine.execWriteAcknowledgement n s
  | .ownerRequest n => Sys2Proof.Machine.execOwnerRequest n s
  | .amoApply n => Sys2Proof.Machine.execAmoApply n s
  | .fillcAtOwner n => Sys2Proof.Machine.execFillcAtOwner n s
  | .redcAtOwner n => Sys2Proof.Machine.execRedcAtOwner n s
  | .readyTokenDelivery n => Sys2Proof.Machine.execReadyTokenDelivery n s
  | .counterTimeout mt l n => Sys2Proof.Machine.execCounterTimeout mt l n s
  | .umbraEnterAtHost n => Sys2Proof.Machine.execUmbraEnterAtHost n s
  | .umbraLeaveAtHost n => Sys2Proof.Machine.execUmbraLeaveAtHost n s
  | .umbraSkipAtHost n => Sys2Proof.Machine.execUmbraSkipAtHost n s
  | .umbraInitAtHost n => Sys2Proof.Machine.execUmbraInitAtHost n s
  | .umbraGrantArrival n => Sys2Proof.Machine.execUmbraGrantArrival n s
  | .umbraRefusalRetry mt t => Sys2Proof.Machine.execUmbraRefusalRetry mt t s
  | .umbstall mt l key seq => Sys2Proof.Machine.execUmbstall mt l key seq s
  | .deadlockProbeAnswer n => Sys2Proof.Machine.execDeadlockProbeAnswer n s
  | .umrelWrite mt l v => Sys2Proof.Machine.execUmrelWrite mt l v s
  | .templateQueueHead mt l u => Sys2Proof.Machine.execTemplateQueueHead mt l u s
  | .copyRunStart mt l u => Sys2Proof.Machine.execCopyRunStart mt l u s
  | .copyBeat mt l u => Sys2Proof.Machine.execCopyBeat mt l u s
  | .copyChunkAck n => Sys2Proof.Machine.execCopyChunkAck n s
  | .completionTokenPublish mt l tag => Sys2Proof.Machine.execCompletionTokenPublish mt l tag s
  | .armAtMemoryTile n => Sys2Proof.Machine.execArmAtMemoryTile n s
  | .fireTokenEnqueue n => Sys2Proof.Machine.execFireTokenEnqueue n s
  | .tplfireWrite k mt l u v => Sys2Proof.Machine.execTplfireWrite k mt l u v s
  | .tplstWrite mt l u v => Sys2Proof.Machine.execTplstWrite mt l u v s
  | .edgeBufferPass mt l x => Sys2Proof.Machine.execEdgeBufferPass mt l x s
  | .edgeBufferRelease mt l x => Sys2Proof.Machine.execEdgeBufferRelease mt l x s
  | .barrierEpisodeComplete t l scope => Sys2Proof.Machine.execBarrierEpisodeComplete t l scope s
  | .entryStart => Sys2Proof.Machine.execEntryStart s
  | .indexTokenPublish n => Sys2Proof.Machine.execIndexTokenPublish n s
  | .dieShareReport d n => Sys2Proof.Machine.execDieShareReport d n s
  | .graphEnd n => Sys2Proof.Machine.execGraphEnd n s
  | .launchAtMaster n => Sys2Proof.Machine.execLaunchAtMaster n s
  | .notifyTokenDelivery n => Sys2Proof.Machine.execNotifyTokenDelivery n s
  | .masterElection => Sys2Proof.Machine.execMasterElection s
  | .millinerSample d e => Sys2Proof.Machine.execMillinerSample d e s
  | .tileActivation d e => Sys2Proof.Machine.execTileActivation d e s
  | .tileDeactivation d e => Sys2Proof.Machine.execTileDeactivation d e s
  | .elasticQueuePass d e => Sys2Proof.Machine.execElasticQueuePass d e s
  | .swapDecision d part => Sys2Proof.Machine.execSwapDecision d part s
  | .tileSave t l => Sys2Proof.Machine.execTileSave t l s
  | .swapComplete part => Sys2Proof.Machine.execSwapComplete part s
  | .restoreAtTile t l => Sys2Proof.Machine.execRestoreAtTile t l s
  | .noticeRecordWrite d part => Sys2Proof.Machine.execNoticeRecordWrite d part s
  | .nqsizeWrite d part v => Sys2Proof.Machine.execNqsizeWrite d part v s
  | .tinvAcknowledgement k => Sys2Proof.Machine.execTinvAcknowledgement k s
  | .heldWriteRetranslate mt => Sys2Proof.Machine.execHeldWriteRetranslate mt s
  | .counterIncrement n => Sys2Proof.Machine.execCounterIncrement n s
  | .doorbellWrite v => Sys2Proof.Machine.execDoorbellWrite v s
  | .pwrTargetWrite v => Sys2Proof.Machine.execPwrTargetWrite v s
  | .powerStateChangeComplete => Sys2Proof.Machine.execPowerStateChangeComplete s
  | .fenceWrite v => Sys2Proof.Machine.execFenceWrite v s
  | .dierstWrite v => Sys2Proof.Machine.execDierstWrite v s
  | .moduleReset => Sys2Proof.Machine.execModuleReset s
  | .attctlGoWrite => Sys2Proof.Machine.execAttctlGoWrite s
  | .attnonceWrite w v => Sys2Proof.Machine.execAttnonceWrite w v s
  | .attestationReportDone => Sys2Proof.Machine.execAttestationReportDone s
  | .tempAlarm d temp => Sys2Proof.Machine.execTempAlarm d temp s
  | .hostBar4Access acc => Sys2Proof.Machine.execHostBar4Access acc s
  | .launchWindowWrite off v => Sys2Proof.Machine.execLaunchWindowWrite off v s
  | .linkFlitReceive port f => Sys2Proof.Machine.execLinkFlitReceive port f s
  | .linkRetrainComplete port => Sys2Proof.Machine.execLinkRetrainComplete port s
  | .powerRemoval => Sys2Proof.Machine.execPowerRemoval s
  | .firmwareCheckEnd d => Sys2Proof.Machine.execFirmwareCheckEnd d s
  | .umbraHostMarker mt l => Sys2Proof.Machine.execUmbraHostMarker mt l s

end Sys2Proof.Machine
end

