-- ==== Sys2Proof/Machine/Turns.lean ====
section
/-!
DEFINITION. The turns of the machine: a bank's turn in a cycle of its tile (R22, R42, R59, R64, R352), a control core's
instruction (R68, R388), an event, and a cycle of a die (R173, R188, R192, R214, R279, R300, R395). A turn that cannot be
taken leaves the state as it is (log 1).
-/
namespace Sys2Proof.Machine

/-! ## Events that belong to a cycle (R64, R177, R228, R229, R242, R420; log 41) -/

/-- The cursor apart, an outcome differs from the state. -/
def State.moved (s : State) (o : Host.Outcome State Fault Refusal) : Bool :=
  match o with
  | .next t => decide ({ t with cur := s.cur } ≠ s)
  | _ => false

/-- A request under way has spent the cycles of its way to its target (R242; log 41). -/
def State.reaches (s : State) (n : Nat) : Bool := (s.inFlight n).all (fun f => decide (f.due ≤ s.cycleAt f.req.src.tile))

/-- The time at which an event can happen has come: a request has spent the cycles of its stage, a report, a grant or a token those
of its way, an episode those of its channel (R9, R242, R266; log 41). -/
def State.timely (s : State) (i : Instr) : Bool :=
  match i with
  | .portQueueDispatch mt t => ((s.mt mt).queues.get t.toNat []).head?.all (fun q => decide (q.due ≤ s.cycleAt t))
  | .responseDelivery mt n =>
    ((s.mt mt).rob.flatMap (fun p => p.2)).all (fun e => e.id != n || decide (e.due ≤ s.cycleAt e.src.tile))
  | .writeAcknowledgement n => s.acking[n]?.all (fun a => decide (a.due ≤ s.cycleAt a.tile))
  | .sramBankAccess n => s.reaches n
  | .ownerRequest n => s.reaches n
  | .amoApply n => s.reaches n
  | .fillcAtOwner n => s.reaches n
  | .redcAtOwner n => s.reaches n
  | .umbraEnterAtHost n => s.reaches n
  | .umbraLeaveAtHost n => s.reaches n
  | .umbraSkipAtHost n => s.reaches n
  | .umbraInitAtHost n => s.reaches n
  | .armAtMemoryTile n => s.reaches n
  | .fireTokenEnqueue n => s.reaches n
  | .copyChunkAck n => s.chunks[n]?.all (fun c => decide (c.due ≤ s.cycleAt c.mt))
  | .asyncReportArrival n => s.reports[n]?.all (fun r => decide (r.due ≤ s.cycleAt r.tile))
  | .umbraGrantArrival n => s.grants[n]?.all (fun g => g.due.all (fun c => decide (c ≤ s.cycleAt g.src.tile)))
  | .readyTokenDelivery n => s.ready[n]?.all (fun r => r.due.all (fun c => decide (c ≤ s.cycleAt r.tile)))
  | .notifyTokenDelivery n => s.ready[n]?.all (fun r => r.due.all (fun c => decide (c ≤ s.cycleAt r.tile)))
  | .barrierEpisodeComplete t l scope => (s.episodeDue t l scope).all (fun c => decide (c ≤ s.cycleAt t))
  | _ => true

/-- One of the events can happen now. -/
def State.anyDue (s : State) (l : List Instr) : Bool := l.any (fun i => s.timely i && s.moved (exec i s))

/-- The arrivals at the input ports of a compute tile, whose cycle R177 fixes. -/
def portEvents (t : Site) (x : Tile) : List Instr :=
  (List.finRange 2).flatMap (fun (l : Fin 2) => (List.finRange 8).flatMap (fun (c : Fin 8) =>
    if x.ctx[l].inp[c].port.isEmpty then []
    else [Instr.tokenArrival t l c, .preEmptMarkerArrival t l c, .faultDrainArrival t l c]))

/-- The responses and acknowledgements on their way to a tile (R229, R256). -/
def State.backEvents (s : State) (t : Site) : List Instr :=
  let mt := homeMemTile t
  ((s.mt mt).rob.get t.toNat []).map (fun e => .responseDelivery mt e.id) ++
  ((List.range s.acking.length).filter (fun n => s.acking[n]?.any (fun a => a.tile == t))).map (fun n => .writeAcknowledgement n)

/-- The places of a list whose entries are of a kind. -/
def placesWhere {α : Type} (l : List α) (p : α → Bool) : List Nat := (List.range l.length).filter (fun n => l[n]?.any p)

/-- The grants, tokens and reports on their way to a tile whose time is fixed (R243, R294, R420). -/
def State.answerEvents (s : State) (t : Site) : List Instr :=
  (placesWhere s.grants (fun g => g.src.tile == t && g.due.isSome)).map Instr.umbraGrantArrival ++
  (placesWhere s.ready (fun r => r.tile == t && r.due.isSome)).map Instr.readyTokenDelivery ++
  (placesWhere s.reports (fun r => r.tile == t)).map Instr.asyncReportArrival

/-- An episode in which a bank of a tile waits, and whose members stand on one die, completes in the present cycle (R266). -/
def State.episodesDue (s : State) (t : Site) : Bool :=
  (List.finRange 2).any (fun (l : Leaf) => [1, 2, 3].any (fun (n : Fin 5) =>
    (s.ctx t l).waitsIn n && (s.episodeDue t l n).any (fun c => decide (c ≤ s.cycleAt t)) &&
      s.moved (execBarrierEpisodeComplete t l n s)))

/-- The class packets that leave the port of a tile, and those at its class inlets (R182, R184, R186). -/
def State.classEvents (s : State) (t : Site) : List Instr :=
  (List.finRange 2).flatMap (fun (l : Fin 2) =>
    (if (s.tile t).clsout.isEmpty then [] else [Instr.classPacketHop t 4 l]) ++
    if ((s.box t).clsbuf.get (bufKey 4 l.val) []).isEmpty then [] else [Instr.classPacketArrival t l])

/-- What reaches a tile or leaves its class port in a cycle that is fixed (R177, R182, R229, R266, R420). -/
def State.inputEvents (s : State) (t : Site) : List Instr :=
  portEvents t (s.tile t) ++ s.backEvents t ++ s.answerEvents t ++ s.classEvents t

/-- Something reaches a tile in the present cycle (R177, R229, R420). -/
def State.inputsDue (s : State) (t : Site) : Bool := s.anyDue (s.inputEvents t) || s.episodesDue t

/-- The requests of a die's tiles that act at memory-tile SRAM, an owner, an umbra host or a copy engine of the die (R229, R270,
R290, R316). -/
def State.localRequests (s : State) (d : DieId) : List Nat :=
  (s.flight.filter (fun f => siteDie f.req.src.tile == d &&
    match f.target with
    | .sram mt => siteDie mt == d
    | .owner mt => siteDie mt == d
    | .umbra mt => siteDie mt == d
    | .engine mt => siteDie mt == d
    | _ => false)).map (fun f => f.req.id)

/-- A request at a unit of its own die can act there now. -/
def State.requestDue (s : State) (n : Nat) : Bool :=
  s.anyDue [.sramBankAccess n, .ownerRequest n, .amoApply n, .fillcAtOwner n, .redcAtOwner n, .umbraEnterAtHost n,
    .umbraLeaveAtHost n, .umbraSkipAtHost n, .umbraInitAtHost n] ||
  s.reaches n && (s.moved (execArmAtMemoryTile n s) || s.moved (execFireTokenEnqueue n s))

/-- An edge buffer of a memory tile can pass its head on (R246). -/
def State.passDue (s : State) (mt : Site) (m : MemTile) : Bool :=
  (List.finRange 2).any (fun (l : Fin 2) => (List.finRange 8).any (fun (c : Fin 8) =>
    (!m.ebuf[l][c].queue.isEmpty || m.ebuf[l][c].atMarker) && s.moved (execEdgeBufferPass mt l c s)))

/-! ## The issue of a bundle (R59, R61) -/

/-- The issuing bank, its due writes landed, issues the bundle that it holds; past the last bundle of the leaf, or at a word
that does not decode, it faults (R59, R88). -/
def State.issueBundle (s0 : State) : State :=
  let s := s0.settle
  if 0x1000 ≤ s.curBank.pc then s.pastEnd
  else
    match illSlot s.curBundle with
    | some k => s.faultHere k (faultOf .illop 0)
    | none => s.issue (bundlePlans s.curBundle s)

/-- The bundle of the issuing bank issues: it passes every check and no op of it waits (R59, R61). -/
def State.wouldIssue (s0 : State) : Bool :=
  let s := s0.settle
  let ps := bundlePlans s.curBundle s
  decide (s.curBank.pc < 0x1000) && (illSlot s.curBundle).isNone && ps.all (fun q => q.2.brange.isNone) &&
    (wclash s.curBank.pending ps).isNone && (s.curBank.checked || (s.phase1 ps).isNone) && ps.all (fun q => q.2.ready) &&
    ps.all (fun q => q.2.late.isNone)

/-! ## The turn of a bank (R22, R64, R352) -/

/-- The bank can be ready: it runs, is not stopped, and waits for no step, grant or episode (R22, R64, R265, R294). -/
def Bank.eligible (k : Bank) : Bool :=
  k.life == .running && !k.faulted && !k.frozen && !k.emptyStep && k.ending.isNone && k.arrived.isNone && k.umWait.isNone

/-- The bank spends its next step empty: after a taken branch, or at a `yield` or `halt` while a write is pending (R64). A
stop does not keep it from that (R80). -/
def Bank.owesStep (k : Bank) : Bool :=
  k.emptyStep || k.ending.isSome && k.umWait.isNone && k.pending.any PWrite.stays

/-- The bank has used the present cycle. -/
def Tile.hasSpent (x : Tile) (b : BankId) : Bool := x.spent.getLsbD b.val

/-- The bank can issue in the present cycle, as far as the bank itself goes. -/
def State.mayIssue (s : State) (t : Site) (b : BankId) : Bool :=
  let x := s.tile t
  x.ctx[x.running].banks[b].eligible && !x.hasSpent b

/-- No bank before this one in the order of the round-robin pointer issues in the present cycle (R352). -/
def State.firstReady (s : State) (t : Site) (b : BankId) : Bool :=
  let x := s.tile t
  let r := x.ctx[x.running].rrp.toNat
  (List.range ((b.val + 4 - r) % 4)).all (fun i =>
    let e : BankId := Fin.ofNat 4 (r + i)
    !(s.mayIssue t e && (s.atBank t e).wouldIssue))

/-- The tile can issue a bundle in the present cycle: it has issued none, its die runs, its leaf is not being saved and no
restore of its partition is under way, the sequencer has no entry to end or start and the load port no run to end, and what reaches its ports in the cycle has
reached them (R22, R32, R192, R210, R359, R406, R420). -/
def State.tileIssues (s : State) (t : Site) : Bool :=
  let x := s.tile t
  isCompute t && !s.fenced (siteDie t) && !x.issued && x.saving.isNone && !x.ctx[x.running].saved &&
    !s.partHeld x.ctx[x.running].part && !s.startDue t && (s.endDue t).isNone && !s.loadDue t && !s.inputsDue t

/-- The tile marks that a bank has issued in the present cycle; the pointer goes to the bank after it (R352). -/
def State.markIssue (s : State) : State :=
  (s.onCurTile (fun x => { x with issued := true, spent := x.spent ||| (1#4 <<< s.cur.bank.val) })).onCurCtx (fun c =>
    { c with rrp := BitVec.ofNat 2 (s.cur.bank.val + 1) })

/-- The issuing bank as its bundle finds it: the cycle is marked when the bundle issues (R352). -/
def State.toIssue (s : State) (t : Site) (b : BankId) : State :=
  let s1 := s.atBank t b
  if s1.wouldIssue then s1.markIssue else s1

/-- An empty step of a bank (R64, R352). -/
def State.spendStep (s : State) (t : Site) (b : BankId) : State :=
  let l := (s.tile t).running
  ((s.onCtx t l (fun c => c.settle b)).onBank t l b (fun k => { k.advance with emptyStep := false })).onTile t (fun x =>
    { x with spent := x.spent ||| (1#4 <<< b.val) })

/-- The turn of a bank: an empty step, or its bundle when the tile comes to it. -/
def State.bankTurn (s : State) (t : Site) (b : BankId) : State :=
  let x := s.tile t
  let c := x.ctx[x.running]
  if !isCompute t || s.fenced (siteDie t) || x.hasSpent b || c.saved || s.partHeld c.part then s
  else if c.banks[b].owesStep then s.spendStep t b
  else if s.tileIssues t && s.mayIssue t b && s.firstReady t b then (s.toIssue t b).issueBundle
  else s

/-! ## The turn of a control core (R68, R388) -/

/-- The core runs: it has been started and neither has halted, waits, nor lies on a fenced die (R388, R394, R406). -/
def State.coreRuns (s : State) (k : CoreId) : Bool :=
  let c := s.cores[k]
  c.started && !c.halted && c.busy == .none && !s.fenced (coreDie k)

/-- The word that a control core fetches (R388). -/
def Core.fetch (c : Core) : W32 := c.lmem.readW32 c.pc.toNat

/-- The instruction of the word that a control core fetches; a command is read from its register (R399). -/
def Core.decoded (c : Core) : Option Instr := decodeCC (fun r => (c.rx r).extractLsb' 0 4) c.fetch

/-- The state with a core as the one that executes. -/
def State.atCore (s : State) (k : CoreId) : State := { s with cur := { s.cur with core := k } }

/-- A control core executes its next instruction, or takes the ECC or ILLOP exception of its word (R68, R388, R396). -/
def State.coreTurn (s : State) (k : CoreId) : Host.Outcome State Fault Refusal :=
  if !s.coreRuns k then .next s
  else
    let c := s.cores[k]
    let s1 := s.atCore k
    if s.ecc.contains (.localMem k (c.pc.toNat / 4)) then .next (s1.coreFault .ecc (c.pc.setWidth 64))
    else
      match c.decoded with
      | none => .next (s1.coreFault .illop 0)
      | some i => exec i s1

/-! ## Events -/

/-- An instruction that is an event: it has no encoding. -/
def isEvent (i : Instr) : Bool := (encode i).isNone

/-- An event at the host port, which stays up in every power state, or of the module's power and telemetry (R401, R405,
R409). -/
def hostEvent (i : Instr) : Bool :=
  match i with
  | .registerWrite (.bar0 _) _ | .doorbellWrite _ | .pwrTargetWrite _ | .powerStateChangeComplete | .fenceWrite _ | .dierstWrite _
  | .attctlGoWrite | .attnonceWrite _ _ | .attestationReportDone | .tempAlarm _ _ | .hostBar4Access _ | .launchWindowWrite _ _
  | .powerRemoval => true
  | _ => false

/-- The fabric and the cores run: the module has power and is in P0 or P1 (R405). -/
def State.clocked (s : State) : Bool := s.powered && decide (s.host.cur.toNat < 2)

/-- An event can happen: without power only a module reset, with the fabric's clocks stopped only what is the host port's (R39,
R405). -/
def State.admits (s : State) (i : Instr) : Bool := s.clocked || s.powered && hostEvent i || i == .moduleReset

/-- An event happens, when its operands name units of its kind and its time has come (R39, R405; log 41). -/
def State.eventTurn (s : State) (i : Instr) : Host.Outcome State Fault Refusal :=
  if isEvent i && i.wf && s.admits i && s.timely i then exec i s else .next s

/-! ## A cycle of a die -/

/-- The events of a compute tile whose cycle is fixed (R64, R165, R177, R187, R192, R197, R200, R214, R228). -/
def tileEvents (t : Site) (x : Tile) : List Instr :=
  let ends := x.msrun.map (fun e => Instr.msEntryEnd t e.id)
  let takes := x.msrun.flatMap (fun e => [Instr.mlatcTokenTake t e.id, .mdrainTokenPublish t e.id])
  let sends := if x.port.isEmpty then [] else [Instr.memoryPortSend t]
  let idles := (List.finRange 4).map (fun (b : Fin 4) => Instr.bankBecomesIdle t b)
  ends ++ [.msEntryStart t] ++ takes ++ [.cactRunEnd t] ++ sends ++ [.classHandlerStart t, .actorFiring t] ++ idles

/-- The hops of a box whose cycle R177 fixes: of its tokens, and of the class packets that its tracks bring to the next box of the
die (R177, R182). -/
def boxEvents (t : Site) (b : Box) : List Instr :=
  (List.finRange 64).flatMap (fun (w : Fin 64) => (List.finRange 2).map (fun (p : Fin 2) => Instr.tokenHop t w p)) ++
  (List.finRange 4).flatMap (fun (d : Fin 4) => (List.finRange 2).flatMap (fun (p : Fin 2) =>
    match b.clsbuf.get (bufKey d.val p.val) [], stepSite t d.val 1 with
    | _ :: _, some n => [Instr.classPacketHop n (Fin.ofNat 5 (opposite d.val)) p]
    | _, _ => []))

/-- The copy engine of a memory tile has something to do in the present cycle, or an edge buffer is to be released (R247, R306,
R309, R315, R321). -/
def State.engineDue (s : State) (mt : Site) (m : MemTile) : Bool :=
  (List.finRange 2).any (fun (l : Fin 2) =>
    let f : MtLeaf := m.lf[l]
    (List.finRange 4).any (fun (u : Fin 4) =>
      let t : Template := f.tpl[u]
      t.state == 1 && (s.moved (execTemplateQueueHead mt l u s) || s.moved (execCopyRunStart mt l u s)) ||
        t.run.isSome && s.moved (execCopyBeat mt l u s)) ||
    !f.toMark.isEmpty && s.moved (execTemplateQueueHead mt l 0 s) ||
    (List.finRange 16).any (fun (g : Fin 16) => f.tagWaits g && s.moved (execCompletionTokenPublish mt l g s)) ||
    (List.finRange 8).any (fun (c : Fin 8) => m.ebuf[l][c].marked && s.moved (execEdgeBufferRelease mt l c s)))

/-- The arrivals at the inlets of a memory tile's edge buffers, whose cycle R177 fixes, the requests at
the head of its port queues, and the timeouts of its counter records (R229, R246, R283). -/
def inletEvents (t : Site) (m : MemTile) : List Instr :=
  (List.finRange 2).flatMap (fun (l : Fin 2) => (List.finRange 8).flatMap (fun (c : Fin 8) =>
    if m.ebuf[l][c].port.isEmpty then []
    else [Instr.tokenArrival t l c, .preEmptMarkerArrival t l c, .faultDrainArrival t l c])) ++
  m.queues.map (fun q => .portQueueDispatch t (BitVec.ofNat 12 q.1)) ++
  (List.finRange 2).flatMap (fun (l : Fin 2) =>
    (m.lf[l].records.filter (fun r => r.2.timeoutDue)).map (fun r => Instr.counterTimeout t l r.1))

/-- A producer stands on a die. -/
def Producer.onDie (p : Producer) (d : DieId) : Bool :=
  match p with
  | .tile t _ _ => siteDie t == d
  | .edge mt _ _ => siteDie mt == d
  | .feeder e _ => e == d
  | .elastic e _ _ => e == d
  | .none => false

/-- A chunk of a memory tile of a die is acknowledged in the present cycle (R321). -/
def State.chunkDue (s : State) (d : DieId) : Bool :=
  (placesWhere s.chunks (fun c => siteDie c.mt == d && decide (c.due ≤ s.cycleAt c.mt))).any (fun i => s.moved (execCopyChunkAck i s))

/-- The distributor of a die publishes a token in the present cycle, one per feeder (R342). -/
def State.feederDue (s : State) (d : DieId) : Bool :=
  s.launches.any (fun l =>
    (placesWhere l.feeders (fun f => f.die == d)).any (fun j => s.moved (execIndexTokenPublish (4096 * l.slot + j) s)))

/-- The queue of an elastic stage of a die passes a token in the present cycle (R246, R351). -/
def State.elasticDue (s : State) (d : DieId) : Bool :=
  (List.finRange 16).any (fun e => (s.elastic d e).v && s.moved (execElasticQueuePass d e s))

/-- Something that belongs to the present cycle of a die has not happened yet. -/
def State.overdue (s : State) (d : DieId) : Bool :=
  let on := fun (n : Nat) => siteDie (BitVec.ofNat 12 n) == d
  s.tiles.any (fun q => on q.1 &&
    (s.anyDue (tileEvents (BitVec.ofNat 12 q.1) q.2) || s.inputsDue (BitVec.ofNat 12 q.1) ||
      (List.finRange 4).any (fun b => s.moved (.next (s.bankTurn (BitVec.ofNat 12 q.1) b))))) ||
  s.boxes.any (fun q => on q.1 && s.anyDue (boxEvents (BitVec.ofNat 12 q.1) q.2)) ||
  s.memTiles.any (fun q => on q.1 && (s.anyDue (inletEvents (BitVec.ofNat 12 q.1) q.2) ||
      s.engineDue (BitVec.ofNat 12 q.1) q.2 || s.passDue (BitVec.ofNat 12 q.1) q.2)) ||
  s.chunkDue d || s.feederDue d || s.elasticDue d ||
  (s.localRequests d).any s.requestDue ||
  (List.finRange 16).any (fun e => s.sampleDue d e) || s.stallDue d ||
  (List.range s.releases.length).any (fun i =>
    let r := s.releases.getD i { dest := .none, n := 0, due := none }
    r.legs.isEmpty && r.dest.onDie d && r.due.isSome && s.moved (exec (.slotReleaseArrival i) s))

/-- A tile at the start of a cycle: the masks that apply from it, and nothing done in it yet (R188, R228). -/
def Tile.newCycle (x : Tile) : Tile :=
  { x with issued := false, sent := false, started := false, spent := 0, idled := 0, left := 0,
           ctx := x.ctx.map (fun c => { c with clsmask := c.clsnext.getD c.clsmask, clsnext := none }) }

/-- The units of a tile in a cycle: the sequencer and the load port run, and a TILE episode whose last arrival came in the
cycle before completes (R192, R214, R266). -/
def State.tileCycle (s : State) (t : Site) : State :=
  let s1 := (s.msCycle t).cactCycle t
  let l := (s1.tile t).running
  if s1.episodeDone t l 0 then s1.completeBarrier t l 0 else s1

/-- A counter record after a cycle: TLEFT counts microseconds of 1,200 cycles (R9, R279). -/
def CounterRec.spend (r : CounterRec) : CounterRec :=
  if r.timed && r.tleft != 0 then
    if r.cycles + 1 < 1200 then { r with cycles := r.cycles + 1 } else { r with cycles := 0, tleft := r.tleft - 1 }
  else r

/-- A leaf of a memory tile after a cycle in which its partition runs: counters and ages go on (R279, R300). -/
def MtLeaf.spend (f : MtLeaf) : MtLeaf :=
  { f with records := f.records.map (fun q => (q.1, q.2.spend)),
           keys := f.keys.map (fun k => { k with waiters := k.waiters.map (fun w => { w with age := w.age + 1 }) }) }

/-- A refused umbra request after a cycle; one that only waits behind refused ones has no age (R290, R300). -/
def Req.older (q : Req) (runs : BitVec 6 → Bool) : Req := if q.refused && runs q.src.part then { q with age := q.age + 1 } else q

/-- A loaded partition runs on a die: no swap of it has been decided there (R279, R300, R353). -/
def State.partGoes (s : State) (d : DieId) (part : BitVec 6) : Bool := (s.part part).isSome && !s.partStopped part d

/-- A memory tile after a cycle. -/
def MemTile.spend (m : MemTile) (runs : BitVec 6 → Bool) : MemTile :=
  { m with lf := m.lf.map (fun f => if runs f.part then f.spend else f),
           refused := m.refused.map (fun q => (q.1, q.2.map (fun r => r.older runs))) }

/-- The tables of a die with every entry of the die changed. -/
def FMap.onDie {α : Type} (m : FMap α) (d : DieId) (f : α → α) : FMap α :=
  m.map (fun q => if siteDie (BitVec.ofNat 12 q.1) == d then (q.1, f q.2) else q)

/-- The timers of the cores of a die that equal its new cycle count (R395). -/
def State.timers (s : State) (d : DieId) : State :=
  (List.finRange 4).foldl (fun (x : State) (j : Fin 4) =>
    let k := coreOf d j
    if x.cores[k].timer = x.dies[d].cycle then x.onCore k (fun c => c.raise 4) else x) s

/-- Cycles of a millisecond (R9). -/
def millisecond : Nat := 1200000

/-- Cycles' times since reset, with those in which the clocks of the die stood still (R405). -/
def Die.time (x : Die) : Nat := x.cycle.toNat + x.asleep

/-- The telemetry of a die after a cycle's time: corrected errors, and the power of the millisecond that has ended (R41, R401). -/
def Die.telemetry (x : Die) (d : DieId) : Die :=
  { x with ecccor := BitVec.ofNat 32 (min (x.ecccor.toNat + Config.softErrors d x.time) 0xFFFFFFFF),
           powerw := if x.time % millisecond = 0 then Config.diePower d x.time else x.powerw }

/-- A cycle's time passes at a die whose clock counts. -/
def Die.count (x : Die) (d : DieId) : Die := ({ x with cycle := x.cycle + 1 } : Die).telemetry d

/-- A cycle's time passes at a die whose clock stands still: the device reads telemetry continuously (R401, R405). -/
def State.sleep (s : State) (d : DieId) : State :=
  if s.powered then s.onDie d (fun x => ({ x with asleep := x.asleep + 1 } : Die).telemetry d) else s

/-- Requests that a host has refused and that are on their way to it again grow older (R290, R300). -/
def State.ageFlights (s : State) (d : DieId) : State :=
  { s with flight := s.flight.map (fun f =>
      if f.req.refused && siteDie f.req.src.tile == d then { f with req := f.req.older (s.partGoes d) } else f) }

/-- A cycle of a die begins: writes of control cores to its registers take effect at the boundary, and a swap that its command
has brought goes before everything else (R32, R353, R395, R397). -/
def State.newCycle (s : State) (d : DieId) : State :=
  let s1 := s.onDie d (fun x => x.count d)
  let s2 := ({ s1 with tiles := s1.tiles.onDie d Tile.newCycle,
                       memTiles := s1.memTiles.onDie d (fun m => m.spend (s.partGoes d)) }.ageFlights d).applyWrites d
  let s3 := s2.decideSwaps d
  let ts := (s3.tiles.map (fun q => BitVec.ofNat 12 q.1)).filter (fun t => siteDie t == d)
  (ts.foldl (fun (x : State) t => x.tileCycle t) s3).timers d

/-- The turn of a die: a cycle passes, once everything that belongs to the present one has happened; of a fenced die only
the count and the telemetry go on, and a write of a live core to its registers completes (R397, R401, R406). -/
def State.dieTurn (s : State) (d : DieId) : State :=
  if s.fenced d then ((s.onDie d (fun x => x.count d)).applyWrites d).decideSwaps d
  else if s.overdue d then s
  else s.newCycle d

/-! ## A turn -/

/-- One turn of the machine. -/
def State.turn (s : State) (u : Turn) : Host.Outcome State Fault Refusal :=
  match u with
  | .event i => s.eventTurn i
  | .tick d => .next (if s.clocked then s.dieTurn d else s.sleep d)
  | .bundle t b => .next (if s.clocked then s.bankTurn t b else s)
  | .core k => if s.clocked then s.coreTurn k else .next s

end Sys2Proof.Machine
end

