-- ==== Sys2Proof/Machine/Step.lean ====
section
/-!
DEFINITION. One step of the machine, and the state in which a given word is what the next step runs (log 1, 8).
-/
namespace Sys2Proof.Machine

/-- One step: the next turn of the agenda, else the turn that repeats, else a turn that the model leaves free (R9; log 1). -/
def step (s : State) : Host.Outcome State Fault Refusal :=
  match s.agenda with
  | u :: r => { s with agenda := r }.turn u
  | [] =>
    match s.solo with
    | some u => s.turn u
    | none => { s with choices := s.choices + 1 }.turn (Config.freeTurn s.choices)

/-- The state with a control-core word in local memory at the pc of core 0, that core started, and its turn next. -/
def State.withCoreWord (s : State) (w : W32) : State :=
  { s.onCore 0 (fun c => { c with lmem := c.lmem.writeW32 c.pc.toNat w, started := true }) with
      agenda := [], solo := some (.core 0) }

/-- The state with a bundle in program leaf 0 of tile 0 at the pc of bank 0, that bank running, and its turn next. -/
def State.withBundle (s : State) (w : Bundle) : State :=
  { s.onTile 0 (fun x => { x with
      prog := x.prog.set x.running (x.prog[x.running].writeNat (16 * x.ctx[x.running].banks[(0 : Fin 4)].pc) w.toNat 16),
      ctx := x.ctx.set x.running (x.ctx[x.running].onBank 0 (fun k => { k with life := .running })) }) with
      agenda := [], solo := some (.bundle 0 0) }

/-- The state with an instruction of the opcode table as the next one to run: a word of 32 bits is a control-core
instruction, anything else a bundle (R42, R68). The boot ROM's load of local memory, or the loader's of a program leaf, is
what it stands for (log 8). -/
def State.withFetchWord (s : State) (nbits w : Nat) : State :=
  if nbits = 32 then s.withCoreWord (BitVec.ofNat 32 w) else s.withBundle (BitVec.ofNat 128 w)

end Sys2Proof.Machine
end

