-- ==== Sys2Proof/Safety.lean ====
section
/-!
DEFINITION. The terms in which statements about the machine are made: what it takes for an op to issue alone in its bundle,
what its issue, its wait and its fault leave, and the invariant of a run.
-/
namespace Sys2Proof.Machine

/-! ## The issue of one op -/

/-- Nothing bars a bundle whose only op reads the registers `rs` and creates the writes `ws`: no two writes clash and at
most 24 are pending (R65, R66); and the bundle has been checked and waits already, or neither the bundle nor a register
that it reads holds an uncorrectable error (R61, R375). -/
def State.clear (s : State) (k : Slot) (rs : List RegRef) (ws : List (Nat × PVal)) : Bool :=
  (wclash s.curBank.pending [(k, { writes := ws })]).isNone &&
    (s.curBank.checked || (s.bundleEcc.isNone && (s.parity rs).isNone))

/-- The instruction, executed where nothing bars its bundle and its predicate holds, issues: the machine goes on, with the
effects, the writes and the flow of `p` as the effect of its bundle. -/
def Issues (i : Instr) (s : State) (k : Slot) (g : Pg) (rs : List RegRef) (p : Plan) : Prop :=
  s.settle.curBank.enabled g = true → s.settle.clear k (⟨2, g.pr.toNat⟩ :: rs) p.writes = true →
    exec i s = .next (s.settle.commit [(k, p)])

/-- The instruction, executed where its bundle has not been checked before and no error stands in it or in the registers
that it reads, faults in its slot and has no effect (R59, R61). -/
def Faults (i : Instr) (s : State) (k : Slot) (g : Pg) (rs : List RegRef) (ws : List (Nat × PVal)) (f : FaultInfo) : Prop :=
  s.settle.curBank.enabled g = true → s.settle.curBank.checked = false →
    s.settle.clear k (⟨2, g.pr.toNat⟩ :: rs) ws = true → exec i s = .next (s.settle.faultHere k f)

/-- The instruction, executed where nothing bars its bundle and its predicate holds, makes its bank wait with a code of
BSTAT and has no other effect (R61, R67, R367). -/
def Waits (i : Instr) (s : State) (k : Slot) (g : Pg) (rs : List RegRef) (ws : List (Nat × PVal)) (code : BitVec 4) : Prop :=
  s.settle.curBank.enabled g = true → s.settle.clear k (⟨2, g.pr.toNat⟩ :: rs) ws = true →
    exec i s = .next (s.settle.onCurBank (fun b => { b with wait := code, checked := true }))

/-! ## Predicates -/

/-- The predicate field of a tile op (R45); a `nop` has none, nor has a control-core instruction or an event. -/
def guardOf : Instr → Option Pg
  | .add g .. | .sub g .. | .and g .. | .or g .. | .xor g .. | .shl g .. | .shr g .. | .sra g .. | .mul g .. | .mulh
    g .. | .mulhn g .. | .min g .. | .max g .. | .minn g .. | .maxn g .. | .clz g .. | .cmp g .. | .addi g .. |
    .andi g .. | .ori g .. | .xori g .. | .shli g .. | .shri g .. | .srai g .. | .cmpi g .. | .li g .. | .lui g .. |
    .pand g .. | .por g .. | .pxor g .. | .pandn g .. | .div g .. | .divn g .. | .rem g .. | .remn g .. | .br g .. |
    .call g .. | .jr g .. | .loop g .. | .pushm g .. | .popm g .. | .vpushm g .. | .vpopm g .. | .rdsr g .. | .wrsr
    g .. | .yield g | .halt g | .trap g .. | .vadd g .. | .vsub g .. | .vmul g .. | .vfma g .. | .vmin g .. | .vmax
    g .. | .vabs g .. | .vneg g .. | .vand g .. | .vor g .. | .vxor g .. | .vshl g .. | .vshr g .. | .vcvt g .. |
    .vcmp g .. | .vsel g .. | .vbcast g .. | .vext g .. | .vins g .. | .vperm g .. | .vred g .. | .vscan g .. | .vfn
    g .. | .vdot g .. | .vedge g .. | .vbary g .. | .vdedup g .. | .vblend g .. | .vdepth g .. | .vrbox g .. |
    .vrtri g .. | .vsort g .. | .vcomp g .. | .vsig g .. | .vsigChk g .. | .mlat g .. | .mlatc g .. | .mma g .. |
    .mzero g .. | .mdrain g .. | .msav g .. | .mrst g .. | .msync g | .cmap g .. | .cdif g .. | .cact g .. | .cstep
    g .. | .cclr g .. | .cout g .. | .csav g .. | .crst g .. | .pop g .. | .peek g .. | .pops g .. | .hdr g .. |
    .adv g .. | .waitf g .. | .push g .. | .poke g .. | .pub g .. | .waite g .. | .pushs g .. | .null g .. | .markRe
    g .. | .markEos g .. | .lds g .. | .sts g .. | .ldsw g .. | .stsw g .. | .ldg g .. | .stg g .. | .ldw g .. |
    .amo g .. | .fence g .. | .bar g .. | .umen g .. | .umlv g .. | .umsk g .. | .umini g .. | .umabt g .. | .arm g
    .. | .fire g .. | .cfgt g .. | .send g .. | .cmask g .. | .cunm g .. | .redc g .. | .fillc g .. | .lnch g .. => some g
  | _ => none

/-- The tile op publishes a null token where its predicate turns it off (R46). -/
def publishes : Instr → Bool
  | .push .. | .pub .. | .markRe .. | .markEos .. => true
  | _ => false

/-- The registers that an instruction of a control core writes when it has no other effect than writing a register and
directing the core; `none` for every other instruction. -/
def coreDests : Instr → Option (List (BitVec 5))
  | .ccAdd d .. | .ccSub d .. | .ccAnd d .. | .ccOr d .. | .ccXor d .. | .ccShl d .. | .ccShr d .. | .ccSra d .. |
    .ccSlt d .. | .ccSltn d .. | .ccMul d .. | .ccAddi d .. | .ccAndi d .. | .ccOri d .. | .ccXori d .. | .ccShli d .. |
    .ccShri d .. | .ccSrai d .. | .ccSlti d .. | .ccLui d .. | .ccJal d .. | .ccJalr d .. |
    .csrr d .. => some [d]
  | .ccBeq .. | .ccBne .. | .ccBlt .. | .ccBge .. | .ccBltn .. | .ccBgen .. => some []
  | _ => none

/-! ## Frames -/

/-- The registers that a tile op writes when it has no other effect than writing registers and directing issue, by the kinds
of R357; `none` for an op with another effect, and for a control-core instruction or an event. -/
def registerDests : Instr → Option (List (BitVec 3 × Nat))
  | .nop => some []
  | .add _ d .. | .sub _ d .. | .and _ d .. | .or _ d .. | .xor _ d .. | .shl _ d .. | .shr _ d .. | .sra _ d .. |
    .mul _ d .. | .mulh _ d .. | .mulhn _ d .. | .min _ d .. | .max _ d .. | .minn _ d .. | .maxn _ d .. | .clz _ d .. |
    .addi _ d .. | .andi _ d .. | .ori _ d .. | .xori _ d .. | .shli _ d .. | .shri _ d .. | .srai _ d .. | .li _ d .. |
    .lui _ d .. | .div _ d .. | .divn _ d .. | .rem _ d .. | .remn _ d .. | .rdsr _ d .. | .vext _ d .. =>
    some [(1, d.toNat)]
  | .cmp _ d .. | .cmpi _ d .. | .pand _ d .. | .por _ d .. | .pxor _ d .. | .pandn _ d .. => some [(2, d.toNat)]
  | .br .. | .jr .. | .loop .. | .yield _ | .halt _ | .trap .. => some []
  | .call .. => some [(1, 31)]
  | .vadd _ d .. | .vsub _ d .. | .vmul _ d .. | .vfma _ d .. | .vmin _ d .. | .vmax _ d .. | .vabs _ d .. | .vneg _ d .. |
    .vand _ d .. | .vor _ d .. | .vxor _ d .. | .vshl _ d .. | .vshr _ d .. | .vcvt _ d .. | .vcmp _ d .. | .vsel _ d .. |
    .vbcast _ d .. | .vins _ d .. | .vperm _ d .. | .vred _ d .. | .vscan _ d .. | .vfn _ d .. | .vdot _ d .. |
    .vedge _ d .. | .vbary _ d .. | .vdedup _ d .. | .vblend _ d .. | .vdepth _ d .. | .vrbox _ d .. | .vrtri _ d .. |
    .vsort _ d .. | .vcomp _ d .. | .vsig _ d .. | .cout _ d .. => some [(4, d.toNat)]
  | .cstep _ d .. => some [(5, d.toNat)]
  | .cclr _ d | .crst _ d .. => some [(6, d.toNat)]
  | .lds _ d .. => some [(4, d.toNat)]
  | .ldsw _ d .. | .hdr _ _ d => some [(1, d.toNat)]
  | .peek _ _ d _ cap => some ((4, d.toNat) :: cap.toList.map (fun p => (2, p.toNat)))
  | .waitf .. | .waite .. | .fence .. => some []
  | _ => none

/-- The state without its compute tiles and without the notice queues of its dies. -/
def State.apart (s : State) : State := { s with tiles := [], dies := s.dies.map (fun d => { d with notice := [] }) }

/-- A tile without its contexts. -/
def Tile.bare (x : Tile) : Tile := { x with ctx := Vector.replicate 2 {} }

/-- A bank without what the issue of a register op may change: where it stands, its step, what it waits for, its pending
writes, and its fault registers. -/
def Bank.bare (k : Bank) : Bank :=
  { k with pc := 0, step := 0, pending := [], loops := [], fltc := 0, flta := 0, fltb := 0, fltx := 0, faulted := false,
           wait := 0, checked := false, emptyStep := false, ending := none, fence := none }

/-- Nothing but the issuing bank's own record has changed, and of that record only what `Bank.bare` leaves out; a notice
record may have been added. -/
def BankOnly (s t : State) : Prop :=
  t.apart = s.apart ∧ (∀ u : Site, u ≠ s.cur.tile → t.tile u = s.tile u) ∧ t.curTile.bare = s.curTile.bare ∧
  (∀ l : Leaf, l ≠ s.curLeaf → t.ctx s.cur.tile l = s.ctx s.cur.tile l) ∧
  (t.curCtx.onBank s.cur.bank (fun _ => {})) = (s.curCtx.onBank s.cur.bank (fun _ => {})) ∧
  t.curBank.bare = s.curBank.bare

/-- The state without its control cores. -/
def State.withoutCores (s : State) : State := { s with cores := Vector.replicate 16 {} }

/-- The state without what an access of memory may change on its way besides memory itself: the cores, the L2 slices with their
filters, the invalidations and the requests under way; and, when a sector with an uncorrectable error is evicted, the errors
and the notice queues (R238-R241, R375). -/
def State.beside (s : State) : State :=
  { s with cores := Vector.replicate 16 {}, slices := [], filters := [], invals := [], flight := [], nextId := 0, ecc := [],
           dies := s.dies.map (fun d => { d with notice := [] }) }

/-! ## The invariant of a run -/

/-- The word addresses of a control core are multiples of 4 (R388, R392, R395). -/
def Core.aligned (c : Core) : Bool := c.pc &&& 3 == 0 && c.evec &&& 3 == 0 && c.epc &&& 3 == 0

/-- Every byte memory of the machine is in its canonical form (R3): GDDR7 and the rest of the physical space, the flash, the
local memory of each core, the scratch of each tile, and the owned words of each memory tile, in place or swapped out. -/
def State.canonical (s : State) : Prop :=
  s.mem.wf = true ∧ s.host.flash.wf = true ∧ (∀ k : CoreId, s.cores[k].lmem.wf = true) ∧
  (∀ t : Site, (s.tile t).scratch.wf = true) ∧ (∀ (mt : Site) (l : Leaf), (s.mtLeaf mt l).store.wf = true) ∧
  (∀ e ∈ s.stash, e.mtLeaf.store.wf = true)

/-- The invariant of a run: every memory in its canonical form, and every control core at a word (R3, R388). -/
def State.Inv (s : State) : Prop := s.canonical ∧ ∀ k : CoreId, s.cores[k].aligned = true

end Sys2Proof.Machine
end

