-- ==== Sys2Proof/Certificates/Slice0/Obligations.lean ====
section
/-!
DEFINITION. The statements about this machine for the provers. Each names the rules of the spec that it rests on. A tile op
is stated through `Issues`, `Faults` and `Waits` of Safety: what `exec` answers where nothing bars the bundle of the op.
-/
open Sys2Proof Sys2Proof.Machine

/-! ## Decoding and encoding -/

/-- R42, R45, R47, R54-R58, R68, R69: Words that the spec's own examples and format tables write out, and the
instructions that they stand for; and the bundle of the encoding example. -/
def Obligations.DecodeWords : Prop :=
  let p0 : Pg := ⟨false, 0⟩
  decodeSlot .s 0x00485300 = some (.add p0 4 5 6) ∧ decodeSlot .s 0x004A5308 = some (.mul p0 5 5 6) ∧
  decodeSlot .s 0x00CC6001 = some (.addi p0 6 6 1) ∧ decodeSlot .s 0x04C04003 = some (.loop p0 4 3) ∧
  decodeSlot .s 0x343FFFFC = some (.br ⟨false, 3⟩ (-4)) ∧ decodeSlot .s 0 = some .nop ∧
  decodeSlot .v 0x004221B0 = some (.vadd p0 1 2 3 0x6 0) ∧ decodeSlot .v 0x010E84B2 = some (.vfma p0 7 8 9 0x6 2) ∧
  decodeSlot .v 0x034414B1 = some (.vcvt p0 2 1 0x6 0x9 false 1) ∧
  decodeSlot .m 0x00C00038 = some (.mma p0 false 0x7 false) ∧
  decodeSlot .c 0x2124A000 = some (.push ⟨false, 2⟩ 1 5) ∧ decodeSlot .c 0x01C40200 = some (.waitf p0 1 4) ∧
  decodeSlot .c 0x0048A058 = some (.pop p0 2 5 (some 3)) ∧
  decodeCC (fun _ => 0) 0x40A6FFFC = some (.ccAddi 5 6 (-4)) ∧
  [Slot.s, .v, .m, .c].map (bundleWord 0x2124A00000C00038004221B000485300) =
    [0x00485300, 0x004221B0, 0x00C00038, 0x2124A000]

/-- R47-R58, R68, R69, R129, R191, R324: The decoder reads every well-formed instruction back from its word, with
every operand at every value; and what it reads from any word of a slot is well-formed. -/
def Obligations.DecodeEncode : Prop :=
  (∀ i : Instr, i.wf = true → i.reread = some i) ∧
  (∀ (k : Slot) (w : W32) (i : Instr), decodeSlot k w = some i → i.wf = true ∧ (i = .nop ∨ i.slot = some k))

/-- R48-R56, R59, R60, R68, R69, R71, R77, R129, R191, R200, R208, R324, R399: Every unassigned opcode, every reserved bit,
every register field that names no register, and every code, state-register number and command that its op does not accept,
slot by slot, makes a word illegal; a bundle with an illegal word faults ILLOP in the first slot that has one, and a control
core takes ILLOP at an illegal word. -/
def Obligations.IllegalWords : Prop :=
  (∀ (w : W32) (c : BitVec 5 → BitVec 4),
    let op := (opCode w).toNat
    let cc := (ccOp w).toNat
    let t := (fT w).toNat
    let m := (fM w).toNat
    let illegal := fun (k : Slot) (ops : List Nat) (p : Prop) => op ∈ ops → p → decodeSlot k w = none
    let field := fun (k : Slot) (ops : List Nat) (i n : Nat) => illegal k ops (w.extractLsb' i n ≠ 0)
    let bit := fun (k : Slot) (ops : List Nat) (i : Nat) => illegal k ops (w.getLsbD i = true)
    ((op = 0x0F ∨ 0x1B ≤ op) → decodeSlot .s w = none) ∧
    ((0x18 ≤ op ∧ op < 0x20 ∨ 0x2A ≤ op) → decodeSlot .v w = none) ∧
    ((0x09 ≤ op ∧ op < 0x10 ∨ 0x18 ≤ op) → decodeSlot .m w = none) ∧
    ((op = 0x0E ∨ op = 0x0F ∨ op = 0x17 ∨ 0x29 ≤ op) → decodeSlot .c w = none) ∧
    ((cc = 0 ∨ 0x0C ≤ cc ∧ cc < 0x10 ∨ 0x19 ≤ cc ∧ cc < 0x20 ∨ cc = 0x23 ∨ cc = 0x27 ∨ 0x35 ≤ cc ∧ cc < 0x38) →
      decodeCC c w = none) ∧
    -- The S slot.
    field .s [0x01] 4 3 ∧ field .s [0x02] 3 4 ∧ field .s [0x0D, 0x0E] 2 5 ∧ field .s [0x12, 0x18, 0x19] 0 7 ∧
    field .s [0x14, 0x15] 1 6 ∧ illegal .s [0x14, 0x15] (w.getLsbD 0 = true ∧ (w.getLsbD 16 = true ∨ w.getLsbD 11 = true)) ∧
    illegal .s [0x02] (6 ≤ m) ∧
    illegal .s [0x16, 0x17] (0x014 ≤ (fImm12 w).toNat ∧ (fImm12 w).toNat < 0x020 ∨ 0x030 ≤ (fImm12 w).toNat) ∧
    -- The V slot.
    bit .v [0x01, 0x02, 0x03, 0x04, 0x05, 0x06, 0x07, 0x08, 0x09, 0x0A, 0x0B, 0x0C, 0x0D, 0x0E, 0x0F, 0x10, 0x12, 0x13,
      0x14, 0x15, 0x16, 0x17, 0x20, 0x21, 0x22, 0x23, 0x24, 0x25, 0x26, 0x27, 0x28, 0x29] 21 ∧
    bit .v [0x01, 0x02, 0x03, 0x04, 0x05, 0x06, 0x07, 0x08, 0x09, 0x0A, 0x0B, 0x0C, 0x0D, 0x0E, 0x0F, 0x11, 0x13,
      0x14, 0x15, 0x16, 0x17, 0x20, 0x21, 0x22, 0x23, 0x24, 0x25, 0x26, 0x27, 0x28, 0x29] 16 ∧
    bit .v [0x01, 0x02, 0x03, 0x04, 0x05, 0x06, 0x08, 0x09, 0x0A, 0x0B, 0x0C, 0x0E, 0x0F, 0x13,
      0x17, 0x20, 0x21, 0x22, 0x23, 0x24, 0x25, 0x26, 0x27, 0x28, 0x29] 11 ∧
    field .v [0x05, 0x06, 0x08, 0x09, 0x0A, 0x0B, 0x0C, 0x0F, 0x10, 0x11, 0x12, 0x13, 0x22, 0x25] 0 3 ∧ bit .v [0x07] 2 ∧
    illegal .v [0x01, 0x02, 0x03, 0x04, 0x05, 0x06, 0x07, 0x0E, 0x14, 0x15] (t = 0 ∨ 9 ≤ t) ∧
    illegal .v [0x08, 0x09, 0x0A, 0x0D, 0x10, 0x11, 0x12] (t = 0xD ∨ t = 0xE) ∧
    illegal .v [0x0B, 0x0C] (t = 0 ∨ 6 ≤ t) ∧ illegal .v [0x13] (0xB ≤ t ∧ t ≤ 0xE) ∧
    illegal .v [0x17] (t < 3 ∨ 5 ≤ t ∧ t < 7 ∨ 9 ≤ t) ∧ illegal .v [0x20, 0x22, 0x27] (t ≠ 5) ∧
    illegal .v [0x16, 0x21, 0x25, 0x26, 0x28] (t ≠ 6) ∧ illegal .v [0x23] (t < 6 ∨ 9 ≤ t) ∧
    illegal .v [0x24] (t ≠ 6 ∧ t ≠ 4) ∧ illegal .v [0x29] (t ≠ 0 ∨ 2 ≤ m) ∧
    illegal .v [0x01, 0x02, 0x03, 0x04, 0x17] (if floatT (fT w) then 5 ≤ m else 2 ≤ m) ∧
    illegal .v [0x07] (floatT (fT w) = true ∧ w.getLsbD 1 = true) ∧ illegal .v [0x0E] (m = 7) ∧
    illegal .v [0x0D, 0x21, 0x23, 0x28] (5 ≤ m) ∧ illegal .v [0x14, 0x15, 0x20, 0x26, 0x27] (3 ≤ m) ∧
    illegal .v [0x14, 0x15] (floatT (fT w) = true ∧ m = 0 ∧ 5 ≤ (w.extractLsb' 7 3).toNat) ∧ illegal .v [0x16] (6 ≤ m) ∧
    illegal .v [0x0D] (w.extractLsb' 7 4 = 0xD ∨ w.extractLsb' 7 4 = 0xE ∨
      w.getLsbD 11 = true ∧ w.extractLsb' 7 4 ∈ [0x0#4, 0x6#4, 0x7#4, 0x8#4, 0xF#4]) ∧
    -- The M slot.
    bit .m [0x01, 0x05, 0x12] 2 ∧ field .m [0x02, 0x03] 1 2 ∧ field .m [0x04, 0x06, 0x07, 0x08, 0x14, 0x16, 0x17] 0 7 ∧
    field .m [0x10, 0x11] 4 3 ∧ field .m [0x13, 0x15] 5 2 ∧ bit .m [0x02, 0x15] 21 ∧
    illegal .m [0x01] (w.getLsbD 1 = true ∧ (w.getLsbD 11 = true ∨ w.getLsbD 0 = true)) ∧
    illegal .m [0x01, 0x02, 0x03] (t = 0 ∨ 2 ≤ t ∧ t < 7 ∨ 0xD ≤ t) ∧ illegal .m [0x05] (t = 2 ∨ t = 4 ∨ 0xD ≤ t) ∧
    illegal .m [0x05] (w.getLsbD 0 = true ∧ (t < 7 ∨ t = 0xC)) ∧ illegal .m [0x12] (t ≠ 1 ∧ t ≠ 3) ∧
    illegal .m [0x15] (5 ≤ (w.extractLsb' 2 3).toNat) ∧
    -- The C slot.
    field .c [0x01, 0x02] 0 3 ∧ field .c [0x0C, 0x0D, 0x24, 0x25] 4 3 ∧ field .c [0x18] 4 2 ∧ field .c [0x19, 0x1A] 3 4 ∧
    field .c [0x03, 0x04, 0x05, 0x06, 0x07, 0x08, 0x0A, 0x0B, 0x1B, 0x1C, 0x1D, 0x1E, 0x1F, 0x20, 0x21, 0x22] 0 7 ∧
    bit .c [0x23] 6 ∧ field .c [0x28] 2 5 ∧ illegal .c [0x09] (fX w ≠ 1 ∧ fX w ≠ 2) ∧
    bit .c [0x01, 0x02, 0x03, 0x07, 0x0B, 0x0C] 21 ∧
    illegal .c [0x04, 0x05, 0x06, 0x08, 0x09, 0x0A, 0x0D] (w.getLsbD 21 = false) ∧
    bit .c [0x01, 0x02, 0x04, 0x05] 17 ∧ bit .c [0x10, 0x11, 0x15, 0x26] 21 ∧ bit .c [0x23] 11 ∧
    bit .c [0x14, 0x15, 0x18, 0x20, 0x26, 0x27] 12 ∧ illegal .c [0x28] (w.getLsbD 0 = true ∧ w.getLsbD 7 = true) ∧
    illegal .c [0x18] (9 ≤ (w.extractLsb' 0 4).toNat ∨ w.extractLsb' 0 4 = 8 ∧ w.getLsbD 7 = true) ∧
    illegal .c [0x19, 0x1A] (5 ≤ m) ∧
    -- Control cores.
    (cc ∈ [0x01, 0x02, 0x03, 0x04, 0x05, 0x06, 0x07, 0x08, 0x09, 0x0A, 0x0B, 0x34, 0x38, 0x39, 0x3A, 0x3B, 0x3C, 0x3D, 0x3E,
        0x3F] → w.extractLsb' 0 11 ≠ 0 → decodeCC c w = none) ∧
    (cc ∈ [0x30, 0x31] → w.extractLsb' 12 4 ≠ 0 → decodeCC c w = none) ∧
    (cc ∈ [0x32, 0x33] → w.extractLsb' 0 26 ≠ 0 → decodeCC c w = none) ∧
    (cc = 0x3D → 4 ≤ (c (ccB w)).toNat → decodeCC c w = none) ∧
    (cc = 0x3E → 3 ≤ (c (ccB w)).toNat → decodeCC c w = none)) ∧
  (∀ (s : State) (k : Slot),
    s.settle.curBank.pc < 0x1000 → illSlot s.settle.curBundle = some k →
      s.issueBundle = s.settle.faultHere k (faultOf .illop 0) ∧
      decodeSlot k (bundleWord s.settle.curBundle k) = none ∧
      (∀ j ∈ tileSlots.takeWhile (fun j => j != k), decodeSlot j (bundleWord s.settle.curBundle j) ≠ none)) ∧
  (∀ (s : State) (k : CoreId),
    s.coreRuns k = true → s.ecc.contains (.localMem k (s.cores[k].pc.toNat / 4)) = false → s.cores[k].decoded = none →
      s.coreTurn k = .next ((s.atCore k).coreFault .illop 0))

/-! ## Steps -/

/-- R9, R42, R44, R59, R68, R352: A step takes the next turn of the agenda, else the turn that repeats. The turn of
a bank that can issue issues its bundle: when one op of it is not `nop`, that is the meaning of the op; in general,
its four ops together. The turn of a core that runs is the meaning of the word at its pc, and the turn of an event
whose time has come that of the event. The agenda, the repeated turn, the cursor and the times of memory requests are the
model's own (logs 1, 7, 41). -/
def Obligations.StepRuns : Prop :=
  ∀ (s u : State) (turn : Turn) (rest : List Turn) (t : Site) (b : BankId) (k : CoreId) (i : Instr),
    let taken := (s.agenda = turn :: rest ∧ u = { s with agenda := rest }) ∨ (s.agenda = [] ∧ s.solo = some turn ∧ u = s)
    let x := u.tile t
    let held := (u.toIssue t b).settle
    taken →
      (turn = .bundle t b → u.clocked = true → x.hasSpent b = false → x.ctx[x.running].saved = false →
        x.ctx[x.running].banks[b].owesStep = false → u.tileIssues t = true → u.mayIssue t b = true →
        u.firstReady t b = true → held.curBank.pc < 0x1000 →
        (illSlot held.curBundle = none → step s = .next (held.issue (bundlePlans held.curBundle held))) ∧
        (decodeSole held.curBundle = some i → step s = exec i (u.toIssue t b))) ∧
      (turn = .core k → u.clocked = true → u.coreRuns k = true →
        u.ecc.contains (.localMem k (u.cores[k].pc.toNat / 4)) = false → u.cores[k].decoded = some i →
        step s = exec i (u.atCore k)) ∧
      (turn = .event i → isEvent i = true → i.wf = true → u.admits i = true → u.timely i = true → step s = exec i u)

/-- R77-R79, R92, R153, R190, R207, R224, R279, R300, R343, R371, R388, R395, R401, R405, R435: What reset leaves,
where the spec gives it. The values that the spec does not give are the model's (logs 2-4) and are not stated. -/
def Obligations.ResetState : Prop :=
  let s := State.reset
  s.powered = true ∧ s.launches = [] ∧ s.host.cur = 0 ∧ s.host.busy = false ∧ s.host.fence = 0 ∧
  (∀ (t : Site) (l : Leaf) (b : BankId),
    let k := s.bank t l b
    k.life = .idle ∧ k.faulted = false ∧ k.frozen = false ∧ k.pc = 0 ∧ k.step = 0 ∧ k.pending = [] ∧ k.loops = [] ∧
    k.rmode = 0 ∧ k.othr = 0x3F7F0000 ∧ k.fltc = 0 ∧ k.flta = 0 ∧ k.fltb = 0 ∧ k.fltx = 0 ∧ k.sp = k.spbase) ∧
  (∀ t : Site, (s.ctx t 0).sshare = 0x4000 ∧ (s.ctx t 1).sshare = 0 ∧ (s.tile t).running = 0 ∧
    (∀ ch : Fin 8, (s.ctx t 0).inp[ch].icfg = 0 ∧ (s.ctx t 0).outp[ch].ocfg = 0) ∧
    (∀ h : Fin 2, (s.tile t).halves[h].valid = true ∧ (s.tile t).halves[h].rows = 0) ∧
    (s.mt t).mtwin = 32 ∧ (s.mtLeaf t 0).umblim = 1200000 ∧ (s.mtLeaf t 0).redto = 2000) ∧
  (∀ d : DieId, s.dies[d].cycle = 0 ∧ s.dies[d].gran = 64 ∧ s.dies[d].live = 0xF ∧ s.dies[d].master = 0 ∧
    (∀ p : BitVec 6, (s.noticeQ d p).migthr = 256 ∧ (s.noticeQ d p).nqsize = 0)) ∧
  (∀ k : CoreId,
    let c := s.cores[k]
    c.pc = 0 ∧ c.evec = 0 ∧ c.epc = 0 ∧ c.inExc = false ∧ c.evpend = 0 ∧ c.evmask = 0 ∧
    c.timer = 0xFFFFFFFFFFFFFFFF ∧ c.msg = 0 ∧ c.swstat = 0 ∧ c.halted = false ∧ c.started = false)

/-- R3, R388, R395: Reset meets the invariant of a run, and so does reset with a word placed in the local memory of
a core. -/
def Obligations.ResetInvariant : Prop := State.reset.Inv ∧ (∀ w : W32, (State.reset.withCoreWord w).Inv)

/-- R3, R388, R392, R394-R396: Every step keeps the invariant of a run: each byte memory of the machine stays in
its canonical form, and every control core at a multiple of 4, with EVEC and EPC. -/
def Obligations.StepInvariant : Prop :=
  ∀ s t : State, s.Inv → step s = .next t → t.Inv

/-- R5, R62, R64, R65, R66, R78, R363: What the issue of an op leaves pending, and when it lands. A write of
latency L lands L steps later, on its own register; a write to s0 or p0 is never pending; landing changes no other
register. Two writes that land at one step on one register fault WCLASH with the register code, a twenty-fifth
pending write with 0xFFF; the op has no effect. -/
def Obligations.PendingWrites : Prop :=
  ((∀ (s : State) (k : Slot) (n : Nat) (v : PVal),
     let b := s.curBank
     s.curBank.loops = [] → b.pc + 1 < 0x1000 →
       (v.discarded = false → s.commit [(k, { writes := [(n, v)] })] = s.onCurBank (fun b => { b with
         pending := (b.pending ++ [PWrite.mk n v k]).map (fun (w : PWrite) => { w with rem := w.rem - 1 }), step := b.step + 1, pc := b.pc + 1,
         wait := 0, checked := false })) ∧
       (v.discarded = true → s.commit [(k, { writes := [(n, v)] })] = s.onCurBank (fun b => { b with
         pending := b.pending.map (fun (w : PWrite) => { w with rem := w.rem - 1 }), step := b.step + 1, pc := b.pc + 1,
         wait := 0, checked := false }))) ∧
   (∀ (c : LeafCtx) (b : BankId) (r q : BitVec 5) (d e : BitVec 4) (p : BitVec 3) (n : Nat) (x : W32) (y : Vec) (f : Bool)
       (j : Slot),
     let one := fun (w : PWrite) => c.onBank b (fun k => { k with pending := [w] })
     let after := fun (w : PWrite) => ((one w).settle b).banks[b]
     (after ⟨0, .scalar r x, j⟩).pending = [] ∧
     (after ⟨0, .scalar r x, j⟩).rs q = (if q = r ∧ r ≠ 0 then x else c.banks[b].rs q) ∧
     (after ⟨0, .scalar r x, j⟩).v = c.banks[b].v ∧ (after ⟨0, .scalar r x, j⟩).p = c.banks[b].p ∧
     (after ⟨0, .vec d y, j⟩).rv e = (if e = d then y else c.banks[b].rv e) ∧ (after ⟨0, .vec d y, j⟩).s = c.banks[b].s ∧
     (after ⟨0, .pred p f, j⟩).rp p = (if p = 0 then true else f) ∧ (after ⟨0, .pred p f, j⟩).s = c.banks[b].s ∧
     (one ⟨n + 1, .scalar r x, j⟩).settle b = one ⟨n + 1, .scalar r x, j⟩) ∧
   (∀ (s : State) (b : BankId), b ≠ s.cur.bank →
     s.settle.bank s.cur.tile s.curLeaf b = s.bank s.cur.tile s.curLeaf b ∧ s.settle.mem = s.mem ∧
     s.settle.curTile.scratch = s.curTile.scratch ∧ s.settle.curCtx.inp = s.curCtx.inp ∧
     s.settle.curCtx.outp = s.curCtx.outp)) ∧
  (∀ (s : State) (g : Pg) (d a b : BitVec 5) (v : W32) (j : Slot) (w : PWrite),
     let s0 := s.settle
     let k := s0.curBank
     let faults := fun (i : Instr) (flta : W32) => exec i s = .next (s0.faultHere .s (faultOf .wclash flta))
     k.enabled g = true → d ≠ 0 →
       (⟨1, .scalar d v, j⟩ ∈ k.pending → faults (.add g d a b) (0x100 ||| d.setWidth 32)) ∧
       (⟨18, .scalar d v, j⟩ ∈ k.pending → faults (.div g d a b) (0x100 ||| d.setWidth 32)) ∧
       (24 ≤ k.pending.length → (∀ w ∈ k.pending, w.rem ≠ 1) → faults (.add g d a b) 0xFFF) ∧
       (s0.clear .s (⟨2, g.pr.toNat⟩ :: readsS [a, b]) [] = true → k.pending = [w] →
         exec (.add g 0 a b) s = .next (s0.commit [(.s, {})])))

/-- R362, R364, R365, R372, R374: A fault stops its bank, with its cause, its value and its place in the fault
registers; one that follows before a resume only sets MORE. Each adds one TYPE 1 record to the notice buffer of the
partition, with the next SERIAL, unless as many wait as the buffer and the free part of the queue in memory hold (log 64).
Nothing else changes: no other bank, leaf or tile, no channel, no scratch, no memory, no core, no other queue, and of its own
queue only the buffer and SERIAL. -/
def Obligations.FaultEntry : Prop :=
  ∀ (s : State) (t : Site) (l : Leaf) (b : BankId) (fltb : W32) (f : FaultInfo),
    let u := s.takeFault t l b fltb f
    let k := s.bank t l b
    let part := (s.ctx t l).part
    let q := s.noticeQ (siteDie t) part
    let q1 := u.noticeQ (siteDie t) part
    let rec_ := setF (faultRecord t l b part (s.asidOf t l) fltb f) 32 15 q.serial
    (k.faulted = false → u.bank t l b =
      { k with fltc := f.code, flta := f.flta, fltb := fltb, fltx := f.fltx, faulted := true, wait := 0, checked := false }) ∧
    (k.faulted = true → u.bank t l b = { k with fltb := k.fltb ||| 0x40000000 }) ∧
    q1.serial = q.serial + 1 ∧ (q.buffer.length < 32 + q.free → q1.buffer = q.buffer ++ [rec_]) ∧
    (32 + q.free ≤ q.buffer.length → q1.buffer = q.buffer) ∧ { q1 with buffer := q.buffer, serial := q.serial } = q ∧
    (∀ e : BankId, e ≠ b → u.bank t l e = s.bank t l e) ∧
    (u.ctx t l).onBank b (fun _ => {}) = (s.ctx t l).onBank b (fun _ => {}) ∧
    (∀ m : Leaf, m ≠ l → u.ctx t m = s.ctx t m) ∧ (u.tile t).bare = (s.tile t).bare ∧
    (∀ v : Site, v ≠ t → u.tile v = s.tile v) ∧ u.apart = s.apart ∧
    (∀ (d : DieId) (p : BitVec 6), (d ≠ siteDie t ∨ p ≠ part) → u.noticeQ d p = s.noticeQ d p)

/-- R45, R46: An op that its predicate turns off makes no change but the step of its bank, whatever the op. The
three ops that publish null tokens are stated apart. `push`, the marks and `pub` publish null tokens when their
predicate does not let them execute, with the waits and the checks of the executing op: they wait for free slots, and fault
CHPROTO at an unbound channel, one that is closed, or a count beyond its depth. -/
def Obligations.PredicatedOff : Prop :=
  (∀ (s : State) (g : Pg) (i : Instr),
     let s0 := s.settle
     guardOf i = some g → publishes i = false → s0.curBank.enabled g = false →
       i.slot.all (fun k => s0.clear k [⟨2, g.pr.toNat⟩] []) = true →
       exec i s = .next (s0.commit [(i.slot.getD .s, {})])) ∧
  (∀ (s : State) (g : Pg) (ch : BitVec 3) (a : BitVec 4) (r : BitVec 5) (n : BitVec 6),
     let s0 := s.settle
     let o := s0.curCtx.outCh ch
     let on : (OutCh → OutCh) → State → State := fun f y => y.onCurCtx (fun c => c.onOut ch f)
     let null : OutCh → OutCh := fun o => o.publish (s0.sendOn ch false) { null := true, round := o.rc } 0 false
     let does := fun (i : Instr) (f : OutCh → OutCh) => exec i s = .next (s0.commit [(.c, { act := on f })])
     o.bound = true → o.closed = false → s0.curBank.enabled g = false → s0.clear .c [⟨2, g.pr.toNat⟩] [] = true →
       (1 ≤ o.e → 1 ≤ o.depth → does (.push g ch a) null ∧ does (.markRe g ch r) null ∧ does (.markEos g ch r) null) ∧
       (n.toNat ≤ o.depth → n.toNat ≤ o.e → does (.pub g ch n) (fun o => o.nullN (s0.sendOn ch false) n.toNat))) ∧
  (∀ (s : State) (g : Pg) (ch : BitVec 3) (a : BitVec 4) (r : BitVec 5) (n : BitVec 6),
     let s0 := s.settle
     let o := s0.curCtx.outCh ch
     let waits := fun (i : Instr) => exec i s = .next (s0.onCurBank (fun b => { b with wait := 1, checked := true }))
     let faults := fun (i : Instr) (low : Nat) => s0.curBank.checked = false →
       exec i s = .next (s0.faultHere .c (faultOf .chproto (BitVec.ofNat 32 ((8 + ch.toNat) * 256 + low))))
     s0.curBank.enabled g = false → s0.clear .c [⟨2, g.pr.toNat⟩] [] = true →
       (o.bound = true → o.closed = false → 1 ≤ o.depth → o.e = 0 →
         waits (.push g ch a) ∧ waits (.markRe g ch r) ∧ waits (.markEos g ch r)) ∧
       (o.bound = true → o.closed = false → n.toNat ≤ o.depth → o.e < n.toNat → waits (.pub g ch n)) ∧
       (o.bound = false →
         faults (.push g ch a) 1 ∧ faults (.markRe g ch r) 1 ∧ faults (.markEos g ch r) 1 ∧ faults (.pub g ch n) 1) ∧
       (o.bound = true → o.depth < n.toNat → faults (.pub g ch n) 2) ∧
       (o.bound = true → o.closed = true → 1 ≤ o.depth →
         faults (.push g ch a) 4 ∧ faults (.markRe g ch r) 4 ∧ faults (.markEos g ch r) 4 ∧
         (n.toNat ≤ o.depth → faults (.pub g ch n) 4)))

/-! ## Frames -/

/-- R44, R61, R62: What a tile op that only writes registers leaves unchanged: every register of its bank as it
stood after the landing of due writes, every other bank, leaf and tile, channels, scratch, memory and the rest of
the machine. Its own writes are pending, and go to its destination registers. -/
def Obligations.RegisterOpFrame : Prop :=
  ∀ (s t : State) (i : Instr) (dests : List (BitVec 3 × Nat)),
    registerDests i = some dests → exec i s = .next t →
      BankOnly s.settle t ∧
      (∀ w ∈ t.curBank.pending, (∀ r ∈ w.val.dests, r ∈ dests) ∨ ∃ o ∈ s.settle.curBank.pending, o.val = w.val)

/-- R63, R95, R217, R226: What a tile op that stores to scratch leaves unchanged: every byte of scratch outside the
bytes that it stores, by the address that it computes, and all of memory, every other tile, and the registers of
its bank, in every state that meets the invariant. -/
def Obligations.ScratchStoreFrame : Prop :=
  ∀ (s t : State) (g : Pg) (d u v : BitVec 4) (r b : BitVec 5) (e : BitVec 2) (imm : BitVec 12),
    let s0 := s.settle
    let k := s0.curBank
    let line := (k.rs b + imm.signExtend 32 * 64).toNat
    let word := (k.rs b + imm.signExtend 32 * 4).toNat
    let keeps := fun (i : Instr) (at_ n : Nat) => s.Inv → exec i s = .next t →
      (∀ a, (a < at_ ∨ at_ + n ≤ a) → t.curTile.scratch.read a = s.curTile.scratch.read a) ∧ t.apart = s.apart ∧
      (∀ w : Site, w ≠ s.cur.tile → t.tile w = s.tile w) ∧ t.curBank.s = k.s ∧ t.curBank.v = k.v ∧ t.curBank.p = k.p ∧
      t.curBank.batt = k.batt ∧ t.curCtx.inp = s0.curCtx.inp ∧ t.curCtx.outp = s0.curCtx.outp ∧
      t.curTile.prog = s.curTile.prog ∧ t.curTile.latches = s.curTile.latches
    keeps (.sts g d b imm) line 64 ∧ keeps (.stsw g r b imm) word 4 ∧ keeps (.csav g e b) (k.rs b).toNat 256 ∧
    keeps (.pushm g r b) k.sp.toNat (4 * rangeLen r.toNat b.toNat) ∧
    keeps (.vpushm g u v) k.sp.toNat (64 * rangeLen u.toNat v.toNat)

/-- R238, R389-R393, R396: What an instruction of a control core leaves unchanged: the integer instructions, loads, branches
and jumps change no memory and no register but their destination; a store changes the bytes at its address only, in every
state that meets the invariant. The exception registers stay, or hold the exception that the instruction takes. An access
of GDDR7 passes the home slice and one of host memory the host port, so that a load or store may change the slices, their
filters, the invalidations and the requests under way; and when it evicts a sector with an uncorrectable error, the error,
a notice queue, or EVPEND and the records of a core (R375). All else stays. -/
def Obligations.CoreFrame : Prop :=
  ∀ (s t : State) (i : Instr) (d a : BitVec 5) (imm : BitVec 16),
    let c := s.curCore
    let u := t.curCore
    let ea := c.rx a + imm.signExtend 64
    let others := t.withoutCores = s.withoutCores ∧ (∀ k : CoreId, k ≠ s.cur.core → t.cores[k] = s.cores[k])
    let same := u.evec = c.evec ∧ u.evmask = c.evmask ∧ u.timer = c.timer ∧ u.msg = c.msg ∧ u.swstat = c.swstat ∧
      (u.epc = c.epc ∧ u.ecause = c.ecause ∧ u.eaddr = c.eaddr ∧ u.inExc = c.inExc ∧ u.halted = c.halted ∨
        u.epc = c.pc &&& 0x3FFFC ∧ u.inExc = true ∧ u.halted = (c.halted || c.inExc) ∧ u.pc = c.evec)
    let passes := ({ t with mem := [] } : State).beside = ({ s with mem := [] } : State).beside ∧
      (∀ k : CoreId, k ≠ s.cur.core →
        t.cores[k] = { s.cores[k] with evpend := t.cores[k].evpend, records := t.cores[k].records }) ∧
      (s.ecc = [] → t.ecc = [] ∧ t.dies = s.dies ∧ u.evpend = c.evpend ∧ ∀ k : CoreId, k ≠ s.cur.core → t.cores[k] = s.cores[k])
    let loads := fun (i : Instr) => exec i s = .next t →
      same ∧ passes ∧ t.mem = s.mem ∧ u.lmem = c.lmem ∧ (∀ r, r ≠ d → u.rx r = c.rx r)
    let stores := fun (i : Instr) (n : Nat) => s.Inv → exec i s = .next t →
      same ∧ passes ∧ u.x = c.x ∧
      (∀ o, s.coreAccess true ea n = .ok (true, o) → t.mem = s.mem ∧
        ∀ x, (x < o ∨ o + n ≤ x) → u.lmem.read x = c.lmem.read x) ∧
      (∀ o, s.coreAccess true ea n = .ok (false, o) → u.lmem = c.lmem ∧
        ∀ x, (x < o ∨ o + n ≤ x) → t.mem.read x = s.mem.read x) ∧
      (∀ f, s.coreAccess true ea n = .error f → t.mem = s.mem ∧ u.lmem = c.lmem)
    (∀ dests, coreDests i = some dests → exec i s = .next t →
      others ∧ same ∧ u.evpend = c.evpend ∧ u.lmem = c.lmem ∧ (∀ r, r ∉ dests → u.rx r = c.rx r)) ∧
    loads (.ccLdD d a imm) ∧ loads (.ccLdW d a imm) ∧ loads (.ccLdB d a imm) ∧
    stores (.ccStD d a imm) 8 ∧ stores (.ccStW d a imm) 4 ∧ stores (.ccStB d a imm) 1

/-! ## The S slot -/

/-- R82, R83, R84, R87: The results of `alu` and their steps, for all operands. The immediate forms, `li` and
`lui`. Division lands 18 steps later; the quotient and the remainder of every pair of operands. -/
def Obligations.IntegerResults : Prop :=
  (∀ (s : State) (g : Pg) (d a b : BitVec 5),
     let k := s.settle.curBank
     let x := k.rs a
     let y := k.rs b
     let n := (y.extractLsb' 0 5).toNat
     let does := fun (i : Instr) (lat : Nat) (v : W32) =>
       Issues i s .s g (readsS [a, b]) { writes := [(lat, .scalar d v)] }
     does (.add g d a b) 1 (x + y) ∧ does (.sub g d a b) 1 (x - y) ∧ does (.and g d a b) 1 (x &&& y) ∧
     does (.or g d a b) 1 (x ||| y) ∧ does (.xor g d a b) 1 (x ^^^ y) ∧ does (.shl g d a b) 1 (x <<< n) ∧
     does (.shr g d a b) 1 (x >>> n) ∧ does (.sra g d a b) 1 (x.sshiftRight n) ∧ does (.mul g d a b) 3 (x * y) ∧
     does (.mulh g d a b) 3 ((x.signExtend 64 * y.signExtend 64).extractLsb' 32 32) ∧
     does (.mulhn g d a b) 3 ((x.setWidth 64 * y.setWidth 64).extractLsb' 32 32) ∧
     does (.min g d a b) 1 (BitVec.ofInt 32 (min x.toInt y.toInt)) ∧
     does (.max g d a b) 1 (BitVec.ofInt 32 (max x.toInt y.toInt)) ∧
     does (.minn g d a b) 1 (BitVec.ofNat 32 (min x.toNat y.toNat)) ∧
     does (.maxn g d a b) 1 (BitVec.ofNat 32 (max x.toNat y.toNat)) ∧
     Issues (.clz g d a) s .s g (readsS [a])
       { writes := [(1, .scalar d (BitVec.ofNat 32 (if x = 0 then 32 else 31 - Nat.log2 x.toNat)))] }) ∧
  (∀ (s : State) (g : Pg) (d a : BitVec 5) (imm : BitVec 12) (n : BitVec 5) (wide : BitVec 17),
     let x := s.settle.curBank.rs a
     let k : W32 := imm.signExtend 32
     let does := fun (i : Instr) (v : W32) => Issues i s .s g (readsS [a]) { writes := [(1, .scalar d v)] }
     does (.addi g d a imm) (x + k) ∧ does (.andi g d a imm) (x &&& k) ∧ does (.ori g d a imm) (x ||| k) ∧
     does (.xori g d a imm) (x ^^^ k) ∧ does (.shli g d a n) (x <<< n.toNat) ∧ does (.shri g d a n) (x >>> n.toNat) ∧
     does (.srai g d a n) (x.sshiftRight n.toNat) ∧
     Issues (.li g d wide) s .s g [] { writes := [(1, .scalar d (wide.signExtend 32))] } ∧
     Issues (.lui g d wide) s .s g [] { writes := [(1, .scalar d (wide.setWidth 32 <<< 15))] }) ∧
  (∀ (s : State) (g : Pg) (d a b : BitVec 5),
     let x := s.settle.curBank.rs a
     let y := s.settle.curBank.rs b
     let does := fun (i : Instr) (v : W32) => Issues i s .s g (readsS [a, b]) { writes := [(18, .scalar d v)] }
     does (.div g d a b) (if y = 0 then 0xFFFFFFFF else BitVec.ofInt 32 (x.toInt.tdiv y.toInt)) ∧
     does (.divn g d a b) (if y = 0 then 0xFFFFFFFF else BitVec.ofNat 32 (x.toNat / y.toNat)) ∧
     does (.rem g d a b) (if y = 0 then x else BitVec.ofInt 32 (x.toInt.tmod y.toInt)) ∧
     does (.remn g d a b) (if y = 0 then x else BitVec.ofNat 32 (x.toNat % y.toNat)))

/-- R85, R86: `cmp`, `cmpi` and predicate logic; a write of p0 is discarded. -/
def Obligations.PredicateResults : Prop :=
  ∀ (s : State) (g : Pg) (d : BitVec 3) (a b : BitVec 5) (p q : BitVec 3) (imm : BitVec 12),
    let k := s.settle.curBank
    let x := k.rs a
    let y := k.rs b
    let c : W32 := imm.signExtend 32
    let cmps := fun (cond : BitVec 3) (v : Bool) =>
      Issues (.cmp g d a b cond) s .s g (readsS [a, b]) { writes := [(1, .pred d v)] }
    let cmpis := fun (cond : BitVec 2) (v : Bool) =>
      Issues (.cmpi g d cond a imm) s .s g (readsS [a]) { writes := [(1, .pred d v)] }
    let logic := fun (i : Instr) (v : Bool) => Issues i s .s g (readsP [p, q]) { writes := [(1, .pred d v)] }
    (PVal.pred 0 true).discarded = true ∧ (PVal.pred 0 false).discarded = true ∧
    cmps 0 (x == y) ∧ cmps 1 (x != y) ∧ cmps 2 (decide (x.toInt < y.toInt)) ∧ cmps 3 (decide (y.toInt ≤ x.toInt)) ∧
    cmps 4 (decide (x.toNat < y.toNat)) ∧ cmps 5 (decide (y.toNat ≤ x.toNat)) ∧
    cmpis 0 (x == c) ∧ cmpis 1 (x != c) ∧ cmpis 2 (decide (x.toInt < c.toInt)) ∧ cmpis 3 (decide (c.toInt ≤ x.toInt)) ∧
    logic (.pand g d p q) (k.rp p && k.rp q) ∧ logic (.por g d p q) (k.rp p || k.rp q) ∧
    logic (.pxor g d p q) (k.rp p != k.rp q) ∧ logic (.pandn g d p q) (k.rp p && !k.rp q)

/-- R89-R93, R89, R91, R93: `br`, `call`, `jr` and `loop` when their targets lie in the leaf and the loop stack has
room. A target outside the leaf and a loop that does not fit fault BRANGE with their FLTA. -/
def Obligations.FlowOps : Prop :=
  (∀ (s : State) (g : Pg) (off : BitVec 22) (a : BitVec 5) (len : BitVec 12),
     let k := s.settle.curBank
     let target : Int := k.pc + off.toInt
     let last := k.pc + len.toNat
     (0 ≤ target → target < 0x1000 →
       Issues (.br g off) s .s g [] { flow := .taken target.toNat false } ∧
       Issues (.call g off) s .s g [] { writes := [(1, .scalar 31 (BitVec.ofNat 32 (k.pc + 1)))],
                                        flow := .taken target.toNat true }) ∧
     ((k.rs a).toNat < 0x1000 → Issues (.jr g a) s .s g (readsS [a]) { flow := .taken (k.rs a).toNat false }) ∧
     (len ≠ 0 → last ≤ 0xFFF → k.loops.length < 2 → (∀ e ∈ k.loops.head?, last ≤ e.last) →
       Issues (.loop g a len) s .s g (readsS [a]) { flow := .loopIn len.toNat (k.rs a) })) ∧
  (∀ (s : State) (g : Pg) (off : BitVec 22) (a : BitVec 5) (len : BitVec 12),
     let k := s.settle.curBank
     let target : Int := k.pc + off.toInt
     let last := k.pc + len.toNat
     let faults := fun (i : Instr) (flta : W32) => exec i s = .next (s.settle.faultHere .s (faultOf .brange flta))
     k.enabled g = true →
       (target < 0 ∨ 0x1000 ≤ target →
         faults (.br g off) (BitVec.ofInt 32 target) ∧ faults (.call g off) (BitVec.ofInt 32 target)) ∧
       (0x1000 ≤ (k.rs a).toNat → faults (.jr g a) (k.rs a)) ∧
       (len = 0 → faults (.loop g a len) (BitVec.ofNat 32 k.pc)) ∧
       (len ≠ 0 → 0xFFF < last → faults (.loop g a len) (BitVec.ofNat 32 last)) ∧
       (len ≠ 0 → last ≤ 0xFFF → 2 ≤ k.loops.length → faults (.loop g a len) 0xFFFFFFFF) ∧
       (len ≠ 0 → last ≤ 0xFFF → ∀ e, k.loops = [e] → e.last < last → faults (.loop g a len) (BitVec.ofNat 32 last)))

/-- R64, R88, R92, R94, R100, R101: Where issue goes after each kind of bundle, and what becomes of the loop stack: a branch or a
call, a loop that is entered or passed over, a loop end, alone or together with the end of the outer loop, a yield, a halt, a
trap, which stops the bank with TRAP at the bundle that would follow, and the last bundle of the leaf, behind which the bank
stops with BRANGE. -/
def Obligations.FlowEffects : Prop :=
  (∀ (s : State) (code : BitVec 12),
    let k := s.curBank
    let stops := fun (u : State) (cause : Nat) (flta : W32) =>
      u.curBank.faulted = true ∧ u.curBank.fltc = BitVec.ofNat 8 cause ∧ u.curBank.flta = flta ∧
        u.curBank.fltb = 0#16 ++ BitVec.ofNat 1 s.curLeaf.val ++ 0#3 ++ BitVec.ofNat 12 k.pc
    k.faulted = false →
      (let u := s.commit [(.s, { flow := .trap code })]
       stops u 0x12 (code.setWidth 32) ∧ u.curBank.pc = (k.next .seq).pc ∧ u.curBank.loops = (k.next .seq).loops ∧
         u.curBank.step = k.step + 1) ∧
      (k.pc = 0xFFF → (k.next .seq).pc = 0x1000 →
        let u := s.commit [(.s, {})]
        stops u 0x02 0x1000 ∧ u.curBank.pc = 0x1000 ∧ u.curBank.step = k.step + 1) ∧
      (s.settle.curBank.pc = 0x1000 → s.settle.curBank.faulted = false →
        let u := s.issueBundle
        u.curBank.faulted = true ∧ u.curBank.fltc = 0x02 ∧ u.curBank.flta = 0x1000 ∧
          u.curBank.fltb = 0#16 ++ BitVec.ofNat 1 s.curLeaf.val ++ 0#3 ++ 0xFFF#12 ∧ u.curBank.step = s.settle.curBank.step)) ∧
  ∀ (k : Bank) (e o : LoopEntry) (target len : Nat) (count : W32),
    let x := k.pc
    ((k.next (.taken target true)).pc = target ∧ (k.next (.taken target true)).emptyStep = true ∧
      (k.next (.taken target true)).loops = k.loops) ∧
    ((k.next (.taken target false)).pc = target ∧ (k.next (.taken target false)).emptyStep = true) ∧
    (k.loops = [e] → e.start ≤ x → x ≤ e.last → e.start ≤ target → target ≤ e.last →
      (k.next (.taken target false)).loops = [e]) ∧
    (k.loops = [e, o] → e.start ≤ x → x ≤ e.last → (target < e.start ∨ e.last < target) →
      (k.next (.taken target false)).loops = if o.start ≤ target ∧ target ≤ o.last then [o] else []) ∧
    (k.loops = [e] → (x < e.start ∨ e.last < x) → (k.next (.taken target false)).loops = [e]) ∧
    (count = 0 → (k.next (.loopIn len count)).pc = x + len + 1 ∧ (k.next (.loopIn len count)).emptyStep = true ∧
      (k.next (.loopIn len count)).loops = k.loops) ∧
    (count ≠ 0 → (k.next (.loopIn len count)).pc = x + 1 ∧
      (k.next (.loopIn len count)).loops = ⟨x + 1, x + len, count - 1⟩ :: k.loops) ∧
    (k.loops = [] → (k.next .seq).pc = x + 1) ∧
    (k.loops = [e] → x ≠ e.last → (k.next .seq).pc = x + 1 ∧ (k.next .seq).loops = [e]) ∧
    (k.loops = [e] → x = e.last → e.left ≠ 0 →
      (k.next .seq).pc = e.start ∧ (k.next .seq).loops = [{ e with left := e.left - 1 }]) ∧
    (k.loops = [e] → x = e.last → e.left = 0 → (k.next .seq).pc = x + 1 ∧ (k.next .seq).loops = []) ∧
    (k.loops = [e, o] → x = e.last → e.left = 0 → x = o.last → o.left ≠ 0 →
      (k.next .seq).pc = o.start ∧ (k.next .seq).loops = [{ o with left := o.left - 1 }]) ∧
    (k.loops = [e, o] → x = e.last → e.left = 0 → x = o.last → o.left = 0 →
      (k.next .seq).pc = x + 1 ∧ (k.next .seq).loops = []) ∧
    (k.loops = [e, o] → x = e.last → e.left = 0 → x ≠ o.last → (k.next .seq).pc = x + 1 ∧ (k.next .seq).loops = [o]) ∧
    (k.loops = [e, o] → x = e.last → e.left ≠ 0 →
      (k.next .seq).pc = e.start ∧ (k.next .seq).loops = [{ e with left := e.left - 1 }, o]) ∧
    (k.loops = [e, o] → x ≠ e.last → (k.next .seq).pc = x + 1 ∧ (k.next .seq).loops = [e, o]) ∧
    ((k.next (.taken target true)).step = k.step + 1 ∧ (k.next .seq).step = k.step + 1 ∧ (k.next .seq).emptyStep = k.emptyStep) ∧
    ((k.next .yield).loops = [] ∧ (k.next .yield).ending = some false) ∧
    ((k.next .halt).loops = [] ∧ (k.next .halt).ending = some true)

/-- R95, R97: The spill stack, with the stack pointer inside its bounds and the range inside the share. -/
def Obligations.SpillIssues : Prop :=
  ∀ (s : State) (g : Pg) (a b : BitVec 5) (u v : BitVec 4),
    let s0 := s.settle
    let k := s0.curBank
    let c := s0.curCtx
    let sp := k.sp.toNat
    let n := rangeLen a.toNat b.toNat
    let m := rangeLen u.toNat v.toNat
    let regs := (List.range n).map (fun i => BitVec.ofNat 5 (a.toNat + i))
    let vregs := (List.range m).map (fun i => BitVec.ofNat 4 (u.toNat + i))
    (n ≠ 0 → k.spbase.toNat ≤ sp → sp + 4 * n ≤ k.splim.toNat → c.outside sp (4 * n) = none →
      Issues (.pushm g a b) s .s g (readsS regs)
        { writes := [(1, .sreg 0x007 (BitVec.ofNat 32 (sp + 4 * n)))],
          act := fun x => x.onCurTile (fun t => t.putScratch sp (4 * n)
            (packNat 32 (fun i => (k.rs (BitVec.ofNat 5 (a.toNat + i))).toNat) n)) }) ∧
    (n ≠ 0 → k.spbase.toNat + 4 * n ≤ sp → sp ≤ k.splim.toNat → c.outside (sp - 4 * n) (4 * n) = none →
      s0.scratchEcc (sp - 4 * n) (4 * n) = none →
      Issues (.popm g a b) s .s g []
        { writes := (List.range n).map (fun i => (1, PVal.scalar (BitVec.ofNat 5 (a.toNat + i))
              (s0.curTile.scratch.readW32 (sp - 4 * n + 4 * i)))) ++
            [(1, .sreg 0x007 (BitVec.ofNat 32 (sp - 4 * n)))] }) ∧
    (m ≠ 0 → sp % 64 = 0 → k.spbase.toNat ≤ sp → sp + 64 * m ≤ k.splim.toNat → c.outside sp (64 * m) = none →
      Issues (.vpushm g u v) s .s g (readsV vregs)
        { writes := [(1, .sreg 0x007 (BitVec.ofNat 32 (sp + 64 * m)))],
          act := fun x => x.onCurTile (fun t => t.putScratch sp (64 * m)
            (packNat 512 (fun i => (k.rv (BitVec.ofNat 4 (u.toNat + i))).toNat) m)) }) ∧
    (m ≠ 0 → sp % 64 = 0 → k.spbase.toNat + 64 * m ≤ sp → sp ≤ k.splim.toNat →
      c.outside (sp - 64 * m) (64 * m) = none → s0.scratchEcc (sp - 64 * m) (64 * m) = none →
      Issues (.vpopm g u v) s .s g []
        { writes := (List.range m).map (fun i => (1, PVal.vec (BitVec.ofNat 4 (u.toNat + i))
              (s0.curTile.scratch.readVec (sp - 64 * m + 64 * i)))) ++
            [(1, .sreg 0x007 (BitVec.ofNat 32 (sp - 64 * m)))] }) ∧
    (n = 0 → Issues (.pushm g a b) s .s g [] {} ∧ Issues (.popm g a b) s .s g [] {}) ∧
    (m = 0 → Issues (.vpushm g u v) s .s g [] {} ∧ Issues (.vpopm g u v) s .s g [] {})

/-- R48, R77, R98-R101, R188, R292, R345: `nop`, `rdsr`, `wrsr`, `yield`, `halt` and `trap`. A `wrsr` to CLSMASK also
reaches the class port in the next cycle (R188), where a later mask op of the tile finds it (log 49); one to an RO register has
no effect. What `rdsr` reads from each state register. -/
def Obligations.StateOps : Prop :=
  (∀ (s : State) (g : Pg) (d a : BitVec 5) (num code : BitVec 12),
     let s0 := s.settle
     let x := s0.curBank.rs a
     (s0.clear .s [] [] = true → exec .nop s = .next (s0.commit [(.s, {})])) ∧
     Issues (.rdsr g d num) s .s g [] { writes := [(2, .scalar d (s0.readSr num))] } ∧
     ((num = 0x006 ∨ num = 0x007 ∨ num = 0x00E) →
       Issues (.wrsr g a num) s .s g (readsS [a]) { writes := [(1, .sreg num x)] }) ∧
     Issues (.wrsr g a 0x010) s .s g (readsS [a])
       { writes := [(1, .mask x)], act := fun y => y.maskNext (x.extractLsb' 0 16) } ∧
     (num ≠ 0x006 → num ≠ 0x007 → num ≠ 0x00E → num ≠ 0x010 → Issues (.wrsr g a num) s .s g (readsS [a]) {}) ∧
     Issues (.yield g) s .s g [] { flow := .yield } ∧ Issues (.halt g) s .s g [] { flow := .halt } ∧
     Issues (.trap g code) s .s g [] { flow := .trap code }) ∧
  (∀ (s : State),
     let t := s.cur.tile
     let c := s.curCtx
     let k := s.curBank
     s.readSr 0x000 = BitVec.ofNat 32 s.cur.bank.val ∧ s.readSr 0x001 = t.setWidth 32 ∧
     s.readSr 0x002 = c.part.setWidth 32 ∧ s.readSr 0x003 = c.trig.setWidth 32 ∧ s.readSr 0x004 = k.step ∧
     s.readSr 0x005 = (s.dies[siteDie t].cycle).setWidth 32 ∧ s.readSr 0x006 = k.rmode.setWidth 32 ∧
     s.readSr 0x007 = k.sp ∧ s.readSr 0x008 = k.splim ∧ s.readSr 0x009 = k.spbase ∧
     s.readSr 0x00A = k.fltc.setWidth 32 ∧ s.readSr 0x00B = k.flta ∧ s.readSr 0x00C = k.fltb ∧
     (s.readSr 0x00D).getLsbD 8 = k.umWait.isSome ∧ (s.readSr 0x00D).extractLsb' 9 23 = 0 ∧
     (∀ j : Fin 4, (s.readSr 0x00D).getLsbD j.val = k.held[j].valid ∧
       (s.readSr 0x00D).getLsbD (4 + j.val) = k.psn.getLsbD j.val) ∧
     s.readSr 0x00E = k.othr ∧ s.readSr 0x00F = k.seqst ∧ s.readSr 0x010 = c.clsmask.setWidth 32 ∧
     s.readSr 0x011 = BitVec.ofNat 32 ((s.dies[siteDie t].cycle).toNat / 300 % 64) ∧
     s.readSr 0x012 = k.round.setWidth 32 ∧ s.readSr 0x013 = k.gdepth.setWidth 32 ∧
     (∀ ch : Fin 8, s.readSr (BitVec.ofNat 12 (0x020 + ch.val)) = BitVec.ofNat 32 c.inp[ch].f ∧
       s.readSr (BitVec.ofNat 12 (0x028 + ch.val)) = BitVec.ofNat 32 c.outp[ch].e))

/-! ## The V slot -/

/-- R131-R133: The arithmetic of the V slot in every lane and type. A float result is rounded once in the mode; an
integer result wraps, or saturates when M says so. -/
def Obligations.VectorArithmetic : Prop :=
  ∀ (s : State) (g : Pg) (d a b t : BitVec 4) (m : BitVec 3) (sat : Bool),
    let k := s.settle.curBank
    let x := k.rv a
    let y := k.rv b
    let z := k.rv d
    let md := modeOf k.rmode m
    let floats := fun (r : Mode) (f : Nat → FV) => mapLanes t (fun i => roundFV (fmtOf t) r false (f i))
    let ints := fun (st : Bool) (f : Nat → Int) => mapLanes t (fun i => putInt t st (f i))
    let lanes := fun (r : Mode) (st : Bool) (ff : Nat → FV) (fi : Nat → Int) =>
      if floatT t then floats r ff else ints st fi
    let does := fun (i : Instr) (lat : Nat) (rs : List (BitVec 4)) (v : Vec) =>
      Issues i s .v g (readsV rs) { writes := [(lat, .vec d v)] }
    does (.vadd g d a b t m) 2 [a, b]
      (lanes md (m == 1) (fun i => (elemF x i t).add md (elemF y i t)) (fun i => elemI x i t + elemI y i t)) ∧
    does (.vsub g d a b t m) 2 [a, b]
      (lanes md (m == 1) (fun i => (elemF x i t).add md (elemF y i t).neg) (fun i => elemI x i t - elemI y i t)) ∧
    does (.vmul g d a b t m) 4 [a, b]
      (lanes md (m == 1) (fun i => (elemF x i t).mul (elemF y i t)) (fun i => elemI x i t * elemI y i t)) ∧
    does (.vfma g d a b t m) 4 [a, b, d]
      (lanes md (m == 1) (fun i => ((elemF x i t).mul (elemF y i t)).add md (elemF z i t))
        (fun i => elemI x i t * elemI y i t + elemI z i t)) ∧
    does (.vmin g d a b t) 2 [a, b]
      (lanes .rne false (fun i => (elemF x i t).min (elemF y i t)) (fun i => min (elemI x i t) (elemI y i t))) ∧
    does (.vmax g d a b t) 2 [a, b]
      (lanes .rne false (fun i => (elemF x i t).max (elemF y i t)) (fun i => max (elemI x i t) (elemI y i t))) ∧
    does (.vabs g d a t sat) 2 [a]
      (lanes .rne sat (fun i => (elemF x i t).abs) (fun i => ((elemI x i t).natAbs : Int))) ∧
    does (.vneg g d a t sat) 2 [a] (lanes .rne sat (fun i => (elemF x i t).neg) (fun i => -(elemI x i t))) ∧
    does (.vdot g d a b t m) 4 [a, b]
      (packVec 32 16 (fun i =>
        if floatT t then
          roundFV fmtF32 md false (((elemF x (2 * i) t).mul (elemF y (2 * i) t)).add md
            ((elemF x (2 * i + 1) t).mul (elemF y (2 * i + 1) t)))
        else
          let e := elemI x (2 * i) t * elemI y (2 * i) t + elemI x (2 * i + 1) t * elemI y (2 * i + 1) t
          wrapW (if m = 1 then (if signedT t then satS e 32 else satN e 32) else e) 32))

/-- R131, R134-R139: Logic, shifts, conversion, compares and `vsel`. Lane i of a wrapping I32 sum, difference or
product is that of the lanes modulo 2^32. -/
def Obligations.VectorLogic : Prop :=
  (∀ (s : State) (g : Pg) (d a b c t u : BitVec 4) (m cond : BitVec 3) (ovf : Bool),
     let k := s.settle.curBank
     let x := k.rv a
     let y := k.rv b
     let z := k.rv c
     let does := fun (i : Instr) (lat : Nat) (rs : List (BitVec 4)) (v : Vec) =>
       Issues i s .v g (readsV rs) { writes := [(lat, .vec d v)] }
     does (.vand g d a b t) 2 [a, b] (x &&& y) ∧ does (.vor g d a b t) 2 [a, b] (x ||| y) ∧
     does (.vxor g d a b t) 2 [a, b] (x ^^^ y) ∧
     does (.vshl g d a b t) 2 [a, b]
       (mapLanes t (fun i => if widthT t ≤ elemBits y i t then 0 else elemBits x i t <<< elemBits y i t)) ∧
     does (.vshr g d a b t) 2 [a, b]
       (mapLanes t (fun i => wrapW (elemI x i t / ((2 ^ (min (elemBits y i t) (widthT t)) : Nat) : Int)) (widthT t))) ∧
     (cvtFault t u = none →
       does (.vcvt g d a t u ovf m) 3 [a]
         (packVec (widthT u) (512 / max (widthT t) (widthT u))
           (fun i => convertT (modeOf k.rmode m) ovf t u (elemBits x i t)))) ∧
     does (.vcmp g d a b t cond) 2 [a, b]
       (mapLanes t (fun i =>
         if (if floatT t then condFloat cond (elemF x i t) (elemF y i t) else condInt cond (elemI x i t) (elemI y i t))
         then 2 ^ widthT t - 1 else 0)) ∧
     does (.vsel g d a b c) 2 [a, b, c] ((x &&& z) ||| (y &&& ~~~z))) ∧
  (∀ (k : Bank) (a b : BitVec 4) (i : Nat), i < 16 →
     getF (laneArith 0x5 0 FV.add (fun x y => x + y) k a b) 32 i = getF (k.rv a) 32 i + getF (k.rv b) 32 i ∧
     getF (laneArith 0x5 0 (fun md x y => x.add md y.neg) (fun x y => x - y) k a b) 32 i =
       getF (k.rv a) 32 i - getF (k.rv b) 32 i ∧
     getF (laneArith 0x5 0 (fun _ x y => x.mul y) (fun x y => x * y) k a b) 32 i =
       getF (k.rv a) 32 i * getF (k.rv b) 32 i)

/-- R140-R145: Moving elements, reductions, scans and functions. What a function gives is stated apart; where R145 leaves its
value open it is a free value (log 40). -/
def Obligations.VectorElements : Prop :=
  ∀ (s : State) (g : Pg) (d a b t : BitVec 4) (e f : BitVec 5) (fn rnd : BitVec 3),
    let k := s.settle.curBank
    let x := k.rv a
    let y := k.rv b
    let j := (k.rs f).toNat % lanesT t
    let ops := combine t (modeOf k.rmode rnd) fn
    let elems := (List.range (lanesT t)).map (fun i => elemBits x i t)
    let does := fun (i : Instr) (lat : Nat) (rs : List RegRef) (w : PVal) =>
      Issues i s .v g rs { writes := [(lat, w)] }
    does (.vbcast g d e t) 2 (readsS [e]) (.vec d (mapLanes t (fun _ => (k.rs e).toNat))) ∧
    does (.vext g e a f t) 2 (readsV [a] ++ readsS [f])
      (.scalar e (if signedT t then BitVec.ofInt 32 (intVal t (elemBits x j t)) else BitVec.ofNat 32 (elemBits x j t))) ∧
    does (.vins g d e f t) 2 (readsV [d] ++ readsS [e, f])
      (.vec d (mapLanes t (fun i => if i = j then (k.rs e).toNat else elemBits (k.rv d) i t))) ∧
    does (.vperm g d a b t) 3 (readsV [a, b])
      (.vec d (mapLanes t (fun i =>
        if 2 ^ (widthT t - 1) ≤ elemBits y i t then 0 else elemBits x (elemBits y i t % lanesT t) t))) ∧
    does (.vred g d a t fn rnd) 5 (readsV [a])
      (.vec d (packVec (widthT t) 1 (fun _ => (redTree ops (Nat.log2 (lanesT t)) elems).headD 0))) ∧
    does (.vscan g d a t fn rnd) 5 (readsV [a])
      (.vec d (mapLanes t (fun i => (scanTree ops (Nat.log2 (lanesT t)) 0 (elems.map (canonElem t))).getD i 0))) ∧
    does (.vfn g d a fn) 8 (readsV [a]) (.vec d (mapLanes 0x6 (fun i => vfnLane fn (elemBits x i 0x6))))

/-- R145, R146: What `vfn` gives where the spec states it: the special results for NaN, zeros, infinities, negative values and
large magnitudes, and the exact cases; and that the result of `rcp` elsewhere has the sign of its input and lies within one ulp
of 1/x. Every other value is a free one within the bounds of R145 (log 40). -/
def Obligations.FunctionResults : Prop :=
  (∀ x : Nat, decodeF fmtF32 x = .nan → ∀ fn : BitVec 3, fn.toNat < 6 → vfnLane fn x = 0x7FC00000) ∧
  [vfnLane 0 0, vfnLane 0 0x80000000, vfnLane 0 0x7F800000, vfnLane 0 0xFF800000] = [0x7F800000, 0xFF800000, 0, 0x80000000] ∧
  [vfnLane 1 0, vfnLane 1 0x80000000, vfnLane 1 0x7F800000, vfnLane 1 0xFF800000] = [0x7F800000, 0xFF800000, 0, 0x7FC00000] ∧
  [vfnLane 2 0, vfnLane 2 0x80000000, vfnLane 2 0x7F800000, vfnLane 2 0xFF800000] = [0x3F800000, 0x3F800000, 0x7F800000, 0] ∧
  [vfnLane 3 0, vfnLane 3 0x80000000, vfnLane 3 0x7F800000, vfnLane 3 0xFF800000] =
    [0xFF800000, 0xFF800000, 0x7F800000, 0x7FC00000] ∧
  [vfnLane 4 0, vfnLane 4 0x80000000, vfnLane 4 0x7F800000, vfnLane 4 0xFF800000] = [0, 0x80000000, 0x7FC00000, 0x7FC00000] ∧
  [vfnLane 5 0, vfnLane 5 0x80000000, vfnLane 5 0x7F800000, vfnLane 5 0xFF800000] =
    [0x3F800000, 0x3F800000, 0x7FC00000, 0x7FC00000] ∧
  (∀ (x : Nat) (v : Dy), decodeF fmtF32 x = .fin true v → v.m ≠ 0 → vfnLane 1 x = 0x7FC00000 ∧ vfnLane 3 x = 0x7FC00000) ∧
  (∀ (x : Nat) (n : Bool) (v : Dy), decodeF fmtF32 x = .fin n v →
     (v.m ≠ 0 → v.num.natAbs * 2 ^ 128 ≤ v.den → vfnLane 0 x = (if n then 0xFF800000 else 0x7F800000)) ∧
     ((128 * v.den : Int) ≤ v.num → vfnLane 2 x = 0x7F800000) ∧
     (v.num ≤ -(150 * v.den : Int) → vfnLane 2 x = 0) ∧
     (∀ k : Int, v.num = k * v.den → -126 ≤ k → k ≤ 127 → vfnLane 2 x = (k + 127).toNat * 2 ^ 23) ∧
     (∀ k : Int, v.num = k * v.den → -149 ≤ k → k < -126 → vfnLane 2 x = 2 ^ (k + 149).toNat) ∧
     (v.m ≠ 0 → v.den < v.num.natAbs * 2 ^ 128 →
       ∃ y : Dy, decodeF fmtF32 (vfnLane 0 x) = .fin n y ∧
         withinUlp (if n then y.neg else y) v.den v.num.natAbs = true)) ∧
  (∀ e : Nat, 1 ≤ e → e ≤ 253 →
     vfnLane 0 (e * 2 ^ 23) = (254 - e) * 2 ^ 23 ∧ vfnLane 0 (2 ^ 31 + e * 2 ^ 23) = 2 ^ 31 + (254 - e) * 2 ^ 23) ∧
  (∀ e : Nat, 1 ≤ e → e ≤ 254 → e % 2 = 1 → vfnLane 1 (e * 2 ^ 23) = (381 - e) / 2 * 2 ^ 23) ∧
  (∀ e : Nat, 1 ≤ e → e ≤ 254 → ∃ v : Dy, decodeF fmtF32 (vfnLane 3 (e * 2 ^ 23)) = .fin (decide (e < 127)) v ∧
     v.num = ((e : Int) - 127) * v.den) ∧
  vfnLane 3 0x3F800000 = 0

/-- R325-R338: The graphics ops, lane by lane, and the signature table. Which lanes an edge triple covers, how `vsort` counts and
orders, and what `vcomp` leaves and writes, in the numbers of the lanes. -/
def Obligations.GraphicsResults : Prop :=
  (∀ (s : State) (g : Pg) (d a b t : BitVec 4) (m : BitVec 3),
    let s0 := s.settle
    let k := s0.curBank
    let x := k.rv a
    let y := k.rv b
    let z := k.rv d
    let md := modeOf k.rmode m
    let die := siteDie s0.cur.tile
    let does := fun (i : Instr) (lat : Nat) (rs : List (BitVec 4)) (v : Vec) =>
      Issues i s .v g (readsV rs) { writes := [(lat, .vec d v)] }
    does (.vedge g d a b m) 4 [a, b] (lanes16 (fun i => if edgeCovered m x y i then 2 ^ 32 - 1 else 0)) ∧
    does (.vbary g d a b m) 6 [a, b] (lanes16 (baryLane md x y)) ∧
    does (.vdedup g d a b) 6 [a, b] (lanes16 (dedupLane x y)) ∧
    does (.vdepth g d a b t m) 4 [a, b, d]
      (mapLanes t (fun i =>
        let pass := elemBits z i t != 0 && depthCmp t (m.extractLsb' 0 2) x y i
        if m.getLsbD 2 then (if pass then elemBits x i t else elemBits y i t)
        else (if pass then 2 ^ widthT t - 1 else 0))) ∧
    does (.vblend g d a b t m) 4 [a, b]
      (mapLanes t (fun i => roundFV (fmtOf t) .rne false
        (blendValue m (elemF x i t) (elemF y i t) (elemF x (i / 4 * 4 + 3) t)))) ∧
    does (.vrbox g d a b) 6 [a, b] (rboxVec x y) ∧ does (.vrtri g d a b m) 12 [a, b] (rtriVec m x y) ∧
    does (.vsort g d a b m) 4 [a, b] (lanes16 (sortLane m x y)) ∧
    does (.vcomp g d a b m) 6 [a, b, d] (lanes16 (compLane md k.othr x y z)) ∧
    does (.vsig g d a b) 3 [a, b] ((sigFold x (getF y 64 0) (List.range 16)).setWidth 512) ∧
    (s0.curCtx.sigcfg.getLsbD 4 = false → does (.vsigChk g d a b) 3 [a, b] 0) ∧
    (s0.curCtx.sigcfg.getLsbD 4 = true →
      let n := (s0.curCtx.sigcfg.extractLsb' 0 4).toNat * 256 + laneN x 0 % 256
      let bad := s0.ecc.contains (.sig die n)
      let old := if bad then none else s0.dies[die].sigs.get n none
      let flag : W32 := if old = some (getF y 64 0) then 0xFFFFFFFF else 0
      Issues (.vsigChk g d a b) s .v g (readsV [a, b])
        { writes := [(3, .vec d ((1#32 ++ old.getD 0 ++ flag).setWidth 512))],
          act := fun x =>
            let put := fun (q : Die) => { q with sigs := q.sigs.set n (some (getF y 64 0)) }
            if bad then { x with ecc := x.ecc.filter (fun e => e != Ecc.sig die n) }.onDie die (fun q => (put q).countEcc)
            else x.onDie die put })) ∧
  (∀ (m : BitVec 3) (x y z : Vec) (i : Nat),
     let w := fun (v : Vec) (k : Nat) => (getF v 32 k).toInt
     let n := fun (v : Vec) (k : Nat) => (getF v 32 k).toNat
     let px := 256 * (w y 0 + i) + 128
     let py := 256 * w y 1 + 128
     let dx := fun (k : Nat) => w x (2 * ((k + 1) % 3)) - w x (2 * k)
     let dy := fun (k : Nat) => w x (2 * ((k + 1) % 3) + 1) - w x (2 * k + 1)
     let e := fun (k : Nat) => dx k * (py - w x (2 * k + 1)) - dy k * (px - w x (2 * k))
     let area := e 0 + e 1 + e 2
     let takes := fun (s : Int) (k : Nat) => 0 < s * e k ∨ e k = 0 ∧ (0 < s * dy k ∨ dy k = 0 ∧ s * dx k < 0)
     let digit := fun (j : Nat) => n x j / 16 ^ (n y 0 % 8) % 16
     let count := min (n y 1) 16
     let before := fun (j k : Nat) => digit j < digit k ∨ digit j = digit k ∧ j < k
     i < 16 →
       (edgeCovered m x y i = true ↔ (0 < area ∧ m ≠ 2 ∧ ∀ k < 3, takes 1 k) ∨ (area < 0 ∧ m ≠ 1 ∧ ∀ k < 3, takes (-1) k)) ∧
       (n y i = 0 → dedupLane x y i = 0xFFFFFFFF) ∧
       (∀ j < 16, n y i ≠ 0 → n y j ≠ 0 → n x j = n x i → (∀ k < j, n y k ≠ 0 → n x k ≠ n x i) →
         dedupLane x y i % 256 = j ∧ (2 ^ 31 ≤ dedupLane x y i ↔ i = j)) ∧
       (sortLane 1 x y i = ((List.range count).filter (fun j => decide (digit j = i))).length) ∧
       (count ≤ i → m ≠ 1 → sortLane m x y i = i) ∧
       (i < count → sortLane 2 x y i = ((List.range count).filter (fun j => decide (before j i))).length) ∧
       (i < count → ∃ j < count, sortLane 0 x y i = j ∧ ((List.range count).filter (fun k => decide (before k j))).length = i) ∧
       (n y (i / 4 * 4) = 0 → ∀ md o, compLane md o x y z i = n z i))

/-! ## The M slot -/

/-- What an op of the macro sequencer does when it issues: one entry joins the queue (R192, R193), with what its release waits
for (log 26). -/
def Obligations.MatrixIssues : Prop :=
  ∀ (s : State) (g : Pg) (a : BitVec 5) (t v : BitVec 4) (u : BitVec 4) (latch d bt sh : Bool) (ch : BitVec 3),
    let s0 := s.settle
    let k := s0.curBank
    let c := s0.curCtx
    let base := (k.rs a).toNat
    let made : MsOp → State → MsEntry := fun op y =>
      { id := y.nextId, leaf := s0.curLeaf, bank := s0.cur.bank, bundle := k.pc, op := op,
        issued := s0.cycleAt s0.cur.tile, waits := s0.covered c k }
    let entry : MsOp → State → State := fun op y =>
      (y.onCurTile (fun x => { x with msq := x.msq ++ [made op y] })).takeId
    let queues := fun (i : Instr) (rs : List RegRef) (op : MsOp) => Issues i s .m g rs { act := entry op }
    let linear := (List.range 32).map (fun n => base + 64 * n)
    let gathered := (List.range 32).map (fun n => base + 64 * (elemBits (k.rv v) n 0x4 % 4096))
    s0.curTile.msq.length + s0.curTile.left < 4 →
      (base % 64 = 0 → (∀ n ∈ linear, c.outside n 64 = none) →
        queues (.mlat g a t latch none) (readsS [a]) (.mlat latch t linear)) ∧
      (base % 64 = 0 → (∀ n ∈ gathered, c.outside n 64 = none) →
        queues (.mlat g a t false (some v)) (readsS [a] ++ readsV [v]) (.mlat false t gathered)) ∧
      ((c.inCh ch).bound = true → queues (.mlatc g ch t latch) [] (.mlatc latch t ch.toFin)) ∧
      (mmaFault s0.curTile t = none → queues (.mma g d t bt) [] (.mma (accNum d) t bt k.rmode)) ∧
      queues (.mzero g d) [] (.mzero (accNum d)) ∧
      ((c.drain[((k.rs a).extractLsb' 0 3).toFin]).getLsbD 3 = true →
        queues (.mdrain g d u sh (.scalar a)) (readsS [a])
          (.mdrain (accNum d) u sh (some (c.drainCh ((k.rs a).extractLsb' 0 3).toFin)) ((k.rs a).extractLsb' 0 3).toFin)) ∧
      queues (.mdrain g d u sh (.head ch)) [] (.mdrain (accNum d) u sh none ch.toFin) ∧
      (base % 64 = 0 → c.outside base 4096 = none →
        queues (.msav g d a) (readsS [a]) (.msav (accNum d) base) ∧
        queues (.mrst g d a) (readsS [a]) (.mrst (accNum d) base)) ∧
      (s0.curTile.entriesOf s0.curLeaf s0.cur.bank = [] → Issues (.msync g) s .m g [] {})

/-- R212-R219: The Carder ops. -/
def Obligations.CarderIssues : Prop :=
  ∀ (s : State) (g : Pg) (a b : BitVec 5) (kk v t : BitVec 4) (d : BitVec 2) (h hi sc : Bool) (m : BitVec 3),
    let s0 := s.settle
    let k := s0.curBank
    let x := s0.curTile
    let c := s0.curCtx
    let at_ := (k.rs a).toNat
    let fits := fun (n : Nat) => at_ % 64 = 0 ∧ c.outside at_ n = none
    let good := (x.half h).valid = true ∧ s0.ecc.contains (.half s0.cur.tile (halfNum h)) = false
    (fits 64 → s0.scratchEcc at_ 48 = none →
      Issues (.cmap g kk a) s .m g (readsS [a])
        { act := fun y => y.onCurTile (fun q =>
            q.setCard kk { q.card kk with map := BitVec.ofNat 384 (x.scratch.readNat at_ 48) }) }) ∧
    (fits (cdifBytes s0 (k.rs a)) → s0.scratchEcc at_ (cdifBytes s0 (k.rs a)) = none →
      ∀ card, dfCard (x.scratch.readNat at_ 66) (x.card kk) = some card →
        Issues (.cdif g kk a) s .m g (readsS [a])
          { act := fun y => y.onCurTile (fun q =>
              q.setCard kk { q.card kk with base := card.base, diffs := card.diffs }) }) ∧
    (fits (cactBytes t sc) → x.cact = none →
      Issues (.cact g h a t sc) s .m g (readsS [a])
        { act := fun y => y.onCurTile (fun q =>
            { q with cact := some { leaf := s0.curLeaf, bank := s0.cur.bank, bundle := k.pc, half := halfNum h,
                                    addr := at_, t := t, sc := sc, start := s0.cycleAt s0.cur.tile + 1,
                                    fill := x.half h } }) }) ∧
    (s0.ecc.contains (.card s0.cur.tile kk.toFin) = false → x.loading h = false → good →
      Issues (.cstep g d kk h) s .m g [] { writes := [(6, .cstep d (stepAddends (x.half h) (x.card kk)))] }) ∧
    Issues (.cclr g d) s .m g [] { writes := [(1, .batt d { lanes := 0, marks := 0 })] } ∧
    (x.loading h = false → good →
      Issues (.cout g v d b hi h m) s .m g (readsB d ++ readsS [b])
        { writes := [(4, .vec v (packVec 32 16 (fun l =>
            coutLane (modeOf k.rmode m) (k.rb d) (x.half h) (k.rs b) (l + (if hi then 16 else 0)))))] }) ∧
    (fits 256 →
      Issues (.csav g d a) s .m g (readsB d ++ readsS [a])
        { act := fun y => y.onCurTile (fun q =>
            q.putScratch at_ 256 (packNat 64 (fun i => ((k.rb d).word i).toNat) 32)) }) ∧
    (fits 256 → s0.scratchEcc at_ 256 = none →
      Issues (.crst g d a) s .m g (readsS [a])
        { writes := [(1, .batt d (battOfWords (fun i => x.scratch.readW64 (at_ + 8 * i))))] })

/-! ## The C slot -/

/-- R118, R154, R157, R158: Consumer ops on a bound channel that holds enough tokens, none of them a control token,
damaged, marked by its input port, or the head of a bit-plane burst whose AUX is out of range, with a sound scratch line
behind a payload that is read (log 52). A channel that advances
by n has n fewer filled slots and its head n further round, and nothing else of it but the count towards the next
producer slot moves. -/
def Obligations.ConsumerIssues : Prop :=
  (∀ (s : State) (g : Pg) (ch : BitVec 3) (d e : BitVec 4) (r : BitVec 5) (k n : BitVec 6) (p : BitVec 3),
     let s0 := s.settle
     let i := s0.curCtx.inCh ch
     let info := fun (j : Nat) => i.info (i.slot j)
     let payload := fun (j : Nat) => s0.curTile.scratch.readVec (i.slotAddr (i.slot j))
     let sound := fun (j : Nat) =>
       (info j).parity = false ∧ (info j).side.kind ≠ 4 ∧ (info j).side.kind ≠ 7 ∧ (info j).mark = none ∧
         (info j).side.badPlanes = false
     let whole := fun (j : Nat) => s0.ecc.contains (.scratch s0.cur.tile (i.slotAddr (i.slot j))) = false
     let round : Nat × PVal := (1, .sreg 0x012 ((info 0).side.round.setWidth 32))
     let moves : Nat → State → State := fun j x => x.advanceIn s0.cur.tile s0.curLeaf ch j
     i.bound = true →
       (0 < i.f → sound 0 → whole 0 →
         Issues (.pop g ch d none) s .c g [] { writes := [(1, .vec d (payload 0)), round], act := moves 1 } ∧
         Issues (.pop g ch d (some p)) s .c g []
           { writes := [(1, .vec d (payload 0)), (1, .pred p (info 0).side.pred), round], act := moves 1 } ∧
         Issues (.pops g ch r e) s .c g []
           { writes := [(1, .scalar r (getF (payload 0) 32 e.toNat)), round], act := moves 1 }) ∧
       (k.toNat < i.depth → k.toNat < i.f → sound k.toNat → whole k.toNat →
         Issues (.peek g ch d k none) s .c g [] { writes := [(1, .vec d (payload k.toNat))] } ∧
         Issues (.peek g ch d k (some p)) s .c g []
           { writes := [(1, .vec d (payload k.toNat)), (1, .pred p (info k.toNat).side.pred)] }) ∧
       (0 < i.f → (info 0).parity = false →
         Issues (.hdr g ch r) s .c g [] { writes := [(1, .scalar r (info 0).side.word)] }) ∧
       (n.toNat ≤ i.depth → n.toNat ≤ i.f →
         Issues (.adv g ch n) s .c g [] { act := moves n.toNat } ∧ Issues (.waitf g ch n) s .c g [] {})) ∧
  (∀ (c : InCh) (n : Nat), n ≤ c.f → 0 < c.ratio →
     (c.advance n).1.f + n = c.f ∧ (c.advance n).1.h = (c.h + n) % c.depth ∧
     (c.advance n).1.icfg = c.icfg ∧ (c.advance n).1.slots = c.slots ∧ (c.advance n).1.port = c.port ∧
     (c.advance n).1.passed + c.ratio * (c.advance n).2 = c.passed + n ∧ (c.advance n).1.passed < c.ratio)

/-- R46, R150, R151, R160-R163: Producer ops on a bound, open channel with enough free slots. -/
def Obligations.ProducerIssues : Prop :=
  ∀ (s : State) (g : Pg) (ch : BitVec 3) (a e : BitVec 4) (r : BitVec 5) (k n : BitVec 6),
    let s0 := s.settle
    let o := s0.curCtx.outCh ch
    let b := s0.curBank
    let x := b.rs r
    let on : (OutCh → OutCh) → State → State := fun f y => y.onCurCtx (fun c => c.onOut ch f)
    let sends := fun (i : Instr) (rs : List RegRef) (f : OutCh → OutCh) => Issues i s .c g rs { act := on f }
    let publish := fun (side : Sideband) (v : Vec) (o : OutCh) => o.publish (s0.sendOn ch true) side v false
    let data : OutCh → Sideband := fun o => { pred := true, round := o.rc }
    let mark := fun (kind : BitVec 3) =>
      ({ pred := true, kind := kind, round := x.extractLsb' 24 8, aux := x.extractLsb' 0 24 } : Sideband)
    o.bound = true → o.closed = false →
      (1 ≤ o.e → 1 ≤ o.depth →
        sends (.push g ch a) (readsV [a]) (fun o => publish (data o) (b.rv a) o) ∧
        sends (.pushs g ch r e) (readsS [r]) (fun o => publish (data o) (setF 0 32 e.toNat x) o) ∧
        sends (.null g ch) [] (fun o => publish { null := true, round := o.rc } 0 o) ∧
        sends (.markRe g ch r) (readsS [r])
          (fun o => { publish (mark 1) (x.setWidth 512) o with rc := x.extractLsb' 24 8 + 1 }) ∧
        Issues (.markEos g ch r) s .c g (readsS [r])
          { act := fun y => (on (fun o => { publish (mark 2) (x.setWidth 512) o with closed := true, wr := 0, pokes := [] })
              y).markEdges s0.cur.tile s0.curLeaf }) ∧
      (k.toNat + 1 ≤ o.depth → k.toNat + 1 ≤ o.e →
        sends (.poke g ch a k) (readsV [a]) (fun o =>
          { o.enqueue (s0.sendOn ch false) (.poke ((o.w + k.toNat) % o.depth) o.fmt (b.rv a)) with
              wr := o.wr ||| (1#64 <<< k.toNat), pokes := o.pokes.set ((o.w + k.toNat) % o.depth) (b.rv a) })) ∧
      (n.toNat ≤ o.depth → n.toNat ≤ o.e →
        sends (.pub g ch n) [] (fun o => o.pubN (s0.sendOn ch true) n.toNat) ∧ Issues (.waite g ch n) s .c g [] {})

/-- R63, R226, R227: Scratch loads and stores at an aligned address inside the share. A load takes one step when
the bank itself stored a byte that it reads, else 5 or 3. -/
def Obligations.ScratchIssues : Prop :=
  ∀ (s : State) (g : Pg) (d : BitVec 4) (r b : BitVec 5) (imm : BitVec 12),
    let s0 := s.settle
    let k := s0.curBank
    let x := s0.curTile
    let line := (k.rs b + imm.signExtend 32 * 64).toNat
    let word := (k.rs b + imm.signExtend 32 * 4).toNat
    let own := fun (a n : Nat) => (List.range n).any (fun i => x.writer.read (a + i) == writerMark s0.curLeaf s0.cur.bank)
    (line % 64 = 0 → s0.curCtx.outside line 64 = none →
      (s0.scratchEcc line 64 = none →
        Issues (.lds g d b imm) s .c g (readsS [b])
          { writes := [(if own line 64 then 1 else 5, .vec d (x.scratch.readVec line))] }) ∧
      Issues (.sts g d b imm) s .c g (readsV [d] ++ readsS [b])
        { act := fun y => y.onCurTile (fun t => t.storeScratch s0.curLeaf s0.cur.bank line 64 (k.rv d).toNat) }) ∧
    (word % 4 = 0 → s0.curCtx.outside word 4 = none →
      (s0.scratchEcc word 4 = none →
        Issues (.ldsw g r b imm) s .c g (readsS [b])
          { writes := [(if own word 4 then 1 else 3, .scalar r (x.scratch.readW32 word))] }) ∧
      Issues (.stsw g r b imm) s .c g (readsS [r, b])
        { act := fun y => y.onCurTile (fun t => t.storeScratch s0.curLeaf s0.cur.bank word 4 (k.rs r).toNat) })

/-- R228, R232-R236, R273-R281: Global accesses. Each takes a number, joins the port's queue and the bank's list of
accesses that are not done, and reserves a slot of its response channel when it has one. -/
def Obligations.GlobalIssues : Prop :=
  ∀ (s : State) (g : Pg) (ch : BitVec 3) (d q fn : BitVec 4) (b r : BitVec 5) (imm : BitVec 12),
    let s0 := s.settle
    let k := s0.curBank
    let c := s0.curCtx
    let pair := k.rpair q
    let line := pair + imm.signExtend 64 * 64
    let word := pair + imm.signExtend 64 * 4
    let off := k.rs b + imm.signExtend 32 * 64
    let x := k.rs r
    let nch := x.extractLsb' 28 3
    let amo := fun (ret : Bool) => ReqBody.amo pair fn (k.rs b) (if fn = 8 then k.rs (b + 1) else 0) ret
    let amoReads := readsPair q ++ readsS (if fn = 8 then [b, b + 1] else [b])
    let room := fun (ch : BitVec 3) => c.respmask.getLsbD ch.toNat = true ∧ (c.inCh ch).canReserve = true
    s0.curTile.port.length < 16 →
      (line.toNat % 64 = 0 →
        (room ch → Issues (.ldg g ch q imm) s .c g (readsPair q)
          { act := fun y => (y.access (s0.sender (some ch)) (.read line) true).countQ ch }) ∧
        Issues (.stg g d q imm) s .c g (readsV [d] ++ readsPair q)
          { act := fun y => y.access (s0.sender none) (.write line (k.rv d)) false } ∧
        Issues (.redc g d q imm) s .c g (readsV [d] ++ readsPair q)
          { act := fun y => y.access (s0.sender none) (.redc line (k.rv d)) false }) ∧
      (off.toNat % 64 = 0 → off.toNat < c.wsSize → room ch →
        Issues (.ldw g ch b imm) s .c g (readsS [b])
          { act := fun y => (y.access (s0.sender (some ch)) (.wread off (c.wsBase + off.toNat)) true).countQ ch }) ∧
      (pair.toNat % 4 = 0 →
        (room ch → Issues (.amo g q b fn (some ch)) s .c g amoReads
          { act := fun y => (y.access (s0.sender (some ch)) (amo true) true).countQ ch }) ∧
        Issues (.amo g q b fn none) s .c g amoReads { act := fun y => y.access (s0.sender none) (amo false) false }) ∧
      (word.toNat % 128 = 0 →
        (x.getLsbD 31 = true → room nch → Issues (.fillc g r q imm) s .c g (readsS [r] ++ readsPair q)
          { act := fun y => (y.access (s0.sender (some nch)) (.fillc word x) false).countRn nch }) ∧
        (x.getLsbD 31 = false → Issues (.fillc g r q imm) s .c g (readsS [r] ++ readsPair q)
          { act := fun y => y.access (s0.sender none) (.fillc word x) false }))

/-- R261-R267: `fence` and `bar` issue once everything they wait for is done, and wait before, noting the invalidations
under way when the accesses of the bank have been performed; a bank that is no member of the scope faults CHPROTO 09, and so
does a `bar.system` of a tile without a SYSTEM binding. -/
def Obligations.OrderingIssues : Prop :=
  ∀ (s : State) (g : Pg) (scope : BitVec 3),
    let s0 := s.settle
    let c := s0.curCtx
    let member := (c.barcfg.extractLsb' (4 * scope.toNat) 4).getLsbD s0.cur.bank.val
    let bound := scope ≠ 4 ∨ c.sysBound = true
    (s0.fenceDone (c.effScope scope) = true → Issues (.fence g scope) s .c g [] {}) ∧
    (member = true → bound → s0.fenceDone scope = true →
      Issues (.bar g scope) s .c g []
        { act := fun y => y.onCurBank (fun k => { k with arrived := some scope, arrivedAt := s0.cycleAt s0.cur.tile }) }) ∧
    (s0.fenceDone (c.effScope scope) = false → s0.curBank.enabled g = true →
      s0.clear .c [⟨2, g.pr.toNat⟩] [] = true →
        exec (.fence g scope) s = .next (s0.onCurBank (fun b =>
          { b with fence := s0.fenceMark (c.effScope scope), wait := 9, checked := true }))) ∧
    (member = true → bound → s0.fenceDone scope = false → s0.curBank.enabled g = true →
      s0.clear .c [⟨2, g.pr.toNat⟩] [] = true →
        exec (.bar g scope) s = .next (s0.onCurBank (fun b =>
          { b with fence := s0.fenceMark scope, wait := 9, checked := true }))) ∧
    (member = false →
      Faults (.bar g scope) s .c g [] [] (faultOf .chproto (BitVec.ofNat 32 (scope.toNat * 256 + 9)))) ∧
    (c.sysBound = false → Faults (.bar g 4) s .c g [] [] (faultOf .chproto 0x409))

/-- R293-R298: The umbra ops, where the key has a host and the port has room. `umen` reserves a slot and the bank
then waits for its grant; `umlv` and `umabt` free the slot that holds the key. What these releases wait for is log 26. -/
def Obligations.UmbraIssues : Prop :=
  ∀ (s : State) (g : Pg) (a b : BitVec 5) (j : Fin 4),
    let s0 := s.settle
    let k := s0.curBank
    let key := k.rs a
    let v := k.rs b
    let release : ReqBody → State → State := fun body y => y.toPort (s0.sender none) body (s0.covered s0.curCtx k) (s0.curCtx.spanDies 2)
    (s0.umhostOf s0.cur.tile s0.curLeaf key).isSome = true → s0.curTile.port.length < 16 →
      (k.heldSlot key = none → k.freeSlot = some j →
        Issues (.umen g a b) s .c g (readsS [a, b])
          { writes := [(1, .grant (BitVec.ofFin j))],
            act := fun y => (y.toPort (s0.sender none) (.umen key v j k.heldKeys) [] 0).onCurBank
              (fun k => { k with umWait := some ⟨key, v, j⟩ }) }) ∧
      (k.heldSlot key = some j →
        Issues (.umlv g a) s .c g (readsS [a])
          { act := fun y => (release (.umlv key) y).onCurBank (fun k => k.freeHeld j) } ∧
        Issues (.umabt g a) s .c g (readsS [a])
          { act := fun y => (release (.umabt key) y).onCurBank (fun k => k.freeHeld j) }) ∧
      Issues (.umsk g a b) s .c g (readsS [a, b]) { act := release (.umsk key v) } ∧
      Issues (.umini g a b) s .c g (readsS [a, b]) { act := fun y => y.toPort (s0.sender none) (.umini key v) [] 0 }

/-- R183, R184, R188, R316-R319, R347: `arm`, `fire`, `cfgt`, `send`, `cmask`, `cunm` and `lnch`. The mask that `cmask` and
`cunm` start from, the one written last even if the class port has not taken it yet, and the cycle in which the new one is seen
are the model's reading (log 49). What a release waits for is log 26. A `lnch` carries its range, the given one or that of the
template, and the PRIO of the template. -/
def Obligations.CommandIssues : Prop :=
  ∀ (s : State) (g : Pg) (ch : BitVec 3) (d a b : BitVec 5) (q v cls : BitVec 4) (tag : BitVec 2)
    (range : Option (BitVec 4)) (ret : Option (BitVec 3)) (n : Nat),
    let s0 := s.settle
    let k := s0.curBank
    let c := s0.curCtx
    let x := k.rs a
    let y := k.rs b
    let o := c.outCh ch
    let sel := fun (w : W32) => w.toNat < 2 ^ 11 ∧ (w.extractLsb' 2 7).toNat ≤ 95
    let port := s0.curTile.port.length < 16
    let mask := c.clsnext.getD c.clsmask
    let masked := fun (m : W16) =>
      ({ writes := [(1, .mask (m.setWidth 32))], act := fun z => z.maskNext m } : Plan)
    let child := s0.entry (x.extractLsb' 0 12).toNat
    let pr := match range with
      | some q => (k.rs (q ++ 0#1), k.rs (q ++ 1#1))
      | none => (child.w3, child.w4)
    (port → (k.rpair q).toNat % 128 = 0 → sel y →
      Issues (.arm g q b) s .c g (readsPair q ++ readsS [b])
        { act := fun z => z.access (s0.sender none) (.arm (k.rpair q) (y.extractLsb' 0 11)) false }) ∧
    (port → sel x →
      Issues (.fire g d a b) s .c g (readsS [d, a, b])
        { act := fun z => z.accessAfter (s0.sender none) (.fire (x.extractLsb' 0 11) y (k.rs d)) false
            (s0.covered c k) (c.spanDies 2) }) ∧
    (o.bound = true → o.closed = false → 1 ≤ o.e → 2 ≤ x.toNat → x.toNat ≤ 19 →
      Issues (.cfgt g ch a b) s .c g (readsS [a, b])
        { act := fun z => z.onCurCtx (fun c => c.onOut ch (fun o => o.publishAs (s0.sendOn ch false)
            { fmt := 0xF, pred := true, kind := 4, round := (c.outCh ch).rc, aux := x.extractLsb' 0 8 ++ 0#16 }
            (setF (setF (0 : Vec) 32 0 y) 32 1 ((x.extractLsb' 0 8).setWidth 32)) false)) }) ∧
    (((s0.box s0.cur.tile).exit s0.curLeaf cls).isSome = true → s0.curTile.outbound < 4 →
      Issues (.send g v cls tag) s .c g (readsV [v])
        { act := fun z => z.onCurTile (fun t => { t with clsout := t.clsout ++
            [{ tok := { side := { pred := true, kind := 6, bank := tag, aux := cls ++ s0.cur.tile ++ 0#8 },
                        payload := k.rv v },
               part := c.part, graph := c.graph, waits := s0.covered c k, dies := c.spanDies 2,
               due := s0.cycleAt s0.cur.tile + 1 }] }) }) ∧
    Issues (.cmask g cls) s .c g [] (masked (mask ||| (1#16 <<< cls.toNat))) ∧
    Issues (.cunm g cls) s .c g [] (masked (mask &&& ~~~(1#16 <<< cls.toNat))) ∧
    (port → k.gdepth ≠ 8 → s0.poolFor k.gdepth = some n →
      (∀ ch ∈ ret, c.respmask.getLsbD ch.toNat = true ∧ (c.inCh ch).canReserve = true) →
      Issues (.lnch g a range ret) s .c g (readsS [a] ++ (range.toList.flatMap readsPair))
        { act := fun z =>
            let src := s0.sender ret
            let z1 := z.toPort src (.lnch (x.extractLsb' 0 12) pr (k.gdepth + 1) child.prio n ret.isSome)
              (s0.covered c k) (c.spanDies 3)
            let e : PoolEntry := { template := x.extractLsb' 0 12, range := pr, depth := k.gdepth + 1,
                                   prio := child.prio, parent := c.graph, src := src, notify := ret.isSome }
            let z2 := { z1 with pool := z1.pool.set n (some e) }
            match ret with
            | some ch => z2.countRn ch
            | none => z2 })

/-- R158, R160, R192, R193, R203, R210, R214, R367: A full queue makes an op of the macro sequencer wait, and
`msync` waits for the bank's entries. While a half loads, the ops that name it wait, and so does a second `cact`. Every
consumer op waits for filled slots and every producer op for free ones, with WAIT 1. -/
def Obligations.SlotWaits : Prop :=
  (∀ (s : State) (g : Pg) (t u v : BitVec 4) (d bt sh latch : Bool) (ch : BitVec 3) (a : BitVec 5),
     let x := s.settle.curTile
     let c := s.settle.curCtx
     let k := s.settle.curBank
     let base := (k.rs a).toNat
     (4 ≤ x.msq.length + x.left →
       Waits (.mma g d t bt) s .m g [] [] 6 ∧ Waits (.mzero g d) s .m g [] [] 6 ∧ Waits (.mdrain g d u sh (.head ch)) s .m g [] [] 6 ∧
       ((c.drain[((k.rs a).extractLsb' 0 3).toFin]).getLsbD 3 = true →
         Waits (.mdrain g d u sh (.scalar a)) s .m g (readsS [a]) [] 6) ∧
       ((c.inCh ch).bound = true → Waits (.mlatc g ch t latch) s .m g [] [] 6) ∧
       (base % 64 = 0 → (∀ n < 32, c.outside (base + 64 * n) 64 = none) → Waits (.mlat g a t latch none) s .m g (readsS [a]) [] 6) ∧
       (base % 64 = 0 → (∀ n < 32, c.outside (base + 64 * (elemBits (k.rv v) n 0x4 % 4096)) 64 = none) →
         Waits (.mlat g a t false (some v)) s .m g (readsS [a] ++ readsV [v]) [] 6) ∧
       (base % 64 = 0 → c.outside base 4096 = none →
         Waits (.msav g d a) s .m g (readsS [a]) [] 6 ∧ Waits (.mrst g d a) s .m g (readsS [a]) [] 6)) ∧
     (x.entriesOf s.settle.curLeaf s.settle.cur.bank ≠ [] → Waits (.msync g) s .m g [] [] 8)) ∧
  (∀ (s : State) (g : Pg) (k v t : BitVec 4) (a d : BitVec 2) (h h' hi sc : Bool) (b c : BitVec 5) (m : BitVec 3),
     let s0 := s.settle
     s0.curTile.loading h = true →
       (s0.ecc.contains (.card s0.cur.tile k.toFin) = false →
         Waits (.cstep g d k h) s .m g [] [(6, .cstep d 0)] 7) ∧
       Waits (.cout g v a b hi h m) s .m g (readsB a ++ readsS [b]) [(4, .vec v 0)] 7 ∧
       ((s0.curBank.rs c).toNat % 64 = 0 → s0.curCtx.outside (s0.curBank.rs c).toNat (cactBytes t sc) = none →
         Waits (.cact g h' c t sc) s .m g (readsS [c]) [] 7)) ∧
  (∀ (s : State) (g : Pg) (ch p : BitVec 3) (a e : BitVec 4) (r : BitVec 5) (n : BitVec 6),
     let c := s.settle.curCtx
     ((c.inCh ch).bound = true → n.toNat ≤ (c.inCh ch).depth → (c.inCh ch).f < n.toNat →
       Waits (.adv g ch n) s .c g [] [] 1 ∧ Waits (.waitf g ch n) s .c g [] [] 1) ∧
     ((c.inCh ch).bound = true → (c.inCh ch).f = 0 →
       Waits (.pop g ch a none) s .c g [] [(1, .vec a 0), (1, .sreg 0x012 0)] 1 ∧
       Waits (.pop g ch a (some p)) s .c g [] [(1, .vec a 0), (1, .pred p false), (1, .sreg 0x012 0)] 1 ∧
       Waits (.pops g ch r e) s .c g [] [(1, .scalar r 0), (1, .sreg 0x012 0)] 1 ∧
       Waits (.hdr g ch r) s .c g [] [(1, .scalar r 0)] 1) ∧
     ((c.inCh ch).bound = true → n.toNat < (c.inCh ch).depth → (c.inCh ch).f ≤ n.toNat →
       Waits (.peek g ch a n none) s .c g [] [(1, .vec a 0)] 1 ∧
       Waits (.peek g ch a n (some p)) s .c g [] [(1, .vec a 0), (1, .pred p false)] 1) ∧
     ((c.outCh ch).bound = true → (c.outCh ch).closed = false → n.toNat < (c.outCh ch).depth → (c.outCh ch).e ≤ n.toNat →
       Waits (.poke g ch a n) s .c g (readsV [a]) [] 1) ∧
     ((c.outCh ch).bound = true → (c.outCh ch).closed = false → n.toNat ≤ (c.outCh ch).depth → (c.outCh ch).e < n.toNat →
       Waits (.pub g ch n) s .c g [] [] 1 ∧ Waits (.waite g ch n) s .c g [] [] 1) ∧
     ((c.outCh ch).bound = true → (c.outCh ch).closed = false → (c.outCh ch).e = 0 → 1 ≤ (c.outCh ch).depth →
       Waits (.push g ch a) s .c g (readsV [a]) [] 1 ∧ Waits (.null g ch) s .c g [] [] 1 ∧
       Waits (.pushs g ch r e) s .c g (readsS [r]) [] 1 ∧ Waits (.markRe g ch r) s .c g (readsS [r]) [] 1 ∧
       Waits (.markEos g ch r) s .c g (readsS [r]) [] 1))

/-- R97, R204, R211, R227, R234, R243, R367: An unaligned scratch address of an M-slot op faults ALIGN with the
address in FLTA. A stack op outside its bounds faults SPILL, a vector form at an unaligned stack pointer ALIGN,
both with SP in FLTA. An unaligned scratch access faults ALIGN, one outside the share SRANGE with the first address
outside. An unaligned global access faults ALIGN, with the low half of its address in FLTA and the whole in FLTX; an `ldw`
faults ALIGN and SRANGE by its offset; a response channel outside RESPMASK faults CHPROTO 08; and a full port makes every access
wait, with WAIT 5 even where its response channel has no free slot either (the model's reading, log 16). -/
def Obligations.AccessFaults : Prop :=
  (∀ (s : State) (g : Pg) (a : BitVec 5) (t k : BitVec 4) (latch d h sc : Bool) (r : BitVec 2),
     let x := s.settle.curBank.rs a
     let faults := fun (i : Instr) => Faults i s .m g (readsS [a]) [] (faultOf .align x)
     x.toNat % 64 ≠ 0 →
       faults (.mlat g a t latch none) ∧
       (∀ v, Faults (.mlat g a t false (some v)) s .m g (readsS [a] ++ readsV [v]) [] (faultOf .align x)) ∧ faults (.msav g d a) ∧ faults (.mrst g d a) ∧
       faults (.cmap g k a) ∧ faults (.cdif g k a) ∧ faults (.cact g h a t sc) ∧
       Faults (.csav g r a) s .m g (readsB r ++ readsS [a]) [] (faultOf .align x) ∧
       Faults (.crst g r a) s .m g (readsS [a]) [(1, .batt r {})] (faultOf .align x)) ∧
  (∀ (s : State) (g : Pg) (a b : BitVec 5) (u v : BitVec 4),
     let k := s.settle.curBank
     let sp := k.sp.toNat
     let n := rangeLen a.toNat b.toNat
     let m := rangeLen u.toNat v.toNat
     let regs := (List.range n).map (fun i => BitVec.ofNat 5 (a.toNat + i))
     let vregs := (List.range m).map (fun i => BitVec.ofNat 4 (u.toNat + i))
     let pops := (List.range n).map (fun i => (1, PVal.scalar (BitVec.ofNat 5 (a.toNat + i)) 0)) ++ [(1, .sreg 0x007 0)]
     let vpops := (List.range m).map (fun i => (1, PVal.vec (BitVec.ofNat 4 (u.toNat + i)) 0)) ++ [(1, .sreg 0x007 0)]
     let push := fun (f : FaultInfo) => Faults (.pushm g a b) s .s g (readsS regs) [(1, .sreg 0x007 0)] f
     let pop := fun (f : FaultInfo) => Faults (.popm g a b) s .s g [] pops f
     let vpush := fun (f : FaultInfo) => Faults (.vpushm g u v) s .s g (readsV vregs) [(1, .sreg 0x007 0)] f
     let vpop := fun (f : FaultInfo) => Faults (.vpopm g u v) s .s g [] vpops f
     (n ≠ 0 → (k.splim.toNat < sp + 4 * n ∨ sp < k.spbase.toNat) → push (faultOf .spill k.sp)) ∧
     (n ≠ 0 → (sp < k.spbase.toNat + 4 * n ∨ k.splim.toNat < sp) → pop (faultOf .spill k.sp)) ∧
     (m ≠ 0 → sp % 64 ≠ 0 → vpush (faultOf .align k.sp) ∧ vpop (faultOf .align k.sp)) ∧
     (m ≠ 0 → sp % 64 = 0 → (k.splim.toNat < sp + 64 * m ∨ sp < k.spbase.toNat) → vpush (faultOf .spill k.sp)) ∧
     (m ≠ 0 → sp % 64 = 0 → (sp < k.spbase.toNat + 64 * m ∨ k.splim.toNat < sp) → vpop (faultOf .spill k.sp))) ∧
  (∀ (s : State) (g : Pg) (d : BitVec 4) (r b : BitVec 5) (imm : BitVec 12) (n : Nat),
     let s0 := s.settle
     let line := s0.curBank.rs b + imm.signExtend 32 * 64
     let word := s0.curBank.rs b + imm.signExtend 32 * 4
     let steps := fun (a : W32) (n slow : Nat) =>
       if s0.curTile.forwarded s0.curLeaf s0.cur.bank a.toNat n then 1 else slow
     (line.toNat % 64 ≠ 0 →
       Faults (.lds g d b imm) s .c g (readsS [b]) [(steps line 64 5, .vec d 0)] (faultOf .align line) ∧
       Faults (.sts g d b imm) s .c g (readsV [d] ++ readsS [b]) [] (faultOf .align line)) ∧
     (word.toNat % 4 ≠ 0 →
       Faults (.ldsw g r b imm) s .c g (readsS [b]) [(steps word 4 3, .scalar r 0)] (faultOf .align word) ∧
       Faults (.stsw g r b imm) s .c g (readsS [r, b]) [] (faultOf .align word)) ∧
     (line.toNat % 64 = 0 → s0.curCtx.outside line.toNat 64 = some n →
       Faults (.lds g d b imm) s .c g (readsS [b]) [(steps line 64 5, .vec d 0)] (faultOf .srange (BitVec.ofNat 32 n)) ∧
       Faults (.sts g d b imm) s .c g (readsV [d] ++ readsS [b]) [] (faultOf .srange (BitVec.ofNat 32 n))) ∧
     (word.toNat % 4 = 0 → s0.curCtx.outside word.toNat 4 = some n →
       Faults (.ldsw g r b imm) s .c g (readsS [b]) [(steps word 4 3, .scalar r 0)] (faultOf .srange (BitVec.ofNat 32 n)) ∧
       Faults (.stsw g r b imm) s .c g (readsS [r, b]) [] (faultOf .srange (BitVec.ofNat 32 n)))) ∧
  (∀ (s : State) (g : Pg) (ch : BitVec 3) (d q fn : BitVec 4) (b r : BitVec 5) (imm : BitVec 12),
     let s0 := s.settle
     let k := s0.curBank
     let pair := k.rpair q
     let line := pair + imm.signExtend 64 * 64
     let word := pair + imm.signExtend 64 * 4
     let off := k.rs b + imm.signExtend 32 * 64
     let x := k.rs r
     let nch := x.extractLsb' 28 3
     let amoReads := readsPair q ++ readsS (if fn = 8 then [b, b + 1] else [b])
     let align := fun (a : W64) => ({ code := 0x07, flta := a.extractLsb' 0 32, fltx := a } : FaultInfo)
     let noChannel := fun (c : BitVec 3) => faultOf .chproto (BitVec.ofNat 32 (c.toNat * 256 + 8))
     let shut := fun (c : BitVec 3) => s0.curCtx.respmask.getLsbD c.toNat = false
     let opened := fun (c : BitVec 3) => s0.curCtx.respmask.getLsbD c.toNat = true
     let full := 16 ≤ s0.curTile.port.length
     (line.toNat % 64 ≠ 0 →
       Faults (.ldg g ch q imm) s .c g (readsPair q) [] (align line) ∧
       Faults (.stg g d q imm) s .c g (readsV [d] ++ readsPair q) [] (align line) ∧
       Faults (.redc g d q imm) s .c g (readsV [d] ++ readsPair q) [] (align line)) ∧
     (off.toNat % 64 ≠ 0 → Faults (.ldw g ch b imm) s .c g (readsS [b]) [] (faultOf .align off)) ∧
     (off.toNat % 64 = 0 → s0.curCtx.wsSize ≤ off.toNat → Faults (.ldw g ch b imm) s .c g (readsS [b]) [] (faultOf .srange off)) ∧
     (pair.toNat % 4 ≠ 0 → ∀ ret, Faults (.amo g q b fn ret) s .c g amoReads [] (align pair)) ∧
     (word.toNat % 128 ≠ 0 → Faults (.fillc g r q imm) s .c g (readsS [r] ++ readsPair q) [] (align word)) ∧
     (pair.toNat % 128 ≠ 0 → Faults (.arm g q b) s .c g (readsPair q ++ readsS [b]) [] (align pair)) ∧
     (shut ch →
       (line.toNat % 64 = 0 → Faults (.ldg g ch q imm) s .c g (readsPair q) [] (noChannel ch)) ∧
       (off.toNat % 64 = 0 → off.toNat < s0.curCtx.wsSize → Faults (.ldw g ch b imm) s .c g (readsS [b]) [] (noChannel ch)) ∧
       (pair.toNat % 4 = 0 → Faults (.amo g q b fn (some ch)) s .c g amoReads [] (noChannel ch))) ∧
     (shut nch → word.toNat % 128 = 0 → x.getLsbD 31 = true →
       Faults (.fillc g r q imm) s .c g (readsS [r] ++ readsPair q) [] (noChannel nch)) ∧
     (full →
       (line.toNat % 64 = 0 →
         (opened ch → Waits (.ldg g ch q imm) s .c g (readsPair q) [] 5) ∧
         Waits (.stg g d q imm) s .c g (readsV [d] ++ readsPair q) [] 5 ∧
         Waits (.redc g d q imm) s .c g (readsV [d] ++ readsPair q) [] 5) ∧
       (opened ch → off.toNat % 64 = 0 → off.toNat < s0.curCtx.wsSize → Waits (.ldw g ch b imm) s .c g (readsS [b]) [] 5) ∧
       (pair.toNat % 4 = 0 →
         (opened ch → Waits (.amo g q b fn (some ch)) s .c g amoReads [] 5) ∧ Waits (.amo g q b fn none) s .c g amoReads [] 5) ∧
       (word.toNat % 128 = 0 → (x.getLsbD 31 = true → opened nch) → Waits (.fillc g r q imm) s .c g (readsS [r] ++ readsPair q) [] 5) ∧
       (pair.toNat % 128 = 0 → (k.rs b).toNat < 2 ^ 11 → ((k.rs b).extractLsb' 2 7).toNat ≤ 95 →
         Waits (.arm g q b) s .c g (readsPair q ++ readsS [b]) [] 5)))

/-- R118, R137, R170, R293-R295, R316, R317, R319, R345: An unbound channel faults CHPROTO, low byte 01; a count or an index
beyond the depth, low byte 02; a closed output channel, low byte 04. A consumer that reads a token with bad parity, or a
payload from a damaged scratch line, faults ECC; one of KIND 4 or 7, CHPROTO, low byte 03; one that its port has marked, CONV
(in the order of log 52); `hdr` looks at the parity alone. A key without a host faults CHPROTO 0A; entering a held key UMBDEAD; a fifth section UMBNEST;
leaving a key that is not held SEQ. A bad template selector faults CHPROTO 0C, a bad `cfgt` index CHPROTO 0B, a
class without an exit CHPROTO 05, a launch at depth 8 LDEPTH. A `vcvt` between RAW or CTL and another code faults
CONV, with both codes in FLTA. -/
def Obligations.OpFaults : Prop :=
  (∀ (s : State) (g : Pg) (ch p : BitVec 3) (a e : BitVec 4) (r : BitVec 5) (k n : BitVec 6) (low : BitVec 8),
     let s0 := s.settle
     let c := s0.curCtx
     let i := c.inCh ch
     let o := c.outCh ch
     let x := fun (j : Nat) => i.info (i.slot j)
     let bad := fun (h low : Nat) => faultOf .chproto (BitVec.ofNat 32 (h * 256 + low))
     let round : Nat × PVal := (1, .sreg 0x012 0)
     let heads := fun (f : FaultInfo) =>
       Faults (.pop g ch a none) s .c g [] [(1, .vec a 0), round] f ∧
       Faults (.pop g ch a (some p)) s .c g [] [(1, .vec a 0), (1, .pred p false), round] f ∧
       Faults (.pops g ch r e) s .c g [] [(1, .scalar r 0), round] f
     let peeks := fun (f : FaultInfo) =>
       Faults (.peek g ch a k none) s .c g [] [(1, .vec a 0)] f ∧
       Faults (.peek g ch a k (some p)) s .c g [] [(1, .vec a 0), (1, .pred p false)] f
     let takes := fun (j : Nat) (f : FaultInfo) => (j = 0 → heads f) ∧ (j = k.toNat → k.toNat < i.depth → peeks f)
     let damaged := fun (j : Nat) => s0.ecc.contains (.scratch s0.cur.tile (i.slotAddr (i.slot j)))
     (i.bound = false →
       Faults (.adv g ch n) s .c g [] [] (bad ch.toNat 1) ∧ Faults (.waitf g ch n) s .c g [] [] (bad ch.toNat 1) ∧
       Faults (.hdr g ch r) s .c g [] [(1, .scalar r 0)] (bad ch.toNat 1) ∧ peeks (bad ch.toNat 1) ∧ heads (bad ch.toNat 1)) ∧
     (i.bound = true → i.depth < n.toNat →
       Faults (.adv g ch n) s .c g [] [] (bad ch.toNat 2) ∧ Faults (.waitf g ch n) s .c g [] [] (bad ch.toNat 2)) ∧
     (i.bound = true → i.depth ≤ k.toNat → peeks (bad ch.toNat 2)) ∧
     (∀ j, i.bound = true → j < i.f → damaged j = true →
       takes j (faultOf .ecc (BitVec.ofNat 32 (ch.toNat * 256 + i.slot j)))) ∧
     (∀ j, i.bound = true → j < i.f → damaged j = false →
       ((x j).parity = true →
         takes j (faultOf .ecc (BitVec.ofNat 32 (ch.toNat * 256 + i.slot j))) ∧
         (j = 0 → Faults (.hdr g ch r) s .c g [] [(1, .scalar r 0)] (faultOf .ecc (BitVec.ofNat 32 (ch.toNat * 256 + i.slot 0))))) ∧
       ((x j).parity = false → ((x j).side.kind = 4 ∨ (x j).side.kind = 7) → takes j (bad ch.toNat 3)) ∧
       ((x j).parity = false → (x j).side.kind ≠ 4 → (x j).side.kind ≠ 7 → (x j).mark = some low →
         takes j (faultOf .conv (BitVec.ofNat 32 (ch.toNat * 256 + low.toNat)))) ∧
       ((x j).parity = false → (x j).side.kind ≠ 4 → (x j).side.kind ≠ 7 → (x j).mark = none → (x j).side.badPlanes = true →
         takes j (faultOf .conv (BitVec.ofNat 32 (ch.toNat * 256 + ((x j).side.fmt ++ i.fmt).toNat))))) ∧
     (o.bound = false →
       Faults (.push g ch a) s .c g (readsV [a]) [] (bad (8 + ch.toNat) 1) ∧ Faults (.pushs g ch r e) s .c g (readsS [r]) [] (bad (8 + ch.toNat) 1) ∧
       Faults (.poke g ch a k) s .c g (readsV [a]) [] (bad (8 + ch.toNat) 1) ∧ Faults (.pub g ch n) s .c g [] [] (bad (8 + ch.toNat) 1) ∧
       Faults (.waite g ch n) s .c g [] [] (bad (8 + ch.toNat) 1) ∧ Faults (.null g ch) s .c g [] [] (bad (8 + ch.toNat) 1) ∧
       Faults (.markRe g ch r) s .c g (readsS [r]) [] (bad (8 + ch.toNat) 1) ∧
       Faults (.markEos g ch r) s .c g (readsS [r]) [] (bad (8 + ch.toNat) 1)) ∧
     (o.bound = true →
       (o.depth < n.toNat →
         Faults (.pub g ch n) s .c g [] [] (bad (8 + ch.toNat) 2) ∧ Faults (.waite g ch n) s .c g [] [] (bad (8 + ch.toNat) 2)) ∧
       (o.depth ≤ k.toNat → Faults (.poke g ch a k) s .c g (readsV [a]) [] (bad (8 + ch.toNat) 2))) ∧
     (o.bound = true → o.closed = true → 1 ≤ o.depth →
       Faults (.push g ch a) s .c g (readsV [a]) [] (bad (8 + ch.toNat) 4) ∧ Faults (.pushs g ch r e) s .c g (readsS [r]) [] (bad (8 + ch.toNat) 4) ∧
       Faults (.null g ch) s .c g [] [] (bad (8 + ch.toNat) 4) ∧
       (k.toNat < o.depth → Faults (.poke g ch a k) s .c g (readsV [a]) [] (bad (8 + ch.toNat) 4)) ∧
       (n.toNat ≤ o.depth → Faults (.pub g ch n) s .c g [] [] (bad (8 + ch.toNat) 4) ∧
         Faults (.waite g ch n) s .c g [] [] (bad (8 + ch.toNat) 4)) ∧
       Faults (.markRe g ch r) s .c g (readsS [r]) [] (bad (8 + ch.toNat) 4) ∧
       Faults (.markEos g ch r) s .c g (readsS [r]) [] (bad (8 + ch.toNat) 4))) ∧
  (∀ (s : State) (g : Pg) (a b : BitVec 5) (j i : Fin 4),
     let s0 := s.settle
     let k := s0.curBank
     let key := k.rs a
     let seq := k.rs b
     let keyed := fun (c : Cause) (q : W32) => ({ code := c.code, flta := key, key := some (key, q) } : FaultInfo)
     let hosted := (s0.umhostOf s0.cur.tile s0.curLeaf key).isSome
     (hosted = false →
       Faults (.umen g a b) s .c g (readsS [a, b]) [(1, .grant (BitVec.ofFin (k.freeSlot.getD 0)))] (faultOf .chproto 0x0A) ∧
       Faults (.umlv g a) s .c g (readsS [a]) [] (faultOf .chproto 0x0A) ∧
       Faults (.umabt g a) s .c g (readsS [a]) [] (faultOf .chproto 0x0A) ∧
       Faults (.umsk g a b) s .c g (readsS [a, b]) [] (faultOf .chproto 0x0A) ∧
       Faults (.umini g a b) s .c g (readsS [a, b]) [] (faultOf .chproto 0x0A)) ∧
     (hosted = true → k.heldSlot key = some i → k.freeSlot = some j →
       Faults (.umen g a b) s .c g (readsS [a, b]) [(1, .grant (BitVec.ofFin j))] (keyed .umbdead seq)) ∧
     (hosted = true → k.heldSlot key = none → k.freeSlot = none →
       Faults (.umen g a b) s .c g (readsS [a, b]) [(1, .grant 0)] (keyed .umbnest seq)) ∧
     (hosted = true → k.heldSlot key = none →
       Faults (.umlv g a) s .c g (readsS [a]) [] (keyed .seq 0) ∧ Faults (.umabt g a) s .c g (readsS [a]) [] (keyed .seq 0))) ∧
  (∀ (s : State) (g : Pg) (ch : BitVec 3) (d a b : BitVec 5) (q v cls : BitVec 4) (tag : BitVec 2),
     let s0 := s.settle
     let k := s0.curBank
     let x := k.rs a
     let y := k.rs b
     let o := s0.curCtx.outCh ch
     let badSel := fun (w : W32) => 2 ^ 11 ≤ w.toNat ∨ 95 < (w.extractLsb' 2 7).toNat
     ((k.rpair q).toNat % 128 = 0 → badSel y →
       Faults (.arm g q b) s .c g (readsPair q ++ readsS [b]) [] (faultOf .chproto 0x0C)) ∧
     (badSel x → Faults (.fire g d a b) s .c g (readsS [d, a, b]) [] (faultOf .chproto 0x0C)) ∧
     (o.bound = true → o.closed = false → (x.toNat < 2 ∨ 19 < x.toNat) →
       Faults (.cfgt g ch a b) s .c g (readsS [a, b]) [] (faultOf .chproto (BitVec.ofNat 32 ((8 + ch.toNat) * 256 + 0x0B)))) ∧
     (((s0.box s0.cur.tile).exit s0.curLeaf cls).isSome = false →
       Faults (.send g v cls tag) s .c g (readsV [v]) [] (faultOf .chproto (BitVec.ofNat 32 (cls.toNat * 256 + 5)))) ∧
     (k.gdepth = 8 →
       Faults (.lnch g a none none) s .c g (readsS [a]) [] (faultOf .ldepth ((x.extractLsb' 0 12).setWidth 32)))) ∧
  (∀ (s : State) (g : Pg) (d a t u : BitVec 4) (m : BitVec 3) (ovf : Bool),
     t ≠ u → (t = 0x0 ∨ t = 0xF ∨ u = 0x0 ∨ u = 0xF) →
       Faults (.vcvt g d a t u ovf m) s .v g (readsV [a]) [(3, .vec d 0)] (faultOf .conv (0#24 ++ t ++ u)))

/-! ## Control cores -/

/-- R388, R390: The integer instructions of a control core write their register and go on to the next word. -/
def Obligations.CoreIntegerResults : Prop :=
  ∀ (s : State) (d a b : BitVec 5) (imm : BitVec 16) (n : BitVec 6),
    let c := s.curCore
    let x := c.rx a
    let y := c.rx b
    let k : W64 := imm.signExtend 64
    let sh := (y.extractLsb' 0 6).toNat
    let flag := fun (t : Bool) => (if t then 1 else 0 : W64)
    let does := fun (i : Instr) (v : W64) =>
      exec i s = .next (s.onCurCore (fun c => { c.wx d v with pc := c.pc + 4 }))
    c.pc ≠ 0x3FFFC →
      does (.ccAdd d a b) (x + y) ∧ does (.ccSub d a b) (x - y) ∧ does (.ccAnd d a b) (x &&& y) ∧
      does (.ccOr d a b) (x ||| y) ∧ does (.ccXor d a b) (x ^^^ y) ∧ does (.ccShl d a b) (x <<< sh) ∧
      does (.ccShr d a b) (x >>> sh) ∧ does (.ccSra d a b) (x.sshiftRight sh) ∧
      does (.ccSlt d a b) (flag (decide (x.toInt < y.toInt))) ∧ does (.ccSltn d a b) (flag (decide (x.toNat < y.toNat))) ∧
      does (.ccMul d a b) (x * y) ∧ does (.ccAddi d a imm) (x + k) ∧ does (.ccAndi d a imm) (x &&& k) ∧
      does (.ccOri d a imm) (x ||| k) ∧ does (.ccXori d a imm) (x ^^^ k) ∧ does (.ccShli d a n) (x <<< n.toNat) ∧
      does (.ccShri d a n) (x >>> n.toNat) ∧ does (.ccSrai d a n) (x.sshiftRight n.toNat) ∧
      does (.ccSlti d a imm) (flag (decide (x.toInt < k.toInt))) ∧ does (.ccLui d imm) (k <<< 16)

/-- R388, R394, R396: Register x0 reads 0 and is not written, another register reads what was written last; and an
instruction in the last word of local memory is followed by a BRANGE exception, with its effect. Taking an
exception saves the pc, the cause and the address, sets IN and goes to EVEC; with IN set the core halts besides; and `eret`
after an exception comes back to the instruction that took it. -/
def Obligations.CoreState : Prop :=
  (∀ (c : Core) (r q : BitVec 5) (v : W64),
     c.rx 0 = 0 ∧ c.wx 0 v = c ∧ (r ≠ 0 → (c.wx r v).rx r = v) ∧ (q ≠ r → (c.wx r v).rx q = c.rx q) ∧
     (c.wx r v).pc = c.pc ∧ (c.wx r v).lmem = c.lmem ∧ (c.wx r v).inExc = c.inExc ∧
     (c.pc ≠ 0x3FFFC → c.done = { c with pc := c.pc + 4 }) ∧
     (c.pc = 0x3FFFC → c.inExc = false → c.done =
       { c with epc := 0x3FFFC, ecause := 0x02, eaddr := 0x40000, inExc := true, pc := c.evec })) ∧
  (∀ (c : Core) (f : Cause) (a : W64),
     (c.inExc = false → c.pc &&& 3 = 0 →
       (c.exception f a).epc = c.pc ∧ (c.exception f a).ecause = f.code ∧ (c.exception f a).eaddr = a ∧
       (c.exception f a).inExc = true ∧ (c.exception f a).pc = c.evec ∧ (c.exception f a).x = c.x ∧
       (c.exception f a).lmem = c.lmem ∧ (c.exception f a).halted = c.halted ∧
       (c.exception f a).eret.pc = c.pc ∧ (c.exception f a).eret.inExc = false) ∧
     (c.inExc = true → c.exception f a =
       { c with epc := c.pc &&& 0x3FFFC, ecause := f.code, eaddr := a, pc := c.evec, halted := true }))

/-- R237-R241, R388, R389, R391: Loads and stores of a control core, at an aligned address of local memory or of a
physical target that admits the access. One of GDDR7 passes the home slice, and a store there also sends its invalidations
(R238-R240; in one step by the model's choice, log 25); one whose bank is in refresh, whose way is barred or whose slice makes
it wait leaves the core where it is (logs 25 and 58); a load of host memory asks the host and waits for its answer. Which
address reaches local memory, and the ALIGN and PAGE exceptions, with the address in EADDR. -/
def Obligations.CoreMemory : Prop :=
  (∀ (s s1 : State) (d a : BitVec 5) (imm : BitVec 16) (o : Nat),
     let c := s.curCore
     let ea := c.rx a + imm.signExtend 64
     let v := (c.rx d).toNat
     let barred := s.refreshes o = true ∨ s.pathShut (coreDie s.cur.core) o = true
     let gives := fun (w : Nat) (x : State) => x.onCurCore (fun c => { c.wx d (BitVec.ofNat 64 w) with pc := c.pc + 4 })
     let loads := fun (i : Instr) (n : Nat) =>
       (s.coreAccess false ea n = .ok (true, o) → exec i s = .next (gives (c.lmem.readNat o n) s)) ∧
       (s.coreAccess false ea n = .ok (false, o) →
         (barred → exec i s = .next s) ∧
         (¬ barred → isHost o = true → ∃ q : Req, q.body = .read ea ∧ q.pa = some o ∧ q.id = s.nextId ∧
           exec i s = .next ((s.takeId.fly q .host).onCurCore (fun c => { c with busy := .load q.id }))) ∧
         (¬ barred → isHost o = false → s.passSlice o false = none → exec i s = .next s) ∧
         (¬ barred → isHost o = false → s.passSlice o false = some s1 → exec i s = .next (gives (s.mem.readNat o n) s1)))
     let stores := fun (i : Instr) (n : Nat) =>
       (s.coreAccess true ea n = .ok (true, o) →
         exec i s = .next (s.onCurCore (fun c => { c with lmem := c.lmem.writeNat o v n, pc := c.pc + 4 }))) ∧
       (s.coreAccess true ea n = .ok (false, o) →
         (barred ∨ s.passSlice o true = none → exec i s = .next s) ∧
         (¬ barred → s.passSlice o true = some s1 →
           exec i s = .next ((({ s1 with mem := s.mem.writeNat o v n } : State).invalidate o none 0 none).onCurCore (fun c =>
             { c with pc := c.pc + 4 }))))
     c.pc ≠ 0x3FFFC →
       loads (.ccLdD d a imm) 8 ∧ loads (.ccLdW d a imm) 4 ∧ loads (.ccLdB d a imm) 1 ∧
       stores (.ccStD d a imm) 8 ∧ stores (.ccStW d a imm) 4 ∧ stores (.ccStB d a imm) 1) ∧
  (∀ (s : State) (d a : BitVec 5) (imm : BitVec 16) (o : BitVec 18),
     let ea := s.curCore.rx a + imm.signExtend 64
     let faults := fun (i : Instr) (c : Cause) => exec i s = .next (s.onCurCore (fun q => q.exception c ea))
     (ea.toNat % 8 ≠ 0 → faults (.ccLdD d a imm) .align ∧ faults (.ccStD d a imm) .align) ∧
     (ea.toNat % 4 ≠ 0 → faults (.ccLdW d a imm) .align ∧ faults (.ccStW d a imm) .align) ∧
     (ea.getLsbD 63 = true → ea.extractLsb' 18 34 ≠ 0 → faults (.ccLdB d a imm) .page ∧ faults (.ccStB d a imm) .page) ∧
     (ea.getLsbD 63 = false → ea.extractLsb' 52 11 ≠ 0 → faults (.ccLdB d a imm) .page ∧ faults (.ccStB d a imm) .page) ∧
     (s.coreAccess true (1#1 ++ 0#45 ++ o) 1 = .ok (true, o.toNat)))

/-- R392: The branches and jumps of a control core. A taken target with a low bit set faults ALIGN, one past local
memory BRANGE; no register is written. A target that is both faults ALIGN: that order is the model's reading (log entry
15). -/
def Obligations.CoreBranches : Prop :=
  (∀ (s : State) (d a b : BitVec 5) (off imm : BitVec 16) (far : BitVec 21),
     let c := s.curCore
     let x := c.rx a
     let y := c.rx b
     let near := c.pc.setWidth 64 + off.signExtend 64 * 4
     let jump := c.pc.setWidth 64 + far.signExtend 64 * 4
     let reg := x + imm.signExtend 64
     let inside := fun (t : W64) => t.toNat % 4 = 0 ∧ t.toNat < 0x40000
     let link := c.pc.setWidth 64 + 4
     let branch := fun (i : Instr) (taken : Bool) =>
       (taken = true → inside near → exec i s = .next (s.onCurCore (fun c => { c with pc := near.setWidth 18 }))) ∧
       (taken = false → c.pc ≠ 0x3FFFC → exec i s = .next (s.onCurCore (fun c => { c with pc := c.pc + 4 })))
     branch (.ccBeq a b off) (x == y) ∧ branch (.ccBne a b off) (x != y) ∧
     branch (.ccBlt a b off) (decide (x.toInt < y.toInt)) ∧ branch (.ccBge a b off) (decide (y.toInt ≤ x.toInt)) ∧
     branch (.ccBltn a b off) (decide (x.toNat < y.toNat)) ∧ branch (.ccBgen a b off) (decide (y.toNat ≤ x.toNat)) ∧
     (inside jump → exec (.ccJal d far) s = .next (s.onCurCore (fun c => { c.wx d link with pc := jump.setWidth 18 }))) ∧
     (inside reg → exec (.ccJalr d a imm) s = .next (s.onCurCore (fun c => { c.wx d link with pc := reg.setWidth 18 })))) ∧
  (∀ (s : State) (d a b : BitVec 5) (off imm : BitVec 16) (far : BitVec 21),
     let c := s.curCore
     let x := c.rx a
     let y := c.rx b
     let near := c.pc.setWidth 64 + off.signExtend 64 * 4
     let jump := c.pc.setWidth 64 + far.signExtend 64 * 4
     let reg := x + imm.signExtend 64
     let takes := fun (i : Instr) (f : Cause) (t : W64) => exec i s = .next (s.onCurCore (fun q => q.exception f t))
     let faults := fun (i : Instr) (t : W64) =>
       (t.toNat % 4 ≠ 0 → takes i .align t) ∧ (t.toNat % 4 = 0 → 0x40000 ≤ t.toNat → takes i .brange t)
     faults (.ccJalr d a imm) reg ∧ faults (.ccJal d far) jump ∧
     (x = y → faults (.ccBeq a b off) near) ∧ (x ≠ y → faults (.ccBne a b off) near) ∧
     (x.toInt < y.toInt → faults (.ccBlt a b off) near) ∧ (y.toInt ≤ x.toInt → faults (.ccBge a b off) near) ∧
     (x.toNat < y.toNat → faults (.ccBltn a b off) near) ∧ (y.toNat ≤ x.toNat → faults (.ccBgen a b off) near))

/-- R343, R371, R393-R395: CSR access, `eret` and `wfe`. What the CSRs read, DISTCFG and the registers of a partition on the
core's die among them, and what a write changes: RO registers stay, EVPEND clears the bits written as 1, MSG reaches the core
that its low bits name. -/
def Obligations.CoreSystem : Prop :=
  (∀ (s : State) (d a : BitVec 5) (num : BitVec 12) (v : W64),
     let c := s.curCore
     let k := s.cur.core
     let next := fun (t : State) => t.onCurCore (fun c => { c with pc := c.pc + 4 })
     (s.csr k num = some v → c.pc ≠ 0x3FFFC →
       exec (.csrr d num) s = .next (s.onCurCore (fun c => { c.wx d v with pc := c.pc + 4 }))) ∧
     (s.csr k num = none → exec (.csrr d num) s = .next (s.onCurCore (fun c => c.exception .illop 0)) ∧
       exec (.csrw a num) s = .next (s.onCurCore (fun c => c.exception .illop 0))) ∧
     ((s.csr k num).isSome = true → (s.setCsr k num (c.rx a)).curCore.pc ≠ 0x3FFFC →
       exec (.csrw a num) s = .next (next (s.setCsr k num (c.rx a)))) ∧
     (c.inExc = true → exec .eret s = .next (s.onCurCore (fun c => { c with pc := c.epc, inExc := false }))) ∧
     (c.inExc = false → exec .eret s = .next (s.onCurCore (fun c => c.exception .illop 0))) ∧
     (c.evpend &&& c.evmask ≠ 0 → c.pc ≠ 0x3FFFC → exec .wfe s = .next (next s)) ∧
     (c.evpend &&& c.evmask = 0 → exec .wfe s = .next (s.onCurCore (fun c => { c with busy := .wfe }))) ∧
     (s.cores[k].busy = .wfe → s.cores[k].evpend &&& s.cores[k].evmask ≠ 0 → s.cores[k].pc ≠ 0x3FFFC →
       exec (.wfeEnd k) s = .next (s.onCore k (fun c => { c with busy := .none, pc := c.pc + 4 })))) ∧
  (∀ (s : State) (k : CoreId) (v : W64),
     let c := s.cores[k]
     s.csr k 0x000 = some (BitVec.ofNat 64 k.val) ∧ s.csr k 0x001 = some s.dies[coreDie k].cycle ∧
     s.csr k 0x008 = some (c.evec.setWidth 64) ∧ s.csr k 0x009 = some (c.epc.setWidth 64) ∧
     s.csr k 0x00A = some (c.ecause.setWidth 64) ∧ s.csr k 0x00B = some c.eaddr ∧
     s.csr k 0x00C = some (if c.inExc then 1 else 0) ∧ s.csr k 0x010 = some (c.evpend.setWidth 64) ∧
     s.csr k 0x011 = some (c.evmask.setWidth 64) ∧ s.csr k 0x012 = some c.timer ∧ s.csr k 0x013 = some c.msg ∧
     s.csr k 0x021 = some c.swstat ∧ s.csr k 0x002 = none ∧ s.csr k 0x500 = none ∧
     s.setCsr k 0x000 v = s ∧ s.setCsr k 0x001 v = s ∧ s.setCsr k 0x00A v = s ∧ s.setCsr k 0x00B v = s ∧
     s.setCsr k 0x008 v = s.onCore k (fun c => { c with evec := v.extractLsb' 0 18 &&& 0x3FFFC }) ∧
     s.setCsr k 0x010 v = s.onCore k (fun c => { c with evpend := c.evpend &&& ~~~(v.extractLsb' 0 5) }) ∧
     s.setCsr k 0x012 v = s.onCore k (fun c => { c with timer := v }) ∧
     s.setCsr k 0x009 v = s.onCore k (fun c => { c with epc := v.extractLsb' 0 18 &&& 0x3FFFC }) ∧
     s.setCsr k 0x011 v = s.onCore k (fun c => { c with evmask := v.extractLsb' 0 5 }) ∧
     s.setCsr k 0x00C v = s ∧ s.setCsr k 0x021 v = s ∧
     s.setCsr k 0x013 v = s.onCore (v.extractLsb' 0 4).toFin (fun c => { c with msg := v, evpend := c.evpend ||| 8 })) ∧
  (∀ (s : State) (k : CoreId) (p : BitVec 6) (j : Fin 16) (v : W64),
     let d := coreDie k
     let g := s.dies[d]
     let q := s.noticeQ d p
     let num := BitVec.ofNat 12 (0x100 + 16 * p.toNat + j.val)
     let reads := fun (n : Fin 16) (w : W64) => j = n → s.csr k num = some w
     let writes := fun (n : Fin 16) (f : NoticeQ → NoticeQ) => j = n → s.setCsr k num v = s.onNotice d p f
     s.csr k 0x020 = some (0#32 ++ (g.master ++ 0#2 ++ g.live ++ 0#8 ++ g.gran)) ∧
     s.setCsr k 0x020 v = s.onDie d (fun g => { g with gran := v.extractLsb' 0 16 }) ∧
     reads 0 q.nqbase ∧ reads 1 (q.nqsize.setWidth 64) ∧ reads 2 (q.nqhead.setWidth 64) ∧ reads 3 (q.nqtail.setWidth 64) ∧
     reads 4 (q.pcc.setWidth 64) ∧ reads 5 (q.migthr.setWidth 64) ∧ reads 6 q.cntbase ∧ (7 ≤ j.val → reads j 0) ∧
     writes 0 (fun q => { q with nqbase := v &&& 0x000FFFFFFFFFF000 }) ∧
     writes 1 (fun q => { q with nqsize := v.extractLsb' 0 5 }) ∧ writes 2 (fun q => { q with nqhead := v.extractLsb' 0 16 }) ∧
     writes 3 id ∧ writes 4 (fun q => { q with pcc := v.extractLsb' 0 2 }) ∧
     writes 5 (fun q => { q with migthr := v.extractLsb' 0 16 }) ∧
     writes 6 (fun q => { q with cntbase := v &&& 0x000FFFFFFFFFFFFE }) ∧ (7 ≤ j.val → writes j id))

/-- R10, R175, R176, R241, R341, R383, R397-R399, R406: The fabric instructions of a control core. A `tsw`, and a `cfgw` that
writes, waits for the next cycle boundary of the die of its target; there the write takes effect and the instruction
completes. A `tload` copies bundle by bundle; one whose source cannot be read now waits and goes on later, and one whose source
lies in host memory asks the host. A site on a fenced die is reached by none of them, which fault PAGE (the model's choice, log
entry 58), as it is the model's reading that `tinv` drops the translations at its issue (log entry 27). The order of the faults
of `tload` is log entry 15; that `gtw` waits for an election and leaves pool entries and words 5-7 as they are is log entry
43. -/
def Obligations.CoreFabric : Prop :=
  (∀ (s s1 : State) (k : CoreId) (sel v : W64) (f : Cause),
     let d := siteDie (selSite sel)
     let free := fun (x : State) => x.onCore k (fun c => { c with busy := .none })
     s.cores[k].busy = .tsw sel v →
       (s.fenced d = false → s.tileWrite sel v = .ok s1 → s1.cores[k].pc ≠ 0x3FFFC →
         s.applyWrite d k = s1.onCore k (fun c => { c with busy := .none, pc := c.pc + 4 })) ∧
       (s.fenced d = false → s.tileWrite sel v = .error f → s.applyWrite d k = (free s).ccException k f sel) ∧
       (s.fenced d = true → s.applyWrite d k = (free s).ccException k .page sel)) ∧
  (∀ (s : State) (k : CoreId) (x : BitVec 5) (t : Site) (n : Nat) (v : W32),
     s.cores[k].busy = .cfgw x t n v → s.cores[k].pc ≠ 0x3FFFC → s.fenced (siteDie t) = false →
       s.applyWrite (siteDie t) k = (s.onBox t (fun q => q.setReg n v)).onCore k (fun c =>
         { ({ c with busy := .none } : Core).wx x (((s.box t).reg n).setWidth 64) with pc := c.pc + 4 })) ∧
  (∀ (s s1 : State) (d a b : BitVec 5) (v : W64) (f : Cause) (va i m pa : Nat),
    let c := s.curCore
    let k := s.cur.core
    let x := c.rx a
    let y := c.rx b
    let t := selSite x
    let box := s.box t
    let next := fun (z : State) => z.onCurCore (fun c => { c with pc := c.pc + 4 })
    let gives := fun (w : W64) (z : State) => z.onCurCore (fun c => { c.wx d w with pc := c.pc + 4 })
    let faults := fun (j : Instr) (f : Cause) (w : W64) => exec j s = .next (s.ccException k f w)
    let n := (x.extractLsb' 4 12).toNat
    let j := (x.extractLsb' 0 3).toNat
    let first := (x.extractLsb' 16 12).toNat
    let count := (x.extractLsb' 32 13).toNat
    let lo := (x.toNat / 4096) * 4096
    let stopped := (s.ctx t (selLeaf x)).banks.toList.all (fun k => k.life != .running || k.faulted || k.frozen)
    let loads := count ≠ 0 ∧ first + count ≤ 4096 ∧ isCompute t = true ∧ stopped = true ∧ y.toNat % 16 = 0
    let free := s1.onCore k (fun c => { c with busy := .none })
    (s.reach k t = .lost →
      faults (.tsr d a) .page x ∧ faults (.tsw a b) .page x ∧ faults (.cfgw d a b) .page x ∧
      (loads → faults (.tload a b) .page x)) ∧
    (s.reach k t = .waits →
      exec (.tsr d a) s = .next s ∧ exec (.tsw a b) s = .next s ∧ exec (.cfgw d a b) s = .next s ∧
      (loads → exec (.tload a b) s = .next s)) ∧
    ((count = 0 ∨ 4096 < first + count) → faults (.tload a b) .srange x) ∧
    (count ≠ 0 → first + count ≤ 4096 → (isCompute t = false ∨ stopped = false) → faults (.tload a b) .perm x) ∧
    (count ≠ 0 → first + count ≤ 4096 → isCompute t = true → stopped = true → y.toNat % 16 ≠ 0 →
      faults (.tload a b) .align y) ∧
    ((y = 0 ∨ 2 ^ 42 < y.toNat) → faults (.tinv d a b) .srange y) ∧
    (c.pc ≠ 0x3FFFC →
      (s.reach k t = .open → s.tileRead x = .ok v → exec (.tsr d a) s = .next (gives v s)) ∧
      (s.reach k t = .open → s.tileRead x = .error f → faults (.tsr d a) f x) ∧
      (s.reach k t = .open → s.tileWrite x y = .ok s1 →
        exec (.tsw a b) s =
          .next (if isCompute t ∨ isMemory t then s.onCurCore (fun c => { c with busy := .tsw x y }) else next s)) ∧
      (s.reach k t = .open → s.tileWrite x y = .error f → faults (.tsw a b) f x) ∧
      (s.reach k t = .open → siteKind t ≠ .none → b ≠ 0 →
        exec (.cfgw d a b) s = .next (s.onCurCore (fun c =>
          { c with busy := .cfgw d t (selNum x) (y.extractLsb' 0 32) }))) ∧
      (s.reach k t = .open → siteKind t ≠ .none →
        exec (.cfgw d a 0) s = .next (gives ((box.reg (selNum x)).setWidth 64) s)) ∧
      (s.reach k t = .open → siteKind t = .none → exec (.cfgw d a b) s = .next (gives 0 s)) ∧
      (s.reach k t = .open → loads →
        (s.copyBundles t (selLeaf x) first y.toNat count = (s1, .done) → s1.curCore.pc ≠ 0x3FFFC →
          exec (.tload a b) s = .next (free.onCore k (fun c => { c with pc := c.pc + 4 }))) ∧
        (s.copyBundles t (selLeaf x) first y.toNat count = (s1, .fault f va) →
          exec (.tload a b) s = .next (free.ccException k f (BitVec.ofNat 64 va))) ∧
        (s.copyBundles t (selLeaf x) first y.toNat count = (s1, .waits i va m) →
          exec (.tload a b) s = .next (s1.onCore k (fun c => { c with busy := .tload t (selLeaf x) i va m }))) ∧
        (s.copyBundles t (selLeaf x) first y.toNat count = (s1, .host pa i va m) →
          exec (.tload a b) s = .next (s1.hostRead k (BitVec.ofNat 64 va) pa (.bundle k t (selLeaf x) i m)))) ∧
      (y ≠ 0 → y.toNat ≤ 2 ^ 42 →
        exec (.tinv d a b) s = .next ((s.tinvDrop k ((c.rx d).extractLsb' 0 16) lo (lo + 4096 * y.toNat)).onCurCore
          (fun c => { c with busy := .tinv }))) ∧
      (x.getLsbD 16 = false → exec (.frd d a) s = .next (gives (((s.entry n).word j).setWidth 64) s)) ∧
      (x.getLsbD 16 = true → exec (.frd d a) s = .next (gives ((s.poolWord (n % 1024) j).setWidth 64) s)) ∧
      (s.election = true → exec (.gtw a b) s = .next s) ∧
      (s.election = false → (x.getLsbD 16 = true ∨ 4 < j) → exec (.gtw a b) s = .next (next s)) ∧
      (s.election = false → x.getLsbD 16 = false → j ≤ 4 → (s.writeEntry n j (y.extractLsb' 0 32)).curCore.pc ≠ 0x3FFFC →
        exec (.gtw a b) s = .next (next (s.writeEntry n j (y.extractLsb' 0 32))))))

/-- R353, R358, R359, R368, R370, R399, R406: The commands of `frz` and `thw`. A swap or restore sets the SWSTAT bit of its
partition and waits for the dies, every one of them in this model (log entry 28); one that cannot be faults PERM, with EADDR 0
(log entry 15), and one whose image address lies on a fenced die PAGE. A site on a fenced die takes neither freeze nor thaw:
PAGE (log entry 58). A kill of an entry that is RUNNING kills its graph and ends its launch; one of any other entry changes nothing. -/
def Obligations.CoreCommands : Prop :=
  ∀ (s : State) (d a b : BitVec 5) (l : Launch) (g : Graph),
    let c := s.curCore
    let x := c.rx a
    let t := selSite x
    let p := x.extractLsb' 0 6
    let slot := if x.getLsbD 12 then poolSlot (x.extractLsb' 0 12).toNat else (x.extractLsb' 0 12).toNat
    let next := fun (z : State) => z.onCurCore (fun c => { c with pc := c.pc + 4 })
    let refused := fun (i : Instr) => exec i s = .next (s.onCurCore (fun c => c.exception .perm 0))
    let lost := fun (i : Instr) (w : W64) => exec i s = .next (s.onCurCore (fun c => c.exception .page w))
    let begins := fun (memory : Option Nat) (restore : Bool) (z : State) =>
      z = { s.onCurCore (fun c => { c with swstat := c.swstat ||| (1#64 <<< p.toNat), busy := .swap p }) with
              swaps := s.swaps ++ [{ part := p, core := s.cur.core, memory := memory, restore := restore }] }
    let addr := some (c.rx d).toNat
    let frozen := s.onMask x (fun y b => y.onBank t (selLeaf x) b (fun k => { k with frozen := true }))
    let thawed := s.onMask x (fun y b => y.thawBank t (selLeaf x) b)
    (s.reach s.cur.core t = .open →
      (frozen.curCore.pc ≠ 0x3FFFC → exec (.frzFreeze d a b) s = .next (next frozen)) ∧
      (thawed.curCore.pc ≠ 0x3FFFC → exec (.thwThaw d a b) s = .next (next thawed))) ∧
    (s.reach s.cur.core t = .waits → exec (.frzFreeze d a b) s = .next s ∧ exec (.thwThaw d a b) s = .next s) ∧
    (s.reach s.cur.core t = .lost → lost (.frzFreeze d a b) x ∧ lost (.thwThaw d a b) x) ∧
    (s.resident p = true →
      (∃ z, exec (.frzSwapOut d a b) s = .next z ∧ begins none false z) ∧
      (s.imageFenced p (c.rx d).toNat = false → ∃ z, exec (.frzSwapOutMemory d a b) s = .next z ∧ begins addr false z) ∧
      (s.imageFenced p (c.rx d).toNat = true → lost (.frzSwapOutMemory d a b) (c.rx d))) ∧
    (s.resident p = false → refused (.frzSwapOut d a b) ∧ refused (.frzSwapOutMemory d a b)) ∧
    (s.restoreBad p false = false → ∃ z, exec (.thwRestore d a b) s = .next z ∧ begins none true z) ∧
    (s.restoreBad p true = false → s.imageFenced p (c.rx d).toNat = false →
      ∃ z, exec (.thwRestoreMemory d a b) s = .next z ∧ begins addr true z) ∧
    (s.restoreBad p true = false → s.imageFenced p (c.rx d).toNat = true → lost (.thwRestoreMemory d a b) (c.rx d)) ∧
    (s.restoreBad p false = true → refused (.thwRestore d a b)) ∧
    (s.restoreBad p true = true → refused (.thwRestoreMemory d a b)) ∧
    (s.launches.find? (fun l => l.slot == slot) = none → c.pc ≠ 0x3FFFC → exec (.frzKill d a b) s = .next (next s)) ∧
    (s.launches.find? (fun l => l.slot == slot) = some l → s.graph l.graph = some g →
      let u := s.kill l g
      (u.curCore.pc ≠ 0x3FFFC → exec (.frzKill d a b) s = .next (next u)) ∧
      (∀ q ∈ u.launches, q.slot ≠ slot) ∧ (slot < 65536 → u.entry slot = (s.entry slot).setState 3) ∧
      (∀ q ∈ s.inPlace g.part g.tiles, ∀ b : BankId,
        let k := u.bank q.1 q.2 b
        k.life = .idle ∧ k.faulted = false ∧ k.frozen = false ∧ k.pending = [] ∧ k.umWait = none))

/-! ## Events of a compute tile -/

/-- R19, R62, R64, R78, R100, R165, R187, R302: A firing starts its idle bank at bundle 0, with its step count and
its registers kept; a class start takes its packet from the buffer, writes v15 and s30, and starts the bank at the
handler. A tile makes one start a cycle. Due writes land at a landing; after its last empty step a yielding bank
becomes idle and a halting one retired, with a poisoning leave for every section that it holds, once they fit in the port (log
63). -/
def Obligations.TileLife : Prop :=
  (∀ (s : State) (t : Site) (b : BankId) (pre post : List ClassPkt) (p : ClassPkt),
     let l := (s.tile t).running
     let c := s.ctx t l
     let i := c.inCh c.trig
     let starts := fun (u : State) (b : BankId) (entry : Nat) =>
       (u.bank t l b).life = .running ∧ (u.bank t l b).pc = entry ∧ (u.bank t l b).loops = [] ∧
         (u.bank t l b).step = (s.bank t l b).step ∧ (u.bank t l b).p = (s.bank t l b).p ∧
         (u.tile t).started = true ∧ u.canStartBank t = false ∧ u.mem = s.mem ∧ u.boxes = s.boxes
     s.canStartBank t = true →
       (s.classStart t = none → i.bound = true → 0 < i.f → (i.info (i.slot 0)).side.bank.toFin = b → s.bankIdle t b = true →
         ∃ u, exec (.actorFiring t) s = .next u ∧ starts u b 0 ∧ (u.bank t l b).s = (s.bank t l b).s ∧
           (u.bank t l b).v = (s.bank t l b).v ∧ (u.ctx t l).inp = c.inp) ∧
       (s.classPick t [] c.clsbuf = some (pre, p, post) → p.tok.side.bank.toFin = b →
         ∃ u, exec (.classHandlerStart t) s = .next u ∧
           starts u b ((c.handlers[p.cls.toNat]'(by have := p.cls.isLt; omega)).extractLsb' 0 12).toNat ∧
           (u.bank t l b).rv 15 = p.tok.payload ∧ (u.bank t l b).rs 30 = p.tok.side.round ++ p.tok.side.aux ∧
           (u.ctx t l).clsbuf = pre ++ post)) ∧
  (∀ (s : State) (t : Site) (b : BankId),
     let l := (s.tile t).running
     let s0 := s.onCtx t l (fun c => c.settle b)
     let k := s0.bank t l b
     let ends := fun (life : Life) (x : State) =>
       (x.onBank t l b (fun k =>
         { k with life := life, ending := none,
                  arrivedAt := if k.arrived.isNone && life == .retired then s.cycleAt t else k.arrivedAt })).onTile t (fun y =>
         { y with idled := y.idled ||| (1#4 <<< b.val) })
     exec (.pendingWriteLanding t b) s = .next s0 ∧
     (k.ending = some false → k.pending = [] → exec (.bankBecomesIdle t b) s = .next (ends .idle s0)) ∧
     (k.ending = some true → k.pending = [] → (s0.tile t).port.length + k.heldKeys.length ≤ 16 →
       exec (.bankBecomesIdle t b) s = .next (ends .retired (s0.leaveHeld t l b))))

/-- R243, R362, R364-R369: An asynchronous report stops its bank with its cause, or only sets MORE in FLTB of a
bank that is faulted already; a freeze sets FROZEN; a resume clears FAULTED and MORE and brings the pending writes
back. -/
def Obligations.BankStops : Prop :=
  ∀ (s : State) (n : Nat) (r : Report) (t : Site) (l : Leaf) (b : BankId),
    let k := s.bank r.tile r.leaf r.bank
    let old := s.bank t l b
    (s.reports[n]? = some r → s.away r.tile r.leaf = false → r.refused = false →
      ∃ u, exec (.asyncReportArrival n) s = .next u ∧ u.reports = s.reports.eraseIdx n ∧
        u.acks = s.acks.filter (fun a => a != r.id) ∧
        (k.faulted = false →
          (u.bank r.tile r.leaf r.bank).faulted = true ∧ (u.bank r.tile r.leaf r.bank).fltc = r.code ∧
          (u.bank r.tile r.leaf r.bank).flta = r.flta ∧ (u.bank r.tile r.leaf r.bank).fltx = r.fltx ∧
          (u.bank r.tile r.leaf r.bank).fltb =
            1#1 ++ 0#15 ++ BitVec.ofNat 1 r.leaf.val ++ 0#1 ++ r.slot ++ BitVec.ofNat 12 r.bundle) ∧
        (k.faulted = true → u.bank r.tile r.leaf r.bank = { k with fltb := k.fltb ||| 0x40000000 })) ∧
    exec (.freezeReachesBank t l b) s = .next (s.onBank t l b (fun k => { k with frozen := true })) ∧
    (old.faulted = false → exec (.bstatResumeWrite t l b) s = .next s) ∧
    (old.faulted = true → old.pendRaw = none → old.pending.any PWrite.isGrant = old.umWait.isSome →
      ∃ u, exec (.bstatResumeWrite t l b) s = .next u ∧
        u.bank t l b = { old with faulted := false, fltb := old.fltb &&& 0xBFFFFFFF, checked := false })

/-- R192, R195, R197, R200, R201, R214: The entry at the head of the queue starts and leaves the queue; a run that is over
leaves the sequencer, a latch load with its buffer current. An `mlatc` takes the token at the head of its channel as its next
scale head or line, or ends with the fault of its check; an `mdrain` publishes its next token while its channel has a free
slot, and a steering form takes its drain entry from a head token first. A token in a damaged scratch line ends either with ECC,
before its other checks (R375; log 52). A report sets out when the run ends (log 41). A `cact` that read all its lines leaves its half
valid. -/
def Obligations.SequencerRuns : Prop :=
  ∀ (s : State) (t : Site) (n : Nat) (e : MsEntry) (rest : List MsEntry) (ty u : BitVec 4) (d : Fin 2) (lt sh : Bool)
    (ch m : Fin 8) (r : CactRun) (s1 : State),
    let x := s.tile t
    let now := s.cycleAt t
    (x.msq = e :: rest → x.canStart e now = true → s.endDue t = none → x.issued = false → s.fenced (siteDie t) = false →
      exec (.msEntryStart t) s = .next ((s.onTile t (fun x => x.startHead now)).msCycle t) ∧
        (x.startHead now).msq = rest) ∧
    (s.entryNo t n = some e → e.over now = true →
      exec (.msEntryEnd t n) s = .next (s.onTile t (fun x => x.endEntry e)) ∧
        (x.endEntry e).msrun = x.msrun.filter (fun q => q.id != e.id) ∧
        (∀ ty, e.op.load = some (false, ty) → (x.endEntry e).cura = !x.cura ∧
          (x.endEntry e).latches[latchIx false (x.endEntry e).cura] = e.fill) ∧
        (∀ ty, e.op.load = some (true, ty) → (x.endEntry e).curb = !x.curb ∧
          (x.endEntry e).latches[latchIx true (x.endEntry e).curb] = e.fill)) ∧
    (s.entryNo t n = some e → e.op = .mlatc lt ty ch → e.due ≤ now → e.over now = false →
      0 < (s.ctx t e.leaf).inp[ch].f →
        let i := (s.ctx t e.leaf).inp[ch]
        let side := (i.info (i.slot 0)).side
        let payload := x.scratch.readVec (i.slotAddr (i.slot 0))
        let scaled := if e.done = 0 then side.scaled else e.scaled
        let heads := if scaled then latchHeads ty else 0
        let fault := if s.ecc.contains (.scratch t (i.slotAddr (i.slot 0)))
          then some (faultOf .ecc (BitVec.ofNat 32 (ch.val * 256 + i.slot 0)))
          else mlatcFault (s.ctx t e.leaf) ch ty scaled e.done payload
        ∃ z, exec (.mlatcTokenTake t n) s = .next z ∧
          (fault = none →
            (z.ctx t e.leaf).inp[ch].f = i.f - 1 ∧ (z.ctx t e.leaf).inp[ch].h = (i.h + 1) % i.depth ∧
            ∃ e', z.entryNo t n = some e' ∧ e'.done = e.done + 1 ∧ e'.due = now + 1 ∧ e'.scaled = scaled ∧ e'.fill.t = ty ∧
              (heads ≤ e.done → e'.fill.scales = e.fill.scales ∧
                e'.fill.lines = setF e.fill.lines 512 (e.done - heads) (if side.null then 0 else payload))) ∧
          (∀ f, fault = some f → (z.tile t).msrun = x.msrun.filter (fun q => q.id != n) ∧
            z.reports = s.reports ++ [{ tile := t, leaf := e.leaf, bank := e.bank, slot := 2, bundle := e.bundle,
                                        code := f.code, flta := f.flta, part := (s.ctx t e.leaf).part,
                                        due := now + Config.accessCycles 5 }])) ∧
    (s.entryNo t n = some e → e.due ≤ now → e.over now = false →
      let o := (s.ctx t e.leaf).outp[m]
      let publishes := fun (z : State) =>
        o.bound = true → o.closed = false → 0 < o.e →
          (z.ctx t e.leaf).outp[m].e = o.e - 1 ∧ (z.ctx t e.leaf).outp[m].w = (o.w + 1) % o.depth ∧
          z.entryNo t n = some { e with done := e.done + 1, due := now + 1 } ∧
          ∃ (item : OutItem) (tok : Token),
            (z.ctx t e.leaf).outp[m].outq = o.outq ++ [item] ∧ item.item.body = .publish o.w tok false ∧
            item.waits = e.waits ∧ item.due = now + 1 ∧ tok.payload = drainPayload (s.bank t e.leaf e.bank).ak[d] u sh
              (s.bank t e.leaf e.bank).acc[d] e.done ∧
            tok.side.fmt = u ∧ tok.side.kind = 0 ∧ tok.side.null = false ∧ tok.side.pred = true ∧ tok.side.scaled = sh ∧
            tok.side.round = o.rc ∧ tok.side.head = decide (e.done = 0) ∧
            tok.side.tail = decide (e.done + 1 = drainTokens u sh) ∧
            tok.side.aux = (if sh = true ∧ e.done < 2 then 0x800000 else 0)
      (e.op = .mdrain d u sh (some m) ch → s.regBad t e.leaf (0x18 + ch.val) = false →
        ∃ z, exec (.mdrainTokenPublish t n) s = .next z ∧ publishes z ∧ (o.bound = true → o.closed = false → o.e = 0 → z = s)) ∧
      (e.op = .mdrain d u sh none ch → e.out = some m →
        ∃ z, exec (.mdrainTokenPublish t n) s = .next z ∧ publishes z ∧ (o.bound = true → o.closed = false → o.e = 0 → z = s)) ∧
      (e.op = .mdrain d u sh none ch → e.out = none → (s.ctx t e.leaf).inp[ch].f = 0 →
        exec (.mdrainTokenPublish t n) s = .next s) ∧
      (e.op = .mdrain d u sh none ch → e.out = none → 0 < (s.ctx t e.leaf).inp[ch].f →
        let i := (s.ctx t e.leaf).inp[ch]
        s.ecc.contains (.scratch t (i.slotAddr (i.slot 0))) = true →
          exec (.mdrainTokenPublish t n) s =
            .next (s.runFault t e (faultOf .ecc (BitVec.ofNat 32 (ch.val * 256 + i.slot 0))))) ∧
      (e.op = .mdrain d u sh none ch → e.out = none → s.drainSteer t e ch = some (s1, m) →
        s.ecc.contains (.scratch t ((s.ctx t e.leaf).inp[ch].slotAddr ((s.ctx t e.leaf).inp[ch].slot 0))) = false →
        s.regBad t e.leaf (0x18 + m.val) = false →
        (((s1.ctx t e.leaf).drain[m]).getLsbD 3 = true →
          exec (.mdrainTokenPublish t n) s =
            .next (s1.onTile t (fun x => x.putEntry { e with out := some (((s1.ctx t e.leaf).drain[m]).extractLsb' 0 3).toFin }))) ∧
        (((s1.ctx t e.leaf).drain[m]).getLsbD 3 = false →
          exec (.mdrainTokenPublish t n) s =
            .next (s1.runFault t e (faultOf .chproto (BitVec.ofNat 32 (0x806 + 16 * m.val))))))) ∧
    (x.cact = some r → r.err = none → cactCycles r.t r.sc ≤ r.done → r.start + r.done ≤ now →
      exec (.cactRunEnd t) s = .next (s.onTile t (fun x =>
        { x with cact := none, halves := x.halves.set r.half { r.fill with
            t := r.t, valid := true, scales := if r.sc then r.fill.scales else ofFields 640 20 (fun _ => 0x7F000) 32 } })))

/-! ## Events of the fabric -/

/-- R154, R166, R177, R178, R246: A token that has arrived leaves its port and joins its channel, or its edge buffer: on a
route that does not split, a token of the channel's format fills the next slot as it is, with the payload of its poke where one
went ahead. A poke only lands its payload; slots go back to their producer, over bridges in an open time (log 54). Which slot a
token fills, the slot its poke's payload is copied from, and that the sender becomes the producer are log 21. -/
def Obligations.TokenArrivals : Prop :=
  ∀ (s : State) (t : Site) (l : Leaf) (ch : Fin 8) (f : Flight) (rest : List Flight) (slot n : Nat) (tok : Token)
    (poked : Bool) (fmt : BitVec 4) (v : Vec) (rel : Release) (lb : Leaf) (cb : Fin 8) (leg : DieId × Nat)
    (legs : List (DieId × Nat)),
    let c := (s.ctx t l).inp[ch]
    let popped := s.onCtx t l (fun x => { x with inp := x.inp.set ch { x.inp[ch] with port := rest } })
    let b := s.ebuf t l ch
    (isMemory t = false → c.port = f :: rest → f.due ≤ s.cycleAt t → s.regBad t l ch.val = false →
      (f.item.body = .publish slot tok poked →
        exec (.tokenArrival t l ch) s = .next (popped.publishArrival t l ch f.item slot tok poked)) ∧
      (f.item.body = .poke slot fmt v → exec (.tokenArrival t l ch) s = .next (popped.landPoke t l ch f.item slot fmt v)) ∧
      ((s.tile t).scratch.wf = true → f.item.ratio = 1 →
        let here := c.slot c.f
        (f.item.body = .publish slot tok poked → tok.side.kind = 0 → tok.side.null = false →
          (tok.side.fmt = c.fmt ∨ c.fmt = 0) → (tok.side.scaled && tok.side.aux.getLsbD 23) = false →
          ∃ u, exec (.tokenArrival t l ch) s = .next u ∧
            let i := (u.ctx t l).inp[ch]
            i.f = c.f + 1 ∧ i.h = c.h ∧ i.port = rest ∧ i.prod = f.item.src ∧ i.back = f.item.path ∧
            (i.info here).side = tok.side ∧ (i.info here).mark = none ∧ (∀ j, j ≠ here → i.info j = c.info j) ∧
            (poked = false → (u.tile t).scratch.readVec (c.slotAddr here) = tok.payload) ∧
            (poked = true →
              (u.tile t).scratch.readVec (c.slotAddr here) = (s.tile t).scratch.readVec (c.slotAddr (slot % c.depth)))) ∧
        (f.item.body = .poke slot fmt v → (fmt = c.fmt ∨ c.fmt = 0) →
          ∃ u, exec (.tokenArrival t l ch) s = .next u ∧
            (u.ctx t l).inp[ch] = { c with port := rest } ∧
            (u.tile t).scratch.readVec (c.slotAddr (slot % c.depth)) = v)) ∧
      (f.item.body = .faultDrain →
        exec (.faultDrainArrival t l ch) s = .next (popped.advanceIn t l (BitVec.ofFin ch) c.f)) ∧
      (f.item.body = .preempt → c.openBack = false →
        exec (.preEmptMarkerArrival t l ch) s =
          .next (popped.onCtx t l (fun x => { x with inp := x.inp.set ch { x.inp[ch] with marker := true } })))) ∧
    (isMemory t = true → b.port = f :: rest → f.due ≤ s.cycleAt t → s.regBad t l (0x10 + ch.val) = false →
      let out := (s.onEbuf t l ch (fun b => { b with port := rest })).ebufArrival t l ch f.item
      (f.item.body = .publish slot tok poked → (b.uses slot = false ∨ b.freed = true) →
        exec (.tokenArrival t l ch) s = .next out) ∧
      (f.item.body = .poke slot fmt v → (b.uses slot = false ∨ b.freed = true) →
        exec (.tokenArrival t l ch) s = .next out) ∧
      (f.item.body = .faultDrain → exec (.faultDrainArrival t l ch) s = .next out) ∧
      (f.item.body = .preempt → exec (.preEmptMarkerArrival t l ch) s = .next out)) ∧
    (s.releases[n]? = some rel → rel.dest = .tile t lb cb → rel.legs = [] → rel.due.getD 0 ≤ s.cycleAt t →
      ∃ u, exec (.slotReleaseArrival n) s = .next u ∧ u.releases = s.releases.eraseIdx n ∧
        (u.ctx t lb).outp[cb] = { (s.ctx t lb).outp[cb] with e := (s.ctx t lb).outp[cb].e + rel.n }) ∧
    (s.releases[n]? = some rel → rel.legs = leg :: legs → rel.due.getD 0 ≤ s.dies[rel.die].cycle.toNat →
      s.fenced rel.die = false → s.fenced leg.1 = false →
      let rel' : Release := { rel with due := some (s.dies[leg.1].cycle.toNat + leg.2), die := leg.1, legs := legs }
      exec (.slotReleaseArrival n) s = .next { s with releases := s.releases.set n rel' })

/-- R173, R177-R182, R186: Hops. An item whose box gives its source an outlet moves onto the track, is delivered,
or is dropped at the guard; a bridge carries the item at its head across; class packets move by the entry of their
class. The model's own choices are the leaf of a delivery (log entry 20), the class track that a class packet takes over a bridge
(log entry 53), and the open time of the bridges on the way back of its slots (log entry 54). -/
def Obligations.FabricHops : Prop :=
  ∀ (s s1 : State) (t f : Site) (src w : Fin 64) (ph : Fin 2) (i : Item) (shared : Option Nat) (fl : Flight)
    (rest : List Flight) (fr : Fin 5) (p : ClassPkt) (e : Fin 5) (l : Leaf) (ps : List ClassPkt),
    let b := s.box t
    let op := if w.val < 56 then shared.getD 0 else shared.getD ph.val
    (s.fenced (siteDie t) = false → s.sourceHead t src.val ph.val = some (i, s1) →
      b.outlet t src.val ph.val = some (w, shared) → s.boxHolds t (w.val :: boxWide) i.part = none →
      (b.drops w.val op = true → exec (.tokenHop t src ph) s =
        .next (s1.guardDrop t false (BitVec.ofNat 6 w.val) op i.body.side i.part)) ∧
      (b.drops w.val op = false → w.val < 56 → s.trackRoom t w.val shared = true → s.trackTurn t w.val shared = true →
        exec (.tokenHop t src ph) s = .next (s1.putTrack t w.val op i)) ∧
      (b.drops w.val op = false → 56 ≤ w.val → (isCompute t = true ∨ isMemory t = true) → s.outletFree t w.val shared = true →
        exec (.tokenHop t src ph) s =
          .next ((s1.deliver t (Fin.ofNat 8 (w.val - 56)) (Fin.ofNat 2 op) i).onBox t (fun b =>
            { b with used := b.used.set (2 * w.val + shared.getD 0) (s.cycleAt t + 1) })))) ∧
    (trackEnd t w.val = .bridge f → s.fenced (siteDie t) = false → s.fenced (siteDie f) = false →
      b.buf.get (2 * w.val) [] = fl :: rest →
      ∃ u, exec (.bridgeCrossing t w) s = .next u ∧
        (t ≠ f → (u.box t).buf.get (2 * w.val) [] = rest) ∧
        (u.box f).bridge.get (14 * opposite (w.val / 14) + w.val % 14) [] =
          (s.box f).bridge.get (14 * opposite (w.val / 14) + w.val % 14) [] ++ [⟨fl.item.crossed (siteDie t), 0⟩]) ∧
    (s.fenced (siteDie t) = false → s.classHead t fr.val ph.val = some (p, s1) → p.tok.side.kind ≠ 3 →
      s.boxHolds t ((0x40 + 16 * ph.val + p.cls.toNat) :: boxWide) p.part = none → b.exit (Fin.ofNat 2 ph.val) p.cls = some e →
      (e.val < 4 → b.gcfg.getLsbD (2 * e.val + if b.twoContexts then ph.val else 0) = false →
        (classNeighbour t e.val).isSome = true →
        s.classRoom t e.val ph.val = true →
        exec (.classPacketHop t fr ph) s =
          .next (s1.onBox t (fun b => b.pushClass e.val ph.val { p with due := s.cycleAt t + 1 }))) ∧
      (e.val = 4 → b.gcfg.getLsbD (8 + ph.val) = false → isCompute t = true →
        (s.ctx t (Fin.ofNat 2 ph.val)).clsbuf.length + (b.clsbuf.get (8 + ph.val) []).length < 16 →
        exec (.classPacketHop t fr ph) s =
          .next (s1.onBox t (fun b => b.pushClass 4 ph.val { p with due := s.cycleAt t + 1 })))) ∧
    (b.clsbuf.get (8 + l.val) [] = p :: ps → p.due ≤ s.cycleAt t → (s.ctx t l).clsbuf.length < 16 →
      (s.ctx t l).saved = false → p.tok.side.kind ≠ 3 →
      ∃ u, exec (.classPacketArrival t l) s = .next u ∧ (u.ctx t l).clsbuf = (s.ctx t l).clsbuf ++ [p] ∧
        (u.box t).clsbuf.get (8 + l.val) [] = ps)

/-! ## Events of the memory system -/

/-- R228, R229, R238, R377-R386: A tile's oldest request reaches the port queue of its home memory tile; the request at
the head of that queue sets out for its target when its translation is cached, and its walk, if it has one, ends; otherwise it
starts a walk, which reads one table at a time through the home slice (log 25) and fills the cache with its leaf; a held request goes by the translation that it has kept, or, after
a `tinv`, by a new one. The time of an access in open cycles is a free value (log entry 41). -/
def Obligations.RequestDispatch : Prop :=
  ∀ (s u y : State) (t mt : Site) (q : Req) (r : List Req) (n b : Nat) (w : Walk) (e : TlbEntry) (pte : W64) (pbase size : Nat)
    (ea : W64) (f : XFault) (off : W32) (x : Nat) (en : BitVec 12) (rg : W32 × W32) (dp : BitVec 4) (prio : BitVec 2)
    (ps : Nat) (nt : Bool) (v : Vec),
    let m := s.mt mt
    let queue := m.queues.get t.toNat []
    let endWalk := fun (m : MemTile) => { m with walks := m.walks.filter (fun w => w.req.id != q.id) }
    let s1 := s.onMt mt (fun m => { endWalk m with queues := m.queues.set t.toNat r })
    let lf := m.lf[q.src.leaf]
    let dropped := u.onMt mt (fun m => { m with walks := m.walks.eraseIdx n })
    let l := w.req.src.leaf
    let va := (w.req.body.va.getD 0).toNat
    let home := homeMemTile t
    ((s.tile t).port = q :: r → ((s.mt home).queues.get t.toNat []).length < 32 → s.settled q.waits q.dies = true →
      s.fenced (siteDie t) = false → (s.tile t).sent = false →
      let q1 := { q with due := s.cycleAt t + Config.accessCycles 0 }
      exec (.memoryPortSend t) s = .next ((s.onTile t (fun x => { x with port := r, sent := true })).onMt home (fun m =>
        { m with queues := m.queues.set t.toNat ((s.mt home).queues.get t.toNat [] ++ [q1]) }))) ∧
    (queue = q :: r → (m.rob.get t.toNat []).length < 64 → s.fenced (siteDie mt) = false →
      (∀ n ∈ s.routingRegs mt q, s.regBad mt q.src.leaf n = false) →
      (s.needsWalk mt q = true → exec (.portQueueDispatch mt t) s = .next (s.startWalk mt q)) ∧
      (s.needsWalk mt q = false → s1.route mt q = some u → exec (.portQueueDispatch mt t) s = .next u) ∧
      (q.body = .lnch en rg dp prio ps nt → exec (.portQueueDispatch mt t) s = .next (s1.fly q .master)) ∧
      (q.body = .wread off x →
        let q1 := { q with pa := some (weightPa (siteDie mt) x) }
        exec (.portQueueDispatch mt t) s = .next ((s1.takeRob q1).fly q1 (.weight (siteDie mt)))) ∧
      (q.body = .read ea → lf.ownrOf ea.toNat = none → s.moduleOf mt q = none → ea.toNat < 2 ^ 54 →
        trEn (s.trcfg mt q.src.leaf) = true → s.tlbHit mt q.src.leaf ea.toNat = some e → e.pte.getLsbD 6 = false →
        let q1 := { q with pa := some (e.pa ea.toNat), xlat := none }
        let tgt := targetOf (siteDie mt) false (e.pa ea.toNat)
        s1.accessCheck q.src.part (siteDie mt) .read e.pte (e.pa ea.toNat) 64 = none → (s1.mt mt).holdsLine q1 = false →
        s1.targetBusy mt q tgt (e.pa ea.toNat) = false →
        exec (.portQueueDispatch mt t) s = .next (((s1.takeRob q1).unhold mt q).fly q1 tgt))) ∧
    (m.walks[n]? = some w →
      ((s.walkVia (siteDie mt) w.base va w.level).1 = .wait ∨
        (s.walkVia (siteDie mt) w.base va w.level).1 = s.walkStep (siteDie mt) w.base va w.level) ∧
      (s.walkVia (siteDie mt) w.base va w.level).2.mem = s.mem ∧
      (s.walkVia (siteDie mt) w.base va w.level = (.wait, u) → exec (.pageWalk mt n) s = .next s) ∧
      (s.walkVia (siteDie mt) w.base va w.level = (.table b, u) →
        exec (.pageWalk mt n) s = .next (u.onMt mt (fun m =>
          { m with walks := m.walks.set n { w with level := w.level - 1, base := b } }))) ∧
      (s.walkVia (siteDie mt) w.base va w.level = (.leaf pte pbase size, u) → w.stale (va / size * size) size = false →
        exec (.pageWalk mt n) s = .next (dropped.onMt mt (fun m =>
          m.fillTlb ⟨trAsid (s.trcfg mt l), va / size * size, size, pte, pbase⟩))) ∧
      (s.walkVia (siteDie mt) w.base va w.level = (.leaf pte pbase size, u) → w.stale (va / size * size) size = true →
        exec (.pageWalk mt n) s = .next dropped) ∧
      (s.walkVia (siteDie mt) w.base va w.level = (.fault f, u) → w.stale va 1 = false →
        exec (.pageWalk mt n) s =
          .next (((dropped.onMt mt (fun m => m.dropReq w.req)).takeRob w.req).failReq w.req f.cause))) ∧
    (m.hold.find? (s.heldMoves mt) = some q →
      (q.xlat = none → s.tlbHit mt q.src.leaf (q.body.va.getD 0).toNat = none →
        exec (.heldWriteRetranslate mt) s = .next (s.startWalk mt q)) ∧
      ((q.xlat = some e ∧ y = s ∨
          q.xlat = none ∧ s.tlbHit mt q.src.leaf (q.body.va.getD 0).toNat = some e ∧ y = s.onMt mt endWalk) →
        (y.routeTranslated mt q e).settle mt = some u → exec (.heldWriteRetranslate mt) s = .next u) ∧
      ((q.xlat = some e ∧ y = s ∨ q.xlat = none ∧ s.tlbHit mt q.src.leaf ea.toNat = some e ∧ y = s.onMt mt endWalk) →
        q.body = .write ea v → e.pte.getLsbD 6 = false →
        let q1 := { q with pa := some (e.pa ea.toNat), xlat := none }
        let tgt := targetOf (siteDie mt) false (e.pa ea.toNat)
        s.accessCheck q.src.part (siteDie mt) .write e.pte (e.pa ea.toNat) 64 = none →
          (e.pte.getLsbD 7 = true → exec (.heldWriteRetranslate mt) s = .next ((y.takeRob q1).onMt mt (fun m =>
            { m with hold := m.hold.map (fun h => if h.id = q.id then { q1 with xlat := some e } else h) }))) ∧
          (e.pte.getLsbD 7 = false → m.holdsLine q1 = false → s.targetBusy mt q tgt (e.pa ea.toNat) = false → tgt ≠ .host →
            exec (.heldWriteRetranslate mt) s = .next (((y.takeRob q1).unhold mt q).fly q1 tgt))))

/-- R229, R230, R235-R241, R318, R375: A read that reaches memory-tile SRAM, the weight store, an L2 sector that is held, or
host memory is answered with the 64 bytes, or fails where they hold an uncorrectable error; a write at SRAM, at a held sector,
or of a control core's copy run at the weight store changes them and is acknowledged. A write lands in two parts of whole words,
and a free value says which words go first, which is the model's choice (log entry 55); after both, its line holds the 64 bytes,
and no other byte has changed. -/
def Obligations.TargetAccesses : Prop :=
  (∀ (s : State) (n : Nat) (f : Flying) (mt : Site) (d : DieId) (ea : W64) (v : Vec) (evict : Option Nat),
     let q := f.req
     let pa := q.pa.getD 0
     let gone := s.land q.id
     let read := gone.answer q (s.mem.readVec pa)
     let m := q.firstWords
     let part := fun (x : State) (words : BitVec 16) => x.putLine pa v words f.via q.id q.writer
     let wrote := fun (i : Instr) (x : State) => q.body = .write ea v →
       (f.half = false → exec i s = .next ((part x m).onFlying q.id (fun y => { y with half := true }))) ∧
       (f.half = true → exec i s = .next (((part x (~~~m)).land q.id).written q))
     let reads := fun (i : Instr) =>
       (q.body = .read ea → s.lineBad pa = false → exec i s = .next read) ∧
       (q.body = .read ea → s.lineBad pa = true → exec i s = .next (gone.failReq q .ecc))
     let failed := { gone with host := { s.host with readErrors := s.host.readErrors + 1 } }
     s.inFlight n = some f → s.firstOfLine q = true →
       (q.why = .op → q.body = .read ea → read = (gone.respond q (responseToken q.src.bank (s.mem.readVec pa))).performed q.id) ∧
       (q.why = .op → ∀ x : State, x.written q =
         { x with acking := x.acking ++ [⟨q.id, q.src.tile, x.cycleAt q.src.tile + Config.accessCycles 3⟩] }) ∧
       (f.target = .sram mt → s.fenced (siteDie mt) = false → s.pathOpen (siteDie q.src.tile) (siteDie mt) = true →
         reads (.sramBankAccess n) ∧ wrote (.sramBankAccess n) s) ∧
       (f.target = .weight d → s.fenced d = false → s.pathOpen (siteDie q.src.tile) d = true →
         (∀ e x, placeOf pa = .weight e x → x / 64 % 64 ≠ s.dies[e].cycle.toNat / 300 % 64) →
         reads (.weightStoreRead n) ∧ (q.kind = .coreWrite → wrote (.weightStoreRead n) s)) ∧
       (f.target = .host → reads (.hostReadCompletion n .success) ∧
         exec (.hostReadCompletion n .unsupportedOrAbort) s = .next (failed.failReq q .page) ∧
         exec (.hostReadCompletion n .poisoned) s = .next (failed.failReq q .ecc) ∧
         exec (.hostCompletionTimeout n) s = .next (failed.failReq q .ecc)) ∧
       (f.target = .slice mt → f.fill = false → s.fenced (siteDie mt) = false → (s.slice mt).held.contains (sectorOf pa) = true →
         (q.body = .read ea → f.half = false → s.filters.any (fun e => e.1 == mt && e.2 == sectorOf pa) = false →
           f.via = none →
           (s.lineBad pa = false → exec (.l2Request n evict) s = .next read) ∧
           (s.lineBad pa = true → exec (.l2Request n evict) s = .next (gone.failReq q .ecc))) ∧
         wrote (.l2Request n evict) (s.onSlice mt (fun x =>
           { x with dirty := if x.dirty.contains (sectorOf pa) then x.dirty else x.dirty ++ [sectorOf pa] })))) ∧
  (∀ (s : State) (pa id : Nat) (v : Vec) (m : BitVec 16) (via : Option Nat) (part : Option (BitVec 6)) (i a : Nat),
     let one := s.putLine pa v m via id part
     let both := one.putLine pa v (~~~m) via id part
     s.mem.wf = true →
       (i < 16 → getF (one.mem.readVec pa) 32 i = if m.getLsbD i then getF v 32 i else getF (s.mem.readVec pa) 32 i) ∧
       both.mem.readVec pa = v ∧ ((a < pa ∨ pa + 64 ≤ a) → both.mem.read a = s.mem.read a))

/-- R236-R241: A miss whose line has a way takes one of 64 miss registers (the set of a line is the model's free value,
log 56), and its fill makes the sector held; a gateway cache answers a read that hits and sends everything else on;
invalidations, where the way from the home slice is open, drop the copies of the whole 512-byte line, its last sector
included (the model's choice, log entry 24), and only then is the gateway's presence bit cleared (log 55); a filter entry clears; a refresh leaves everything as it is. -/
def Obligations.CacheEvents : Prop :=
  ∀ (s : State) (n : Nat) (f : Flying) (t : Site) (g : Nat) (ea : W64) (v : BitVec 1024) (inv : Inval) (d : DieId),
    let pa := f.req.pa.getD 0
    let sec := sectorOf pa
    let x := s.slice t
    (s.inFlight n = some f → f.target = .slice t → s.firstOfLine f.req = true → f.fill = false →
      s.fenced (siteDie t) = false → f.half = false → x.held.contains sec = false →
      s.filters.any (fun e => e.1 == t && e.2 == sec) = false →
      x.miss.contains sec = false → x.miss.length < 64 → x.room sec = true →
      exec (.l2Request n none) s = .next ((s.onSlice t (fun y => { y with miss := y.miss ++ [sec] })).onFlying n (fun y =>
        { y with fill := true }))) ∧
    (s.inFlight n = some f → f.target = .slice t → f.fill = true → x.miss.contains sec = true →
      ∃ u, exec (.l2FillArrival n) s = .next u ∧ (u.slice t).held = x.held ++ [sec] ∧
        (u.slice t).miss = x.miss.filter (fun a => a != sec) ∧ u.mem = s.mem ∧
        u.flight = s.flight.map (fun y =>
          if y.target == .slice t && sectorOf (y.req.pa.getD 0) == sec then { y with fill := false } else y)) ∧
    (s.inFlight n = some f → f.target = .gateway g → s.firstOfLine f.req = true → s.targetFenced f.target = false →
      s.targetFenced (.slice (sliceSite pa)) = false → s.ecc.contains (.gateway g (pa / 64 * 64)) = false →
      f.req.body = .read ea →
      (s.copyAt g sec = some v →
        exec (.gatewayRequest n) s = .next ((s.land n).answer f.req (v.extractLsb' (8 * (pa % 128)) 512))) ∧
      (s.copyAt g sec = none → s.pathOpen (siteDie f.req.src.tile) (Fin.ofNat 4 (homeDie pa)) = true →
        s.targetBusy (homeMemTile f.req.src.tile) f.req (.slice (sliceSite pa)) pa = false →
        exec (.gatewayRequest n) s = .next (s.onFlying n (fun y =>
          { y with target := .slice (sliceSite pa), via := some g })))) ∧
    (s.invals[n]? = some inv →
      s.pathOpen (Fin.ofNat 4 (homeDie inv.sector)) (Fin.ofNat 4 (gatewayDie inv.gateway)) = true →
      ∃ u, exec (.gatewayInvalidation n) s = .next u ∧ u.invals = s.invals.eraseIdx n ∧
      u.mem = s.mem ∧ u.copyAt inv.gateway inv.sector = none ∧ u.copyAt inv.gateway (inv.sector + 384) = none ∧
      inv.gateway ∉ (u.slice (sliceSite inv.sector)).present.get inv.sector []) ∧
    exec (.gddr7WriteAccept n) s = .next { s with filters := s.filters.eraseIdx n } ∧
    exec (.weightStoreRefresh d) s = .next s

/-- R229, R232, R256, R282, R371, R374, R383, R385: Deliveries. A response at the head of its stream fills its
slot, a ready or notify token its reserved one; an acknowledged write is done, and the answer to another module goes out once no
gateway copy of what its request wrote is left (the model's reading, log 55); an increment counts up to 0xFFFF; the record at the
head of a notice buffer is written where NQTAIL points, when its line can be reached and its slice takes the write (logs 25, 58
and 64); a `tinv` whose conditions hold completes. -/
def Obligations.Deliveries : Prop :=
  ∀ (s : State) (mt : Site) (n key : Nat) (a : Ack) (e : RobEntry) (tok : Token) (ch : Fin 8) (r : Ready) (i : Increment)
    (d : DieId) (p : BitVec 6) (rec : Notice) (rest : List Notice) (k : CoreId) (t : Tinv) (reply : Reply) (s1 : State),
    let taken := s.onMt mt (fun m => { m with rob := m.rob.set key ((m.rob.get key []).filter (fun x => x.id != n)) })
    let old : W16 := BitVec.ofNat 16 (s.mem.readNat i.addr 2)
    let q := s.noticeQ d p
    let size := 2 ^ q.nqsize.toNat
    ((s.mt mt).rob.findSome? (fun p => (robReady p.2 n).map (fun r => (p.1, r))) = some (key, e, tok) → e.src.chan = some ch →
      exec (.responseDelivery mt n) s =
        .next (taken.fillResponse e.src.tile e.src.leaf ch tok (fun c => { c with q := c.q - 1 }))) ∧
    (s.acking[n]? = some a → s.replies.find? (fun r => r.req.id == a.id) = none →
      exec (.writeAcknowledgement n) s =
        .next { s with acking := s.acking.eraseIdx n, acks := s.acks.filter (fun x => x != a.id) }) ∧
    (s.acking[n]? = some a → s.replies.find? (fun r => r.req.id == a.id) = some reply →
      (s.invals.any (fun v => v.id == a.id) = true → exec (.writeAcknowledgement n) s = .next s) ∧
      (s.invals.any (fun v => v.id == a.id) = false →
        ∃ u, exec (.writeAcknowledgement n) s = .next u ∧ u.acking = s.acking.eraseIdx n ∧
          u.replies = s.replies.filter (fun x => x.req.id != a.id) ∧
          ∃ msg, u.links[reply.port].out = s.links[reply.port].out ++ [msg] ∧ msg.dest = reply.msg.module ∧
            msg.body = .response reply.msg.unit reply.msg.serial reply.data 0)) ∧
    (s.ready[n]? = some r → r.held = false → s.away r.tile r.leaf = false → s.recordsNow r.tile r.leaf = false →
      let u := (({ s with ready := s.ready.eraseIdx n } : State).fillResponse r.tile r.leaf r.ch r.tok
        (fun c => { c with rn := c.rn - 1 })).withdrawReport (s.ctx r.tile r.leaf).graph (siteDie r.tile)
      exec (.readyTokenDelivery n) s = .next u ∧ exec (.notifyTokenDelivery n) s = .next u ∧
        (u.ctx r.tile r.leaf).inp[r.ch].f = (s.ctx r.tile r.leaf).inp[r.ch].f + 1 ∧
        (u.ctx r.tile r.leaf).inp[r.ch].rn = (s.ctx r.tile r.leaf).inp[r.ch].rn - 1) ∧
    (s.incs[n]? = some i → (s.incs.take n).any (fun j => j.mt == i.mt && lineOf j.addr == lineOf i.addr) = false →
      s.fenced (siteDie (sliceSite i.addr)) = false → s.lineBad i.addr = false → s.pathShut (siteDie i.mt) i.addr = false →
      s.passSlice i.addr false = some s1 → (s1.passSlice i.addr true).isSome = true →
      ∃ u, exec (.counterIncrement n) s = .next u ∧ u.incs = s.incs.eraseIdx n ∧
        u.mem = s.mem.writeNat i.addr (min (old.toNat + 1) 0xFFFF) 2) ∧
    (q.buffer = rec :: rest → 6 ≤ q.nqsize.toNat → q.nqsize.toNat ≤ 16 →
      (q.nqtail.toNat + 1) % size ≠ q.nqhead.toNat % size →
      let pa := q.nqbase.toNat + 64 * (q.nqtail.toNat % size)
      (placeOf pa).die.any s.fenced = false → s.pathShut d pa = false → (s.passSlice pa true).isSome = true →
      ∃ u, exec (.noticeRecordWrite d p) s = .next u ∧
        u.mem = s.mem.writeNat pa rec.toNat 64 ∧ (u.noticeQ d p).buffer.take rest.length = rest ∧
        (s.ecc = [] → (u.noticeQ d p).buffer = rest) ∧ (u.noticeQ d p).nqtail = BitVec.ofNat 16 ((q.nqtail.toNat + 1) % size) ∧
        (u.cores[coreOf d q.pcc.toFin]).evpend = s.cores[coreOf d q.pcc.toFin].evpend ||| 1) ∧
    (s.tinvs.find? (fun t => t.core == k) = some t → s.tinvDone t = true → s.cores[k].busy = .tinv → s.cores[k].pc ≠ 0x3FFFC →
      exec (.tinvAcknowledgement k) s =
        .next (({ s with tinvs := s.tinvs.filter (fun u => u.core != k) } : State).onCore k (fun c =>
          { c with busy := .none, pc := c.pc + 4 })))

/-! ## Events of owners, umbra hosts and copy engines -/

/-- R271, R272, R274-R277, R278, R280, R281, R283: Requests at the owner of their range, first in its queue, one a cycle. Reads
and writes of a line, the first `amo` with its serial, a `redc` before the count is complete and the one that
completes it, a `fillc` that declares a count or resets the sector, and a timeout. The record of a counter: what a
declared count makes of it, and that a word of a counted range takes the contributions. -/
def Obligations.OwnerEvents : Prop :=
  (∀ (s : State) (n : Nat) (f : Flying) (mt : Site) (l : Leaf) (e ea : W64) (v : Vec) (fn : BitVec 4) (op nw w : W32)
     (ret : Bool) (sec : Nat),
     let q := f.req
     let x := (s.land n).uses mt (fun y k => { y with owner := k })
     let own := x.mtLeaf mt l
     let va := ea.toNat
     let ct := ownrType e
     let at_ := va / 128 * 128
     let r := own.record at_
     let counted := ct = 1 ∨ ct = 2
     let added := x.onMtLeaf mt l (fun z => z.eachWord (fun u k => u.addOwned ct (va + 4 * k) (getF v 32 k)) 16)
     let put := fun (y : State) (r : CounterRec) => y.onMtLeaf mt l (fun z => z.setRecord at_ r)
     let due := (s.mtLeaf mt l).record sec
     (s.inFlight n = some f → f.target = .owner mt → s.firstAt f = true → s.fenced (siteDie mt) = false →
       s.pathOpen (siteDie q.src.tile) (siteDie mt) = true → s.ownerOf f = some (mt, l, e) →
       (s.usedNow mt (s.mt mt).last.owner = true →
         exec (.ownerRequest n) s = .next s ∧ exec (.redcAtOwner n) s = .next s ∧ exec (.fillcAtOwner n) s = .next s ∧
         exec (.amoApply n) s = .next s) ∧
       (s.usedNow mt (s.mt mt).last.owner = false →
       (q.body = .read ea → x.ownerEcc mt l va = false → exec (.ownerRequest n) s = .next (x.answer q (own.ownedLine ct va))) ∧
       (q.body = .write ea v →
         exec (.ownerRequest n) s = .next ((x.onMtLeaf mt l (fun y => y.setLine ct va v)).written q)) ∧
       (q.body = .amo ea fn op nw ret → ct = 0 → x.ownerEcc mt l va = false →
         q.why = .op → s.amoSeen f.target none q.src.tile q.src.part (q.serial.getD 0) = none →
         exec (.amoApply n) s = .next (((x.onMtLeaf mt l (fun z => z.setOwned 0 va (amoWord fn (own.ownedWord 0 va) op nw))).noteAmo
           f.target none q.src.tile q.src.part (q.serial.getD 0) (own.ownedWord 0 va)).replyAmo q ret (own.ownedWord 0 va))) ∧
       (q.body = .redc ea v → counted → x.ownerEcc mt l va = false → r.timeoutDue = false →
         r.state ≠ 2 → r.state ≠ 3 → r.rcv ≠ 0xFFFF →
         ((r.exp = 0 ∨ r.rcv + 1 ≠ r.exp) →
           exec (.redcAtOwner n) s = .next ((put added { r with rcv := r.rcv + 1 }).written q)) ∧
         (r.exp ≠ 0 → r.rcv + 1 = r.exp →
           let r1 := { r with rcv := r.rcv + 1, state := 2, subs := [] }
           exec (.redcAtOwner n) s = .next (((put added r1).tellSubs (some (siteDie mt)) own.part r1 at_ r.subs 1).written q))) ∧
       (q.body = .fillc ea w → counted → va % 128 = 0 → r.timeoutDue = false → w.getLsbD 31 = false → w.extractLsb' 0 16 ≠ 0 → r.exp = 0 →
         exec (.fillcAtOwner n) s =
           .next ((put x (r.declare (w.extractLsb' 0 16) own.redto)).written q)) ∧
       (q.body = .fillc ea w → counted → va % 128 = 0 → r.timeoutDue = false → w.extractLsb' 0 16 = 0 →
         exec (.fillcAtOwner n) s =
           .next (((x.onMtLeaf mt l (fun z => z.resetSector ct at_)).tellSubs (some (siteDie mt)) own.part {} at_ r.subs 4).written q)))) ∧
     (due.timeoutDue = true →
       let r1 := { due with state := 3, inc := true, timed := false, subs := [] }
       exec (.counterTimeout mt l sec) s =
         .next (((s.onMtLeaf mt l (fun z => z.setRecord sec r1)).tellSubs (some (siteDie mt)) (s.mtLeaf mt l).part r1 sec due.subs 2).notify (siteDie mt)
           (s.mtLeaf mt l).part (redtoRecord mt l (s.mtLeaf mt l).part (trAsid (s.trcfg mt l)) sec r1)))) ∧
  (∀ (r : CounterRec) (f : MtLeaf) (count : W16) (limit : BitVec 24) (va sec : Nat) (x : W32),
     (count.toNat ≤ r.rcv.toNat → (r.declare count limit).state = 2) ∧
     (r.rcv.toNat < count.toNat → (r.declare count limit).state = 1) ∧
     (r.declare count limit).exp = count ∧ (r.declare count limit).tleft = limit ∧
     (r.declare count limit).rcv = r.rcv ∧ (r.declare count limit).subs = r.subs ∧
     ((r.declare count limit).ovr = true ↔ count.toNat < r.rcv.toNat) ∧
     (f.setRecord sec r).record sec = r ∧
     (f.store.wf = true → (f.addOwned 1 va x).store.readW32 va = f.store.readW32 va + x) ∧
     ((f.addOwned 2 va x).lane va).sum = (f.lane va).sum + (laneOf x).sum ∧
     (f.store.wf = true → (f.setOwned 0 va x).ownedWord 0 va = x))

/-- R287-R304, R288, R293, R294, R300: Requests at an umbra host, first in its queue, one a cycle: an enter whose sequence is
expected is granted, a later one waits, a past one is reported; a leave advances the key; a skip is noted; an init
sets EXP. The 2,048 records are counted for each leaf of a memory tile, and the oldest refused request is the one issued first
(both the model's choice, log 61); what a host does behind the marker of a swap, and grants that wait for the restore, are log
30. A grant reaches the bank that waits for it. EXP advances by one and past every skipped sequence, and
grants the waiter that has come up; a granted bank holds its section, no longer waits, and p7 and SEQST land with
the grant; a wait of LIMIT cycles is reported once. -/
def Obligations.UmbraHostEvents : Prop :=
  (∀ (s : State) (n : Nat) (f : Flying) (mt t : Site) (l : Leaf) (key seq : W32) (slot : Fin 4) (keys : List W32) (g : Grant)
     (w : GrantWait) (q0 : Req) (rest : List Req) (e : W32) (v : W64) (p : Probe) (kk : Nat),
     let q := f.req
     let x := (s.land n).uses mt (fun y k => { y with host := k })
     let host := x.mtLeaf mt l
     let r := host.keyRec key
     let put := fun (r : KeyRec) => x.onMtLeaf mt l (fun f => f.setKey r)
     let waits : Waiter := { id := q.id, seq := seq, src := q.src, keys := keys, age := q.age, reported := q.reported }
     let k := s.bank g.src.tile g.src.leaf g.src.bank
     let k1 := { s with grants := s.grants.eraseIdx n }.onBank g.src.tile g.src.leaf g.src.bank (fun k => k.granted w.slot g)
     (s.inFlight n = some f → s.firstAt f = true → f.target = .umbra mt → s.fenced (siteDie mt) = false →
       s.pathOpen (siteDie q.src.tile) (siteDie mt) = true → s.mtLeafOf q.src.part mt = some l →
       (s.usedNow mt (s.mt mt).last.host = true →
         exec (.umbraEnterAtHost n) s = .next s ∧ exec (.umbraLeaveAtHost n) s = .next s ∧
         exec (.umbraSkipAtHost n) s = .next s ∧ exec (.umbraInitAtHost n) s = .next s) ∧
       (s.usedNow mt (s.mt mt).last.host = false → s.stashed q.src.part mt l = false →
       (q.body = .umen key seq slot keys → host.refuses key seq = false →
         (r.past seq = false → r.taken seq = false → seq = r.exp →
           exec (.umbraEnterAtHost n) s =
             .next ((put { r with holder := some ⟨q.src.tile, q.src.leaf, q.src.bank⟩ }).grantTo mt l q.src key seq r.poison)) ∧
         (r.past seq = false → r.taken seq = false → seq ≠ r.exp →
           exec (.umbraEnterAtHost n) s =
             .next ((put { r with waiters := r.waiters ++ [waits] }).startProbe mt l r q.id keys)) ∧
         (r.past seq = true → exec (.umbraEnterAtHost n) s = .next (x.umbraReport q .seq key seq 1 true))) ∧
       (q.body = .umen key seq slot keys → host.refuses key seq = true →
         exec (.umbraEnterAtHost n) s = .next (x.refuse q)) ∧
       (q.body = .umlv key → (host.hasKey key = true ∨ host.keys.length < 2048) →
         exec (.umbraLeaveAtHost n) s = .next (x.advanceKey q.src.part mt l { r with holder := none })) ∧
       (q.body = .umabt key → (host.hasKey key = true ∨ host.keys.length < 2048) →
         exec (.umbraLeaveAtHost n) s = .next (x.advanceKey q.src.part mt l { r with holder := none, poison := true })) ∧
       (q.body = .umsk key seq → host.refuses key seq = false → r.past seq = false → r.taken seq = false → seq ≠ r.exp →
         exec (.umbraSkipAtHost n) s = .next (put { r with skips := r.skips ++ [seq] })) ∧
       (q.body = .umsk key seq → host.refuses key seq = false → r.past seq = false → r.taken seq = false → seq = r.exp →
         exec (.umbraSkipAtHost n) s = .next (x.advanceKey q.src.part mt l r)) ∧
       (q.body = .umini key seq → (host.hasKey key = true ∨ host.keys.length < 2048) → r.holder = none → r.waiters = [] →
         r.skips = [] → exec (.umbraInitAtHost n) s = .next (put { r with exp := seq, poison := false })))) ∧
     (s.grants[n]? = some g → g.held = false → s.away g.src.tile g.src.leaf = false →
       s.recordsNow g.src.tile g.src.leaf = false → k.umWait = some w →
       w.key = g.key → w.seq = g.seq → exec (.umbraGrantArrival n) s = .next k1) ∧
     ((s.mt mt).refused.get (refusedKey t l) [] = q0 :: rest → s.canRetry mt q0 = true →
       (∀ j < l, ∀ q1 ∈ ((s.mt mt).refused.get (refusedKey t j) []).head?, s.canRetry mt q1 = false) →
       s.retryHead mt t = some (q0, refusedKey t l, rest)) ∧
     (s.retryHead mt t = some (q0, kk, rest) → s.umhostOf t q0.src.leaf q0.body.flta = some e →
       ((∀ r ∈ (s.mt mt).refused, ∀ q1 ∈ r.2.head?, q0.id ≤ q1.id ∨ s.canRetry mt q1 = false) →
         s.usedNow mt (s.mt mt).last.retry = false →
         exec (.umbraRefusalRetry mt t) s = .next (((s.onMt mt (fun m =>
           { m with refused := m.refused.set kk rest })).uses mt (fun y k => { y with retry := k })).fly q0 (.umbra (umhostSite e)))) ∧
       (s.oldestRefused mt q0 = false ∨ s.usedNow mt (s.mt mt).last.retry = true →
         exec (.umbraRefusalRetry mt t) s = .next s)) ∧
     (((s.mtLeaf mt l).keyRec (v.extractLsb' 32 32)).holder =
         some ⟨v.extractLsb' 20 12, (v.extractLsb' 17 1).toFin, (v.extractLsb' 18 2).toFin⟩ →
       exec (.umrelWrite mt l v) s = .next (s.leaveKey (s.mtLeaf mt l).part mt l (v.extractLsb' 32 32) true)) ∧
     (s.probes[n]? = some p → p.answer = none →
       exec (.deadlockProbeAnswer n) s = .next { s with probes := s.probes.set n { p with
         answer := some (match (s.bank p.who.tile p.who.leaf p.who.bank).umWait with
           | some w => p.keys.contains w.key
           | none => false) } }) ∧
     (s.swappingOut (s.mtLeaf mt l).part = true → s.tilesSaved (s.mtLeaf mt l).part = true →
       s.flight.any (fun f => f.target == .umbra mt && f.req.src.part == (s.mtLeaf mt l).part) = false →
       s.memTiles.any (fun m => m.2.queues.any (fun q => q.2.any (fun r => r.src.part == (s.mtLeaf mt l).part))) = false →
       exec (.umbraHostMarker mt l) s = .next (s.onMtLeaf mt l (fun f => { f with marked := true })))) ∧
  (∀ (r : KeyRec) (k : Bank) (slot : Fin 4) (g : Grant) (s : State) (mt : Site) (l : Leaf) (key seq : W32) (w : Waiter),
     let limit := (s.mtLeaf mt l).umblim.toNat
     let h := (s.mtLeaf mt l).keyRec key
     (r.skips = [] → r.advance.1.exp = r.exp + 1) ∧
     (r.skips = [r.exp + 1] → r.advance.1.exp = r.exp + 2 ∧ r.advance.1.skips = []) ∧
     (r.advance.2 = none → r.advance.1.waiters = r.waiters ∧ r.advance.1.holder = r.holder) ∧
     (r.advance.2 = some w → w ∈ r.waiters ∧ w.seq = r.advance.1.exp ∧
       r.advance.1.holder = some ⟨w.src.tile, w.src.leaf, w.src.bank⟩ ∧ w ∉ r.advance.1.waiters) ∧
     r.advance.1.poison = r.poison ∧ r.advance.1.key = r.key ∧
     (k.granted slot g).umWait = none ∧
     (k.granted slot g).held[slot] = { key := g.key, seq := g.seq, valid := true } ∧
     (k.pending = [⟨0, .grant (BitVec.ofFin slot), .c⟩] → (k.granted slot g).pending.map (fun p => (p.rem, p.val)) =
       [(0, .pred 7 g.poison), (0, .sreg 0x00F (BitVec.ofBool g.poison ++ g.seq.extractLsb' 0 31))]) ∧
     (limit ≠ 0 → h.waiters.find? (fun w => w.seq == seq && !w.reported && decide (limit ≤ w.age)) = some w →
       ∃ u, exec (.umbstall mt l key seq) s = .next u ∧ u.grants = s.grants ∧ u.tiles = s.tiles ∧ u.mem = s.mem ∧
         (u.noticeQ (siteDie mt) w.src.part).serial = (s.noticeQ (siteDie mt) w.src.part).serial + 1))

/-- R246, R247, R306-R323: Edge buffers and copy engines. A buffer's head token goes to its consumer under the route's
reservations, a marked empty buffer is released; a queue token that stands ahead of a marker fires a run of its template, runs
start in order, and one beat a cycle moves, of the next unit that can move one: it asks for the next source beat, sends the next
destination beat as two chunks of 32 bytes, or streams a token into the output buffer. While a partition is swapped out its
queues and runs rest. An acknowledged chunk counts 8 words towards its tag, and a refused one makes its template FAULTED, once
for its run, with the fault of the earliest beat; a due tag publishes its token when no copy of a line that its partition wrote
awaits its invalidation (the model's reading, log entry 55). `arm` reads and checks its record once and installs a legal one when the run in progress has ended,
`fire` queues a token, and the registers act as written; that a write of TPLST stores any STATE is the model's choice (log entry
43), as is the PAGE fault of a chunk whose home is fenced (log entry 58). -/
def Obligations.CopyEvents : Prop :=
  (∀ (s s1 : State) (mt : Site) (l : Leaf) (x : Fin 8) (u : Fin 4) (h : EdgeTok) (tok : Token) (r : CopyRun)
    (rest : List CopyRun) (n : Nat) (c : Chunk) (tag : Fin 16) (f : Flying) (sel : BitVec 11) (ea v : W64)
    (w0 w1 : W32) (k : CoreId) (line line' : Vec) (w : Vector W32 20),
    let b := s.ebuf mt l x
    let t := s.tpl mt l u
    let info : SendInfo := { src := .edge mt l x, part := (s.mtLeaf mt l).part, leaf := l, graph := b.graph,
                             due := s.cycleAt mt + 2 }
    let ct := (s.mtLeaf mt l).ctag[tag]
    let done : Token := { side := { pred := true, bank := ct.extractLsb' 26 2 },
                          payload := packVec 32 16 (fun i => if i = 0 then tag.val else if i = 1 then ctagCount ct else 0) }
    let go : Token := { side := { pred := true }, payload := setF (setF (0 : Vec) 32 0 w0) 32 1 w1 }
    (b.passed = s.cycleAt mt + 1 → exec (.edgeBufferPass mt l x) s = .next s) ∧
    (b.out.bound = true → s.ebufHead mt l x = some (h, tok) → b.out.e ≠ 0 → b.preempt ≠ some 0 →
      s.regBad mt l (0x10 + x.val) = false → b.passed ≠ s.cycleAt mt + 1 →
      exec (.edgeBufferPass mt l x) s = .next ((s.ebufTake mt l x).onEbuf mt l x (fun y =>
        { y with out := { b.out.enqueue info (.publish b.out.w tok false) with
                            w := (b.out.w + 1) % b.out.depth, e := b.out.e - 1 },
                 passed := s.cycleAt mt + 1 }))) ∧
    (b.out.bound = true → b.preempt = some 0 → s.regBad mt l (0x10 + x.val) = false → b.passed ≠ s.cycleAt mt + 1 →
      exec (.edgeBufferPass mt l x) s = .next (s.onEbuf mt l x (fun y =>
        { y with out := y.out.enqueue info .preempt, preempt := none, passed := s.cycleAt mt + 1 }))) ∧
    (b.marked = true → b.queue = [] → b.freed = false →
      exec (.edgeBufferRelease mt l x) s = .next (s.onEbuf mt l x (fun b => { b with freed := true, marked := false }))) ∧
    (t.state = 1 → (s.mt mt).running = l → s.partHeld (s.mtLeaf mt l).part = false → s.ebufHead mt l t.qbuf = some (h, tok) → (s.ebuf mt l t.qbuf).preempt ≠ some 0 →
      s.unitBad mt l u = none → tok.side.kind = 0 → tok.side.null = false →
      (tok.bad = false → t.mode ≠ 1 → t.fired = [] →
        exec (.templateQueueHead mt l u) s = .next ((s.ebufTake mt l t.qbuf).takeId.onTpl mt l u (fun t =>
          { t with fired := [{ id := s.nextId, soff := getF tok.payload 32 0, doff := getF tok.payload 32 1 }] }))) ∧
      (tok.bad = true → ∃ z, exec (.templateQueueHead mt l u) s = .next z ∧ (z.tpl mt l u).state = 2 ∧
        (z.tpl mt l u).cause = Cause.ecc.code ∧ (z.tpl mt l u).fired = t.fired)) ∧
    ((s.mt mt).running = l → (s.ebuf mt l t.qbuf).preempt = some 0 → (s.mtLeaf mt l).toMark = [] →
      exec (.templateQueueHead mt l u) s = .next s) ∧
    (t.fired = r :: rest → t.state = 1 → t.run = none → (s.mt mt).running = l → s.partHeld (s.mtLeaf mt l).part = false →
      (r.byCore = false ∨ s.coreWritesDone = true) →
      exec (.copyRunStart mt l u) s = .next (s.onTpl mt l u (fun t => { t with run := some r, fired := rest }))) ∧
    (s.chunks[n]? = some c →
      (s.chunkUnder c = true → exec (.copyChunkAck n) s = .next s) ∧
      (s.chunkUnder c = false →
        exec (.copyChunkAck n) s =
          .next ((({ s with chunks := s.chunks.eraseIdx n } : State).countWords c).endRun c.mt c.leaf c.unit)) ∧
      (∀ g, c.tag = some g → ((s.countWords c).mtLeaf c.mt c.leaf).ctag[g] =
        ctagSet ((s.mtLeaf c.mt c.leaf).ctag[g]) (ctagRcv ((s.mtLeaf c.mt c.leaf).ctag[g]) + 8)) ∧
      (c.tag = none → s.countWords c = s)) ∧
    (ctagV ct = true → ctagCount ct ≠ 0 → ctagCount ct ≤ ctagRcv ct → (s.mtLeaf mt l).ctagHeld.getLsbD tag.val = false →
      s.regBad mt l (0x20 + tag.val) = false →
      s.invals.any (fun v => v.part == some (s.mtLeaf mt l).part) = false → s.ebufPut mt l (ct.extractLsb' 28 3).toFin done = some s1 →
      exec (.completionTokenPublish mt l tag) s = .next (s1.onMtLeaf mt l (fun f =>
        { f with ctag := f.ctag.set tag (ctagSet ct (ctagRcv ct - ctagCount ct)) }))) ∧
    (s.inFlight n = some f → s.engineOf f = some (mt, l, u) → s.fenced (siteDie mt) = false →
      s.pathOpen (siteDie f.req.src.tile) (siteDie mt) = true →
      let graph := (s.ctx f.req.src.tile f.req.src.leaf).graph
      let free := t.run = none ∧ (t.state = 1 → t.fired = [])
      (f.req.body = .arm ea sel → f.record = none → f.lines.length < 2 →
        let q := { s.unitReq mt l u (.line n) (.read (ea + BitVec.ofNat 64 (64 * f.lines.length))) with counted := f.lines.length != 0 }
        (f.asked = true → exec (.armAtMemoryTile n) s = .next s) ∧
        (f.asked = false → (s.takeId.onFlying n (fun f => { f with asked := true })).routeNow mt q = .goes s1 →
          exec (.armAtMemoryTile n) s = .next s1)) ∧
      (f.req.body = .arm ea sel → f.record = none → f.lines = [line, line'] →
        let rec_ := shapeRecord line line'
        let legal := ({ t with w := rec_.1 } : Template).legal (s.mt mt).ebuf[l]
        (rec_.2 = true → legal = true → free →
          exec (.armAtMemoryTile n) s = .next (((s.land n).install mt l u graph rec_.1).written f.req)) ∧
        (rec_.2 = true → legal = true → t.run.isSome = true →
          exec (.armAtMemoryTile n) s = .next (s.onFlying n (fun y => { y with record := some rec_.1 }))) ∧
        (rec_.2 = false ∨ legal = false → exec (.armAtMemoryTile n) s = .next ((s.land n).failReq f.req .tplchain))) ∧
      (f.req.body = .arm ea sel → f.record = some w → free →
        exec (.armAtMemoryTile n) s = .next (((s.land n).install mt l u graph w).written f.req)) ∧
      (f.req.body = .fire sel w0 w1 → s.flight.filter (fun g => g.target == f.target) = [f] →
        s.ebufPut mt l t.qbuf go = some s1 →
        exec (.fireTokenEnqueue n) s = .next ((s1.land n).acknowledge f.req))) ∧
    (let z := s.install mt l u n w
     let y := z.tpl mt l u
     y.state = 1 ∧ y.w = w ∧ y.pend = [] ∧ y.scatter = 0 ∧ y.graph = n ∧ z.mem = s.mem) ∧
    (t.state = 1 → t.mode = 0 → s.partRuns (s.mtLeaf mt l).part = false →
      exec (.tplfireWrite k mt l u v) s = .next (s.takeId.onTpl mt l u (fun t => { t with fired := t.fired ++
        [{ id := s.nextId, soff := v.extractLsb' 0 32, doff := v.extractLsb' 32 32, byCore := true }] }))) ∧
    (t.state ≠ 1 ∨ t.mode ≠ 0 ∨ s.partRuns (s.mtLeaf mt l).part = true →
      exec (.tplfireWrite k mt l u v) s = .next (s.onCore k (fun c => c.exception .perm (tileSelector mt l (0x34 + u.val))))) ∧
    exec (.tplstWrite mt l u w0) s = .next (s.onTpl mt l u (fun t => { t with state := w0.extractLsb' 30 2 }))) ∧
  (∀ (s s1 z : State) (mt : Site) (l : Leaf) (u : Fin 4) (r : CopyRun) (q : Req) (v : Vec) (c : Chunk) (f : Cause) (n : Nat),
    let t := s.tpl mt l u
    let served := fun (z : State) => (z.onMt mt (fun m => { m with rr := u + 1 })).uses mt (fun y k => { y with beat := k })
    let final := decide (t.walkLen 2 ≤ r.input.length)
    let o := t.output r.input final
    let send := (t.mode ≠ 2 ∧ (r.sent < o.beats.length ∨ final = true))
    let stream := (t.mode = 2 ∧ (r.sent + 1 < o.beats.length ∨ final = true ∧ r.sent < o.beats.length))
    let va := t.beatAddr 9 r.doff r.sent
    let beat := o.beats.getD r.sent 0
    let ask := s.unitReq mt l u .beat (.read (t.beatAddr 2 r.soff r.input.length))
    let side : Sideband := { fmt := o.cur, head := r.sent == 0, tail := final && r.sent + 1 == o.beats.length, pred := true,
                             bank := t.cbank, aux := if r.sent = 0 then t.burstAux o else 0 }
    (∀ j : Fin 4, (∀ i < j, s.unitBeat mt l ((s.mt mt).rr + i) = none) → s.unitBeat mt l ((s.mt mt).rr + j) = some z →
      s.nextUnit mt l = some ((s.mt mt).rr + j, z)) ∧
    (s.usedNow mt (s.mt mt).last.beat = true → exec (.copyBeat mt l u) s = .next s) ∧
    ((s.mt mt).running = l → s.partHeld (s.mtLeaf mt l).part = false → s.fenced (siteDie mt) = false →
      s.usedNow mt (s.mt mt).last.beat = false → s.nextUnit mt l = some (u, z) →
        exec (.copyBeat mt l u) s = .next (served z)) ∧
    (s.unitBeat mt l u = some z → t.run = some r →
      (o.conv = true → z = s.runFails mt l u .conv (t.beatAddr 2 r.soff (r.input.length - 1)) s.nextId) ∧
      (o.conv = false → send → s.sendBeat mt l u r.id r.byCore va beat = .sent s1 →
        z = s1.beatSent mt l u (r.sent + 1 == t.walkLen 9) ∧
        s1.chunks = s.chunks ++ [0, 32].map (fun o =>
          { mt := mt, leaf := l, unit := u, run := r.id, byCore := r.byCore, tag := t.countTag r.byCore, va := va.toNat + o,
            req := s.nextId, reads := t.reads })) ∧
      (o.conv = false → stream → s.ebufPut mt l t.obuf { side := side, payload := beat } = some s1 →
        z = s1.beatSent mt l u side.tail) ∧
      (o.conv = false → ¬send → ¬stream → final = false →
        (s.takeId.onRun mt l u (fun r => { r with remote := some s.nextId })).routeNow mt ask = .goes s1 → z = s1)) ∧
    (r.fault = none → (r.fails f va n).fault = some (f.code, va, n)) ∧
    (∀ (k : BitVec 8) (w : W64) (m : Nat), r.fault = some (k, w, m) →
      (r.fails f va n).fault = if m ≤ n then r.fault else some (f.code, va, n)) ∧
    (t.run = some r → r.fault = none → (s.beatSent mt l u false).tpl mt l u =
      { t with run := some { r with sent := r.sent + 1, ended := false } }) ∧
    (q.why = .beat → q.src.tile = mt → q.src.leaf = l → q.src.bank = u → t.run = some r → r.remote = some q.id →
      (s.answer q v).tpl mt l u = { t with run := some { r with input := r.input ++ [v], remote := none } }) ∧
    (q.why = .chunk c.byCore c.tag → s.chunks.find? (fun x => x.req == q.id) = some c → t.run = none →
      c.mt = mt → c.leaf = l → c.unit = u →
      let z := s.failReq q f
      let left := s.chunks.filter (fun x => x.req != q.id)
      (t.state ≠ 0 → c.told = false →
        z.chunks = left.map (fun y => if y.run = c.run then { y with told := true } else y) ∧
        (z.tpl mt l u).state = 2 ∧ (z.tpl mt l u).cause = f.code) ∧
      (t.state = 0 ∨ c.told = true → z = { s with chunks := left })))

/-! ## Events of launches, barriers, elastic stages and swaps -/

/-- R340-R349: The master starts the entry that goes first, one without indices being done at once; a feeder publishes
its next token against a slot of its channel, one a cycle; a die reports its finished share; when every report stands and the totals
agree, a graph writes its owners back, once the way to their pages is open (log entry 58), and ends when no invalidation of its
partition is left (log entry 55); a launch from a
tile becomes READY with the range and priority that it carries, or is refused with PERM; an election makes the lowest
live die master. The tokens of a feeder: at most GRAN indices each, in order, and the end-of-stream token behind the
last one; the shares of the dies cover a range without overlap. A start adds its launch, gives the banks of the graph their
launch depth and its channels their load values; one whose owned pages fail makes its entry DONE; an entry that ends is DONE, and
its last unfinished predecessor makes a successor READY. -/
def Obligations.LaunchEvents : Prop :=
  (∀ (s : State) (x : Start) (gi n : Nat) (g : Graph) (l : Launch) (f f1 : Feeder) (tok : Token) (d : DieId) (q : Flying)
     (entry : BitVec 12) (rg : W32 × W32) (dp : BitVec 4) (prio : BitVec 2) (ps : Nat) (nt : Bool) (m : DieId),
     let sum := fun (v : Vector Nat 4) => v.toList.foldl (fun a b => a + b) 0
     let e := s.entry entry.toNat
     (s.election = false → bestStart s.candidates = some x → x.count = 0 → exec .entryStart s = .next (s.finish x.slot true 1)) ∧
     (s.election = false → bestStart s.candidates = some x → x.count ≠ 0 → s.graphOf (s.entry x.entry) = some gi →
       s.graph gi = some g → exec .entryStart s = .next ((s.running x.slot).startGraph x gi g)) ∧
     (s.launches.find? (fun l => l.slot == n / 4096) = some l → l.feeders[n % 4096]? = some f → s.graph l.graph = some g →
       s.election = false → s.partStopped g.part f.die = false → s.fenced f.die = false → l.stranded = false → f.out.e ≠ 0 →
       (f.published = s.dies[f.die].cycle.toNat + 1 → exec (.indexTokenPublish n) s = .next s) ∧
       (f.published ≠ s.dies[f.die].cycle.toNat + 1 → f.token s.dies[f.die].granule l.slot l.depth = some (tok, f1) →
       let f2 := { f1 with out := { f.out with w := (f.out.w + 1) % f.out.depth, e := f.out.e - 1 },
                           published := s.dies[f.die].cycle.toNat + 1 }
       ∃ u, exec (.indexTokenPublish n) s = .next u ∧
         (u.ctx f.tile f.leaf).inp[f.ch].port = (s.ctx f.tile f.leaf).inp[f.ch].port ++
           [⟨{ src := .feeder f.die n, part := g.part, leaf := f.leaf, graph := l.graph, body := .publish f.out.w tok false },
             s.cycleAt f.tile + 1⟩] ∧
         u.launches = s.launches.map (fun y =>
           if y.slot = l.slot then { y with feeders := y.feeders.set (n % 4096) f2 } else y))) ∧
     (s.launches.find? (fun l => l.slot == n) = some l → s.graph l.graph = some g →
       (s.fenced d = false → s.portionDone d l g = true → s.partHeld g.part = false →
         exec (.dieShareReport d n) s =
           .next (s.onLaunchOf l.graph (fun y => { y with reports := y.reports ||| (1#4 <<< d.val) }))) ∧
       (l.reports = 0xF → (∀ d : DieId, s.fenced d = true ∨ s.portionDone d l g = true) → sum l.sent = sum l.got →
         s.childless l.graph = true → l.stranded = false → s.partAway g.part = false →
         (l.backed = false → s.backWaits g = true → exec (.graphEnd n) s = .next s) ∧
         (l.backed = false → s.backWaits g = false → exec (.graphEnd n) s =
           .next ((s.backOwners g).onLaunchOf l.graph (fun y => { y with backed := true }))) ∧
         (l.backed = true → s.invals.any (fun v => v.part == some g.part) = false → exec (.graphEnd n) s =
           .next ((((g.tiles.foldl (fun y t => y.leaveSections t.1 t.2) s).settleEnd l.graph g).dropLaunch n).finish
             n true 1)))) ∧
     (s.inFlight n = some q → q.req.body = .lnch entry rg dp prio ps nt →
       (e.v = true → e.part = q.req.src.part →
         exec (.launchAtMaster n) s = .next { s.land n with
           pool := s.pool.set ps ((s.poolEntry ps).map (fun p =>
             { p with ready := true, order := s.orders, range := rg, prio := prio })),
           orders := s.orders + 1 }) ∧
       (e.v = false ∨ e.part ≠ q.req.src.part →
         exec (.launchAtMaster n) s = .next (((s.land n).endPool ps 8).failReq q.req .perm))) ∧
     (s.election = true → s.fenced m = false → (∀ d : DieId, d < m → s.fenced d = true) →
       ∃ u, exec .masterElection s = .next u ∧ u.election = false ∧ (∀ d : DieId, u.dies[d].master = BitVec.ofNat 2 m.val) ∧
         u.launches = s.launches.map s.reissue)) ∧
  (∀ (f : Feeder) (gran slot : Nat) (depth : BitVec 4) (a b : Nat) (rest : List (Nat × Nat)) (first count : W32) (n i : Nat),
     (f.left = (a, b) :: rest → a + gran < b →
       ∃ tok, f.token gran slot depth = some (tok, { f with left := (a + gran, b) :: rest, tag := f.tag + 1 }) ∧
         tok.side.kind = 0 ∧ tok.side.bank = f.tag ∧ tok.side.null = false) ∧
     (f.left = (a, b) :: rest → a < b → b ≤ a + gran →
       ∃ tok, f.token gran slot depth = some (tok, { f with left := rest, tag := f.tag + 1 }) ∧ tok.side.kind = 0) ∧
     (f.left = [] → f.eos = false →
       ∃ tok, f.token gran slot depth = some (tok, { f with eos := true, tag := f.tag + 1 }) ∧ tok.side.kind = 2) ∧
     (f.left = [] → f.eos = true → f.token gran slot depth = none) ∧
     (0 < n → (shareOf first count n 0).1 = first.toNat ∧ (shareOf first count n (n - 1)).2 = first.toNat + count.toNat) ∧
     (shareOf first count n i).2 = (shareOf first count n (i + 1)).1) ∧
  (∀ (s : State) (x : Start) (gi n m : Nat) (g : Graph) (mt : Site) (f : XFault) (va : Nat) (t : Site × Leaf) (b : BankId)
     (ch : Fin 8),
     let z := s.startGraph x gi g
     let e := s.entry n
     let c := z.ctx t.1 t.2
     (s.ownersBad g.mts = none →
       (∃ l, z.launches = s.launches ++ [l] ∧ l.slot = x.slot ∧ l.graph = gi ∧ l.depth = x.depth ∧ l.reports = s.host.fence) ∧
       (t ∈ g.tiles → c.banks[b].gdepth = x.depth ∧
         c.inp[ch].h = 0 ∧ c.inp[ch].f = 0 ∧ c.inp[ch].q = 0 ∧ c.inp[ch].rn = 0 ∧ c.inp[ch].port = [] ∧
         c.outp[ch].w = 0 ∧ c.outp[ch].e = c.outp[ch].depth ∧ c.outp[ch].closed = false ∧ c.outp[ch].outq = [])) ∧
     (s.ownersBad g.mts = some (mt, f, va) →
       z.launches = s.launches ∧ (x.slot < 65536 → z.entry x.slot = (s.entry x.slot).setState 3)) ∧
     (n < 65536 → s.finish n true 1 = s.completeEntry n ∧ s.finish n false 1 = s.onEntry n (fun e => e.setState 3)) ∧
     (e.w2.getLsbD 31 = false → e.w2.getLsbD 15 = false → s.completeEntry n = s.onEntry n (fun e => e.setState 3)) ∧
     (e.w2.getLsbD 31 = true → e.w2.getLsbD 15 = false → (e.w2.extractLsb' 16 12).toNat = m → m ≠ n →
       (s.entry m).v = true → (s.entry m).state = 0 → (s.entry m).preds = 1 →
       let y := (s.completeEntry n).entry m
       y.state = 1 ∧ y.preds = 0 ∧ y.w1 = (s.entry m).w1 ∧ y.w3 = (s.entry m).w3))

/-- R264-R268, R350, R351: An episode whose members have all arrived completes for every context on its channel, and is
recorded for a context that a swap has taken; a SYSTEM episode first tells the other modules; an elastic stage counts a sample every 4,800 cycles, takes in or lets go
of a tile, and passes the head token of its queue, one a cycle, to the receiver with the fewest filled slots. The counters of an
elastic stage and the change that they call for. -/
def Obligations.EpisodesAndStages : Prop :=
  (∀ (s : State) (t v : Site) (l lv : Leaf) (scope e : Fin 5) (d : DieId) (st : Fin 16) (h : EdgeTok) (tok : Token),
     let c := s.ctx t l
     let x := s.elastic d st
     let q := x.queue d
     let ql := s.elasticLeaf d x
     let o := x.outs.get v.toNat {}
     (s.episodeDone t l scope = true → (scope = 0 → (s.tile t).issued = false ∧ (s.tile t).idled = 0) →
       (scope = 4 → c.sysSent = true ∧ c.peersArrived = true) →
       exec (.barrierEpisodeComplete t l scope) s =
         .next ((s.onChannel t l scope).foldl (fun y u => y.onCtx u.1 u.2 (fun c =>
           c.releaseBarrier scope (s.away u.1 u.2 || s.recordsNow u.1 u.2))) s)) ∧
     (s.episodeDone t l 4 = true → c.sysSent = false → exec (.barrierEpisodeComplete t l 4) s =
       .next ((s.onChannel t l 4).foldl (fun y u => y.onCtx u.1 u.2 (fun c => { c with sysSent := true })) (s.sendArrivals c))) ∧
     (∀ b : BankId, (c.releaseBarrier scope false).banks[b] =
       (if c.banks[b].arrived = some (BitVec.ofNat 3 scope.val) then { c.banks[b] with arrived := none } else c.banks[b])) ∧
     (c.releaseBarrier scope true).banks = c.banks ∧ (c.releaseBarrier scope true).barDone.getLsbD scope.val = true ∧
     (x.v = true → s.dies[d].cycle.toNat % 4800 = 0 → x.sampled ≠ s.dies[d].cycle.toNat + 1 → s.partAway x.part = false →
       exec (.millinerSample d st) s = .next (s.onElastic d st (fun y =>
         { (y.counted (s.ebuf q.1 ql q.2).queue.length).decide with sampled := s.dies[d].cycle.toNat + 1 }))) ∧
     (x.change = some ⟨v, lv, true⟩ →
       exec (.tileActivation d st) s = .next (s.onElastic d st (fun y =>
         { y with active := y.active ++ [v], change := none }))) ∧
     (x.change = some ⟨v, lv, false⟩ → s.tileQuiet v lv = true →
       exec (.tileDeactivation d st) s = .next (s.onElastic d st (fun y =>
         { y with active := y.active.filter (fun u => u != v), change := none }))) ∧
     ((s.ebuf q.1 ql q.2).passed = s.cycleAt q.1 + 1 → exec (.elasticQueuePass d st) s = .next s) ∧
     (x.v = true → (s.ebuf q.1 ql q.2).preempt ≠ some 0 → s.ebufHead q.1 ql q.2 = some (h, tok) →
       (s.ebuf q.1 ql q.2).passed ≠ s.cycleAt q.1 + 1 → s.leastFilled x.receivers = some (v, lv) → o.e ≠ 0 →
       exec (.elasticQueuePass d st) s =
         .next ((((s.ebufTake q.1 ql q.2).onEbuf q.1 ql q.2 (fun y => { y with passed := s.cycleAt q.1 + 1 })).onElastic d st (fun y =>
           { y with outs := y.outs.set v.toNat { o with w := (o.w + 1) % o.depth, e := o.e - 1 } })).toTrigger v lv
             (s.ctx v lv).trig.toFin
             { src := .elastic d st v, part := x.part, leaf := lv, graph := (s.ebuf q.1 ql q.2).graph,
               body := .publish o.w tok false }))) ∧
  (∀ (x : Elastic) (n : Nat) (t : Site) (l : Leaf),
     (x.change = none → x.high < n → (x.counted n).above = min (x.above + 1) 4 ∧ (x.counted n).below = 0) ∧
     (x.change = none → n ≤ x.high → n < x.low → (x.counted n).below = min (x.below + 1) 8 ∧ (x.counted n).above = 0) ∧
     (x.change = none → n ≤ x.high → x.low ≤ n → (x.counted n).below = 0 ∧ (x.counted n).above = 0) ∧
     (x.change = none → x.above = 4 → x.active.length < x.poolSize →
       x.pool.find? (fun t => x.active.contains t.1 == false) = some (t, l) → x.decide.change = some ⟨t, l, true⟩) ∧
     (x.change = none → x.above ≠ 4 → x.below = 8 → 1 < x.active.length →
       x.pool.reverse.find? (fun t => x.active.contains t.1 == true) = some (t, l) → x.decide.change = some ⟨t, l, false⟩) ∧
     (x.change = none → x.above ≠ 4 → x.below ≠ 8 → x.decide = x))

/-- R353-R359, R362, R399: A swap command comes to a die once and takes effect as its next cycle begins, and the core that gave it
waits for every die (log 28): markers enter the ingress channels and the response channels (log 59), and the class ports close
(log 53). A tile whose markers stand at the heads decides to save,
and its image is written when its banks and units have stopped; a restored tile is no longer saved and runs its leaf, and one
with a restore fault stays unrestored with the bank faulted and FLTB 0 (log 17); one whose record lies on a fenced die, or behind
one, waits (log 58), as does the end of a swap-out whose image does; the end of a swap marks the partition, clears its SWSTAT bit and
raises EVPEND[2] of the core that commanded it. -/
def Obligations.SwapEvents : Prop :=
  ∀ (s : State) (d : DieId) (part : BitVec 6) (w : Swap) (p : Partition) (t : Site) (l : Leaf) (ch : Fin 8) (b : BankId) (pa : Nat),
    let w1 := { w with dies := w.dies ||| (1#4 <<< d.val), cycles := w.cycles.set d s.dies[d].cycle.toNat }
    (s.swapOf part = some w → s.part part = some p → w.reached d = false → p.dies.contains d = true →
      exec (.swapDecision d part) s = .next (s.onSwap part (fun w => { w with coming := w.coming ||| (1#4 <<< d.val) }))) ∧
    (s.part w.part = some p → w.reached d = false → w.coming.getLsbD d.val = true →
      (p.dies.all w1.reached = false → s.decideSwap d w = (s.onSwap w.part (fun _ => w1)).swapDecided d w p) ∧
      (p.dies.all w1.reached = true →
        let s1 := (s.onSwap w.part (fun _ => w1)).swapDecided d w p
        s1.cores[w.core].busy = .swap w.part → s1.cores[w.core].pc ≠ 0x3FFFC →
        s.decideSwap d w = s1.onCore w.core (fun c => { c with busy := .none, pc := c.pc + 4 }))) ∧
    ((w.reached d = true ∨ w.coming.getLsbD d.val = false) → s.decideSwap d w = s) ∧
    (let c := s.ctx t l
     let i := c.inp[ch]
     let j := ((s.markIngress t l).ctx t l).inp[ch]
     let marker : Item := { src := i.prod, part := c.part, leaf := l, graph := c.graph, body := .preempt }
     (i.bound = true → c.respmask.getLsbD ch.val = true → j = { i with marker := true }) ∧
     (i.bound = true → c.respmask.getLsbD ch.val = false → s.ingress t l ch = true →
       j = { i with port := i.port ++ [⟨marker, s.cycleAt t + 1⟩] }) ∧
     ((i.bound = false ∨ c.respmask.getLsbD ch.val = false ∧ s.ingress t l ch = false) → j = i) ∧
     ((s.markClassPort t l).ctx t l).clsshut = true) ∧
    ((s.tile t).saving = none → s.canSave t l = true →
      exec (.tileSave t l) s = .next (s.onTile t (fun x => { x with saving := some l, savedAt := s.cycleAt t }))) ∧
    ((s.tile t).saving = some l → s.atRest t l = true →
      ∃ u, exec (.tileSave t l) s = .next u ∧ (u.ctx t l).saved = true ∧ (u.tile t).saving = none ∧ u.mem = s.mem ∧
        u.boxes = s.boxes ∧ u.memTiles = s.memTiles) ∧
    (s.restoreFor t l = some w → (s.ctx t l).saved = true → w.memory = none → s.stashOf w.part t l = none →
      s.recordBad t l none = none → s.areaBad t (s.ctx t l).areaBase = none →
      ∃ u, exec (.restoreAtTile t l) s = .next u ∧
        ((∀ b, s.restoreFault t l b = none) → (u.ctx t l).saved = false ∧ (u.tile t).running = l) ∧
        (∀ f, s.restoreFault t l b = some f → (s.bank t l b).faulted = false →
          (u.ctx t l).saved = true ∧ (u.bank t l b).faulted = true ∧ (u.bank t l b).fltc = f.code ∧ (u.bank t l b).fltb = 0)) ∧
    (s.restoreFor t l = some w → s.part w.part = some p → w.memory = some pa →
      let place := pa + 65536 * p.tiles.findIdx (fun u => u == (t, l))
      ((placeOf place).die.any s.fenced = true ∨ s.pathShut (siteDie t) place = true) →
        exec (.restoreAtTile t l) s = .next s) ∧
    (s.swapOf part = some w → s.part part = some p → (if w.restore then s.restoreDone w p else s.swapOutDone w p) = true →
      ((w.restore = true ∨ w.memory.any (s.imageShut part) = false) →
        exec (.swapComplete part) s = .next (s.endSwap w p)) ∧
      (w.restore = false → w.memory.any (s.imageShut part) = true → exec (.swapComplete part) s = .next s)) ∧
    (let u := s.endSwap w p
     (s.part w.part = some p →
       (w.restore = false → u.part w.part = some { p with swapped := true, inMemory := w.memory.isSome }) ∧
       (w.restore = true → p.tiles.all (fun t => !(s.ctx t.1 t.2).saved) = true →
         u.part w.part = some { p with swapped := false, inMemory := false })) ∧
     (∀ x ∈ u.swaps, x.part ≠ w.part) ∧
     (s.cores[w.core].swstat.getLsbD w.part.toNat = true →
       u.cores[w.core].swstat.getLsbD w.part.toNat = false ∧ u.cores[w.core].evpend.getLsbD 2 = true))

/-! ## Events of the host and the module -/

/-- R279, R371, R395, R397, R398, R401, R402, R405-R407: Register writes. A message and a doorbell raise their event
bits, the timer its own when the cycle count comes to it; a write of a tile-state register, a CSR or a BAR0 register
acts by its table; the launch window writes the launch table, and waits during an election; PWR changes the power state
unless it must refuse; FENCE bits stay once set, and halt the cores of their dies. -/
def Obligations.HostRegisterEvents : Prop :=
  ∀ (s s1 : State) (v64 sel : W64) (v : W32) (k : CoreId) (d : DieId) (part : BitVec 6) (num : BitVec 12) (off : Nat)
    (temp : W16) (w : Fin 8),
    let named : CoreId := (v64.extractLsb' 0 4).toFin
    exec (.msgWrite v64) s = .next (s.onCore named (fun c => { c with msg := v64, evpend := c.evpend ||| 8 })) ∧
    (s.cores[k].timer = s.dies[coreDie k].cycle →
      exec (.timerExpiry k) s = .next (s.onCore k (fun c => { c with evpend := c.evpend ||| 16 }))) ∧
    exec (.nqsizeWrite d part v64) s = .next (s.onNotice d part (fun q => { q with nqsize := v64.extractLsb' 0 5 })) ∧
    (s.tileWrite sel v64 = .ok s1 → exec (.registerWrite (.tileState sel) v64) s = .next s1) ∧
    exec (.registerWrite (.csr k num) v64) s = .next (s.setCsr k num v64) ∧
    exec (.registerWrite (.bar0 off) v64) s = .next (s.setBar0 off (v64.extractLsb' 0 32)) ∧
    (s.barsUp = true → s.election = false → off < 131072 → off % 32 / 4 ≤ 4 →
      exec (.launchWindowWrite off v) s = .next (s.writeEntry (off / 32) (off % 32 / 4) v)) ∧
    (s.barsUp = true → s.election = true → off < 131072 → off % 32 / 4 ≤ 4 →
      exec (.launchWindowWrite off v) s = .next { s with host := { s.host with held := s.host.held ++ [(off, v)] } }) ∧
    (∃ u, exec (.doorbellWrite v) s = .next u ∧
      (∀ k : CoreId, u.cores[k].evpend = s.cores[k].evpend ||| (if v.getLsbD k.val then 2 else 0)) ∧ u.mem = s.mem) ∧
    (s.host.busy = false → ((v.extractLsb' 0 2).toNat < 2 ∨ s.launches = []) →
      exec (.pwrTargetWrite v) s = .next { s with host := { s.host with target := v.extractLsb' 0 2, busy := true,
                                                                        refused := s.host.refused && !v.getLsbD 9 } }) ∧
    (s.host.busy = true ∨ (2 ≤ (v.extractLsb' 0 2).toNat ∧ s.launches ≠ []) →
      exec (.pwrTargetWrite v) s = .next { s with host := { s.host with refused := true } }) ∧
    (∃ u, exec (.fenceWrite v) s = .next u ∧ u.host.fence = s.host.fence ||| v.extractLsb' 0 4 ∧
      (∀ k : CoreId, v.getLsbD (coreDie k).val = true → s.fenced (coreDie k) = false → u.cores[k].halted = true) ∧
      (∀ k : CoreId, v.getLsbD (coreDie k).val = false → u.cores[k] = s.cores[k]) ∧ u.mem = s.mem ∧ u.tiles = s.tiles) ∧
    (∃ u, exec (.dierstWrite v) s = .next u ∧
      (∀ k : CoreId, u.cores[k] = if v.getLsbD (coreDie k).val ∧ s.fenced (coreDie k) = false then {} else s.cores[k]) ∧
      u.mem = s.mem ∧ u.tiles = s.tiles ∧ u.swaps = s.swaps) ∧
    (s.host.attBusy = false → exec (.attnonceWrite w v) s = .next { s with host := { s.host with nonce := s.host.nonce.set w v } }) ∧
    (s.host.attBusy = true →
      exec (.attnonceWrite w v) s = .next { s with host := { s.host with noncePend := s.host.noncePend ++ [(w, v)] } }) ∧
    (s.host.attBusy = false →
      exec .attctlGoWrite s = .next { s with host := { s.host with attBusy := true, attDone := false } }) ∧
    (exec (.tempAlarm d temp) s = .next (s.onDie d (fun x =>
      { x with temp := temp, alarm := x.alarm || decide (1680 ≤ temp.toNat) })))

/-- R37, R39, R388, R400, R403, R405, R408, R409: The module. A module reset and a power removal leave the machine at
reset with its flash, device memory at 0 and the host's own memory as it was (the values are the model's choice, log entry 3); a
power removal also ends the link configuration; a power change completes, and one to P3 leaves every byte of device memory at 0
(log entry 3); the boot ROM loads and starts the cores of a die, or holds them, by checks whose open parts are the model's choice
(log entry 60); a report of the attestation is written as log entry 60 lays it out; the host reads and writes GDDR7 through BAR4
and the home slices (log entry 25), whatever errors the bytes hold (log entry 39); a port that is up counts a flit that fails its CRC, lets go of the messages that
an intact one acknowledges (the structure of a flit is the model's, log entry 45), and carries flits again after a retrain. -/
def Obligations.ModuleEvents : Prop :=
  ∀ (s : State) (d : DieId) (k : CoreId) (off n : Nat) (bytes : List Byte) (port : Fin 18) (acks : List (BitVec 8 × Nat × BitVec 12)),
    let f := s.host.flash
    let l := s.links[port]
    let up := s.linkUp port
    exec .moduleReset s = .next s.moduleReset ∧ exec .powerRemoval s = .next { s.moduleReset with powered := false, module := 0, domain := [] } ∧
    s.moduleReset.host.flash = f ∧ s.moduleReset.mem = s.mem.dropBelow hostBase ∧
    (∀ a < hostBase, s.moduleReset.mem.read a = 0) ∧ (∀ a, hostBase ≤ a → s.moduleReset.mem.read a = s.mem.read a) ∧ s.moduleReset.tiles = [] ∧ s.moduleReset.memTiles = [] ∧
    s.moduleReset.powered = true ∧ s.moduleReset.cores[k] = {} ∧ s.moduleReset.dies[d] = {} ∧
    (s.host.busy = true → s.host.cur ≠ 3 → s.host.target ≠ 3 →
      exec .powerStateChangeComplete s = .next { s with host := { s.host with cur := s.host.target, busy := false } }) ∧
    (s.host.busy = true → s.host.target = 3 →
      ∃ u, exec .powerStateChangeComplete s = .next u ∧ u.host.cur = 3 ∧ u.host.busy = false ∧
        (∀ a < 0x4800000000, u.mem.read a = 0)) ∧
    (s.dies[d].boot = 0 → firmwareGood d f = true →
      ∃ u, exec (.firmwareCheckEnd d) s = .next u ∧ u.dies[d].boot = 1 ∧
        (coreDie k = d → u.cores[k].started = true ∧ u.cores[k].pc = 0 ∧ u.cores[k].lmem = f.slice 16 (firmwareLength f)) ∧
        (coreDie k ≠ d → u.cores[k] = s.cores[k])) ∧
    (firmwareGood d f = true →
      f.readNat 0 4 = 0x48314657 ∧ firmwareLength f % 4 = 0 ∧ 4 ≤ firmwareLength f ∧ firmwareLength f ≤ 262144 ∧
        f.readNat 12 4 = 0 ∧ shake256 (f.readBytes (0x10 + firmwareLength f) 64) 64 = Config.keyHash d ∧
        slhVerify (f.readBytes (0x10 + firmwareLength f) 64) (f.readBytes 0 (0x50 + firmwareLength f))
          (f.readBytes (0x50 + firmwareLength f) 29792) = true) ∧
    (s.dies[d].boot = 0 → firmwareGood d f = false →
      exec (.firmwareCheckEnd d) s = .next (s.onDie d (fun x => { x with boot := 2 }))) ∧
    (s.host.attBusy = true →
      ∃ u, exec .attestationReportDone s = .next u ∧ u.host.attBusy = false ∧ u.host.attDone = true ∧
        u.host.report = attReport s.host ∧ u.host.noncePend = []) ∧
    (s.barsUp = true → s.bar4Fenced off n = false → off + n ≤ 0x4800000000 →
      let answer := some ((List.range n).map (fun i => s.mem.read (off + i)))
      ∃ u, exec (.hostBar4Access (.read off n)) s = .next u ∧ u.host = { s.host with answers := s.host.answers ++ [answer] } ∧
        u.mem = s.mem ∧ u.tiles = s.tiles ∧ (s.ecc = [] → u.cores = s.cores)) ∧
    (s.barsUp = true → s.bar4Fenced off bytes.length = false → off + bytes.length ≤ 0x4800000000 →
      ∃ u, exec (.hostBar4Access (.write off bytes)) s = .next u ∧ u.mem = s.mem.writeBytes off bytes ∧ u.tiles = s.tiles ∧
        (s.ecc = [] → u.cores = s.cores)) ∧
    (up = true → l.replays < 8 → ∃ u, exec (.linkFlitReceive port .badCrc) s = .next u ∧
      u.links[port] = { l with replays := l.replays + 1, err := if l.err = 0xFFFFFFFF then l.err else l.err + 1 }) ∧
    (up = true → l.replays = 8 → ∃ u, exec (.linkFlitReceive port .badCrc) s = .next u ∧
      u.links[port] = { l with replays := 0, lost := true, up := false }) ∧
    (up = true → l.held = [] →
      let heard := { l with replays := 0, out := l.out.filter (fun m =>
        !(acks.contains (m.dest, m.unit, m.serial) && l.carried.contains m)) }
      exec (.linkFlitReceive port (.intact acks [])) s = .next { s with links := s.links.set port heard }) ∧
    exec (.linkRetrainComplete port) s = .next { s with links := s.links.set port { l with up := true } }
end

