-- ==== Sys2Proof/Laws/Encoding.lean ====
section
/-!
SUPPORT. What the fields of an encoded word are: one lemma per field and format (R47, R68), and one per operand field
(R49-R51).
-/
namespace Sys2Proof

set_option linter.unusedSimpArgs false

section FormatA
variable (g : Pg) (op : BitVec 6) (d a b : BitVec 5) (x : BitVec 7)

@[simp] theorem opGuard_fmtA : opGuard (fmtA g op d a b x) = g := by
  cases g; simp (disch := decide) only [opGuard, fmtA, BitVec.extractLsb'_append_eq_of_le, BitVec.extractLsb'_append_eq_of_add_le, BitVec.getLsbD_append, Nat.reduceSub, Nat.reduceLT, if_false, BitVec.extractLsb'_eq_self, decide_false, cond_false]; simp
@[simp] theorem opCode_fmtA : opCode (fmtA g op d a b x) = op := by
  simp (disch := decide) only [opCode, fmtA, BitVec.extractLsb'_append_eq_of_le, BitVec.extractLsb'_append_eq_of_add_le, Nat.reduceSub, BitVec.extractLsb'_eq_self]
@[simp] theorem fD_fmtA : fD (fmtA g op d a b x) = d := by
  simp (disch := decide) only [fD, fmtA, BitVec.extractLsb'_append_eq_of_le, BitVec.extractLsb'_append_eq_of_add_le, Nat.reduceSub, BitVec.extractLsb'_eq_self]
@[simp] theorem fA_fmtA : fA (fmtA g op d a b x) = a := by
  simp (disch := decide) only [fA, fmtA, BitVec.extractLsb'_append_eq_of_le, BitVec.extractLsb'_append_eq_of_add_le, Nat.reduceSub, BitVec.extractLsb'_eq_self]
@[simp] theorem fB_fmtA : fB (fmtA g op d a b x) = b := by
  simp (disch := decide) only [fB, fmtA, BitVec.extractLsb'_append_eq_of_le, BitVec.extractLsb'_append_eq_of_add_le, Nat.reduceSub, BitVec.extractLsb'_eq_self]
@[simp] theorem fX_fmtA : fX (fmtA g op d a b x) = x := by
  simp (disch := decide) only [fX, fmtA, BitVec.extractLsb'_append_eq_of_le, BitVec.extractLsb'_append_eq_of_add_le, Nat.reduceSub, BitVec.extractLsb'_eq_self]
@[simp] theorem fT_fmtA : fT (fmtA g op d a b x) = x.extractLsb' 3 4 := by
  simp (disch := decide) only [fT, fmtA, BitVec.extractLsb'_append_eq_of_le, BitVec.extractLsb'_append_eq_of_add_le, Nat.reduceSub, BitVec.extractLsb'_eq_self]
@[simp] theorem fM_fmtA : fM (fmtA g op d a b x) = x.extractLsb' 0 3 := by
  simp (disch := decide) only [fM, fmtA, BitVec.extractLsb'_append_eq_of_le, BitVec.extractLsb'_append_eq_of_add_le, Nat.reduceSub, BitVec.extractLsb'_eq_self]
theorem bits_fmtA {i n : Nat} (h : i + n ≤ 7) : (fmtA g op d a b x).extractLsb' i n = x.extractLsb' i n := by
  simp [fmtA, BitVec.extractLsb'_append_eq_of_add_le h]
theorem bit_fmtA {i : Nat} (h : i < 7) : (fmtA g op d a b x)[i] = x[i] := by
  rw [← BitVec.getLsbD_eq_getElem, fmtA, BitVec.getLsbD_append, if_pos h, BitVec.getLsbD_eq_getElem]
theorem bitsB_fmtA {i n : Nat} (h : 7 ≤ i) (h' : i + n ≤ 12) :
    (fmtA g op d a b x).extractLsb' i n = b.extractLsb' (i - 7) n := by
  rw [fmtA, BitVec.extractLsb'_append_eq_of_le h, BitVec.extractLsb'_append_eq_of_add_le (by omega)]
theorem bitB_fmtA {i : Nat} (h : 7 ≤ i) (h' : i < 12) : (fmtA g op d a b x)[i] = b[i - 7] := by
  rw [← BitVec.getLsbD_eq_getElem, fmtA, BitVec.getLsbD_append, if_neg (by omega), BitVec.getLsbD_append,
    if_pos (by omega), BitVec.getLsbD_eq_getElem]
end FormatA

section FormatI
variable (g : Pg) (op : BitVec 6) (d a : BitVec 5) (imm : BitVec 12)

@[simp] theorem opGuard_fmtI : opGuard (fmtI g op d a imm) = g := by
  cases g; simp (disch := decide) only [opGuard, fmtI, BitVec.extractLsb'_append_eq_of_le, BitVec.extractLsb'_append_eq_of_add_le, BitVec.getLsbD_append, Nat.reduceSub, Nat.reduceLT, if_false, BitVec.extractLsb'_eq_self, decide_false, cond_false]; simp
@[simp] theorem opCode_fmtI : opCode (fmtI g op d a imm) = op := by
  simp (disch := decide) only [opCode, fmtI, BitVec.extractLsb'_append_eq_of_le, BitVec.extractLsb'_append_eq_of_add_le, Nat.reduceSub, BitVec.extractLsb'_eq_self]
@[simp] theorem fD_fmtI : fD (fmtI g op d a imm) = d := by
  simp (disch := decide) only [fD, fmtI, BitVec.extractLsb'_append_eq_of_le, BitVec.extractLsb'_append_eq_of_add_le, Nat.reduceSub, BitVec.extractLsb'_eq_self]
@[simp] theorem fA_fmtI : fA (fmtI g op d a imm) = a := by
  simp (disch := decide) only [fA, fmtI, BitVec.extractLsb'_append_eq_of_le, BitVec.extractLsb'_append_eq_of_add_le, Nat.reduceSub, BitVec.extractLsb'_eq_self]
@[simp] theorem fImm12_fmtI : fImm12 (fmtI g op d a imm) = imm := by
  simp (disch := decide) only [fImm12, fmtI, BitVec.extractLsb'_append_eq_of_le, BitVec.extractLsb'_append_eq_of_add_le, Nat.reduceSub, BitVec.extractLsb'_eq_self]
theorem bits_fmtI {i n : Nat} (h : i + n ≤ 12) : (fmtI g op d a imm).extractLsb' i n = imm.extractLsb' i n := by
  simp [fmtI, BitVec.extractLsb'_append_eq_of_add_le h]
@[simp] theorem cond_fmtI : (fmtI g op d a imm).extractLsb' 20 2 = d.extractLsb' 3 2 := by
  simp (disch := decide) only [fmtI, BitVec.extractLsb'_append_eq_of_le, BitVec.extractLsb'_append_eq_of_add_le, Nat.reduceSub]
end FormatI

section FormatL
variable (g : Pg) (op : BitVec 6) (d : BitVec 5) (imm : BitVec 17) (off : BitVec 22)

@[simp] theorem opGuard_fmtL : opGuard (fmtL g op d imm) = g := by
  cases g; simp (disch := decide) only [opGuard, fmtL, BitVec.extractLsb'_append_eq_of_le, BitVec.extractLsb'_append_eq_of_add_le, BitVec.getLsbD_append, Nat.reduceSub, Nat.reduceLT, if_false, BitVec.extractLsb'_eq_self, decide_false, cond_false]; simp
@[simp] theorem opCode_fmtL : opCode (fmtL g op d imm) = op := by
  simp (disch := decide) only [opCode, fmtL, BitVec.extractLsb'_append_eq_of_le, BitVec.extractLsb'_append_eq_of_add_le, Nat.reduceSub, BitVec.extractLsb'_eq_self]
@[simp] theorem fD_fmtL : fD (fmtL g op d imm) = d := by
  simp (disch := decide) only [fD, fmtL, BitVec.extractLsb'_append_eq_of_le, BitVec.extractLsb'_append_eq_of_add_le, Nat.reduceSub, BitVec.extractLsb'_eq_self]
@[simp] theorem fImm17_fmtL : fImm17 (fmtL g op d imm) = imm := by
  simp (disch := decide) only [fImm17, fmtL, BitVec.extractLsb'_append_eq_of_le, BitVec.extractLsb'_append_eq_of_add_le, Nat.reduceSub, BitVec.extractLsb'_eq_self]
@[simp] theorem opGuard_fmtJ : opGuard (fmtJ g op off) = g := by
  cases g; simp (disch := decide) only [opGuard, fmtJ, BitVec.extractLsb'_append_eq_of_le, BitVec.extractLsb'_append_eq_of_add_le, BitVec.getLsbD_append, Nat.reduceSub, Nat.reduceLT, if_false, BitVec.extractLsb'_eq_self, decide_false, cond_false]; simp
@[simp] theorem opCode_fmtJ : opCode (fmtJ g op off) = op := by
  simp (disch := decide) only [opCode, fmtJ, BitVec.extractLsb'_append_eq_of_le, BitVec.extractLsb'_append_eq_of_add_le, Nat.reduceSub, BitVec.extractLsb'_eq_self]
@[simp] theorem fOff22_fmtJ : fOff22 (fmtJ g op off) = off := by
  simp (disch := decide) only [fOff22, fmtJ, BitVec.extractLsb'_append_eq_of_le, BitVec.extractLsb'_append_eq_of_add_le, Nat.reduceSub, BitVec.extractLsb'_eq_self]
end FormatL

section FormatC
variable (g : Pg) (op : BitVec 6) (h : BitVec 4) (r : BitVec 5) (n : BitVec 6) (x : BitVec 7)

@[simp] theorem opGuard_fmtC : opGuard (fmtC g op h r n x) = g := by
  cases g; simp (disch := decide) only [opGuard, fmtC, BitVec.extractLsb'_append_eq_of_le, BitVec.extractLsb'_append_eq_of_add_le, BitVec.getLsbD_append, Nat.reduceSub, Nat.reduceLT, if_false, BitVec.extractLsb'_eq_self, decide_false, cond_false]; simp
@[simp] theorem opCode_fmtC : opCode (fmtC g op h r n x) = op := by
  simp (disch := decide) only [opCode, fmtC, BitVec.extractLsb'_append_eq_of_le, BitVec.extractLsb'_append_eq_of_add_le, Nat.reduceSub, BitVec.extractLsb'_eq_self]
@[simp] theorem fH_fmtC : fH (fmtC g op h r n x) = h := by
  simp (disch := decide) only [fH, fmtC, BitVec.extractLsb'_append_eq_of_le, BitVec.extractLsb'_append_eq_of_add_le, Nat.reduceSub, BitVec.extractLsb'_eq_self]
@[simp] theorem fG_fmtC : fG (fmtC g op h r n x) = r := by
  simp (disch := decide) only [fG, fmtC, BitVec.extractLsb'_append_eq_of_le, BitVec.extractLsb'_append_eq_of_add_le, Nat.reduceSub, BitVec.extractLsb'_eq_self]
@[simp] theorem fN_fmtC : fN (fmtC g op h r n x) = n := by
  simp (disch := decide) only [fN, fmtC, BitVec.extractLsb'_append_eq_of_le, BitVec.extractLsb'_append_eq_of_add_le, Nat.reduceSub, BitVec.extractLsb'_eq_self]
@[simp] theorem fX_fmtC : fX (fmtC g op h r n x) = x := by
  simp (disch := decide) only [fX, fmtC, BitVec.extractLsb'_append_eq_of_le, BitVec.extractLsb'_append_eq_of_add_le, Nat.reduceSub, BitVec.extractLsb'_eq_self]
@[simp] theorem fT_fmtC : fT (fmtC g op h r n x) = x.extractLsb' 3 4 := by
  simp (disch := decide) only [fT, fmtC, BitVec.extractLsb'_append_eq_of_le, BitVec.extractLsb'_append_eq_of_add_le, Nat.reduceSub, BitVec.extractLsb'_eq_self]
@[simp] theorem fM_fmtC : fM (fmtC g op h r n x) = x.extractLsb' 0 3 := by
  simp (disch := decide) only [fM, fmtC, BitVec.extractLsb'_append_eq_of_le, BitVec.extractLsb'_append_eq_of_add_le, Nat.reduceSub, BitVec.extractLsb'_eq_self]
theorem bits_fmtC {i k : Nat} (e : i + k ≤ 7) : (fmtC g op h r n x).extractLsb' i k = x.extractLsb' i k := by
  simp [fmtC, BitVec.extractLsb'_append_eq_of_add_le e]
theorem bit_fmtC {i : Nat} (e : i < 7) : (fmtC g op h r n x)[i] = x[i] := by
  rw [← BitVec.getLsbD_eq_getElem, fmtC, BitVec.getLsbD_append, if_pos e, BitVec.getLsbD_eq_getElem]
end FormatC

section Core
variable (op : BitVec 6) (d a b : BitVec 5) (imm : BitVec 16) (off : BitVec 21) (num : BitVec 12)

@[simp] theorem ccOp_fmtCR : ccOp (fmtCR op d a b) = op := by
  simp (disch := decide) only [ccOp, fmtCR, BitVec.extractLsb'_append_eq_of_le, BitVec.extractLsb'_append_eq_of_add_le, Nat.reduceSub, BitVec.extractLsb'_eq_self]
@[simp] theorem ccD_fmtCR : ccD (fmtCR op d a b) = d := by
  simp (disch := decide) only [ccD, fmtCR, BitVec.extractLsb'_append_eq_of_le, BitVec.extractLsb'_append_eq_of_add_le, Nat.reduceSub, BitVec.extractLsb'_eq_self]
@[simp] theorem ccA_fmtCR : ccA (fmtCR op d a b) = a := by
  simp (disch := decide) only [ccA, fmtCR, BitVec.extractLsb'_append_eq_of_le, BitVec.extractLsb'_append_eq_of_add_le, Nat.reduceSub, BitVec.extractLsb'_eq_self]
@[simp] theorem ccB_fmtCR : ccB (fmtCR op d a b) = b := by
  simp (disch := decide) only [ccB, fmtCR, BitVec.extractLsb'_append_eq_of_le, BitVec.extractLsb'_append_eq_of_add_le, Nat.reduceSub, BitVec.extractLsb'_eq_self]
@[simp] theorem low_fmtCR : (fmtCR op d a b).extractLsb' 0 11 = 0#11 := by
  simp (disch := decide) only [fmtCR, BitVec.extractLsb'_append_eq_of_add_le, BitVec.extractLsb'_eq_self]
@[simp] theorem ccOp_fmtCI : ccOp (fmtCI op d a imm) = op := by
  simp (disch := decide) only [ccOp, fmtCI, BitVec.extractLsb'_append_eq_of_le, BitVec.extractLsb'_append_eq_of_add_le, Nat.reduceSub, BitVec.extractLsb'_eq_self]
@[simp] theorem ccD_fmtCI : ccD (fmtCI op d a imm) = d := by
  simp (disch := decide) only [ccD, fmtCI, BitVec.extractLsb'_append_eq_of_le, BitVec.extractLsb'_append_eq_of_add_le, Nat.reduceSub, BitVec.extractLsb'_eq_self]
@[simp] theorem ccA_fmtCI : ccA (fmtCI op d a imm) = a := by
  simp (disch := decide) only [ccA, fmtCI, BitVec.extractLsb'_append_eq_of_le, BitVec.extractLsb'_append_eq_of_add_le, Nat.reduceSub, BitVec.extractLsb'_eq_self]
@[simp] theorem ccImm_fmtCI : ccImm (fmtCI op d a imm) = imm := by
  simp (disch := decide) only [ccImm, fmtCI, BitVec.extractLsb'_append_eq_of_le, BitVec.extractLsb'_append_eq_of_add_le, Nat.reduceSub, BitVec.extractLsb'_eq_self]
theorem bits_fmtCI {i n : Nat} (h : i + n ≤ 16) : (fmtCI op d a imm).extractLsb' i n = imm.extractLsb' i n := by
  simp [fmtCI, BitVec.extractLsb'_append_eq_of_add_le h]
@[simp] theorem ccOp_fmtCJ : ccOp (fmtCJ op d off) = op := by
  simp (disch := decide) only [ccOp, fmtCJ, BitVec.extractLsb'_append_eq_of_le, BitVec.extractLsb'_append_eq_of_add_le, Nat.reduceSub, BitVec.extractLsb'_eq_self]
@[simp] theorem ccD_fmtCJ : ccD (fmtCJ op d off) = d := by
  simp (disch := decide) only [ccD, fmtCJ, BitVec.extractLsb'_append_eq_of_le, BitVec.extractLsb'_append_eq_of_add_le, Nat.reduceSub, BitVec.extractLsb'_eq_self]
@[simp] theorem ccOff21_fmtCJ : ccOff21 (fmtCJ op d off) = off := by
  simp (disch := decide) only [ccOff21, fmtCJ, BitVec.extractLsb'_append_eq_of_le, BitVec.extractLsb'_append_eq_of_add_le, Nat.reduceSub, BitVec.extractLsb'_eq_self]
@[simp] theorem ccOp_fmtCS : ccOp (fmtCS op d a num) = op := by
  simp (disch := decide) only [ccOp, fmtCS, BitVec.extractLsb'_append_eq_of_le, BitVec.extractLsb'_append_eq_of_add_le, Nat.reduceSub, BitVec.extractLsb'_eq_self]
@[simp] theorem ccD_fmtCS : ccD (fmtCS op d a num) = d := by
  simp (disch := decide) only [ccD, fmtCS, BitVec.extractLsb'_append_eq_of_le, BitVec.extractLsb'_append_eq_of_add_le, Nat.reduceSub, BitVec.extractLsb'_eq_self]
@[simp] theorem ccA_fmtCS : ccA (fmtCS op d a num) = a := by
  simp (disch := decide) only [ccA, fmtCS, BitVec.extractLsb'_append_eq_of_le, BitVec.extractLsb'_append_eq_of_add_le, Nat.reduceSub, BitVec.extractLsb'_eq_self]
@[simp] theorem ccCsr_fmtCS : ccCsr (fmtCS op d a num) = num := by
  simp (disch := decide) only [ccCsr, fmtCS, BitVec.extractLsb'_append_eq_of_le, BitVec.extractLsb'_append_eq_of_add_le, Nat.reduceSub, BitVec.extractLsb'_eq_self]
@[simp] theorem low_fmtCS : (fmtCS op d a num).extractLsb' 12 4 = 0#4 := by
  simp (disch := decide) only [fmtCS, BitVec.extractLsb'_append_eq_of_le, BitVec.extractLsb'_append_eq_of_add_le, Nat.reduceSub, BitVec.extractLsb'_eq_self]
@[simp] theorem ccOp_fmtCN : ccOp (fmtCN op) = op := by
  simp (disch := decide) only [ccOp, fmtCN, BitVec.extractLsb'_append_eq_of_le, Nat.reduceSub, BitVec.extractLsb'_eq_self]
@[simp] theorem low_fmtCN : (fmtCN op).extractLsb' 0 26 = 0#26 := by
  simp (disch := decide) only [fmtCN, BitVec.extractLsb'_append_eq_of_add_le, BitVec.extractLsb'_eq_self]
end Core

@[simp] theorem low3_p5 (p : BitVec 3) : low3 (p5 p) = p := by revert p; decide
@[simp] theorem low2_setWidth (p : BitVec 2) : low2 (p.setWidth 5) = p := by revert p; decide
@[simp] theorem low1_acc5 (d : Bool) : low1 (acc5 d) = d := by cases d <;> rfl
@[simp] theorem vreg_v5 (r : BitVec 4) : vreg (v5 r) = some r := by revert r; decide
@[simp] theorem pairReg_pair5 (p : BitVec 4) : pairReg (pair5 p) = some p := by revert p; decide
@[simp] theorem inHandle_hIn (ch : BitVec 3) : inHandle (hIn ch) = some ch := by revert ch; decide
@[simp] theorem outHandle_hOut (ch : BitVec 3) : outHandle (hOut ch) = some ch := by revert ch; decide
@[simp] theorem tm_t (t : BitVec 4) (m : BitVec 3) : (tm t m).extractLsb' 3 4 = t := by revert t m; decide
@[simp] theorem tm_m (t : BitVec 4) (m : BitVec 3) : (tm t m).extractLsb' 0 3 = m := by revert t m; decide
@[simp] theorem satM_bit2 (s : Bool) (f : BitVec 1) : (satM s f)[2] = false := by revert s f; decide
@[simp] theorem satM_bit1 (s : Bool) (f : BitVec 1) : (satM s f)[1] = s := by revert s f; decide
@[simp] theorem satM_bit0 (s : Bool) (f : BitVec 1) : (satM s f)[0] = f[0] := by revert s f; decide
@[simp] theorem low3_append (c : BitVec 2) (p : BitVec 3) : low3 (c ++ p) = p := by revert c p; decide

/-- An accepted instruction stands. -/
theorem accept_some {i : Instr} (h : i.wf = true) : accept (some i) = some i := by simp [accept, whenB, h]

end Sys2Proof
end

