-- ==== Sys2Proof/Laws/Issue.lean ====
section
/-!
SUPPORT. What the issue of one op can do: it takes effect, it makes its bank wait, or it faults; and that nothing else of an
op than its writes, its effect and its flow reaches the state.
-/
namespace Sys2Proof.Machine

/-- WCLASH looks at the writes of a bundle only. -/
theorem wclash_writes (pend : List PWrite) (k : Slot) (p : Plan) :
    wclash pend [(k, p)] = wclash pend [(k, { writes := p.writes })] := by
  simp [wclash, Plan.live]

/-- Two writes that differ in their values only. -/
def SameShape (a b : Nat × PVal) : Prop := a.1 = b.1 ∧ a.2.dests = b.2.dests ∧ a.2.discarded = b.2.discarded

/-- Filters that agree on shapes keep lists of one shape. -/
theorem filter_shape {xs ys : List (Nat × PVal)} (h : List.Forall₂ SameShape xs ys) {f g : Nat × PVal → Bool}
    (hfg : ∀ a b, SameShape a b → f a = g b) : List.Forall₂ SameShape (xs.filter f) (ys.filter g) := by
  induction h with
  | nil => exact .nil
  | @cons a b l r hab _ ih =>
    have he := hfg a b hab
    cases hg : g b with
    | false => simpa [he, hg] using ih
    | true => simpa [he, hg] using ⟨hab, ih⟩

/-- Where writes land does not depend on their values. -/
theorem landings_shape {xs ys : List (Nat × PVal)} (h : List.Forall₂ SameShape xs ys) : landings xs = landings ys := by
  induction h with
  | nil => rfl
  | @cons a b l r hab _ ih =>
    have he : landings (a :: l) = a.2.dests.map (fun q => (a.1, q)) ++ landings l := rfl
    have hf : landings (b :: r) = b.2.dests.map (fun q => (b.1, q)) ++ landings r := rfl
    rw [he, hf, hab.1, hab.2.1, ih]

/-- WCLASH does not look at the values of the writes. -/
theorem wclash_shape (pend : List PWrite) (k : Slot) {xs ys : List (Nat × PVal)} (h : List.Forall₂ SameShape xs ys) :
    wclash pend [(k, { writes := xs })] = wclash pend [(k, { writes := ys })] := by
  have hl := landings_shape (filter_shape h (f := fun w => !w.2.discarded) (g := fun w => !w.2.discarded)
    (fun a b hab => by rw [hab.2.2]))
  simp only [wclash, Plan.live, List.flatMap_cons, List.flatMap_nil, List.append_nil, List.findSome?_cons,
    List.findSome?_nil, hl]

/-- Phase 1 of one op without errors in what it reads is the check of the op. -/
theorem phase1_one {s : State} {k : Slot} {p : Plan} (h1 : s.bundleEcc = none) (h2 : s.parity p.reads = none) :
    s.phase1 [(k, p)] = p.check.map (fun f => (k, f)) := by
  cases hc : p.check <;> simp [State.phase1, h1, h2, hc]

/-- What an op leaves depends on its writes, its effect and its flow. -/
theorem commit_congr (s : State) (k : Slot) {p q : Plan} (hw : p.writes = q.writes) (ha : p.act = q.act)
    (hf : p.flow = q.flow) : s.commit [(k, p)] = s.commit [(k, q)] := by
  simp only [State.commit, Plan.live, flowOf, List.foldl, List.flatMap_cons, List.flatMap_nil, hw, ha, List.find?]
  cases hk : (k == Slot.s) <;> simp [hf]

/-- A clear state has no WCLASH, and the bundle is checked or free of errors. -/
theorem clear_iff {s : State} {k : Slot} {rs : List RegRef} {ws : List (Nat × PVal)} :
    s.clear k rs ws = true ↔ wclash s.curBank.pending [(k, { writes := ws })] = none ∧
      (s.curBank.checked = true ∨ (s.bundleEcc = none ∧ s.parity rs = none)) := by
  simp [State.clear]

/-- An op that passes its checks and whose wait is over takes effect. -/
theorem issue_commit {s : State} {k : Slot} {p : Plan} (hb : p.brange = none) (hc : p.check = none) (hr : p.ready = true)
    (hl : p.late = none) (h : s.clear k p.reads p.writes = true) : s.issue [(k, p)] = s.commit [(k, p)] := by
  obtain ⟨h1, h2⟩ := clear_iff.1 h
  have hp : (if s.curBank.checked = true then none else s.phase1 [(k, p)]) = none := by
    split
    · rfl
    · obtain h2 | ⟨h3, h4⟩ := h2
      · contradiction
      · rw [phase1_one h3 h4, hc]; rfl
  rw [← wclash_writes] at h1
  simp [State.issue, hb, h1, hp, hr, hl]

/-- An op whose wait is not over makes its bank wait. -/
theorem issue_wait {s : State} {k : Slot} {p : Plan} (hb : p.brange = none) (hc : p.check = none) (hr : p.ready = false)
    (h : s.clear k p.reads p.writes = true) :
    s.issue [(k, p)] = s.onCurBank (fun b =>
      { p.onWait b with wait := p.wait, checked := true }) := by
  obtain ⟨h1, h2⟩ := clear_iff.1 h
  have hp : (if s.curBank.checked = true then none else s.phase1 [(k, p)]) = none := by
    split
    · rfl
    · obtain h2 | ⟨h3, h4⟩ := h2
      · contradiction
      · rw [phase1_one h3 h4, hc]; rfl
  rw [← wclash_writes] at h1
  simp [State.issue, hb, h1, hp, hr]

/-- An op that fails a check of phase 1 faults in its slot. -/
theorem issue_fault {s : State} {k : Slot} {p : Plan} {f : FaultInfo} (hb : p.brange = none) (hc : p.check = some f)
    (hk : s.curBank.checked = false) (h : s.clear k p.reads p.writes = true) :
    s.issue [(k, p)] = s.faultHere k f := by
  obtain ⟨h1, h2⟩ := clear_iff.1 h
  have hp : s.phase1 [(k, p)] = some (k, f) := by
    obtain h2 | ⟨h3, h4⟩ := h2
    · simp [hk] at h2
    · rw [phase1_one h3 h4, hc]; rfl
  rw [← wclash_writes] at h1
  simp [State.issue, hb, h1, hp, hk]

variable {s : State} {k : Slot} {g : Pg} {on off : State → Plan} {rs : List RegRef} {q : Plan} {ws : List (Nat × PVal)}

/-- An op whose predicate holds issues by itself: its plan, with nothing that bars it, takes effect. -/
theorem issueOne_commit (he : s.settle.curBank.enabled g = true)
    (h : s.settle.clear k (⟨2, g.pr.toNat⟩ :: rs) q.writes = true)
    (hrs : (on s.settle).reads = rs) (hb : (on s.settle).brange = none) (hc : (on s.settle).check = none)
    (hr : (on s.settle).ready = true) (hl : (on s.settle).late = none) (hw : (on s.settle).writes = q.writes)
    (ha : (on s.settle).act = q.act) (hf : (on s.settle).flow = q.flow) :
    issueOne (guarded k g on off) s = .next (s.settle.commit [(k, q)]) := by
  subst hrs
  simp only [issueOne, guarded, he, if_true, Host.Outcome.next.injEq]
  rw [issue_commit (p := { on s.settle with reads := ⟨2, g.pr.toNat⟩ :: (on s.settle).reads }) hb hc hr hl (hw ▸ h)]
  exact commit_congr _ _ hw ha hf

/-- The same for an op that its predicate turns off. -/
theorem issueOne_off (he : s.settle.curBank.enabled g = false)
    (h : s.settle.clear k (⟨2, g.pr.toNat⟩ :: rs) q.writes = true)
    (hrs : (off s.settle).reads = rs) (hb : (off s.settle).brange = none) (hc : (off s.settle).check = none)
    (hr : (off s.settle).ready = true) (hl : (off s.settle).late = none) (hw : (off s.settle).writes = q.writes)
    (ha : (off s.settle).act = q.act) (hf : (off s.settle).flow = q.flow) :
    issueOne (guarded k g on off) s = .next (s.settle.commit [(k, q)]) := by
  subst hrs
  simp only [issueOne, guarded, he, Host.Outcome.next.injEq, Bool.false_eq_true, if_false]
  rw [issue_commit (p := { off s.settle with reads := ⟨2, g.pr.toNat⟩ :: (off s.settle).reads }) hb hc hr hl (hw ▸ h)]
  exact commit_congr _ _ hw ha hf

/-- An op whose predicate holds and whose wait is not over makes its bank wait, with what it notes while it waits. -/
theorem issueOne_waits {c : BitVec 4} (he : s.settle.curBank.enabled g = true)
    (h : s.settle.clear k (⟨2, g.pr.toNat⟩ :: rs) ws = true)
    (hrs : (on s.settle).reads = rs) (hb : (on s.settle).brange = none) (hc : (on s.settle).check = none)
    (hr : (on s.settle).ready = false) (hw : List.Forall₂ SameShape (on s.settle).writes ws)
    (hcode : (on s.settle).wait = c) :
    issueOne (guarded k g on off) s =
      .next (s.settle.onCurBank (fun b => { (on s.settle).onWait b with wait := c, checked := true })) := by
  subst hrs
  subst hcode
  simp only [issueOne, guarded, he, if_true, Host.Outcome.next.injEq]
  rw [issue_wait (p := { on s.settle with reads := ⟨2, g.pr.toNat⟩ :: (on s.settle).reads }) hb hc hr
    (clear_iff.2 ⟨(wclash_shape _ _ hw).trans (clear_iff.1 h).1, (clear_iff.1 h).2⟩)]

/-- The same for an op that notes nothing. -/
theorem issueOne_wait {c : BitVec 4} (he : s.settle.curBank.enabled g = true)
    (h : s.settle.clear k (⟨2, g.pr.toNat⟩ :: rs) ws = true)
    (hrs : (on s.settle).reads = rs) (hb : (on s.settle).brange = none) (hc : (on s.settle).check = none)
    (hr : (on s.settle).ready = false) (ho : (on s.settle).onWait = id)
    (hw : List.Forall₂ SameShape (on s.settle).writes ws) (hcode : (on s.settle).wait = c) :
    issueOne (guarded k g on off) s =
      .next (s.settle.onCurBank (fun b => { b with wait := c, checked := true })) := by
  rw [issueOne_waits he h hrs hb hc hr hw hcode, ho]
  rfl

/-- An op whose predicate holds and that fails a check of phase 1 faults. -/
theorem issueOne_fault {f : FaultInfo} (he : s.settle.curBank.enabled g = true) (hk : s.settle.curBank.checked = false)
    (h : s.settle.clear k (⟨2, g.pr.toNat⟩ :: rs) ws = true)
    (hrs : (on s.settle).reads = rs) (hb : (on s.settle).brange = none) (hc : (on s.settle).check = some f)
    (hw : List.Forall₂ SameShape (on s.settle).writes ws) :
    issueOne (guarded k g on off) s = .next (s.settle.faultHere k f) := by
  subst hrs
  simp only [issueOne, guarded, he, if_true, Host.Outcome.next.injEq]
  rw [issue_fault (p := { on s.settle with reads := ⟨2, g.pr.toNat⟩ :: (on s.settle).reads }) hb hc hk
    (clear_iff.2 ⟨(wclash_shape _ _ hw).trans (clear_iff.1 h).1, (clear_iff.1 h).2⟩)]

/-- An op whose predicate holds and that branches outside the leaf faults BRANGE, before everything else. -/
theorem issueOne_brange {a : W32} (he : s.settle.curBank.enabled g = true) (hb : (on s.settle).brange = some a) :
    issueOne (guarded k g on off) s = .next (s.settle.faultHere k (faultOf .brange a)) := by
  simp [issueOne, guarded, he, State.issue, hb]

end Sys2Proof.Machine
end

