-- ==== Sys2Proof/Laws/State.lean ====
section
/-!
SUPPORT. The state's tables and updates: what a table holds after a change, one lemma per field that an update leaves, and
what the tile, the context, the bank, the box, the memory tile, the die and the core are after an update.
-/
namespace Sys2Proof.Machine

/-! ## Tables -/

@[simp] theorem FMap.get_set_same {α : Type} (m : FMap α) (k : Nat) (x d : α) : (m.set k x).get k d = x := by
  induction m with
  | nil => simp [FMap.set, FMap.get]
  | cons e r ih =>
    obtain ⟨j, y⟩ := e
    by_cases h : j = k <;> simp [FMap.set, FMap.get, h, ih]

theorem FMap.get_set_ne {α : Type} (m : FMap α) {j k : Nat} (x d : α) (h : k ≠ j) : (m.set k x).get j d = m.get j d := by
  induction m with
  | nil => simp [FMap.set, FMap.get, h]
  | cons e r ih =>
    obtain ⟨i, y⟩ := e
    by_cases hk : i = k
    · subst hk; simp [FMap.set, FMap.get, h]
    · by_cases hj : i = j
      · subst hj; simp [FMap.set, FMap.get, hk]
      · simp [FMap.set, FMap.get, hk, hj, ih]

theorem FMap.get_set {α : Type} (m : FMap α) (j k : Nat) (x d : α) :
    (m.set k x).get j d = if k = j then x else m.get j d := by
  by_cases h : k = j
  · subst h; simp
  · simp [FMap.get_set_ne m x d h, h]

theorem Site.toNat_ne {t u : Site} (h : t ≠ u) : t.toNat ≠ u.toNat := fun e => h (BitVec.eq_of_toNat_eq e)

/-! ## Fields that an update leaves -/

section Fields
variable (s : State)

@[simp] theorem State.onTile_agenda (t : Site) (f : Tile → Tile) : (s.onTile t f).agenda = s.agenda := rfl
@[simp] theorem State.onTile_solo (t : Site) (f : Tile → Tile) : (s.onTile t f).solo = s.solo := rfl
@[simp] theorem State.onTile_choices (t : Site) (f : Tile → Tile) : (s.onTile t f).choices = s.choices := rfl
@[simp] theorem State.onTile_cur (t : Site) (f : Tile → Tile) : (s.onTile t f).cur = s.cur := rfl
@[simp] theorem State.onTile_nextId (t : Site) (f : Tile → Tile) : (s.onTile t f).nextId = s.nextId := rfl
@[simp] theorem State.onTile_boxes (t : Site) (f : Tile → Tile) : (s.onTile t f).boxes = s.boxes := rfl
@[simp] theorem State.onTile_memTiles (t : Site) (f : Tile → Tile) : (s.onTile t f).memTiles = s.memTiles := rfl
@[simp] theorem State.onTile_dies (t : Site) (f : Tile → Tile) : (s.onTile t f).dies = s.dies := rfl
@[simp] theorem State.onTile_cores (t : Site) (f : Tile → Tile) : (s.onTile t f).cores = s.cores := rfl
@[simp] theorem State.onTile_mem (t : Site) (f : Tile → Tile) : (s.onTile t f).mem = s.mem := rfl
@[simp] theorem State.onTile_flight (t : Site) (f : Tile → Tile) : (s.onTile t f).flight = s.flight := rfl
@[simp] theorem State.onTile_releases (t : Site) (f : Tile → Tile) : (s.onTile t f).releases = s.releases := rfl
@[simp] theorem State.onTile_reports (t : Site) (f : Tile → Tile) : (s.onTile t f).reports = s.reports := rfl
@[simp] theorem State.onTile_acks (t : Site) (f : Tile → Tile) : (s.onTile t f).acks = s.acks := rfl
@[simp] theorem State.onTile_invals (t : Site) (f : Tile → Tile) : (s.onTile t f).invals = s.invals := rfl
@[simp] theorem State.onTile_acking (t : Site) (f : Tile → Tile) : (s.onTile t f).acking = s.acking := rfl
@[simp] theorem State.onTile_replies (t : Site) (f : Tile → Tile) : (s.onTile t f).replies = s.replies := rfl
@[simp] theorem State.onTile_filters (t : Site) (f : Tile → Tile) : (s.onTile t f).filters = s.filters := rfl
@[simp] theorem State.onTile_ecc (t : Site) (f : Tile → Tile) : (s.onTile t f).ecc = s.ecc := rfl
@[simp] theorem State.onTile_gateways (t : Site) (f : Tile → Tile) : (s.onTile t f).gateways = s.gateways := rfl
@[simp] theorem State.onTile_slices (t : Site) (f : Tile → Tile) : (s.onTile t f).slices = s.slices := rfl
@[simp] theorem State.onTile_amos (t : Site) (f : Tile → Tile) : (s.onTile t f).amos = s.amos := rfl
@[simp] theorem State.onTile_grants (t : Site) (f : Tile → Tile) : (s.onTile t f).grants = s.grants := rfl
@[simp] theorem State.onTile_probes (t : Site) (f : Tile → Tile) : (s.onTile t f).probes = s.probes := rfl
@[simp] theorem State.onTile_ready (t : Site) (f : Tile → Tile) : (s.onTile t f).ready = s.ready := rfl
@[simp] theorem State.onTile_chunks (t : Site) (f : Tile → Tile) : (s.onTile t f).chunks = s.chunks := rfl
@[simp] theorem State.onTile_incs (t : Site) (f : Tile → Tile) : (s.onTile t f).incs = s.incs := rfl
@[simp] theorem State.onTile_tinvs (t : Site) (f : Tile → Tile) : (s.onTile t f).tinvs = s.tinvs := rfl
@[simp] theorem State.onTile_graphs (t : Site) (f : Tile → Tile) : (s.onTile t f).graphs = s.graphs := rfl
@[simp] theorem State.onTile_parts (t : Site) (f : Tile → Tile) : (s.onTile t f).parts = s.parts := rfl
@[simp] theorem State.onTile_launch (t : Site) (f : Tile → Tile) : (s.onTile t f).launch = s.launch := rfl
@[simp] theorem State.onTile_pool (t : Site) (f : Tile → Tile) : (s.onTile t f).pool = s.pool := rfl
@[simp] theorem State.onTile_launches (t : Site) (f : Tile → Tile) : (s.onTile t f).launches = s.launches := rfl
@[simp] theorem State.onTile_orders (t : Site) (f : Tile → Tile) : (s.onTile t f).orders = s.orders := rfl
@[simp] theorem State.onTile_election (t : Site) (f : Tile → Tile) : (s.onTile t f).election = s.election := rfl
@[simp] theorem State.onTile_swaps (t : Site) (f : Tile → Tile) : (s.onTile t f).swaps = s.swaps := rfl
@[simp] theorem State.onTile_stash (t : Site) (f : Tile → Tile) : (s.onTile t f).stash = s.stash := rfl
@[simp] theorem State.onTile_links (t : Site) (f : Tile → Tile) : (s.onTile t f).links = s.links := rfl
@[simp] theorem State.onTile_module (t : Site) (f : Tile → Tile) : (s.onTile t f).module = s.module := rfl
@[simp] theorem State.onTile_domain (t : Site) (f : Tile → Tile) : (s.onTile t f).domain = s.domain := rfl
@[simp] theorem State.onTile_host (t : Site) (f : Tile → Tile) : (s.onTile t f).host = s.host := rfl
@[simp] theorem State.onTile_powered (t : Site) (f : Tile → Tile) : (s.onTile t f).powered = s.powered := rfl

@[simp] theorem State.onCtx_agenda (t : Site) (l : Leaf) (f : LeafCtx → LeafCtx) : (s.onCtx t l f).agenda = s.agenda := rfl
@[simp] theorem State.onCtx_solo (t : Site) (l : Leaf) (f : LeafCtx → LeafCtx) : (s.onCtx t l f).solo = s.solo := rfl
@[simp] theorem State.onCtx_choices (t : Site) (l : Leaf) (f : LeafCtx → LeafCtx) : (s.onCtx t l f).choices = s.choices := rfl
@[simp] theorem State.onCtx_cur (t : Site) (l : Leaf) (f : LeafCtx → LeafCtx) : (s.onCtx t l f).cur = s.cur := rfl
@[simp] theorem State.onCtx_nextId (t : Site) (l : Leaf) (f : LeafCtx → LeafCtx) : (s.onCtx t l f).nextId = s.nextId := rfl
@[simp] theorem State.onCtx_boxes (t : Site) (l : Leaf) (f : LeafCtx → LeafCtx) : (s.onCtx t l f).boxes = s.boxes := rfl
@[simp] theorem State.onCtx_memTiles (t : Site) (l : Leaf) (f : LeafCtx → LeafCtx) : (s.onCtx t l f).memTiles = s.memTiles := rfl
@[simp] theorem State.onCtx_dies (t : Site) (l : Leaf) (f : LeafCtx → LeafCtx) : (s.onCtx t l f).dies = s.dies := rfl
@[simp] theorem State.onCtx_cores (t : Site) (l : Leaf) (f : LeafCtx → LeafCtx) : (s.onCtx t l f).cores = s.cores := rfl
@[simp] theorem State.onCtx_mem (t : Site) (l : Leaf) (f : LeafCtx → LeafCtx) : (s.onCtx t l f).mem = s.mem := rfl
@[simp] theorem State.onCtx_flight (t : Site) (l : Leaf) (f : LeafCtx → LeafCtx) : (s.onCtx t l f).flight = s.flight := rfl
@[simp] theorem State.onCtx_releases (t : Site) (l : Leaf) (f : LeafCtx → LeafCtx) : (s.onCtx t l f).releases = s.releases := rfl
@[simp] theorem State.onCtx_reports (t : Site) (l : Leaf) (f : LeafCtx → LeafCtx) : (s.onCtx t l f).reports = s.reports := rfl
@[simp] theorem State.onCtx_acks (t : Site) (l : Leaf) (f : LeafCtx → LeafCtx) : (s.onCtx t l f).acks = s.acks := rfl
@[simp] theorem State.onCtx_invals (t : Site) (l : Leaf) (f : LeafCtx → LeafCtx) : (s.onCtx t l f).invals = s.invals := rfl
@[simp] theorem State.onCtx_acking (t : Site) (l : Leaf) (f : LeafCtx → LeafCtx) : (s.onCtx t l f).acking = s.acking := rfl
@[simp] theorem State.onCtx_replies (t : Site) (l : Leaf) (f : LeafCtx → LeafCtx) : (s.onCtx t l f).replies = s.replies := rfl
@[simp] theorem State.onCtx_filters (t : Site) (l : Leaf) (f : LeafCtx → LeafCtx) : (s.onCtx t l f).filters = s.filters := rfl
@[simp] theorem State.onCtx_ecc (t : Site) (l : Leaf) (f : LeafCtx → LeafCtx) : (s.onCtx t l f).ecc = s.ecc := rfl
@[simp] theorem State.onCtx_gateways (t : Site) (l : Leaf) (f : LeafCtx → LeafCtx) : (s.onCtx t l f).gateways = s.gateways := rfl
@[simp] theorem State.onCtx_slices (t : Site) (l : Leaf) (f : LeafCtx → LeafCtx) : (s.onCtx t l f).slices = s.slices := rfl
@[simp] theorem State.onCtx_amos (t : Site) (l : Leaf) (f : LeafCtx → LeafCtx) : (s.onCtx t l f).amos = s.amos := rfl
@[simp] theorem State.onCtx_grants (t : Site) (l : Leaf) (f : LeafCtx → LeafCtx) : (s.onCtx t l f).grants = s.grants := rfl
@[simp] theorem State.onCtx_probes (t : Site) (l : Leaf) (f : LeafCtx → LeafCtx) : (s.onCtx t l f).probes = s.probes := rfl
@[simp] theorem State.onCtx_ready (t : Site) (l : Leaf) (f : LeafCtx → LeafCtx) : (s.onCtx t l f).ready = s.ready := rfl
@[simp] theorem State.onCtx_chunks (t : Site) (l : Leaf) (f : LeafCtx → LeafCtx) : (s.onCtx t l f).chunks = s.chunks := rfl
@[simp] theorem State.onCtx_incs (t : Site) (l : Leaf) (f : LeafCtx → LeafCtx) : (s.onCtx t l f).incs = s.incs := rfl
@[simp] theorem State.onCtx_tinvs (t : Site) (l : Leaf) (f : LeafCtx → LeafCtx) : (s.onCtx t l f).tinvs = s.tinvs := rfl
@[simp] theorem State.onCtx_graphs (t : Site) (l : Leaf) (f : LeafCtx → LeafCtx) : (s.onCtx t l f).graphs = s.graphs := rfl
@[simp] theorem State.onCtx_parts (t : Site) (l : Leaf) (f : LeafCtx → LeafCtx) : (s.onCtx t l f).parts = s.parts := rfl
@[simp] theorem State.onCtx_launch (t : Site) (l : Leaf) (f : LeafCtx → LeafCtx) : (s.onCtx t l f).launch = s.launch := rfl
@[simp] theorem State.onCtx_pool (t : Site) (l : Leaf) (f : LeafCtx → LeafCtx) : (s.onCtx t l f).pool = s.pool := rfl
@[simp] theorem State.onCtx_launches (t : Site) (l : Leaf) (f : LeafCtx → LeafCtx) : (s.onCtx t l f).launches = s.launches := rfl
@[simp] theorem State.onCtx_orders (t : Site) (l : Leaf) (f : LeafCtx → LeafCtx) : (s.onCtx t l f).orders = s.orders := rfl
@[simp] theorem State.onCtx_election (t : Site) (l : Leaf) (f : LeafCtx → LeafCtx) : (s.onCtx t l f).election = s.election := rfl
@[simp] theorem State.onCtx_swaps (t : Site) (l : Leaf) (f : LeafCtx → LeafCtx) : (s.onCtx t l f).swaps = s.swaps := rfl
@[simp] theorem State.onCtx_stash (t : Site) (l : Leaf) (f : LeafCtx → LeafCtx) : (s.onCtx t l f).stash = s.stash := rfl
@[simp] theorem State.onCtx_links (t : Site) (l : Leaf) (f : LeafCtx → LeafCtx) : (s.onCtx t l f).links = s.links := rfl
@[simp] theorem State.onCtx_module (t : Site) (l : Leaf) (f : LeafCtx → LeafCtx) : (s.onCtx t l f).module = s.module := rfl
@[simp] theorem State.onCtx_domain (t : Site) (l : Leaf) (f : LeafCtx → LeafCtx) : (s.onCtx t l f).domain = s.domain := rfl
@[simp] theorem State.onCtx_host (t : Site) (l : Leaf) (f : LeafCtx → LeafCtx) : (s.onCtx t l f).host = s.host := rfl
@[simp] theorem State.onCtx_powered (t : Site) (l : Leaf) (f : LeafCtx → LeafCtx) : (s.onCtx t l f).powered = s.powered := rfl

@[simp] theorem State.onBank_agenda (t : Site) (l : Leaf) (b : BankId) (f : Bank → Bank) : (s.onBank t l b f).agenda = s.agenda := rfl
@[simp] theorem State.onBank_solo (t : Site) (l : Leaf) (b : BankId) (f : Bank → Bank) : (s.onBank t l b f).solo = s.solo := rfl
@[simp] theorem State.onBank_choices (t : Site) (l : Leaf) (b : BankId) (f : Bank → Bank) : (s.onBank t l b f).choices = s.choices := rfl
@[simp] theorem State.onBank_cur (t : Site) (l : Leaf) (b : BankId) (f : Bank → Bank) : (s.onBank t l b f).cur = s.cur := rfl
@[simp] theorem State.onBank_nextId (t : Site) (l : Leaf) (b : BankId) (f : Bank → Bank) : (s.onBank t l b f).nextId = s.nextId := rfl
@[simp] theorem State.onBank_boxes (t : Site) (l : Leaf) (b : BankId) (f : Bank → Bank) : (s.onBank t l b f).boxes = s.boxes := rfl
@[simp] theorem State.onBank_memTiles (t : Site) (l : Leaf) (b : BankId) (f : Bank → Bank) : (s.onBank t l b f).memTiles = s.memTiles := rfl
@[simp] theorem State.onBank_dies (t : Site) (l : Leaf) (b : BankId) (f : Bank → Bank) : (s.onBank t l b f).dies = s.dies := rfl
@[simp] theorem State.onBank_cores (t : Site) (l : Leaf) (b : BankId) (f : Bank → Bank) : (s.onBank t l b f).cores = s.cores := rfl
@[simp] theorem State.onBank_mem (t : Site) (l : Leaf) (b : BankId) (f : Bank → Bank) : (s.onBank t l b f).mem = s.mem := rfl
@[simp] theorem State.onBank_flight (t : Site) (l : Leaf) (b : BankId) (f : Bank → Bank) : (s.onBank t l b f).flight = s.flight := rfl
@[simp] theorem State.onBank_releases (t : Site) (l : Leaf) (b : BankId) (f : Bank → Bank) : (s.onBank t l b f).releases = s.releases := rfl
@[simp] theorem State.onBank_reports (t : Site) (l : Leaf) (b : BankId) (f : Bank → Bank) : (s.onBank t l b f).reports = s.reports := rfl
@[simp] theorem State.onBank_acks (t : Site) (l : Leaf) (b : BankId) (f : Bank → Bank) : (s.onBank t l b f).acks = s.acks := rfl
@[simp] theorem State.onBank_invals (t : Site) (l : Leaf) (b : BankId) (f : Bank → Bank) : (s.onBank t l b f).invals = s.invals := rfl
@[simp] theorem State.onBank_acking (t : Site) (l : Leaf) (b : BankId) (f : Bank → Bank) : (s.onBank t l b f).acking = s.acking := rfl
@[simp] theorem State.onBank_replies (t : Site) (l : Leaf) (b : BankId) (f : Bank → Bank) : (s.onBank t l b f).replies = s.replies := rfl
@[simp] theorem State.onBank_filters (t : Site) (l : Leaf) (b : BankId) (f : Bank → Bank) : (s.onBank t l b f).filters = s.filters := rfl
@[simp] theorem State.onBank_ecc (t : Site) (l : Leaf) (b : BankId) (f : Bank → Bank) : (s.onBank t l b f).ecc = s.ecc := rfl
@[simp] theorem State.onBank_gateways (t : Site) (l : Leaf) (b : BankId) (f : Bank → Bank) : (s.onBank t l b f).gateways = s.gateways := rfl
@[simp] theorem State.onBank_slices (t : Site) (l : Leaf) (b : BankId) (f : Bank → Bank) : (s.onBank t l b f).slices = s.slices := rfl
@[simp] theorem State.onBank_amos (t : Site) (l : Leaf) (b : BankId) (f : Bank → Bank) : (s.onBank t l b f).amos = s.amos := rfl
@[simp] theorem State.onBank_grants (t : Site) (l : Leaf) (b : BankId) (f : Bank → Bank) : (s.onBank t l b f).grants = s.grants := rfl
@[simp] theorem State.onBank_probes (t : Site) (l : Leaf) (b : BankId) (f : Bank → Bank) : (s.onBank t l b f).probes = s.probes := rfl
@[simp] theorem State.onBank_ready (t : Site) (l : Leaf) (b : BankId) (f : Bank → Bank) : (s.onBank t l b f).ready = s.ready := rfl
@[simp] theorem State.onBank_chunks (t : Site) (l : Leaf) (b : BankId) (f : Bank → Bank) : (s.onBank t l b f).chunks = s.chunks := rfl
@[simp] theorem State.onBank_incs (t : Site) (l : Leaf) (b : BankId) (f : Bank → Bank) : (s.onBank t l b f).incs = s.incs := rfl
@[simp] theorem State.onBank_tinvs (t : Site) (l : Leaf) (b : BankId) (f : Bank → Bank) : (s.onBank t l b f).tinvs = s.tinvs := rfl
@[simp] theorem State.onBank_graphs (t : Site) (l : Leaf) (b : BankId) (f : Bank → Bank) : (s.onBank t l b f).graphs = s.graphs := rfl
@[simp] theorem State.onBank_parts (t : Site) (l : Leaf) (b : BankId) (f : Bank → Bank) : (s.onBank t l b f).parts = s.parts := rfl
@[simp] theorem State.onBank_launch (t : Site) (l : Leaf) (b : BankId) (f : Bank → Bank) : (s.onBank t l b f).launch = s.launch := rfl
@[simp] theorem State.onBank_pool (t : Site) (l : Leaf) (b : BankId) (f : Bank → Bank) : (s.onBank t l b f).pool = s.pool := rfl
@[simp] theorem State.onBank_launches (t : Site) (l : Leaf) (b : BankId) (f : Bank → Bank) : (s.onBank t l b f).launches = s.launches := rfl
@[simp] theorem State.onBank_orders (t : Site) (l : Leaf) (b : BankId) (f : Bank → Bank) : (s.onBank t l b f).orders = s.orders := rfl
@[simp] theorem State.onBank_election (t : Site) (l : Leaf) (b : BankId) (f : Bank → Bank) : (s.onBank t l b f).election = s.election := rfl
@[simp] theorem State.onBank_swaps (t : Site) (l : Leaf) (b : BankId) (f : Bank → Bank) : (s.onBank t l b f).swaps = s.swaps := rfl
@[simp] theorem State.onBank_stash (t : Site) (l : Leaf) (b : BankId) (f : Bank → Bank) : (s.onBank t l b f).stash = s.stash := rfl
@[simp] theorem State.onBank_links (t : Site) (l : Leaf) (b : BankId) (f : Bank → Bank) : (s.onBank t l b f).links = s.links := rfl
@[simp] theorem State.onBank_module (t : Site) (l : Leaf) (b : BankId) (f : Bank → Bank) : (s.onBank t l b f).module = s.module := rfl
@[simp] theorem State.onBank_domain (t : Site) (l : Leaf) (b : BankId) (f : Bank → Bank) : (s.onBank t l b f).domain = s.domain := rfl
@[simp] theorem State.onBank_host (t : Site) (l : Leaf) (b : BankId) (f : Bank → Bank) : (s.onBank t l b f).host = s.host := rfl
@[simp] theorem State.onBank_powered (t : Site) (l : Leaf) (b : BankId) (f : Bank → Bank) : (s.onBank t l b f).powered = s.powered := rfl

@[simp] theorem State.onCurTile_agenda (f : Tile → Tile) : (s.onCurTile f).agenda = s.agenda := rfl
@[simp] theorem State.onCurTile_solo (f : Tile → Tile) : (s.onCurTile f).solo = s.solo := rfl
@[simp] theorem State.onCurTile_choices (f : Tile → Tile) : (s.onCurTile f).choices = s.choices := rfl
@[simp] theorem State.onCurTile_cur (f : Tile → Tile) : (s.onCurTile f).cur = s.cur := rfl
@[simp] theorem State.onCurTile_nextId (f : Tile → Tile) : (s.onCurTile f).nextId = s.nextId := rfl
@[simp] theorem State.onCurTile_boxes (f : Tile → Tile) : (s.onCurTile f).boxes = s.boxes := rfl
@[simp] theorem State.onCurTile_memTiles (f : Tile → Tile) : (s.onCurTile f).memTiles = s.memTiles := rfl
@[simp] theorem State.onCurTile_dies (f : Tile → Tile) : (s.onCurTile f).dies = s.dies := rfl
@[simp] theorem State.onCurTile_cores (f : Tile → Tile) : (s.onCurTile f).cores = s.cores := rfl
@[simp] theorem State.onCurTile_mem (f : Tile → Tile) : (s.onCurTile f).mem = s.mem := rfl
@[simp] theorem State.onCurTile_flight (f : Tile → Tile) : (s.onCurTile f).flight = s.flight := rfl
@[simp] theorem State.onCurTile_releases (f : Tile → Tile) : (s.onCurTile f).releases = s.releases := rfl
@[simp] theorem State.onCurTile_reports (f : Tile → Tile) : (s.onCurTile f).reports = s.reports := rfl
@[simp] theorem State.onCurTile_acks (f : Tile → Tile) : (s.onCurTile f).acks = s.acks := rfl
@[simp] theorem State.onCurTile_invals (f : Tile → Tile) : (s.onCurTile f).invals = s.invals := rfl
@[simp] theorem State.onCurTile_acking (f : Tile → Tile) : (s.onCurTile f).acking = s.acking := rfl
@[simp] theorem State.onCurTile_replies (f : Tile → Tile) : (s.onCurTile f).replies = s.replies := rfl
@[simp] theorem State.onCurTile_filters (f : Tile → Tile) : (s.onCurTile f).filters = s.filters := rfl
@[simp] theorem State.onCurTile_ecc (f : Tile → Tile) : (s.onCurTile f).ecc = s.ecc := rfl
@[simp] theorem State.onCurTile_gateways (f : Tile → Tile) : (s.onCurTile f).gateways = s.gateways := rfl
@[simp] theorem State.onCurTile_slices (f : Tile → Tile) : (s.onCurTile f).slices = s.slices := rfl
@[simp] theorem State.onCurTile_amos (f : Tile → Tile) : (s.onCurTile f).amos = s.amos := rfl
@[simp] theorem State.onCurTile_grants (f : Tile → Tile) : (s.onCurTile f).grants = s.grants := rfl
@[simp] theorem State.onCurTile_probes (f : Tile → Tile) : (s.onCurTile f).probes = s.probes := rfl
@[simp] theorem State.onCurTile_ready (f : Tile → Tile) : (s.onCurTile f).ready = s.ready := rfl
@[simp] theorem State.onCurTile_chunks (f : Tile → Tile) : (s.onCurTile f).chunks = s.chunks := rfl
@[simp] theorem State.onCurTile_incs (f : Tile → Tile) : (s.onCurTile f).incs = s.incs := rfl
@[simp] theorem State.onCurTile_tinvs (f : Tile → Tile) : (s.onCurTile f).tinvs = s.tinvs := rfl
@[simp] theorem State.onCurTile_graphs (f : Tile → Tile) : (s.onCurTile f).graphs = s.graphs := rfl
@[simp] theorem State.onCurTile_parts (f : Tile → Tile) : (s.onCurTile f).parts = s.parts := rfl
@[simp] theorem State.onCurTile_launch (f : Tile → Tile) : (s.onCurTile f).launch = s.launch := rfl
@[simp] theorem State.onCurTile_pool (f : Tile → Tile) : (s.onCurTile f).pool = s.pool := rfl
@[simp] theorem State.onCurTile_launches (f : Tile → Tile) : (s.onCurTile f).launches = s.launches := rfl
@[simp] theorem State.onCurTile_orders (f : Tile → Tile) : (s.onCurTile f).orders = s.orders := rfl
@[simp] theorem State.onCurTile_election (f : Tile → Tile) : (s.onCurTile f).election = s.election := rfl
@[simp] theorem State.onCurTile_swaps (f : Tile → Tile) : (s.onCurTile f).swaps = s.swaps := rfl
@[simp] theorem State.onCurTile_stash (f : Tile → Tile) : (s.onCurTile f).stash = s.stash := rfl
@[simp] theorem State.onCurTile_links (f : Tile → Tile) : (s.onCurTile f).links = s.links := rfl
@[simp] theorem State.onCurTile_module (f : Tile → Tile) : (s.onCurTile f).module = s.module := rfl
@[simp] theorem State.onCurTile_domain (f : Tile → Tile) : (s.onCurTile f).domain = s.domain := rfl
@[simp] theorem State.onCurTile_host (f : Tile → Tile) : (s.onCurTile f).host = s.host := rfl
@[simp] theorem State.onCurTile_powered (f : Tile → Tile) : (s.onCurTile f).powered = s.powered := rfl

@[simp] theorem State.onCurCtx_agenda (f : LeafCtx → LeafCtx) : (s.onCurCtx f).agenda = s.agenda := rfl
@[simp] theorem State.onCurCtx_solo (f : LeafCtx → LeafCtx) : (s.onCurCtx f).solo = s.solo := rfl
@[simp] theorem State.onCurCtx_choices (f : LeafCtx → LeafCtx) : (s.onCurCtx f).choices = s.choices := rfl
@[simp] theorem State.onCurCtx_cur (f : LeafCtx → LeafCtx) : (s.onCurCtx f).cur = s.cur := rfl
@[simp] theorem State.onCurCtx_nextId (f : LeafCtx → LeafCtx) : (s.onCurCtx f).nextId = s.nextId := rfl
@[simp] theorem State.onCurCtx_boxes (f : LeafCtx → LeafCtx) : (s.onCurCtx f).boxes = s.boxes := rfl
@[simp] theorem State.onCurCtx_memTiles (f : LeafCtx → LeafCtx) : (s.onCurCtx f).memTiles = s.memTiles := rfl
@[simp] theorem State.onCurCtx_dies (f : LeafCtx → LeafCtx) : (s.onCurCtx f).dies = s.dies := rfl
@[simp] theorem State.onCurCtx_cores (f : LeafCtx → LeafCtx) : (s.onCurCtx f).cores = s.cores := rfl
@[simp] theorem State.onCurCtx_mem (f : LeafCtx → LeafCtx) : (s.onCurCtx f).mem = s.mem := rfl
@[simp] theorem State.onCurCtx_flight (f : LeafCtx → LeafCtx) : (s.onCurCtx f).flight = s.flight := rfl
@[simp] theorem State.onCurCtx_releases (f : LeafCtx → LeafCtx) : (s.onCurCtx f).releases = s.releases := rfl
@[simp] theorem State.onCurCtx_reports (f : LeafCtx → LeafCtx) : (s.onCurCtx f).reports = s.reports := rfl
@[simp] theorem State.onCurCtx_acks (f : LeafCtx → LeafCtx) : (s.onCurCtx f).acks = s.acks := rfl
@[simp] theorem State.onCurCtx_invals (f : LeafCtx → LeafCtx) : (s.onCurCtx f).invals = s.invals := rfl
@[simp] theorem State.onCurCtx_acking (f : LeafCtx → LeafCtx) : (s.onCurCtx f).acking = s.acking := rfl
@[simp] theorem State.onCurCtx_replies (f : LeafCtx → LeafCtx) : (s.onCurCtx f).replies = s.replies := rfl
@[simp] theorem State.onCurCtx_filters (f : LeafCtx → LeafCtx) : (s.onCurCtx f).filters = s.filters := rfl
@[simp] theorem State.onCurCtx_ecc (f : LeafCtx → LeafCtx) : (s.onCurCtx f).ecc = s.ecc := rfl
@[simp] theorem State.onCurCtx_gateways (f : LeafCtx → LeafCtx) : (s.onCurCtx f).gateways = s.gateways := rfl
@[simp] theorem State.onCurCtx_slices (f : LeafCtx → LeafCtx) : (s.onCurCtx f).slices = s.slices := rfl
@[simp] theorem State.onCurCtx_amos (f : LeafCtx → LeafCtx) : (s.onCurCtx f).amos = s.amos := rfl
@[simp] theorem State.onCurCtx_grants (f : LeafCtx → LeafCtx) : (s.onCurCtx f).grants = s.grants := rfl
@[simp] theorem State.onCurCtx_probes (f : LeafCtx → LeafCtx) : (s.onCurCtx f).probes = s.probes := rfl
@[simp] theorem State.onCurCtx_ready (f : LeafCtx → LeafCtx) : (s.onCurCtx f).ready = s.ready := rfl
@[simp] theorem State.onCurCtx_chunks (f : LeafCtx → LeafCtx) : (s.onCurCtx f).chunks = s.chunks := rfl
@[simp] theorem State.onCurCtx_incs (f : LeafCtx → LeafCtx) : (s.onCurCtx f).incs = s.incs := rfl
@[simp] theorem State.onCurCtx_tinvs (f : LeafCtx → LeafCtx) : (s.onCurCtx f).tinvs = s.tinvs := rfl
@[simp] theorem State.onCurCtx_graphs (f : LeafCtx → LeafCtx) : (s.onCurCtx f).graphs = s.graphs := rfl
@[simp] theorem State.onCurCtx_parts (f : LeafCtx → LeafCtx) : (s.onCurCtx f).parts = s.parts := rfl
@[simp] theorem State.onCurCtx_launch (f : LeafCtx → LeafCtx) : (s.onCurCtx f).launch = s.launch := rfl
@[simp] theorem State.onCurCtx_pool (f : LeafCtx → LeafCtx) : (s.onCurCtx f).pool = s.pool := rfl
@[simp] theorem State.onCurCtx_launches (f : LeafCtx → LeafCtx) : (s.onCurCtx f).launches = s.launches := rfl
@[simp] theorem State.onCurCtx_orders (f : LeafCtx → LeafCtx) : (s.onCurCtx f).orders = s.orders := rfl
@[simp] theorem State.onCurCtx_election (f : LeafCtx → LeafCtx) : (s.onCurCtx f).election = s.election := rfl
@[simp] theorem State.onCurCtx_swaps (f : LeafCtx → LeafCtx) : (s.onCurCtx f).swaps = s.swaps := rfl
@[simp] theorem State.onCurCtx_stash (f : LeafCtx → LeafCtx) : (s.onCurCtx f).stash = s.stash := rfl
@[simp] theorem State.onCurCtx_links (f : LeafCtx → LeafCtx) : (s.onCurCtx f).links = s.links := rfl
@[simp] theorem State.onCurCtx_module (f : LeafCtx → LeafCtx) : (s.onCurCtx f).module = s.module := rfl
@[simp] theorem State.onCurCtx_domain (f : LeafCtx → LeafCtx) : (s.onCurCtx f).domain = s.domain := rfl
@[simp] theorem State.onCurCtx_host (f : LeafCtx → LeafCtx) : (s.onCurCtx f).host = s.host := rfl
@[simp] theorem State.onCurCtx_powered (f : LeafCtx → LeafCtx) : (s.onCurCtx f).powered = s.powered := rfl

@[simp] theorem State.onCurBank_agenda (f : Bank → Bank) : (s.onCurBank f).agenda = s.agenda := rfl
@[simp] theorem State.onCurBank_solo (f : Bank → Bank) : (s.onCurBank f).solo = s.solo := rfl
@[simp] theorem State.onCurBank_choices (f : Bank → Bank) : (s.onCurBank f).choices = s.choices := rfl
@[simp] theorem State.onCurBank_cur (f : Bank → Bank) : (s.onCurBank f).cur = s.cur := rfl
@[simp] theorem State.onCurBank_nextId (f : Bank → Bank) : (s.onCurBank f).nextId = s.nextId := rfl
@[simp] theorem State.onCurBank_boxes (f : Bank → Bank) : (s.onCurBank f).boxes = s.boxes := rfl
@[simp] theorem State.onCurBank_memTiles (f : Bank → Bank) : (s.onCurBank f).memTiles = s.memTiles := rfl
@[simp] theorem State.onCurBank_dies (f : Bank → Bank) : (s.onCurBank f).dies = s.dies := rfl
@[simp] theorem State.onCurBank_cores (f : Bank → Bank) : (s.onCurBank f).cores = s.cores := rfl
@[simp] theorem State.onCurBank_mem (f : Bank → Bank) : (s.onCurBank f).mem = s.mem := rfl
@[simp] theorem State.onCurBank_flight (f : Bank → Bank) : (s.onCurBank f).flight = s.flight := rfl
@[simp] theorem State.onCurBank_releases (f : Bank → Bank) : (s.onCurBank f).releases = s.releases := rfl
@[simp] theorem State.onCurBank_reports (f : Bank → Bank) : (s.onCurBank f).reports = s.reports := rfl
@[simp] theorem State.onCurBank_acks (f : Bank → Bank) : (s.onCurBank f).acks = s.acks := rfl
@[simp] theorem State.onCurBank_invals (f : Bank → Bank) : (s.onCurBank f).invals = s.invals := rfl
@[simp] theorem State.onCurBank_acking (f : Bank → Bank) : (s.onCurBank f).acking = s.acking := rfl
@[simp] theorem State.onCurBank_replies (f : Bank → Bank) : (s.onCurBank f).replies = s.replies := rfl
@[simp] theorem State.onCurBank_filters (f : Bank → Bank) : (s.onCurBank f).filters = s.filters := rfl
@[simp] theorem State.onCurBank_ecc (f : Bank → Bank) : (s.onCurBank f).ecc = s.ecc := rfl
@[simp] theorem State.onCurBank_gateways (f : Bank → Bank) : (s.onCurBank f).gateways = s.gateways := rfl
@[simp] theorem State.onCurBank_slices (f : Bank → Bank) : (s.onCurBank f).slices = s.slices := rfl
@[simp] theorem State.onCurBank_amos (f : Bank → Bank) : (s.onCurBank f).amos = s.amos := rfl
@[simp] theorem State.onCurBank_grants (f : Bank → Bank) : (s.onCurBank f).grants = s.grants := rfl
@[simp] theorem State.onCurBank_probes (f : Bank → Bank) : (s.onCurBank f).probes = s.probes := rfl
@[simp] theorem State.onCurBank_ready (f : Bank → Bank) : (s.onCurBank f).ready = s.ready := rfl
@[simp] theorem State.onCurBank_chunks (f : Bank → Bank) : (s.onCurBank f).chunks = s.chunks := rfl
@[simp] theorem State.onCurBank_incs (f : Bank → Bank) : (s.onCurBank f).incs = s.incs := rfl
@[simp] theorem State.onCurBank_tinvs (f : Bank → Bank) : (s.onCurBank f).tinvs = s.tinvs := rfl
@[simp] theorem State.onCurBank_graphs (f : Bank → Bank) : (s.onCurBank f).graphs = s.graphs := rfl
@[simp] theorem State.onCurBank_parts (f : Bank → Bank) : (s.onCurBank f).parts = s.parts := rfl
@[simp] theorem State.onCurBank_launch (f : Bank → Bank) : (s.onCurBank f).launch = s.launch := rfl
@[simp] theorem State.onCurBank_pool (f : Bank → Bank) : (s.onCurBank f).pool = s.pool := rfl
@[simp] theorem State.onCurBank_launches (f : Bank → Bank) : (s.onCurBank f).launches = s.launches := rfl
@[simp] theorem State.onCurBank_orders (f : Bank → Bank) : (s.onCurBank f).orders = s.orders := rfl
@[simp] theorem State.onCurBank_election (f : Bank → Bank) : (s.onCurBank f).election = s.election := rfl
@[simp] theorem State.onCurBank_swaps (f : Bank → Bank) : (s.onCurBank f).swaps = s.swaps := rfl
@[simp] theorem State.onCurBank_stash (f : Bank → Bank) : (s.onCurBank f).stash = s.stash := rfl
@[simp] theorem State.onCurBank_links (f : Bank → Bank) : (s.onCurBank f).links = s.links := rfl
@[simp] theorem State.onCurBank_module (f : Bank → Bank) : (s.onCurBank f).module = s.module := rfl
@[simp] theorem State.onCurBank_domain (f : Bank → Bank) : (s.onCurBank f).domain = s.domain := rfl
@[simp] theorem State.onCurBank_host (f : Bank → Bank) : (s.onCurBank f).host = s.host := rfl
@[simp] theorem State.onCurBank_powered (f : Bank → Bank) : (s.onCurBank f).powered = s.powered := rfl

@[simp] theorem State.onBox_agenda (t : Site) (f : Box → Box) : (s.onBox t f).agenda = s.agenda := rfl
@[simp] theorem State.onBox_solo (t : Site) (f : Box → Box) : (s.onBox t f).solo = s.solo := rfl
@[simp] theorem State.onBox_choices (t : Site) (f : Box → Box) : (s.onBox t f).choices = s.choices := rfl
@[simp] theorem State.onBox_cur (t : Site) (f : Box → Box) : (s.onBox t f).cur = s.cur := rfl
@[simp] theorem State.onBox_nextId (t : Site) (f : Box → Box) : (s.onBox t f).nextId = s.nextId := rfl
@[simp] theorem State.onBox_tiles (t : Site) (f : Box → Box) : (s.onBox t f).tiles = s.tiles := rfl
@[simp] theorem State.onBox_memTiles (t : Site) (f : Box → Box) : (s.onBox t f).memTiles = s.memTiles := rfl
@[simp] theorem State.onBox_dies (t : Site) (f : Box → Box) : (s.onBox t f).dies = s.dies := rfl
@[simp] theorem State.onBox_cores (t : Site) (f : Box → Box) : (s.onBox t f).cores = s.cores := rfl
@[simp] theorem State.onBox_mem (t : Site) (f : Box → Box) : (s.onBox t f).mem = s.mem := rfl
@[simp] theorem State.onBox_flight (t : Site) (f : Box → Box) : (s.onBox t f).flight = s.flight := rfl
@[simp] theorem State.onBox_releases (t : Site) (f : Box → Box) : (s.onBox t f).releases = s.releases := rfl
@[simp] theorem State.onBox_reports (t : Site) (f : Box → Box) : (s.onBox t f).reports = s.reports := rfl
@[simp] theorem State.onBox_acks (t : Site) (f : Box → Box) : (s.onBox t f).acks = s.acks := rfl
@[simp] theorem State.onBox_invals (t : Site) (f : Box → Box) : (s.onBox t f).invals = s.invals := rfl
@[simp] theorem State.onBox_acking (t : Site) (f : Box → Box) : (s.onBox t f).acking = s.acking := rfl
@[simp] theorem State.onBox_replies (t : Site) (f : Box → Box) : (s.onBox t f).replies = s.replies := rfl
@[simp] theorem State.onBox_filters (t : Site) (f : Box → Box) : (s.onBox t f).filters = s.filters := rfl
@[simp] theorem State.onBox_ecc (t : Site) (f : Box → Box) : (s.onBox t f).ecc = s.ecc := rfl
@[simp] theorem State.onBox_gateways (t : Site) (f : Box → Box) : (s.onBox t f).gateways = s.gateways := rfl
@[simp] theorem State.onBox_slices (t : Site) (f : Box → Box) : (s.onBox t f).slices = s.slices := rfl
@[simp] theorem State.onBox_amos (t : Site) (f : Box → Box) : (s.onBox t f).amos = s.amos := rfl
@[simp] theorem State.onBox_grants (t : Site) (f : Box → Box) : (s.onBox t f).grants = s.grants := rfl
@[simp] theorem State.onBox_probes (t : Site) (f : Box → Box) : (s.onBox t f).probes = s.probes := rfl
@[simp] theorem State.onBox_ready (t : Site) (f : Box → Box) : (s.onBox t f).ready = s.ready := rfl
@[simp] theorem State.onBox_chunks (t : Site) (f : Box → Box) : (s.onBox t f).chunks = s.chunks := rfl
@[simp] theorem State.onBox_incs (t : Site) (f : Box → Box) : (s.onBox t f).incs = s.incs := rfl
@[simp] theorem State.onBox_tinvs (t : Site) (f : Box → Box) : (s.onBox t f).tinvs = s.tinvs := rfl
@[simp] theorem State.onBox_graphs (t : Site) (f : Box → Box) : (s.onBox t f).graphs = s.graphs := rfl
@[simp] theorem State.onBox_parts (t : Site) (f : Box → Box) : (s.onBox t f).parts = s.parts := rfl
@[simp] theorem State.onBox_launch (t : Site) (f : Box → Box) : (s.onBox t f).launch = s.launch := rfl
@[simp] theorem State.onBox_pool (t : Site) (f : Box → Box) : (s.onBox t f).pool = s.pool := rfl
@[simp] theorem State.onBox_launches (t : Site) (f : Box → Box) : (s.onBox t f).launches = s.launches := rfl
@[simp] theorem State.onBox_orders (t : Site) (f : Box → Box) : (s.onBox t f).orders = s.orders := rfl
@[simp] theorem State.onBox_election (t : Site) (f : Box → Box) : (s.onBox t f).election = s.election := rfl
@[simp] theorem State.onBox_swaps (t : Site) (f : Box → Box) : (s.onBox t f).swaps = s.swaps := rfl
@[simp] theorem State.onBox_stash (t : Site) (f : Box → Box) : (s.onBox t f).stash = s.stash := rfl
@[simp] theorem State.onBox_links (t : Site) (f : Box → Box) : (s.onBox t f).links = s.links := rfl
@[simp] theorem State.onBox_module (t : Site) (f : Box → Box) : (s.onBox t f).module = s.module := rfl
@[simp] theorem State.onBox_domain (t : Site) (f : Box → Box) : (s.onBox t f).domain = s.domain := rfl
@[simp] theorem State.onBox_host (t : Site) (f : Box → Box) : (s.onBox t f).host = s.host := rfl
@[simp] theorem State.onBox_powered (t : Site) (f : Box → Box) : (s.onBox t f).powered = s.powered := rfl

@[simp] theorem State.onMt_agenda (t : Site) (f : MemTile → MemTile) : (s.onMt t f).agenda = s.agenda := rfl
@[simp] theorem State.onMt_solo (t : Site) (f : MemTile → MemTile) : (s.onMt t f).solo = s.solo := rfl
@[simp] theorem State.onMt_choices (t : Site) (f : MemTile → MemTile) : (s.onMt t f).choices = s.choices := rfl
@[simp] theorem State.onMt_cur (t : Site) (f : MemTile → MemTile) : (s.onMt t f).cur = s.cur := rfl
@[simp] theorem State.onMt_nextId (t : Site) (f : MemTile → MemTile) : (s.onMt t f).nextId = s.nextId := rfl
@[simp] theorem State.onMt_tiles (t : Site) (f : MemTile → MemTile) : (s.onMt t f).tiles = s.tiles := rfl
@[simp] theorem State.onMt_boxes (t : Site) (f : MemTile → MemTile) : (s.onMt t f).boxes = s.boxes := rfl
@[simp] theorem State.onMt_dies (t : Site) (f : MemTile → MemTile) : (s.onMt t f).dies = s.dies := rfl
@[simp] theorem State.onMt_cores (t : Site) (f : MemTile → MemTile) : (s.onMt t f).cores = s.cores := rfl
@[simp] theorem State.onMt_mem (t : Site) (f : MemTile → MemTile) : (s.onMt t f).mem = s.mem := rfl
@[simp] theorem State.onMt_flight (t : Site) (f : MemTile → MemTile) : (s.onMt t f).flight = s.flight := rfl
@[simp] theorem State.onMt_releases (t : Site) (f : MemTile → MemTile) : (s.onMt t f).releases = s.releases := rfl
@[simp] theorem State.onMt_reports (t : Site) (f : MemTile → MemTile) : (s.onMt t f).reports = s.reports := rfl
@[simp] theorem State.onMt_acks (t : Site) (f : MemTile → MemTile) : (s.onMt t f).acks = s.acks := rfl
@[simp] theorem State.onMt_invals (t : Site) (f : MemTile → MemTile) : (s.onMt t f).invals = s.invals := rfl
@[simp] theorem State.onMt_acking (t : Site) (f : MemTile → MemTile) : (s.onMt t f).acking = s.acking := rfl
@[simp] theorem State.onMt_replies (t : Site) (f : MemTile → MemTile) : (s.onMt t f).replies = s.replies := rfl
@[simp] theorem State.onMt_filters (t : Site) (f : MemTile → MemTile) : (s.onMt t f).filters = s.filters := rfl
@[simp] theorem State.onMt_ecc (t : Site) (f : MemTile → MemTile) : (s.onMt t f).ecc = s.ecc := rfl
@[simp] theorem State.onMt_gateways (t : Site) (f : MemTile → MemTile) : (s.onMt t f).gateways = s.gateways := rfl
@[simp] theorem State.onMt_slices (t : Site) (f : MemTile → MemTile) : (s.onMt t f).slices = s.slices := rfl
@[simp] theorem State.onMt_amos (t : Site) (f : MemTile → MemTile) : (s.onMt t f).amos = s.amos := rfl
@[simp] theorem State.onMt_grants (t : Site) (f : MemTile → MemTile) : (s.onMt t f).grants = s.grants := rfl
@[simp] theorem State.onMt_probes (t : Site) (f : MemTile → MemTile) : (s.onMt t f).probes = s.probes := rfl
@[simp] theorem State.onMt_ready (t : Site) (f : MemTile → MemTile) : (s.onMt t f).ready = s.ready := rfl
@[simp] theorem State.onMt_chunks (t : Site) (f : MemTile → MemTile) : (s.onMt t f).chunks = s.chunks := rfl
@[simp] theorem State.onMt_incs (t : Site) (f : MemTile → MemTile) : (s.onMt t f).incs = s.incs := rfl
@[simp] theorem State.onMt_tinvs (t : Site) (f : MemTile → MemTile) : (s.onMt t f).tinvs = s.tinvs := rfl
@[simp] theorem State.onMt_graphs (t : Site) (f : MemTile → MemTile) : (s.onMt t f).graphs = s.graphs := rfl
@[simp] theorem State.onMt_parts (t : Site) (f : MemTile → MemTile) : (s.onMt t f).parts = s.parts := rfl
@[simp] theorem State.onMt_launch (t : Site) (f : MemTile → MemTile) : (s.onMt t f).launch = s.launch := rfl
@[simp] theorem State.onMt_pool (t : Site) (f : MemTile → MemTile) : (s.onMt t f).pool = s.pool := rfl
@[simp] theorem State.onMt_launches (t : Site) (f : MemTile → MemTile) : (s.onMt t f).launches = s.launches := rfl
@[simp] theorem State.onMt_orders (t : Site) (f : MemTile → MemTile) : (s.onMt t f).orders = s.orders := rfl
@[simp] theorem State.onMt_election (t : Site) (f : MemTile → MemTile) : (s.onMt t f).election = s.election := rfl
@[simp] theorem State.onMt_swaps (t : Site) (f : MemTile → MemTile) : (s.onMt t f).swaps = s.swaps := rfl
@[simp] theorem State.onMt_stash (t : Site) (f : MemTile → MemTile) : (s.onMt t f).stash = s.stash := rfl
@[simp] theorem State.onMt_links (t : Site) (f : MemTile → MemTile) : (s.onMt t f).links = s.links := rfl
@[simp] theorem State.onMt_module (t : Site) (f : MemTile → MemTile) : (s.onMt t f).module = s.module := rfl
@[simp] theorem State.onMt_domain (t : Site) (f : MemTile → MemTile) : (s.onMt t f).domain = s.domain := rfl
@[simp] theorem State.onMt_host (t : Site) (f : MemTile → MemTile) : (s.onMt t f).host = s.host := rfl
@[simp] theorem State.onMt_powered (t : Site) (f : MemTile → MemTile) : (s.onMt t f).powered = s.powered := rfl

@[simp] theorem State.onDie_agenda (d : DieId) (f : Die → Die) : (s.onDie d f).agenda = s.agenda := rfl
@[simp] theorem State.onDie_solo (d : DieId) (f : Die → Die) : (s.onDie d f).solo = s.solo := rfl
@[simp] theorem State.onDie_choices (d : DieId) (f : Die → Die) : (s.onDie d f).choices = s.choices := rfl
@[simp] theorem State.onDie_cur (d : DieId) (f : Die → Die) : (s.onDie d f).cur = s.cur := rfl
@[simp] theorem State.onDie_nextId (d : DieId) (f : Die → Die) : (s.onDie d f).nextId = s.nextId := rfl
@[simp] theorem State.onDie_tiles (d : DieId) (f : Die → Die) : (s.onDie d f).tiles = s.tiles := rfl
@[simp] theorem State.onDie_boxes (d : DieId) (f : Die → Die) : (s.onDie d f).boxes = s.boxes := rfl
@[simp] theorem State.onDie_memTiles (d : DieId) (f : Die → Die) : (s.onDie d f).memTiles = s.memTiles := rfl
@[simp] theorem State.onDie_cores (d : DieId) (f : Die → Die) : (s.onDie d f).cores = s.cores := rfl
@[simp] theorem State.onDie_mem (d : DieId) (f : Die → Die) : (s.onDie d f).mem = s.mem := rfl
@[simp] theorem State.onDie_flight (d : DieId) (f : Die → Die) : (s.onDie d f).flight = s.flight := rfl
@[simp] theorem State.onDie_releases (d : DieId) (f : Die → Die) : (s.onDie d f).releases = s.releases := rfl
@[simp] theorem State.onDie_reports (d : DieId) (f : Die → Die) : (s.onDie d f).reports = s.reports := rfl
@[simp] theorem State.onDie_acks (d : DieId) (f : Die → Die) : (s.onDie d f).acks = s.acks := rfl
@[simp] theorem State.onDie_invals (d : DieId) (f : Die → Die) : (s.onDie d f).invals = s.invals := rfl
@[simp] theorem State.onDie_acking (d : DieId) (f : Die → Die) : (s.onDie d f).acking = s.acking := rfl
@[simp] theorem State.onDie_replies (d : DieId) (f : Die → Die) : (s.onDie d f).replies = s.replies := rfl
@[simp] theorem State.onDie_filters (d : DieId) (f : Die → Die) : (s.onDie d f).filters = s.filters := rfl
@[simp] theorem State.onDie_ecc (d : DieId) (f : Die → Die) : (s.onDie d f).ecc = s.ecc := rfl
@[simp] theorem State.onDie_gateways (d : DieId) (f : Die → Die) : (s.onDie d f).gateways = s.gateways := rfl
@[simp] theorem State.onDie_slices (d : DieId) (f : Die → Die) : (s.onDie d f).slices = s.slices := rfl
@[simp] theorem State.onDie_amos (d : DieId) (f : Die → Die) : (s.onDie d f).amos = s.amos := rfl
@[simp] theorem State.onDie_grants (d : DieId) (f : Die → Die) : (s.onDie d f).grants = s.grants := rfl
@[simp] theorem State.onDie_probes (d : DieId) (f : Die → Die) : (s.onDie d f).probes = s.probes := rfl
@[simp] theorem State.onDie_ready (d : DieId) (f : Die → Die) : (s.onDie d f).ready = s.ready := rfl
@[simp] theorem State.onDie_chunks (d : DieId) (f : Die → Die) : (s.onDie d f).chunks = s.chunks := rfl
@[simp] theorem State.onDie_incs (d : DieId) (f : Die → Die) : (s.onDie d f).incs = s.incs := rfl
@[simp] theorem State.onDie_tinvs (d : DieId) (f : Die → Die) : (s.onDie d f).tinvs = s.tinvs := rfl
@[simp] theorem State.onDie_graphs (d : DieId) (f : Die → Die) : (s.onDie d f).graphs = s.graphs := rfl
@[simp] theorem State.onDie_parts (d : DieId) (f : Die → Die) : (s.onDie d f).parts = s.parts := rfl
@[simp] theorem State.onDie_launch (d : DieId) (f : Die → Die) : (s.onDie d f).launch = s.launch := rfl
@[simp] theorem State.onDie_pool (d : DieId) (f : Die → Die) : (s.onDie d f).pool = s.pool := rfl
@[simp] theorem State.onDie_launches (d : DieId) (f : Die → Die) : (s.onDie d f).launches = s.launches := rfl
@[simp] theorem State.onDie_orders (d : DieId) (f : Die → Die) : (s.onDie d f).orders = s.orders := rfl
@[simp] theorem State.onDie_election (d : DieId) (f : Die → Die) : (s.onDie d f).election = s.election := rfl
@[simp] theorem State.onDie_swaps (d : DieId) (f : Die → Die) : (s.onDie d f).swaps = s.swaps := rfl
@[simp] theorem State.onDie_stash (d : DieId) (f : Die → Die) : (s.onDie d f).stash = s.stash := rfl
@[simp] theorem State.onDie_links (d : DieId) (f : Die → Die) : (s.onDie d f).links = s.links := rfl
@[simp] theorem State.onDie_module (d : DieId) (f : Die → Die) : (s.onDie d f).module = s.module := rfl
@[simp] theorem State.onDie_domain (d : DieId) (f : Die → Die) : (s.onDie d f).domain = s.domain := rfl
@[simp] theorem State.onDie_host (d : DieId) (f : Die → Die) : (s.onDie d f).host = s.host := rfl
@[simp] theorem State.onDie_powered (d : DieId) (f : Die → Die) : (s.onDie d f).powered = s.powered := rfl

@[simp] theorem State.onNotice_agenda (d : DieId) (p : BitVec 6) (f : NoticeQ → NoticeQ) : (s.onNotice d p f).agenda = s.agenda := rfl
@[simp] theorem State.onNotice_solo (d : DieId) (p : BitVec 6) (f : NoticeQ → NoticeQ) : (s.onNotice d p f).solo = s.solo := rfl
@[simp] theorem State.onNotice_choices (d : DieId) (p : BitVec 6) (f : NoticeQ → NoticeQ) : (s.onNotice d p f).choices = s.choices := rfl
@[simp] theorem State.onNotice_cur (d : DieId) (p : BitVec 6) (f : NoticeQ → NoticeQ) : (s.onNotice d p f).cur = s.cur := rfl
@[simp] theorem State.onNotice_nextId (d : DieId) (p : BitVec 6) (f : NoticeQ → NoticeQ) : (s.onNotice d p f).nextId = s.nextId := rfl
@[simp] theorem State.onNotice_tiles (d : DieId) (p : BitVec 6) (f : NoticeQ → NoticeQ) : (s.onNotice d p f).tiles = s.tiles := rfl
@[simp] theorem State.onNotice_boxes (d : DieId) (p : BitVec 6) (f : NoticeQ → NoticeQ) : (s.onNotice d p f).boxes = s.boxes := rfl
@[simp] theorem State.onNotice_memTiles (d : DieId) (p : BitVec 6) (f : NoticeQ → NoticeQ) : (s.onNotice d p f).memTiles = s.memTiles := rfl
@[simp] theorem State.onNotice_cores (d : DieId) (p : BitVec 6) (f : NoticeQ → NoticeQ) : (s.onNotice d p f).cores = s.cores := rfl
@[simp] theorem State.onNotice_mem (d : DieId) (p : BitVec 6) (f : NoticeQ → NoticeQ) : (s.onNotice d p f).mem = s.mem := rfl
@[simp] theorem State.onNotice_flight (d : DieId) (p : BitVec 6) (f : NoticeQ → NoticeQ) : (s.onNotice d p f).flight = s.flight := rfl
@[simp] theorem State.onNotice_releases (d : DieId) (p : BitVec 6) (f : NoticeQ → NoticeQ) : (s.onNotice d p f).releases = s.releases := rfl
@[simp] theorem State.onNotice_reports (d : DieId) (p : BitVec 6) (f : NoticeQ → NoticeQ) : (s.onNotice d p f).reports = s.reports := rfl
@[simp] theorem State.onNotice_acks (d : DieId) (p : BitVec 6) (f : NoticeQ → NoticeQ) : (s.onNotice d p f).acks = s.acks := rfl
@[simp] theorem State.onNotice_invals (d : DieId) (p : BitVec 6) (f : NoticeQ → NoticeQ) : (s.onNotice d p f).invals = s.invals := rfl
@[simp] theorem State.onNotice_acking (d : DieId) (p : BitVec 6) (f : NoticeQ → NoticeQ) : (s.onNotice d p f).acking = s.acking := rfl
@[simp] theorem State.onNotice_replies (d : DieId) (p : BitVec 6) (f : NoticeQ → NoticeQ) : (s.onNotice d p f).replies = s.replies := rfl
@[simp] theorem State.onNotice_filters (d : DieId) (p : BitVec 6) (f : NoticeQ → NoticeQ) : (s.onNotice d p f).filters = s.filters := rfl
@[simp] theorem State.onNotice_ecc (d : DieId) (p : BitVec 6) (f : NoticeQ → NoticeQ) : (s.onNotice d p f).ecc = s.ecc := rfl
@[simp] theorem State.onNotice_gateways (d : DieId) (p : BitVec 6) (f : NoticeQ → NoticeQ) : (s.onNotice d p f).gateways = s.gateways := rfl
@[simp] theorem State.onNotice_slices (d : DieId) (p : BitVec 6) (f : NoticeQ → NoticeQ) : (s.onNotice d p f).slices = s.slices := rfl
@[simp] theorem State.onNotice_amos (d : DieId) (p : BitVec 6) (f : NoticeQ → NoticeQ) : (s.onNotice d p f).amos = s.amos := rfl
@[simp] theorem State.onNotice_grants (d : DieId) (p : BitVec 6) (f : NoticeQ → NoticeQ) : (s.onNotice d p f).grants = s.grants := rfl
@[simp] theorem State.onNotice_probes (d : DieId) (p : BitVec 6) (f : NoticeQ → NoticeQ) : (s.onNotice d p f).probes = s.probes := rfl
@[simp] theorem State.onNotice_ready (d : DieId) (p : BitVec 6) (f : NoticeQ → NoticeQ) : (s.onNotice d p f).ready = s.ready := rfl
@[simp] theorem State.onNotice_chunks (d : DieId) (p : BitVec 6) (f : NoticeQ → NoticeQ) : (s.onNotice d p f).chunks = s.chunks := rfl
@[simp] theorem State.onNotice_incs (d : DieId) (p : BitVec 6) (f : NoticeQ → NoticeQ) : (s.onNotice d p f).incs = s.incs := rfl
@[simp] theorem State.onNotice_tinvs (d : DieId) (p : BitVec 6) (f : NoticeQ → NoticeQ) : (s.onNotice d p f).tinvs = s.tinvs := rfl
@[simp] theorem State.onNotice_graphs (d : DieId) (p : BitVec 6) (f : NoticeQ → NoticeQ) : (s.onNotice d p f).graphs = s.graphs := rfl
@[simp] theorem State.onNotice_parts (d : DieId) (p : BitVec 6) (f : NoticeQ → NoticeQ) : (s.onNotice d p f).parts = s.parts := rfl
@[simp] theorem State.onNotice_launch (d : DieId) (p : BitVec 6) (f : NoticeQ → NoticeQ) : (s.onNotice d p f).launch = s.launch := rfl
@[simp] theorem State.onNotice_pool (d : DieId) (p : BitVec 6) (f : NoticeQ → NoticeQ) : (s.onNotice d p f).pool = s.pool := rfl
@[simp] theorem State.onNotice_launches (d : DieId) (p : BitVec 6) (f : NoticeQ → NoticeQ) : (s.onNotice d p f).launches = s.launches := rfl
@[simp] theorem State.onNotice_orders (d : DieId) (p : BitVec 6) (f : NoticeQ → NoticeQ) : (s.onNotice d p f).orders = s.orders := rfl
@[simp] theorem State.onNotice_election (d : DieId) (p : BitVec 6) (f : NoticeQ → NoticeQ) : (s.onNotice d p f).election = s.election := rfl
@[simp] theorem State.onNotice_swaps (d : DieId) (p : BitVec 6) (f : NoticeQ → NoticeQ) : (s.onNotice d p f).swaps = s.swaps := rfl
@[simp] theorem State.onNotice_stash (d : DieId) (p : BitVec 6) (f : NoticeQ → NoticeQ) : (s.onNotice d p f).stash = s.stash := rfl
@[simp] theorem State.onNotice_links (d : DieId) (p : BitVec 6) (f : NoticeQ → NoticeQ) : (s.onNotice d p f).links = s.links := rfl
@[simp] theorem State.onNotice_module (d : DieId) (p : BitVec 6) (f : NoticeQ → NoticeQ) : (s.onNotice d p f).module = s.module := rfl
@[simp] theorem State.onNotice_domain (d : DieId) (p : BitVec 6) (f : NoticeQ → NoticeQ) : (s.onNotice d p f).domain = s.domain := rfl
@[simp] theorem State.onNotice_host (d : DieId) (p : BitVec 6) (f : NoticeQ → NoticeQ) : (s.onNotice d p f).host = s.host := rfl
@[simp] theorem State.onNotice_powered (d : DieId) (p : BitVec 6) (f : NoticeQ → NoticeQ) : (s.onNotice d p f).powered = s.powered := rfl

@[simp] theorem State.notify_agenda (d : DieId) (p : BitVec 6) (r : Notice) : (s.notify d p r).agenda = s.agenda := rfl
@[simp] theorem State.notify_solo (d : DieId) (p : BitVec 6) (r : Notice) : (s.notify d p r).solo = s.solo := rfl
@[simp] theorem State.notify_choices (d : DieId) (p : BitVec 6) (r : Notice) : (s.notify d p r).choices = s.choices := rfl
@[simp] theorem State.notify_cur (d : DieId) (p : BitVec 6) (r : Notice) : (s.notify d p r).cur = s.cur := rfl
@[simp] theorem State.notify_nextId (d : DieId) (p : BitVec 6) (r : Notice) : (s.notify d p r).nextId = s.nextId := rfl
@[simp] theorem State.notify_tiles (d : DieId) (p : BitVec 6) (r : Notice) : (s.notify d p r).tiles = s.tiles := rfl
@[simp] theorem State.notify_boxes (d : DieId) (p : BitVec 6) (r : Notice) : (s.notify d p r).boxes = s.boxes := rfl
@[simp] theorem State.notify_memTiles (d : DieId) (p : BitVec 6) (r : Notice) : (s.notify d p r).memTiles = s.memTiles := rfl
@[simp] theorem State.notify_cores (d : DieId) (p : BitVec 6) (r : Notice) : (s.notify d p r).cores = s.cores := rfl
@[simp] theorem State.notify_mem (d : DieId) (p : BitVec 6) (r : Notice) : (s.notify d p r).mem = s.mem := rfl
@[simp] theorem State.notify_flight (d : DieId) (p : BitVec 6) (r : Notice) : (s.notify d p r).flight = s.flight := rfl
@[simp] theorem State.notify_releases (d : DieId) (p : BitVec 6) (r : Notice) : (s.notify d p r).releases = s.releases := rfl
@[simp] theorem State.notify_reports (d : DieId) (p : BitVec 6) (r : Notice) : (s.notify d p r).reports = s.reports := rfl
@[simp] theorem State.notify_acks (d : DieId) (p : BitVec 6) (r : Notice) : (s.notify d p r).acks = s.acks := rfl
@[simp] theorem State.notify_invals (d : DieId) (p : BitVec 6) (r : Notice) : (s.notify d p r).invals = s.invals := rfl
@[simp] theorem State.notify_acking (d : DieId) (p : BitVec 6) (r : Notice) : (s.notify d p r).acking = s.acking := rfl
@[simp] theorem State.notify_replies (d : DieId) (p : BitVec 6) (r : Notice) : (s.notify d p r).replies = s.replies := rfl
@[simp] theorem State.notify_filters (d : DieId) (p : BitVec 6) (r : Notice) : (s.notify d p r).filters = s.filters := rfl
@[simp] theorem State.notify_ecc (d : DieId) (p : BitVec 6) (r : Notice) : (s.notify d p r).ecc = s.ecc := rfl
@[simp] theorem State.notify_gateways (d : DieId) (p : BitVec 6) (r : Notice) : (s.notify d p r).gateways = s.gateways := rfl
@[simp] theorem State.notify_slices (d : DieId) (p : BitVec 6) (r : Notice) : (s.notify d p r).slices = s.slices := rfl
@[simp] theorem State.notify_amos (d : DieId) (p : BitVec 6) (r : Notice) : (s.notify d p r).amos = s.amos := rfl
@[simp] theorem State.notify_grants (d : DieId) (p : BitVec 6) (r : Notice) : (s.notify d p r).grants = s.grants := rfl
@[simp] theorem State.notify_probes (d : DieId) (p : BitVec 6) (r : Notice) : (s.notify d p r).probes = s.probes := rfl
@[simp] theorem State.notify_ready (d : DieId) (p : BitVec 6) (r : Notice) : (s.notify d p r).ready = s.ready := rfl
@[simp] theorem State.notify_chunks (d : DieId) (p : BitVec 6) (r : Notice) : (s.notify d p r).chunks = s.chunks := rfl
@[simp] theorem State.notify_incs (d : DieId) (p : BitVec 6) (r : Notice) : (s.notify d p r).incs = s.incs := rfl
@[simp] theorem State.notify_tinvs (d : DieId) (p : BitVec 6) (r : Notice) : (s.notify d p r).tinvs = s.tinvs := rfl
@[simp] theorem State.notify_graphs (d : DieId) (p : BitVec 6) (r : Notice) : (s.notify d p r).graphs = s.graphs := rfl
@[simp] theorem State.notify_parts (d : DieId) (p : BitVec 6) (r : Notice) : (s.notify d p r).parts = s.parts := rfl
@[simp] theorem State.notify_launch (d : DieId) (p : BitVec 6) (r : Notice) : (s.notify d p r).launch = s.launch := rfl
@[simp] theorem State.notify_pool (d : DieId) (p : BitVec 6) (r : Notice) : (s.notify d p r).pool = s.pool := rfl
@[simp] theorem State.notify_launches (d : DieId) (p : BitVec 6) (r : Notice) : (s.notify d p r).launches = s.launches := rfl
@[simp] theorem State.notify_orders (d : DieId) (p : BitVec 6) (r : Notice) : (s.notify d p r).orders = s.orders := rfl
@[simp] theorem State.notify_election (d : DieId) (p : BitVec 6) (r : Notice) : (s.notify d p r).election = s.election := rfl
@[simp] theorem State.notify_swaps (d : DieId) (p : BitVec 6) (r : Notice) : (s.notify d p r).swaps = s.swaps := rfl
@[simp] theorem State.notify_stash (d : DieId) (p : BitVec 6) (r : Notice) : (s.notify d p r).stash = s.stash := rfl
@[simp] theorem State.notify_links (d : DieId) (p : BitVec 6) (r : Notice) : (s.notify d p r).links = s.links := rfl
@[simp] theorem State.notify_module (d : DieId) (p : BitVec 6) (r : Notice) : (s.notify d p r).module = s.module := rfl
@[simp] theorem State.notify_domain (d : DieId) (p : BitVec 6) (r : Notice) : (s.notify d p r).domain = s.domain := rfl
@[simp] theorem State.notify_host (d : DieId) (p : BitVec 6) (r : Notice) : (s.notify d p r).host = s.host := rfl
@[simp] theorem State.notify_powered (d : DieId) (p : BitVec 6) (r : Notice) : (s.notify d p r).powered = s.powered := rfl

@[simp] theorem State.onCore_agenda (k : CoreId) (f : Core → Core) : (s.onCore k f).agenda = s.agenda := rfl
@[simp] theorem State.onCore_solo (k : CoreId) (f : Core → Core) : (s.onCore k f).solo = s.solo := rfl
@[simp] theorem State.onCore_choices (k : CoreId) (f : Core → Core) : (s.onCore k f).choices = s.choices := rfl
@[simp] theorem State.onCore_cur (k : CoreId) (f : Core → Core) : (s.onCore k f).cur = s.cur := rfl
@[simp] theorem State.onCore_nextId (k : CoreId) (f : Core → Core) : (s.onCore k f).nextId = s.nextId := rfl
@[simp] theorem State.onCore_tiles (k : CoreId) (f : Core → Core) : (s.onCore k f).tiles = s.tiles := rfl
@[simp] theorem State.onCore_boxes (k : CoreId) (f : Core → Core) : (s.onCore k f).boxes = s.boxes := rfl
@[simp] theorem State.onCore_memTiles (k : CoreId) (f : Core → Core) : (s.onCore k f).memTiles = s.memTiles := rfl
@[simp] theorem State.onCore_dies (k : CoreId) (f : Core → Core) : (s.onCore k f).dies = s.dies := rfl
@[simp] theorem State.onCore_mem (k : CoreId) (f : Core → Core) : (s.onCore k f).mem = s.mem := rfl
@[simp] theorem State.onCore_flight (k : CoreId) (f : Core → Core) : (s.onCore k f).flight = s.flight := rfl
@[simp] theorem State.onCore_releases (k : CoreId) (f : Core → Core) : (s.onCore k f).releases = s.releases := rfl
@[simp] theorem State.onCore_reports (k : CoreId) (f : Core → Core) : (s.onCore k f).reports = s.reports := rfl
@[simp] theorem State.onCore_acks (k : CoreId) (f : Core → Core) : (s.onCore k f).acks = s.acks := rfl
@[simp] theorem State.onCore_invals (k : CoreId) (f : Core → Core) : (s.onCore k f).invals = s.invals := rfl
@[simp] theorem State.onCore_acking (k : CoreId) (f : Core → Core) : (s.onCore k f).acking = s.acking := rfl
@[simp] theorem State.onCore_replies (k : CoreId) (f : Core → Core) : (s.onCore k f).replies = s.replies := rfl
@[simp] theorem State.onCore_filters (k : CoreId) (f : Core → Core) : (s.onCore k f).filters = s.filters := rfl
@[simp] theorem State.onCore_ecc (k : CoreId) (f : Core → Core) : (s.onCore k f).ecc = s.ecc := rfl
@[simp] theorem State.onCore_gateways (k : CoreId) (f : Core → Core) : (s.onCore k f).gateways = s.gateways := rfl
@[simp] theorem State.onCore_slices (k : CoreId) (f : Core → Core) : (s.onCore k f).slices = s.slices := rfl
@[simp] theorem State.onCore_amos (k : CoreId) (f : Core → Core) : (s.onCore k f).amos = s.amos := rfl
@[simp] theorem State.onCore_grants (k : CoreId) (f : Core → Core) : (s.onCore k f).grants = s.grants := rfl
@[simp] theorem State.onCore_probes (k : CoreId) (f : Core → Core) : (s.onCore k f).probes = s.probes := rfl
@[simp] theorem State.onCore_ready (k : CoreId) (f : Core → Core) : (s.onCore k f).ready = s.ready := rfl
@[simp] theorem State.onCore_chunks (k : CoreId) (f : Core → Core) : (s.onCore k f).chunks = s.chunks := rfl
@[simp] theorem State.onCore_incs (k : CoreId) (f : Core → Core) : (s.onCore k f).incs = s.incs := rfl
@[simp] theorem State.onCore_tinvs (k : CoreId) (f : Core → Core) : (s.onCore k f).tinvs = s.tinvs := rfl
@[simp] theorem State.onCore_graphs (k : CoreId) (f : Core → Core) : (s.onCore k f).graphs = s.graphs := rfl
@[simp] theorem State.onCore_parts (k : CoreId) (f : Core → Core) : (s.onCore k f).parts = s.parts := rfl
@[simp] theorem State.onCore_launch (k : CoreId) (f : Core → Core) : (s.onCore k f).launch = s.launch := rfl
@[simp] theorem State.onCore_pool (k : CoreId) (f : Core → Core) : (s.onCore k f).pool = s.pool := rfl
@[simp] theorem State.onCore_launches (k : CoreId) (f : Core → Core) : (s.onCore k f).launches = s.launches := rfl
@[simp] theorem State.onCore_orders (k : CoreId) (f : Core → Core) : (s.onCore k f).orders = s.orders := rfl
@[simp] theorem State.onCore_election (k : CoreId) (f : Core → Core) : (s.onCore k f).election = s.election := rfl
@[simp] theorem State.onCore_swaps (k : CoreId) (f : Core → Core) : (s.onCore k f).swaps = s.swaps := rfl
@[simp] theorem State.onCore_stash (k : CoreId) (f : Core → Core) : (s.onCore k f).stash = s.stash := rfl
@[simp] theorem State.onCore_links (k : CoreId) (f : Core → Core) : (s.onCore k f).links = s.links := rfl
@[simp] theorem State.onCore_module (k : CoreId) (f : Core → Core) : (s.onCore k f).module = s.module := rfl
@[simp] theorem State.onCore_domain (k : CoreId) (f : Core → Core) : (s.onCore k f).domain = s.domain := rfl
@[simp] theorem State.onCore_host (k : CoreId) (f : Core → Core) : (s.onCore k f).host = s.host := rfl
@[simp] theorem State.onCore_powered (k : CoreId) (f : Core → Core) : (s.onCore k f).powered = s.powered := rfl

@[simp] theorem State.takeFault_agenda (t : Site) (l : Leaf) (b : BankId) (w : W32) (i : FaultInfo) : (s.takeFault t l b w i).agenda = s.agenda := rfl
@[simp] theorem State.takeFault_solo (t : Site) (l : Leaf) (b : BankId) (w : W32) (i : FaultInfo) : (s.takeFault t l b w i).solo = s.solo := rfl
@[simp] theorem State.takeFault_choices (t : Site) (l : Leaf) (b : BankId) (w : W32) (i : FaultInfo) : (s.takeFault t l b w i).choices = s.choices := rfl
@[simp] theorem State.takeFault_cur (t : Site) (l : Leaf) (b : BankId) (w : W32) (i : FaultInfo) : (s.takeFault t l b w i).cur = s.cur := rfl
@[simp] theorem State.takeFault_nextId (t : Site) (l : Leaf) (b : BankId) (w : W32) (i : FaultInfo) : (s.takeFault t l b w i).nextId = s.nextId := rfl
@[simp] theorem State.takeFault_boxes (t : Site) (l : Leaf) (b : BankId) (w : W32) (i : FaultInfo) : (s.takeFault t l b w i).boxes = s.boxes := rfl
@[simp] theorem State.takeFault_memTiles (t : Site) (l : Leaf) (b : BankId) (w : W32) (i : FaultInfo) : (s.takeFault t l b w i).memTiles = s.memTiles := rfl
@[simp] theorem State.takeFault_cores (t : Site) (l : Leaf) (b : BankId) (w : W32) (i : FaultInfo) : (s.takeFault t l b w i).cores = s.cores := rfl
@[simp] theorem State.takeFault_mem (t : Site) (l : Leaf) (b : BankId) (w : W32) (i : FaultInfo) : (s.takeFault t l b w i).mem = s.mem := rfl
@[simp] theorem State.takeFault_flight (t : Site) (l : Leaf) (b : BankId) (w : W32) (i : FaultInfo) : (s.takeFault t l b w i).flight = s.flight := rfl
@[simp] theorem State.takeFault_releases (t : Site) (l : Leaf) (b : BankId) (w : W32) (i : FaultInfo) : (s.takeFault t l b w i).releases = s.releases := rfl
@[simp] theorem State.takeFault_reports (t : Site) (l : Leaf) (b : BankId) (w : W32) (i : FaultInfo) : (s.takeFault t l b w i).reports = s.reports := rfl
@[simp] theorem State.takeFault_acks (t : Site) (l : Leaf) (b : BankId) (w : W32) (i : FaultInfo) : (s.takeFault t l b w i).acks = s.acks := rfl
@[simp] theorem State.takeFault_invals (t : Site) (l : Leaf) (b : BankId) (w : W32) (i : FaultInfo) : (s.takeFault t l b w i).invals = s.invals := rfl
@[simp] theorem State.takeFault_acking (t : Site) (l : Leaf) (b : BankId) (w : W32) (i : FaultInfo) : (s.takeFault t l b w i).acking = s.acking := rfl
@[simp] theorem State.takeFault_replies (t : Site) (l : Leaf) (b : BankId) (w : W32) (i : FaultInfo) : (s.takeFault t l b w i).replies = s.replies := rfl
@[simp] theorem State.takeFault_filters (t : Site) (l : Leaf) (b : BankId) (w : W32) (i : FaultInfo) : (s.takeFault t l b w i).filters = s.filters := rfl
@[simp] theorem State.takeFault_ecc (t : Site) (l : Leaf) (b : BankId) (w : W32) (i : FaultInfo) : (s.takeFault t l b w i).ecc = s.ecc := rfl
@[simp] theorem State.takeFault_gateways (t : Site) (l : Leaf) (b : BankId) (w : W32) (i : FaultInfo) : (s.takeFault t l b w i).gateways = s.gateways := rfl
@[simp] theorem State.takeFault_slices (t : Site) (l : Leaf) (b : BankId) (w : W32) (i : FaultInfo) : (s.takeFault t l b w i).slices = s.slices := rfl
@[simp] theorem State.takeFault_amos (t : Site) (l : Leaf) (b : BankId) (w : W32) (i : FaultInfo) : (s.takeFault t l b w i).amos = s.amos := rfl
@[simp] theorem State.takeFault_grants (t : Site) (l : Leaf) (b : BankId) (w : W32) (i : FaultInfo) : (s.takeFault t l b w i).grants = s.grants := rfl
@[simp] theorem State.takeFault_probes (t : Site) (l : Leaf) (b : BankId) (w : W32) (i : FaultInfo) : (s.takeFault t l b w i).probes = s.probes := rfl
@[simp] theorem State.takeFault_ready (t : Site) (l : Leaf) (b : BankId) (w : W32) (i : FaultInfo) : (s.takeFault t l b w i).ready = s.ready := rfl
@[simp] theorem State.takeFault_chunks (t : Site) (l : Leaf) (b : BankId) (w : W32) (i : FaultInfo) : (s.takeFault t l b w i).chunks = s.chunks := rfl
@[simp] theorem State.takeFault_incs (t : Site) (l : Leaf) (b : BankId) (w : W32) (i : FaultInfo) : (s.takeFault t l b w i).incs = s.incs := rfl
@[simp] theorem State.takeFault_tinvs (t : Site) (l : Leaf) (b : BankId) (w : W32) (i : FaultInfo) : (s.takeFault t l b w i).tinvs = s.tinvs := rfl
@[simp] theorem State.takeFault_graphs (t : Site) (l : Leaf) (b : BankId) (w : W32) (i : FaultInfo) : (s.takeFault t l b w i).graphs = s.graphs := rfl
@[simp] theorem State.takeFault_parts (t : Site) (l : Leaf) (b : BankId) (w : W32) (i : FaultInfo) : (s.takeFault t l b w i).parts = s.parts := rfl
@[simp] theorem State.takeFault_launch (t : Site) (l : Leaf) (b : BankId) (w : W32) (i : FaultInfo) : (s.takeFault t l b w i).launch = s.launch := rfl
@[simp] theorem State.takeFault_pool (t : Site) (l : Leaf) (b : BankId) (w : W32) (i : FaultInfo) : (s.takeFault t l b w i).pool = s.pool := rfl
@[simp] theorem State.takeFault_launches (t : Site) (l : Leaf) (b : BankId) (w : W32) (i : FaultInfo) : (s.takeFault t l b w i).launches = s.launches := rfl
@[simp] theorem State.takeFault_orders (t : Site) (l : Leaf) (b : BankId) (w : W32) (i : FaultInfo) : (s.takeFault t l b w i).orders = s.orders := rfl
@[simp] theorem State.takeFault_election (t : Site) (l : Leaf) (b : BankId) (w : W32) (i : FaultInfo) : (s.takeFault t l b w i).election = s.election := rfl
@[simp] theorem State.takeFault_swaps (t : Site) (l : Leaf) (b : BankId) (w : W32) (i : FaultInfo) : (s.takeFault t l b w i).swaps = s.swaps := rfl
@[simp] theorem State.takeFault_stash (t : Site) (l : Leaf) (b : BankId) (w : W32) (i : FaultInfo) : (s.takeFault t l b w i).stash = s.stash := rfl
@[simp] theorem State.takeFault_links (t : Site) (l : Leaf) (b : BankId) (w : W32) (i : FaultInfo) : (s.takeFault t l b w i).links = s.links := rfl
@[simp] theorem State.takeFault_module (t : Site) (l : Leaf) (b : BankId) (w : W32) (i : FaultInfo) : (s.takeFault t l b w i).module = s.module := rfl
@[simp] theorem State.takeFault_domain (t : Site) (l : Leaf) (b : BankId) (w : W32) (i : FaultInfo) : (s.takeFault t l b w i).domain = s.domain := rfl
@[simp] theorem State.takeFault_host (t : Site) (l : Leaf) (b : BankId) (w : W32) (i : FaultInfo) : (s.takeFault t l b w i).host = s.host := rfl
@[simp] theorem State.takeFault_powered (t : Site) (l : Leaf) (b : BankId) (w : W32) (i : FaultInfo) : (s.takeFault t l b w i).powered = s.powered := rfl

@[simp] theorem State.settle_agenda  : (s.settle).agenda = s.agenda := rfl
@[simp] theorem State.settle_solo  : (s.settle).solo = s.solo := rfl
@[simp] theorem State.settle_choices  : (s.settle).choices = s.choices := rfl
@[simp] theorem State.settle_cur  : (s.settle).cur = s.cur := rfl
@[simp] theorem State.settle_nextId  : (s.settle).nextId = s.nextId := rfl
@[simp] theorem State.settle_boxes  : (s.settle).boxes = s.boxes := rfl
@[simp] theorem State.settle_memTiles  : (s.settle).memTiles = s.memTiles := rfl
@[simp] theorem State.settle_dies  : (s.settle).dies = s.dies := rfl
@[simp] theorem State.settle_cores  : (s.settle).cores = s.cores := rfl
@[simp] theorem State.settle_mem  : (s.settle).mem = s.mem := rfl
@[simp] theorem State.settle_flight  : (s.settle).flight = s.flight := rfl
@[simp] theorem State.settle_releases  : (s.settle).releases = s.releases := rfl
@[simp] theorem State.settle_reports  : (s.settle).reports = s.reports := rfl
@[simp] theorem State.settle_acks  : (s.settle).acks = s.acks := rfl
@[simp] theorem State.settle_invals  : (s.settle).invals = s.invals := rfl
@[simp] theorem State.settle_acking  : (s.settle).acking = s.acking := rfl
@[simp] theorem State.settle_replies  : (s.settle).replies = s.replies := rfl
@[simp] theorem State.settle_filters  : (s.settle).filters = s.filters := rfl
@[simp] theorem State.settle_ecc  : (s.settle).ecc = s.ecc := rfl
@[simp] theorem State.settle_gateways  : (s.settle).gateways = s.gateways := rfl
@[simp] theorem State.settle_slices  : (s.settle).slices = s.slices := rfl
@[simp] theorem State.settle_amos  : (s.settle).amos = s.amos := rfl
@[simp] theorem State.settle_grants  : (s.settle).grants = s.grants := rfl
@[simp] theorem State.settle_probes  : (s.settle).probes = s.probes := rfl
@[simp] theorem State.settle_ready  : (s.settle).ready = s.ready := rfl
@[simp] theorem State.settle_chunks  : (s.settle).chunks = s.chunks := rfl
@[simp] theorem State.settle_incs  : (s.settle).incs = s.incs := rfl
@[simp] theorem State.settle_tinvs  : (s.settle).tinvs = s.tinvs := rfl
@[simp] theorem State.settle_graphs  : (s.settle).graphs = s.graphs := rfl
@[simp] theorem State.settle_parts  : (s.settle).parts = s.parts := rfl
@[simp] theorem State.settle_launch  : (s.settle).launch = s.launch := rfl
@[simp] theorem State.settle_pool  : (s.settle).pool = s.pool := rfl
@[simp] theorem State.settle_launches  : (s.settle).launches = s.launches := rfl
@[simp] theorem State.settle_orders  : (s.settle).orders = s.orders := rfl
@[simp] theorem State.settle_election  : (s.settle).election = s.election := rfl
@[simp] theorem State.settle_swaps  : (s.settle).swaps = s.swaps := rfl
@[simp] theorem State.settle_stash  : (s.settle).stash = s.stash := rfl
@[simp] theorem State.settle_links  : (s.settle).links = s.links := rfl
@[simp] theorem State.settle_module  : (s.settle).module = s.module := rfl
@[simp] theorem State.settle_domain  : (s.settle).domain = s.domain := rfl
@[simp] theorem State.settle_host  : (s.settle).host = s.host := rfl
@[simp] theorem State.settle_powered  : (s.settle).powered = s.powered := rfl

end Fields

/-! ## What a part of the state is after an update -/

section Parts
variable (s : State) (t u : Site) (l m : Leaf) (b e : BankId) (d : DieId) (k j : CoreId)

@[simp] theorem State.tile_onTile (f : Tile → Tile) : (s.onTile t f).tile t = f (s.tile t) := by
  simp [State.onTile, State.setTile, State.tile]
theorem State.tile_onTile_ne (f : Tile → Tile) (h : u ≠ t) : (s.onTile t f).tile u = s.tile u := by
  simp [State.onTile, State.setTile, State.tile, FMap.get_set_ne _ _ _ (Site.toNat_ne h.symm)]
@[simp] theorem State.tile_onCtx (f : LeafCtx → LeafCtx) : (s.onCtx t l f).tile t = (s.tile t).onCtx l f := by
  simp [State.onCtx]
theorem State.tile_onCtx_ne (f : LeafCtx → LeafCtx) (h : u ≠ t) : (s.onCtx t l f).tile u = s.tile u :=
  s.tile_onTile_ne t u _ h
@[simp] theorem State.ctx_onCtx (f : LeafCtx → LeafCtx) : (s.onCtx t l f).ctx t l = f (s.ctx t l) := by
  simp [State.ctx, Tile.onCtx]
theorem State.ctx_onCtx_ne (f : LeafCtx → LeafCtx) (h : m ≠ l) : (s.onCtx t l f).ctx t m = s.ctx t m := by
  simp only [State.ctx, State.tile_onCtx, Tile.onCtx]
  exact Vector.getElem_set_ne l.isLt m.isLt (fun e => h (Fin.ext e.symm))
theorem State.ctx_onCtx_ne_tile (f : LeafCtx → LeafCtx) (h : u ≠ t) : (s.onCtx t l f).ctx u m = s.ctx u m := by
  simp [State.ctx, s.tile_onCtx_ne t u l f h]
@[simp] theorem LeafCtx.banks_onBank (c : LeafCtx) (f : Bank → Bank) : (c.onBank b f).banks[b.val] = f c.banks[b] := by
  simp [LeafCtx.onBank]
theorem LeafCtx.banks_onBank_ne (c : LeafCtx) (f : Bank → Bank) (h : e ≠ b) : (c.onBank b f).banks[e] = c.banks[e] :=
  Vector.getElem_set_ne b.isLt e.isLt (fun x => h (Fin.ext x.symm))
@[simp] theorem State.bank_onBank (f : Bank → Bank) : (s.onBank t l b f).bank t l b = f (s.bank t l b) := by
  simp [State.bank, State.onBank]
theorem State.bank_onBank_ne (f : Bank → Bank) (h : e ≠ b) : (s.onBank t l b f).bank t l e = s.bank t l e := by
  simp only [State.bank, State.onBank, State.ctx_onCtx]
  exact (s.ctx t l).banks_onBank_ne b e f h
@[simp] theorem State.running_onCtx (f : LeafCtx → LeafCtx) : ((s.onCtx t l f).tile t).running = (s.tile t).running := by
  simp [Tile.onCtx]
@[simp] theorem State.curLeaf_onCurCtx (f : LeafCtx → LeafCtx) : (s.onCurCtx f).curLeaf = s.curLeaf := by
  simp [State.curLeaf, State.onCurCtx, State.onCtx]; rfl
@[simp] theorem State.curLeaf_onCurBank (f : Bank → Bank) : (s.onCurBank f).curLeaf = s.curLeaf :=
  s.curLeaf_onCurCtx _
@[simp] theorem State.curBank_onCurBank (f : Bank → Bank) : (s.onCurBank f).curBank = f s.curBank := by
  have h : (s.onCurBank f).curLeaf = s.curLeaf := s.curLeaf_onCurBank f
  simp [State.curBank, h]
  simp [State.onCurBank]
@[simp] theorem State.curLeaf_settle : s.settle.curLeaf = s.curLeaf := s.curLeaf_onCurCtx _
@[simp] theorem State.box_onBox (f : Box → Box) : (s.onBox t f).box t = f (s.box t) := by simp [State.onBox, State.box]
theorem State.box_onBox_ne (f : Box → Box) (h : u ≠ t) : (s.onBox t f).box u = s.box u := by
  simp [State.onBox, State.box, FMap.get_set_ne _ _ _ (Site.toNat_ne h.symm)]
@[simp] theorem State.mt_onMt (f : MemTile → MemTile) : (s.onMt t f).mt t = f (s.mt t) := by simp [State.onMt, State.mt]
theorem State.mt_onMt_ne (f : MemTile → MemTile) (h : u ≠ t) : (s.onMt t f).mt u = s.mt u := by
  simp [State.onMt, State.mt, FMap.get_set_ne _ _ _ (Site.toNat_ne h.symm)]
@[simp] theorem State.dies_onDie (f : Die → Die) : (s.onDie d f).dies[d.val] = f s.dies[d] := by simp [State.onDie]
theorem State.dies_onDie_ne (f : Die → Die) {c : DieId} (h : c ≠ d) : (s.onDie d f).dies[c] = s.dies[c] :=
  Vector.getElem_set_ne d.isLt c.isLt (fun x => h (Fin.ext x.symm))
@[simp] theorem State.cores_onCore (f : Core → Core) : (s.onCore k f).cores[k.val] = f s.cores[k] := by simp [State.onCore]
theorem State.cores_onCore_ne (f : Core → Core) (h : j ≠ k) : (s.onCore k f).cores[j] = s.cores[j] :=
  Vector.getElem_set_ne k.isLt j.isLt (fun x => h (Fin.ext x.symm))

/-- An update with a function that leaves the part as it is changes nothing of it. -/
theorem State.onCurBank_congr {f g : Bank → Bank} (h : f s.curBank = g s.curBank) : s.onCurBank f = s.onCurBank g := by
  have e : (fun c : LeafCtx => c.onBank s.cur.bank f) (s.ctx s.cur.tile s.curLeaf) =
      (fun c : LeafCtx => c.onBank s.cur.bank g) (s.ctx s.cur.tile s.curLeaf) := by
    have h' : f (s.ctx s.cur.tile s.curLeaf).banks[s.cur.bank] = g (s.ctx s.cur.tile s.curLeaf).banks[s.cur.bank] := h
    simp only [LeafCtx.onBank, h']
  simp only [State.onCurBank, State.onBank, State.onCtx, State.onTile, Tile.onCtx]
  have e' : LeafCtx.onBank (s.tile s.cur.tile).ctx[s.curLeaf] s.cur.bank f =
      LeafCtx.onBank (s.tile s.cur.tile).ctx[s.curLeaf] s.cur.bank g := e
  rw [e']

end Parts

end Sys2Proof.Machine
end

