-- ==== Sys2Proof/Laws/Frame.lean ====
section
/-!
SUPPORT. What the issue of one op leaves unchanged when the op has no other effect than pending writes and flow.
-/
namespace Sys2Proof.Machine

/-- A change of the issuing bank that keeps its bare record is a change of that bank only. -/
theorem BankOnly.of_bare (s : State) (f : Bank → Bank) (h : (f s.curBank).bare = s.curBank.bare) :
    BankOnly s (s.onCurBank f) := by
  refine ⟨rfl, ?_, ?_, ?_, ?_, ?_⟩
  · intro u hu; exact s.tile_onCtx_ne _ _ _ _ hu
  · show Tile.bare ((s.onCurBank f).tile s.cur.tile) = _
    simp [State.onCurBank, State.onBank, Tile.onCtx, Tile.bare, State.curTile]
  · intro l hl
    exact s.ctx_onCtx_ne _ _ _ _ hl
  · have : (s.onCurBank f).curCtx = s.curCtx.onBank s.cur.bank f := by
      simp only [State.curCtx, State.curLeaf_onCurBank]
      exact s.ctx_onCtx _ _ _
    rw [this]; simp [LeafCtx.onBank]
  · simp [h]

/-- Two such changes in a row are one, where the first keeps who issues. -/
theorem BankOnly.trans {s t u : State} (h1 : BankOnly s t) (h2 : BankOnly t u) (hc : t.cur = s.cur)
    (hl : t.curLeaf = s.curLeaf) : BankOnly s u := by
  obtain ⟨a1, a2, a3, a4, a5, a6⟩ := h1
  obtain ⟨b1, b2, b3, b4, b5, b6⟩ := h2
  rw [hc] at *
  rw [hl] at *
  refine ⟨b1.trans a1, fun u hu => (b2 u hu).trans (a2 u hu), b3.trans a3,
    fun l h => (b4 l h).trans (a4 l h), b5.trans a5, b6.trans a6⟩

/-- A notice record changes no tile. -/
theorem BankOnly.notify (s : State) (d p r) : BankOnly s (s.notify d p r) := by
  refine ⟨?_, fun u _ => rfl, rfl, fun l _ => rfl, rfl, rfl⟩
  simp only [State.apart, State.notify, State.onNotice, State.onDie]
  congr 1
  ext i hi
  by_cases h : d.val = i
  · subst h; simp
  · simp [h]

/-- A fault of the issuing bank changes that bank only. -/
theorem BankOnly.faultHere (s : State) (k f) : BankOnly s (s.faultHere k f) := by
  refine BankOnly.trans (t := s.onCurBank (fun b => b.fault _ f)) (BankOnly.of_bare s _ ?_) (BankOnly.notify _ _ _ _) rfl
    (State.curLeaf_onCurBank _ _)
  simp only [Bank.fault]; split <;> rfl

/-- An op without an effect of its own changes its bank only. -/
theorem BankOnly.commit (s : State) (k : Slot) (p : Plan) (ha : p.act = id) : BankOnly s (s.commit [(k, p)]) := by
  simp only [State.commit, List.foldl, ha, id]
  let after := fun (fl : Flow) (ws : List PWrite) =>
    s.onCurBank (fun k => ({ k with pending := k.pending ++ ws } : Bank).next fl)
  have h0 : ∀ fl ws, BankOnly s (after fl ws) := by
    intro fl ws
    apply BankOnly.of_bare
    simp only [Bank.next]
    split <;> first | rfl | (split <;> rfl)
  have h1 : ∀ fl ws w f, BankOnly s ((after fl ws).takeFault s.cur.tile s.curLeaf s.cur.bank w f) := by
    intro fl ws w f
    refine BankOnly.trans (h0 fl ws) ?_ rfl (State.curLeaf_onCurBank _ _)
    have hl : (after fl ws).curLeaf = s.curLeaf := State.curLeaf_onCurBank _ _
    have hc : (after fl ws).cur = s.cur := rfl
    rw [← hl, ← hc]
    refine BankOnly.trans (t := (after fl ws).onCurBank (fun b => b.fault w f))
      (BankOnly.of_bare _ _ ?_) (BankOnly.notify _ _ _ _) rfl (State.curLeaf_onCurBank _ _)
    simp only [Bank.fault]; split <;> rfl
  split
  · exact h1 _ _ _ _
  · exact h0 _ _
  · exact h0 _ _
  · split
    · simp only [State.pastEnd]
      have := h1 (flowOf [(k, p)])
        (List.flatMap (fun q => List.map (fun w => PWrite.mk w.1 w.2 q.1) q.2.live) [(k, p)])
        (fltbWord false s.curLeaf 0 0xFFF) (faultOf .brange 0x1000)
      simpa [after] using this
    · exact h0 _ _

/-- The issue of an op without an effect of its own, whose wait marks its bank only, changes its bank only. -/
theorem BankOnly.issue (s : State) (k : Slot) (p : Plan) (ha : p.act = id) (hw : ∀ b, (p.onWait b).bare = b.bare) :
    BankOnly s (s.issue [(k, p)]) := by
  unfold State.issue
  split
  · exact BankOnly.faultHere _ _ _
  split
  · exact BankOnly.faultHere _ _ _
  split
  · exact BankOnly.faultHere _ _ _
  split
  · apply BankOnly.of_bare
    exact (show _ = Bank.bare (p.onWait s.curBank) from rfl).trans (hw _)
  split
  · exact BankOnly.faultHere _ _ _
  exact BankOnly.commit _ _ _ ha

/-- An op under a predicate has no effect of its own where neither side has one. -/
theorem guarded_act {k g on off} {s : State} (h1 : (on s).act = id) (h2 : (off s).act = id) :
    (guarded k g on off s).2.act = id := by
  simp only [guarded]; split <;> assumption

/-- An op under a predicate marks its bank only while it waits, where both sides do. -/
theorem guarded_onWait {k g on off} {s : State} (h1 : ∀ b, ((on s).onWait b).bare = b.bare)
    (h2 : ∀ b, ((off s).onWait b).bare = b.bare) (b : Bank) : ((guarded k g on off s).2.onWait b).bare = b.bare := by
  simp only [guarded]; split <;> simp [h1, h2]

/-- What the issue of an op under a predicate leaves, where neither side has an effect of its own. -/
theorem BankOnly.guarded {s t : State} {k g on off} (h1 : (on s.settle).act = id) (h2 : (off s.settle).act = id)
    (h3 : ∀ b, ((on s.settle).onWait b).bare = b.bare) (h4 : ∀ b, ((off s.settle).onWait b).bare = b.bare)
    (h : issueOne (guarded k g on off) s = .next t) : BankOnly s.settle t := by
  simp only [issueOne, Host.Outcome.next.injEq] at h
  subst h
  exact BankOnly.issue _ k _ (guarded_act (k := k) (g := g) h1 h2) (guarded_onWait (k := k) (g := g) h3 h4)

end Sys2Proof.Machine
end

