-- ==== Sys2Proof/Laws/Memory.lean ====
section
/-!
SUPPORT. The byte memory: what a read gives after a write, and that every operation over a memory keeps its canonical form.
-/
namespace Sys2Proof.Machine

/-! ## The canonical form -/

theorem Memory.wfFrom_mono {lo hi : Nat} {m : Memory} (h : m.wfFrom hi = true) (hl : lo ≤ hi) : m.wfFrom lo = true := by
  cases m with
  | nil => rfl
  | cons c r =>
    simp only [Memory.wfFrom, Bool.and_eq_true, decide_eq_true_eq] at h ⊢
    exact ⟨⟨by omega, h.1.2⟩, h.2⟩

theorem Memory.wfFrom_write {lo a : Nat} {x : Byte} {m : Memory} (h : m.wfFrom lo = true) (ha : lo ≤ a) :
    (m.write a x).wfFrom lo = true := by
  induction m generalizing lo with
  | nil => unfold Memory.write; split <;> simp_all [Memory.wfFrom]
  | cons c r ih =>
    obtain ⟨b, y⟩ := c
    simp only [Memory.wfFrom, Bool.and_eq_true, decide_eq_true_eq] at h
    obtain ⟨⟨hb, hy⟩, hr⟩ := h
    by_cases hab : a = b
    · subst hab
      by_cases hx : x = 0#8
      · simpa [Memory.write, hx] using Memory.wfFrom_mono hr (by omega)
      · simpa [Memory.write, hx, Memory.wfFrom, ha] using hr
    · by_cases hlt : a < b
      · by_cases hx : x = 0#8
        · simpa [Memory.write, hab, hlt, hx, Memory.wfFrom, hb] using And.intro (by simpa using hy) hr
        · simpa [Memory.write, hab, hlt, hx, Memory.wfFrom, ha] using And.intro (And.intro hlt (by simpa using hy)) hr
      · simpa [Memory.write, hab, hlt, Memory.wfFrom, hb] using And.intro (by simpa using hy) (ih hr (by omega))

/-- A byte written keeps the canonical form. -/
theorem Memory.wf_write {m : Memory} (h : m.wf = true) (a : Nat) (x : Byte) : (m.write a x).wf = true :=
  Memory.wfFrom_write h (Nat.zero_le a)

/-- A number written keeps the canonical form. -/
theorem Memory.wf_writeNat {m : Memory} (h : m.wf = true) (a v n : Nat) : (m.writeNat a v n).wf = true := by
  induction n generalizing m a v with
  | zero => exact h
  | succ n ih => exact ih (Memory.wf_write h a _) _ _

theorem Memory.wf_writeW32 {m : Memory} (h : m.wf = true) (a : Nat) (x : W32) : (m.writeW32 a x).wf = true :=
  Memory.wf_writeNat h a _ _

theorem Memory.wf_writeW64 {m : Memory} (h : m.wf = true) (a : Nat) (x : W64) : (m.writeW64 a x).wf = true :=
  Memory.wf_writeNat h a _ _

theorem Memory.wf_writeVec {m : Memory} (h : m.wf = true) (a : Nat) (x : Vec) : (m.writeVec a x).wf = true :=
  Memory.wf_writeNat h a _ _

/-- A list of bytes written keeps the canonical form. -/
theorem Memory.wf_writeBytes {m : Memory} (h : m.wf = true) (a : Nat) (l : List Byte) : (m.writeBytes a l).wf = true := by
  induction l generalizing m a with
  | nil => exact h
  | cons x r ih => exact ih (Memory.wf_write h a x) _

/-- Words taken from owner storage keep the canonical form. -/
theorem Memory.wf_takeOwned {m : Memory} (h : m.wf = true) (f : MtLeaf) (ct : BitVec 2) (va pa n : Nat) :
    (m.takeOwned f ct va pa n).wf = true := by
  induction n generalizing m with
  | zero => exact h
  | succ n ih => exact Memory.wf_writeW32 (ih h) _ _

theorem Memory.wfFrom_filter {lo : Nat} {m : Memory} (p : Host.Cell → Bool) (h : m.wfFrom lo = true) :
    Memory.wfFrom lo (m.filter p) = true := by
  induction m generalizing lo with
  | nil => rfl
  | cons c r ih =>
    obtain ⟨a, x⟩ := c
    simp only [Memory.wfFrom, Bool.and_eq_true, decide_eq_true_eq] at h
    by_cases hp : p (a, x) = true
    · simp only [List.filter_cons, hp, if_true, Memory.wfFrom, Bool.and_eq_true, decide_eq_true_eq]
      exact ⟨h.1, ih h.2⟩
    · simp only [List.filter_cons, hp]
      exact Memory.wfFrom_mono (ih h.2) (by omega)

/-- A memory that loses its low part keeps the canonical form. -/
theorem Memory.wf_dropBelow {m : Memory} (h : m.wf = true) (a : Nat) : (m.dropBelow a).wf = true :=
  Memory.wfFrom_filter _ h

/-- Reset memory has the canonical form. -/
theorem Memory.wf_reset : State.reset.mem.wf = true := rfl

/-! ## A read after a write -/

/-- Below the bound of a memory every byte reads 0. -/
theorem Memory.read_below {lo a : Nat} {m : Memory} (h : m.wfFrom lo = true) (ha : a < lo) : m.read a = 0 := by
  cases m with
  | nil => rfl
  | cons c r =>
    simp only [Memory.wfFrom, Bool.and_eq_true, decide_eq_true_eq] at h
    have h1 : a ≠ c.1 := by omega
    have h2 : a < c.1 := by omega
    simp [Memory.read, h1, h2]

theorem Memory.read_write_same_from {lo : Nat} {m : Memory} (h : m.wfFrom lo = true) (a : Nat) (x : Byte) :
    (m.write a x).read a = x := by
  induction m generalizing lo with
  | nil => by_cases hx : x = 0#8 <;> simp [Memory.write, Memory.read, hx]
  | cons c r ih =>
    obtain ⟨b, y⟩ := c
    simp only [Memory.wfFrom, Bool.and_eq_true, decide_eq_true_eq] at h
    by_cases hab : a = b
    · subst hab
      by_cases hx : x = 0#8
      · simp only [Memory.write, hx, if_true, BitVec.ofNat_eq_ofNat]
        exact Memory.read_below h.2 (by omega)
      · simp [Memory.write, Memory.read, hx]
    · by_cases hlt : a < b
      · by_cases hx : x = 0#8 <;> simp [Memory.write, Memory.read, hab, hlt, hx]
      · simp only [Memory.write, hab, hlt, if_false, Memory.read]
        exact ih h.2

/-- A byte reads as it was written. -/
theorem Memory.read_write_same {m : Memory} (h : m.wf = true) (a : Nat) (x : Byte) : (m.write a x).read a = x :=
  Memory.read_write_same_from h a x

theorem Memory.read_write_ne_from {lo : Nat} {m : Memory} (h : m.wfFrom lo = true) {a b : Nat} (x : Byte) (hb : b ≠ a) :
    (m.write a x).read b = m.read b := by
  induction m generalizing lo with
  | nil => by_cases hx : x = 0#8 <;> simp [Memory.write, Memory.read, hx, hb]
  | cons c r ih =>
    obtain ⟨d, y⟩ := c
    simp only [Memory.wfFrom, Bool.and_eq_true, decide_eq_true_eq] at h
    by_cases had : a = d
    · subst had
      by_cases hx : x = 0#8
      · simp only [Memory.write, hx, if_true, Memory.read, hb, if_false, BitVec.ofNat_eq_ofNat]
        split
        · exact Memory.read_below h.2 (by omega)
        · rfl
      · simp [Memory.write, Memory.read, hx, hb]
    · by_cases hlt : a < d
      · by_cases hx : x = 0#8
        · simp [Memory.write, had, hlt, hx]
        · simp only [Memory.write, had, hlt, hx, if_true, if_false, Memory.read, hb, BitVec.ofNat_eq_ofNat]
          split
          · have h1 : b ≠ d := by omega
            have h2 : b < d := by omega
            simp [h1, h2]
          · rfl
      · simp only [Memory.write, had, hlt, if_false, Memory.read]
        rw [ih h.2]

/-- A write leaves every other byte alone. -/
theorem Memory.read_write_ne {m : Memory} (h : m.wf = true) {a b : Nat} (x : Byte) (hb : b ≠ a) :
    (m.write a x).read b = m.read b :=
  Memory.read_write_ne_from h x hb

/-- A number written leaves every byte outside its bytes alone. -/
theorem Memory.read_writeNat_out {m : Memory} (h : m.wf = true) (a v n b : Nat) (hb : b < a ∨ a + n ≤ b) :
    (m.writeNat a v n).read b = m.read b := by
  induction n generalizing m a v with
  | zero => rfl
  | succ n ih =>
    rw [Memory.writeNat, ih (Memory.wf_write h _ _) _ _ (by omega), Memory.read_write_ne h _ (by omega)]

theorem Memory.readNat_congr {m k : Memory} {a n : Nat} (h : ∀ b, a ≤ b → b < a + n → m.read b = k.read b) :
    m.readNat a n = k.readNat a n := by
  induction n generalizing a with
  | zero => rfl
  | succ n ih =>
    simp only [Memory.readNat]
    rw [h a (le_refl a) (by omega), ih (fun b h1 h2 => h b (by omega) (by omega))]

/-- A number reads as it was written, cut to its bytes. -/
theorem Memory.readNat_writeNat {m : Memory} (h : m.wf = true) (a v n : Nat) :
    (m.writeNat a v n).readNat a n = v % 256 ^ n := by
  induction n generalizing m a v with
  | zero => simp [Memory.readNat, Nat.mod_one]
  | succ n ih =>
    simp only [Memory.readNat, Memory.writeNat]
    rw [ih (Memory.wf_write h _ _), Memory.read_writeNat_out (Memory.wf_write h _ _) _ _ _ _ (by omega),
      Memory.read_write_same h, BitVec.toNat_ofNat, Nat.pow_succ' (m := 256), Nat.mod_mul]

/-- A number written elsewhere leaves a number as it was. -/
theorem Memory.readNat_writeNat_out {m : Memory} (h : m.wf = true) (a v n b k : Nat) (hb : b + k ≤ a ∨ a + n ≤ b) :
    (m.writeNat a v n).readNat b k = m.readNat b k :=
  Memory.readNat_congr (fun c h1 h2 => Memory.read_writeNat_out h a v n c (by omega))

/-- A word reads as it was written. -/
theorem Memory.readW32_writeW32 {m : Memory} (h : m.wf = true) (a : Nat) (x : W32) : (m.writeW32 a x).readW32 a = x := by
  simp only [Memory.readW32, Memory.writeW32]
  rw [Memory.readNat_writeNat h]
  apply BitVec.eq_of_toNat_eq
  have := x.isLt
  simp only [BitVec.toNat_ofNat]
  omega

/-- A line reads as it was written. -/
theorem Memory.readVec_writeVec {m : Memory} (h : m.wf = true) (a : Nat) (x : Vec) : (m.writeVec a x).readVec a = x := by
  simp only [Memory.readVec, Memory.writeVec]
  rw [Memory.readNat_writeNat h]
  apply BitVec.eq_of_toNat_eq
  have := x.isLt
  simp only [BitVec.toNat_ofNat]
  omega

end Sys2Proof.Machine
end

