-- ==== Sys2Proof/Laws/Invariant.lean ====
section
/-!
SUPPORT. The invariant of a run under each update of the state: an update that touches no byte memory and no core keeps it,
one that touches a tile, a memory tile, a core, the host or the physical memory keeps it when the new part is sound.
-/
namespace Sys2Proof.Machine

/-! ## Memories -/

theorem Memory.wfFrom_slice (lo : Nat) : ∀ (m : Memory) (b : Nat), lo ≤ b → m.wfFrom b = true →
    Memory.wfFrom (b - lo) (m.map (fun c => (c.1 - lo, c.2))) = true := by
  intro m
  induction m with
  | nil => intros; rfl
  | cons c r ih =>
    intro b hb h
    simp only [Memory.wfFrom, List.map_cons, Bool.and_eq_true, decide_eq_true_eq] at h ⊢
    have h1 : c.1 + 1 - lo = c.1 - lo + 1 := by omega
    exact ⟨⟨by omega, h.1.2⟩, h1 ▸ ih (c.1 + 1) (by omega) h.2⟩

theorem Memory.wfFrom_raise {lo hi : Nat} {m : Memory} (h : m.wfFrom lo = true) (ha : ∀ c ∈ m, hi ≤ c.1) :
    m.wfFrom hi = true := by
  cases m with
  | nil => rfl
  | cons c r =>
    simp only [Memory.wfFrom, Bool.and_eq_true, decide_eq_true_eq] at h ⊢
    exact ⟨⟨ha c (by simp), h.1.2⟩, h.2⟩

/-- The part of a memory that the boot ROM copies is in canonical form. -/
theorem Memory.wf_slice {m : Memory} (h : m.wf = true) (lo n : Nat) : (m.slice lo n).wf = true := by
  have h1 := Memory.wfFrom_filter (fun c => decide (lo ≤ c.1 ∧ c.1 < lo + n)) h
  have h2 := Memory.wfFrom_raise (hi := lo) h1 (by simp; intros; omega)
  have h3 := Memory.wfFrom_slice lo _ lo (Nat.le_refl lo) h2
  simpa [Memory.slice, Memory.wf] using h3

/-! ## Updates that touch neither a memory nor a core -/

/-- The invariant looks at six fields only. -/
theorem State.Inv.congr {s t : State} (h : s.Inv) (hm : t.mem = s.mem) (hf : t.host.flash = s.host.flash)
    (hc : t.cores = s.cores) (ht : t.tiles = s.tiles) (hr : t.memTiles = s.memTiles) (hs : t.stash = s.stash) : t.Inv := by
  simpa only [State.Inv, State.canonical, State.tile, State.mtLeaf, State.mt, hm, hf, hc, ht, hr, hs] using h

theorem State.Inv.onBox {s : State} (h : s.Inv) (t : Site) (f : Box → Box) : (s.onBox t f).Inv :=
  h.congr rfl rfl rfl rfl rfl rfl

theorem State.Inv.onDie {s : State} (h : s.Inv) (d : DieId) (f : Die → Die) : (s.onDie d f).Inv :=
  h.congr rfl rfl rfl rfl rfl rfl

theorem State.Inv.onNotice {s : State} (h : s.Inv) (d : DieId) (p : BitVec 6) (f : NoticeQ → NoticeQ) :
    (s.onNotice d p f).Inv := h.onDie d _

theorem State.Inv.notify {s : State} (h : s.Inv) (d : DieId) (p : BitVec 6) (r : Notice) : (s.notify d p r).Inv :=
  h.onNotice d p _

theorem State.Inv.takeId {s : State} (h : s.Inv) : s.takeId.Inv := h.congr rfl rfl rfl rfl rfl rfl

/-! ## Updates of one part -/

/-- The physical memory may change to any memory in canonical form. -/
theorem State.Inv.withMem {s : State} (h : s.Inv) {m : Memory} (hm : m.wf = true) : ({ s with mem := m } : State).Inv :=
  ⟨⟨hm, h.1.2⟩, h.2⟩

theorem State.Inv.putPhys {s : State} (h : s.Inv) (pa n v : Nat) : (s.putPhys pa n v).Inv :=
  h.withMem (Memory.wf_writeNat h.1.1 pa v n)

/-- The host's registers may change when the flash stays in canonical form. -/
theorem State.Inv.onHost {s : State} (h : s.Inv) {f : HostRegs → HostRegs} (hf : (f s.host).flash.wf = true) :
    (s.onHost f).Inv := ⟨⟨h.1.1, hf, h.1.2.2⟩, h.2⟩

/-- A core may change when its local memory stays in canonical form and its word addresses stay aligned. -/
theorem State.Inv.onCore {s : State} (h : s.Inv) (k : CoreId) {f : Core → Core} (hl : (f s.cores[k]).lmem.wf = true)
    (ha : (f s.cores[k]).aligned = true) : (s.onCore k f).Inv := by
  obtain ⟨⟨h1, h2, h3, h4⟩, h5⟩ := h
  refine ⟨⟨h1, h2, fun j => ?_, h4⟩, fun j => ?_⟩ <;> by_cases e : k = j
  · subst e; simpa [State.onCore] using hl
  · have : k.val ≠ j.val := fun x => e (Fin.ext x)
    simpa [State.onCore, Vector.getElem_set, this] using h3 j
  · subst e; simpa [State.onCore] using ha
  · have : k.val ≠ j.val := fun x => e (Fin.ext x)
    simpa [State.onCore, Vector.getElem_set, this] using h5 j

/-- A tile may change when its scratch stays in canonical form. -/
theorem State.Inv.onTile {s : State} (h : s.Inv) (t : Site) {f : Tile → Tile} (hf : (f (s.tile t)).scratch.wf = true) :
    (s.onTile t f).Inv := by
  obtain ⟨⟨h1, h2, h3, h4, h5⟩, h6⟩ := h
  refine ⟨⟨h1, h2, h3, fun u => ?_, h5⟩, h6⟩
  by_cases e : t = u
  · subst e; rw [s.tile_onTile t f]; exact hf
  · rw [s.tile_onTile_ne t u f (Ne.symm e)]; exact h4 u

theorem State.Inv.scratch {s : State} (h : s.Inv) (t : Site) : (s.tile t).scratch.wf = true := h.1.2.2.2.1 t

theorem State.Inv.onCtx {s : State} (h : s.Inv) (t : Site) (l : Leaf) (f : LeafCtx → LeafCtx) : (s.onCtx t l f).Inv :=
  h.onTile t (h.scratch t)

theorem State.Inv.onBank {s : State} (h : s.Inv) (t : Site) (l : Leaf) (b : BankId) (f : Bank → Bank) :
    (s.onBank t l b f).Inv := h.onCtx t l _

theorem State.Inv.onCurCtx {s : State} (h : s.Inv) (f : LeafCtx → LeafCtx) : (s.onCurCtx f).Inv := h.onCtx _ _ f

theorem State.Inv.onCurBank {s : State} (h : s.Inv) (f : Bank → Bank) : (s.onCurBank f).Inv := h.onBank _ _ _ f

/-- A memory tile may change when the owned words of each leaf stay in canonical form. -/
theorem State.Inv.onMt {s : State} (h : s.Inv) (t : Site) {f : MemTile → MemTile}
    (hf : ∀ l : Leaf, (f (s.mt t)).lf[l].store.wf = true) : (s.onMt t f).Inv := by
  obtain ⟨⟨h1, h2, h3, h4, h5, h7⟩, h6⟩ := h
  refine ⟨⟨h1, h2, h3, h4, fun u l => ?_, h7⟩, h6⟩
  by_cases e : t = u
  · subst e; rw [State.mtLeaf, s.mt_onMt t f]; exact hf l
  · rw [State.mtLeaf, s.mt_onMt_ne t u f (Ne.symm e)]; exact h5 u l

theorem State.Inv.store {s : State} (h : s.Inv) (t : Site) (l : Leaf) : (s.mtLeaf t l).store.wf = true := h.1.2.2.2.2.1 t l

/-- A memory tile whose leaves stay as they are may change otherwise. -/
theorem State.Inv.onMtLeaves {s : State} (h : s.Inv) (t : Site) {f : MemTile → MemTile} (hf : (f (s.mt t)).lf = (s.mt t).lf) :
    (s.onMt t f).Inv := h.onMt t (fun l => by rw [hf]; exact h.store t l)

/-! ## Control cores -/

theorem Core.aligned_next {v : BitVec 18} (h : (v &&& 3 == 0) = true) : (v + 4 &&& 3 == 0) = true := by
  have e : ∀ w : BitVec 18, (w &&& 3 == 0) = decide (w.toNat % 4 = 0) := fun w => by
    rw [Bool.eq_iff_iff, beq_iff_eq, decide_eq_true_iff, ← BitVec.toNat_inj]
    simp only [BitVec.toNat_and, BitVec.toNat_ofNat]
    exact iff_of_eq (congrArg (· = 0) (Nat.and_two_pow_sub_one_eq_mod w.toNat 2))
  rw [e] at h ⊢
  simp only [decide_eq_true_eq] at h ⊢
  bv_omega

/-- An exception keeps a core aligned. -/
theorem Core.aligned_exception {c : Core} (h : c.aligned = true) (cause : Cause) (a : W64) :
    (c.exception cause a).aligned = true := by
  simp only [Core.aligned, Bool.and_eq_true] at h
  simpa [Core.exception, Core.aligned, BitVec.and_assoc] using h.1.2

/-- A write to a register changes neither a memory nor a word address of the core. -/
@[simp] theorem Core.wx_lmem (c : Core) (r : BitVec 5) (v : W64) : (c.wx r v).lmem = c.lmem := by
  unfold Core.wx; split <;> rfl

@[simp] theorem Core.wx_aligned (c : Core) (r : BitVec 5) (v : W64) : (c.wx r v).aligned = c.aligned := by
  unfold Core.wx; split <;> rfl

/-! ## Folds -/

/-- A fold of updates that keep the invariant keeps it. -/
theorem State.Inv.foldl {α : Type} {f : State → α → State} (hf : ∀ (s : State) (a : α), s.Inv → (f s a).Inv) :
    ∀ (l : List α) (s : State), s.Inv → (l.foldl f s).Inv
  | [], _, h => h
  | a :: r, s, h => State.Inv.foldl hf r (f s a) (hf s a h)

end Sys2Proof.Machine
end

