-- ==== Sys2Proof/Laws/PerInstr.lean ====
section
/-!
SUPPORT. Statements made per instruction. `RoundTrip`: the decoder reads a well-formed instruction back from its word
(R47-R58, R68-R69); one lemma per constructor.
-/
namespace Sys2Proof.Laws.RoundTrip

set_option Elab.async false
set_option linter.unusedSimpArgs false

/-- The decoder reads the instruction back from the word that the encoder gives it. -/
def Statement (i : Instr) : Prop := i.wf = true → i.reread = some i

/-- A word of a slot whose fields give the instruction decodes to it. -/
theorem of_s {i : Instr} {w : W32} (e : decodeSRaw w = some i) (h : i.wf = true) : decodeSlot .s w = some i := by
  rw [decodeSlot, decodeS, e, accept_some h]
theorem of_v {i : Instr} {w : W32} (e : decodeVRaw w = some i) (h : i.wf = true) : decodeSlot .v w = some i := by
  rw [decodeSlot, decodeV, e, accept_some h]
theorem of_m {i : Instr} {w : W32} (e : decodeMRaw w = some i) (h : i.wf = true) : decodeSlot .m w = some i := by
  rw [decodeSlot, decodeM, e, accept_some h]
theorem of_c {i : Instr} {w : W32} (e : decodeCRaw w = some i) (h : i.wf = true) : decodeSlot .c w = some i := by
  rw [decodeSlot, decodeC, e, accept_some h]

theorem x_type (t : BitVec 4) (p q r : BitVec 1) : (t ++ p ++ q ++ r).extractLsb' 3 4 = t := by
  revert t p q r; decide
theorem x_two (t : BitVec 4) (p q r : BitVec 1) : (t ++ p ++ q ++ r)[2] = p[0] := by revert t p q r; decide
theorem x_one (t : BitVec 4) (p q r : BitVec 1) : (t ++ p ++ q ++ r)[1] = q[0] := by revert t p q r; decide
theorem x_zero (t : BitVec 4) (p q r : BitVec 1) : (t ++ p ++ q ++ r)[0] = r[0] := by revert t p q r; decide
theorem cap_low (cap : Option (BitVec 3)) : (capX cap).extractLsb' 0 3 = 0#3 := by
  cases cap with
  | none => decide
  | some p => revert p; decide
theorem cap_read (g : Pg) (op : BitVec 6) (h : BitVec 4) (r : BitVec 5) (n : BitVec 6) (cap : Option (BitVec 3)) :
    capture (fmtC g op h r n (capX cap)) = cap := by
  simp only [capture, BitVec.getLsbD_eq_getElem, bit_fmtC, bits_fmtC, Nat.reduceLT, Nat.reduceAdd, Nat.reduceLeDiff]
  cases cap with
  | none => decide
  | some p => revert p; decide
theorem lnch_high (a b : Bool) : (0#5 ++ BitVec.ofBool a ++ BitVec.ofBool b).extractLsb' 2 5 = 0#5 := by
  revert a b; decide
theorem lnch_one (a b : Bool) : (0#5 ++ BitVec.ofBool a ++ BitVec.ofBool b)[1] = a := by revert a b; decide
theorem lnch_zero (a b : Bool) : (0#5 ++ BitVec.ofBool a ++ BitVec.ofBool b)[0] = b := by revert a b; decide
theorem round_read (g : Pg) (op : BitVec 6) (d a : BitVec 5) (rnd fn : BitVec 3) (t : BitVec 4)
    (h : (if floatT t && fn == 0 then roundOk rnd else rnd == 0) = true) :
    sumRound (fmtA g op d a (p5 rnd) (tm t fn)) = rnd := by
  have hp : (p5 rnd).extractLsb' 0 3 = rnd := by clear h; revert rnd; decide
  simp only [sumRound, fT_fmtA, fM_fmtA, tm_t, tm_m,
    bitsB_fmtA g op d a (p5 rnd) (tm t fn) (Nat.le_refl 7) (by decide : 7 + 3 ≤ 12), Nat.sub_self, hp]
  split
  · rfl
  · next hc => exact (eq_of_beq (by rwa [if_neg hc] at h)).symm

theorem nop : Statement (.nop) := fun _ => by decide
theorem add (g : Pg) (d : BitVec 5) (a : BitVec 5) (b : BitVec 5) : Statement (.add g d a b) := of_s (by simp [decodeSRaw, decodeAlu, whenB, bits_fmtA, bit_fmtA])
theorem sub (g : Pg) (d : BitVec 5) (a : BitVec 5) (b : BitVec 5) : Statement (.sub g d a b) := of_s (by simp [decodeSRaw, decodeAlu, whenB, bits_fmtA, bit_fmtA])
theorem and (g : Pg) (d : BitVec 5) (a : BitVec 5) (b : BitVec 5) : Statement (.and g d a b) := of_s (by simp [decodeSRaw, decodeAlu, whenB, bits_fmtA, bit_fmtA])
theorem or (g : Pg) (d : BitVec 5) (a : BitVec 5) (b : BitVec 5) : Statement (.or g d a b) := of_s (by simp [decodeSRaw, decodeAlu, whenB, bits_fmtA, bit_fmtA])
theorem xor (g : Pg) (d : BitVec 5) (a : BitVec 5) (b : BitVec 5) : Statement (.xor g d a b) := of_s (by simp [decodeSRaw, decodeAlu, whenB, bits_fmtA, bit_fmtA])
theorem shl (g : Pg) (d : BitVec 5) (a : BitVec 5) (b : BitVec 5) : Statement (.shl g d a b) := of_s (by simp [decodeSRaw, decodeAlu, whenB, bits_fmtA, bit_fmtA])
theorem shr (g : Pg) (d : BitVec 5) (a : BitVec 5) (b : BitVec 5) : Statement (.shr g d a b) := of_s (by simp [decodeSRaw, decodeAlu, whenB, bits_fmtA, bit_fmtA])
theorem sra (g : Pg) (d : BitVec 5) (a : BitVec 5) (b : BitVec 5) : Statement (.sra g d a b) := of_s (by simp [decodeSRaw, decodeAlu, whenB, bits_fmtA, bit_fmtA])
theorem mul (g : Pg) (d : BitVec 5) (a : BitVec 5) (b : BitVec 5) : Statement (.mul g d a b) := of_s (by simp [decodeSRaw, decodeAlu, whenB, bits_fmtA, bit_fmtA])
theorem mulh (g : Pg) (d : BitVec 5) (a : BitVec 5) (b : BitVec 5) : Statement (.mulh g d a b) := of_s (by simp [decodeSRaw, decodeAlu, whenB, bits_fmtA, bit_fmtA])
theorem mulhn (g : Pg) (d : BitVec 5) (a : BitVec 5) (b : BitVec 5) : Statement (.mulhn g d a b) := of_s (by simp [decodeSRaw, decodeAlu, whenB, bits_fmtA, bit_fmtA])
theorem min (g : Pg) (d : BitVec 5) (a : BitVec 5) (b : BitVec 5) : Statement (.min g d a b) := of_s (by simp [decodeSRaw, decodeAlu, whenB, bits_fmtA, bit_fmtA])
theorem max (g : Pg) (d : BitVec 5) (a : BitVec 5) (b : BitVec 5) : Statement (.max g d a b) := of_s (by simp [decodeSRaw, decodeAlu, whenB, bits_fmtA, bit_fmtA])
theorem minn (g : Pg) (d : BitVec 5) (a : BitVec 5) (b : BitVec 5) : Statement (.minn g d a b) := of_s (by simp [decodeSRaw, decodeAlu, whenB, bits_fmtA, bit_fmtA])
theorem maxn (g : Pg) (d : BitVec 5) (a : BitVec 5) (b : BitVec 5) : Statement (.maxn g d a b) := of_s (by simp [decodeSRaw, decodeAlu, whenB, bits_fmtA, bit_fmtA])
theorem clz (g : Pg) (d : BitVec 5) (a : BitVec 5) : Statement (.clz g d a) := of_s (by simp [decodeSRaw, decodeAlu, whenB, bits_fmtA, bit_fmtA])
theorem cmp (g : Pg) (d : BitVec 3) (a : BitVec 5) (b : BitVec 5) (cond : BitVec 3) : Statement (.cmp g d a b cond) := of_s (by simp [decodeSRaw, whenB, bits_fmtA, bit_fmtA]; revert cond; decide)
theorem addi (g : Pg) (d : BitVec 5) (a : BitVec 5) (imm : BitVec 12) : Statement (.addi g d a imm) := of_s (by simp [decodeSRaw, whenB, bits_fmtI])
theorem andi (g : Pg) (d : BitVec 5) (a : BitVec 5) (imm : BitVec 12) : Statement (.andi g d a imm) := of_s (by simp [decodeSRaw, whenB, bits_fmtI])
theorem ori (g : Pg) (d : BitVec 5) (a : BitVec 5) (imm : BitVec 12) : Statement (.ori g d a imm) := of_s (by simp [decodeSRaw, whenB, bits_fmtI])
theorem xori (g : Pg) (d : BitVec 5) (a : BitVec 5) (imm : BitVec 12) : Statement (.xori g d a imm) := of_s (by simp [decodeSRaw, whenB, bits_fmtI])
theorem shli (g : Pg) (d : BitVec 5) (a : BitVec 5) (count : BitVec 5) : Statement (.shli g d a count) := of_s (by simp [decodeSRaw, whenB, bits_fmtI]; revert count; decide)
theorem shri (g : Pg) (d : BitVec 5) (a : BitVec 5) (count : BitVec 5) : Statement (.shri g d a count) := of_s (by simp [decodeSRaw, whenB, bits_fmtI]; revert count; decide)
theorem srai (g : Pg) (d : BitVec 5) (a : BitVec 5) (count : BitVec 5) : Statement (.srai g d a count) := of_s (by simp [decodeSRaw, whenB, bits_fmtI]; revert count; decide)
theorem cmpi (g : Pg) (d : BitVec 3) (cond : BitVec 2) (a : BitVec 5) (imm : BitVec 12) : Statement (.cmpi g d cond a imm) := of_s (by simp [decodeSRaw, whenB, bits_fmtI]; revert d cond; decide)
theorem li (g : Pg) (d : BitVec 5) (imm : BitVec 17) : Statement (.li g d imm) := of_s (by simp [decodeSRaw, whenB])
theorem lui (g : Pg) (d : BitVec 5) (imm : BitVec 17) : Statement (.lui g d imm) := of_s (by simp [decodeSRaw, whenB])
theorem pand (g : Pg) (d : BitVec 3) (a : BitVec 3) (b : BitVec 3) : Statement (.pand g d a b) := of_s (by simp [decodeSRaw, decodePlog, whenB, bits_fmtA, bit_fmtA])
theorem por (g : Pg) (d : BitVec 3) (a : BitVec 3) (b : BitVec 3) : Statement (.por g d a b) := of_s (by simp [decodeSRaw, decodePlog, whenB, bits_fmtA, bit_fmtA])
theorem pxor (g : Pg) (d : BitVec 3) (a : BitVec 3) (b : BitVec 3) : Statement (.pxor g d a b) := of_s (by simp [decodeSRaw, decodePlog, whenB, bits_fmtA, bit_fmtA])
theorem pandn (g : Pg) (d : BitVec 3) (a : BitVec 3) (b : BitVec 3) : Statement (.pandn g d a b) := of_s (by simp [decodeSRaw, decodePlog, whenB, bits_fmtA, bit_fmtA])
theorem div (g : Pg) (d : BitVec 5) (a : BitVec 5) (b : BitVec 5) : Statement (.div g d a b) := of_s (by simp [decodeSRaw, decodeDiv, whenB, bits_fmtA, bit_fmtA])
theorem divn (g : Pg) (d : BitVec 5) (a : BitVec 5) (b : BitVec 5) : Statement (.divn g d a b) := of_s (by simp [decodeSRaw, decodeDiv, whenB, bits_fmtA, bit_fmtA])
theorem rem (g : Pg) (d : BitVec 5) (a : BitVec 5) (b : BitVec 5) : Statement (.rem g d a b) := of_s (by simp [decodeSRaw, decodeDiv, whenB, bits_fmtA, bit_fmtA])
theorem remn (g : Pg) (d : BitVec 5) (a : BitVec 5) (b : BitVec 5) : Statement (.remn g d a b) := of_s (by simp [decodeSRaw, decodeDiv, whenB, bits_fmtA, bit_fmtA])
theorem br (g : Pg) (off : BitVec 22) : Statement (.br g off) := of_s (by simp [decodeSRaw, whenB])
theorem call (g : Pg) (off : BitVec 22) : Statement (.call g off) := of_s (by simp [decodeSRaw, whenB])
theorem jr (g : Pg) (a : BitVec 5) : Statement (.jr g a) := of_s (by simp [decodeSRaw, whenB, bits_fmtA, bit_fmtA])
theorem loop (g : Pg) (a : BitVec 5) (len : BitVec 12) : Statement (.loop g a len) := of_s (by simp [decodeSRaw, whenB, bits_fmtI])
theorem pushm (g : Pg) (a : BitVec 5) (b : BitVec 5) : Statement (.pushm g a b) := of_s (by simp [decodeSRaw, whenB, bits_fmtA, bit_fmtA])
theorem popm (g : Pg) (a : BitVec 5) (b : BitVec 5) : Statement (.popm g a b) := of_s (by simp [decodeSRaw, whenB, bits_fmtA, bit_fmtA])
theorem vpushm (g : Pg) (a : BitVec 4) (b : BitVec 4) : Statement (.vpushm g a b) := of_s (by simp [decodeSRaw, whenB, bits_fmtA, bit_fmtA])
theorem vpopm (g : Pg) (a : BitVec 4) (b : BitVec 4) : Statement (.vpopm g a b) := of_s (by simp [decodeSRaw, whenB, bits_fmtA, bit_fmtA])
theorem rdsr (g : Pg) (d : BitVec 5) (num : BitVec 12) : Statement (.rdsr g d num) := of_s (by simp [decodeSRaw, whenB, bits_fmtI])
theorem wrsr (g : Pg) (a : BitVec 5) (num : BitVec 12) : Statement (.wrsr g a num) := of_s (by simp [decodeSRaw, whenB, bits_fmtI])
theorem yield (g : Pg) : Statement (.yield g) := of_s (by simp [decodeSRaw, whenB, bits_fmtA, bit_fmtA])
theorem halt (g : Pg) : Statement (.halt g) := of_s (by simp [decodeSRaw, whenB, bits_fmtA, bit_fmtA])
theorem trap (g : Pg) (code : BitVec 12) : Statement (.trap g code) := of_s (by simp [decodeSRaw, whenB, bits_fmtI])
theorem vadd (g : Pg) (d : BitVec 4) (a : BitVec 4) (b : BitVec 4) (t : BitVec 4) (m : BitVec 3) : Statement (.vadd g d a b t m) := of_v (by simp [decodeVRaw, vvv, vv, whenB, bits_fmtA, bit_fmtA])
theorem vsub (g : Pg) (d : BitVec 4) (a : BitVec 4) (b : BitVec 4) (t : BitVec 4) (m : BitVec 3) : Statement (.vsub g d a b t m) := of_v (by simp [decodeVRaw, vvv, vv, whenB, bits_fmtA, bit_fmtA])
theorem vmul (g : Pg) (d : BitVec 4) (a : BitVec 4) (b : BitVec 4) (t : BitVec 4) (m : BitVec 3) : Statement (.vmul g d a b t m) := of_v (by simp [decodeVRaw, vvv, vv, whenB, bits_fmtA, bit_fmtA])
theorem vfma (g : Pg) (d : BitVec 4) (a : BitVec 4) (b : BitVec 4) (t : BitVec 4) (m : BitVec 3) : Statement (.vfma g d a b t m) := of_v (by simp [decodeVRaw, vvv, vv, whenB, bits_fmtA, bit_fmtA])
theorem vmin (g : Pg) (d : BitVec 4) (a : BitVec 4) (b : BitVec 4) (t : BitVec 4) : Statement (.vmin g d a b t) := of_v (by simp [decodeVRaw, vvv, vv, whenB, bits_fmtA, bit_fmtA])
theorem vmax (g : Pg) (d : BitVec 4) (a : BitVec 4) (b : BitVec 4) (t : BitVec 4) : Statement (.vmax g d a b t) := of_v (by simp [decodeVRaw, vvv, vv, whenB, bits_fmtA, bit_fmtA])
theorem vabs (g : Pg) (d : BitVec 4) (a : BitVec 4) (t : BitVec 4) (sat : Bool) : Statement (.vabs g d a t sat) := of_v (by simp [decodeVRaw, vvv, vv, whenB, bits_fmtA, bit_fmtA])
theorem vneg (g : Pg) (d : BitVec 4) (a : BitVec 4) (t : BitVec 4) (sat : Bool) : Statement (.vneg g d a t sat) := of_v (by simp [decodeVRaw, vvv, vv, whenB, bits_fmtA, bit_fmtA])
theorem vand (g : Pg) (d : BitVec 4) (a : BitVec 4) (b : BitVec 4) (t : BitVec 4) : Statement (.vand g d a b t) := of_v (by simp [decodeVRaw, vvv, vv, whenB, bits_fmtA, bit_fmtA])
theorem vor (g : Pg) (d : BitVec 4) (a : BitVec 4) (b : BitVec 4) (t : BitVec 4) : Statement (.vor g d a b t) := of_v (by simp [decodeVRaw, vvv, vv, whenB, bits_fmtA, bit_fmtA])
theorem vxor (g : Pg) (d : BitVec 4) (a : BitVec 4) (b : BitVec 4) (t : BitVec 4) : Statement (.vxor g d a b t) := of_v (by simp [decodeVRaw, vvv, vv, whenB, bits_fmtA, bit_fmtA])
theorem vshl (g : Pg) (d : BitVec 4) (a : BitVec 4) (b : BitVec 4) (t : BitVec 4) : Statement (.vshl g d a b t) := of_v (by simp [decodeVRaw, vvv, vv, whenB, bits_fmtA, bit_fmtA])
theorem vshr (g : Pg) (d : BitVec 4) (a : BitVec 4) (b : BitVec 4) (t : BitVec 4) : Statement (.vshr g d a b t) := of_v (by simp [decodeVRaw, vvv, vv, whenB, bits_fmtA, bit_fmtA])
theorem vcvt (g : Pg) (d : BitVec 4) (a : BitVec 4) (src : BitVec 4) (dst : BitVec 4) (ovf : Bool) (m : BitVec 3) : Statement (.vcvt g d a src dst ovf m) := of_v (by simp [decodeVRaw, vvv, vv, whenB, bits_fmtA, bit_fmtA, bitsB_fmtA, bitB_fmtA]; revert ovf dst; decide)
theorem vcmp (g : Pg) (d : BitVec 4) (a : BitVec 4) (b : BitVec 4) (t : BitVec 4) (cond : BitVec 3) : Statement (.vcmp g d a b t cond) := of_v (by simp [decodeVRaw, vvv, vv, whenB, bits_fmtA, bit_fmtA])
theorem vsel (g : Pg) (d : BitVec 4) (a : BitVec 4) (b : BitVec 4) (c : BitVec 4) : Statement (.vsel g d a b c) := of_v (by simp [decodeVRaw, vvv, vv, whenB, bits_fmtA, bit_fmtA])
theorem vbcast (g : Pg) (d : BitVec 4) (a : BitVec 5) (t : BitVec 4) : Statement (.vbcast g d a t) := of_v (by simp [decodeVRaw, vvv, vv, whenB, bits_fmtA, bit_fmtA])
theorem vext (g : Pg) (d : BitVec 5) (a : BitVec 4) (b : BitVec 5) (t : BitVec 4) : Statement (.vext g d a b t) := of_v (by simp [decodeVRaw, vvv, vv, whenB, bits_fmtA, bit_fmtA])
theorem vins (g : Pg) (d : BitVec 4) (a : BitVec 5) (b : BitVec 5) (t : BitVec 4) : Statement (.vins g d a b t) := of_v (by simp [decodeVRaw, vvv, vv, whenB, bits_fmtA, bit_fmtA])
theorem vperm (g : Pg) (d : BitVec 4) (a : BitVec 4) (b : BitVec 4) (t : BitVec 4) : Statement (.vperm g d a b t) := of_v (by simp [decodeVRaw, vvv, vv, whenB, bits_fmtA, bit_fmtA])
theorem vred (g : Pg) (d : BitVec 4) (a : BitVec 4) (t : BitVec 4) (fn : BitVec 3) (rnd : BitVec 3) : Statement (.vred g d a t fn rnd) := by
  intro h
  have hr := ((Bool.and_eq_true _ _).mp h).2
  exact of_v (by simp [decodeVRaw, vv, round_read _ _ _ _ _ _ _ hr]) h
theorem vscan (g : Pg) (d : BitVec 4) (a : BitVec 4) (t : BitVec 4) (fn : BitVec 3) (rnd : BitVec 3) : Statement (.vscan g d a t fn rnd) := by
  intro h
  have hr := ((Bool.and_eq_true _ _).mp h).2
  exact of_v (by simp [decodeVRaw, vv, round_read _ _ _ _ _ _ _ hr]) h
theorem vfn (g : Pg) (d : BitVec 4) (a : BitVec 4) (fn : BitVec 3) : Statement (.vfn g d a fn) := of_v (by simp [decodeVRaw, vvv, vv, whenB, bits_fmtA, bit_fmtA])
theorem vdot (g : Pg) (d : BitVec 4) (a : BitVec 4) (b : BitVec 4) (t : BitVec 4) (m : BitVec 3) : Statement (.vdot g d a b t m) := of_v (by simp [decodeVRaw, vvv, vv, whenB, bits_fmtA, bit_fmtA])
theorem vedge (g : Pg) (d : BitVec 4) (a : BitVec 4) (b : BitVec 4) (m : BitVec 3) : Statement (.vedge g d a b m) := of_v (by simp [decodeVRaw, vvv, vv, whenB, bits_fmtA, bit_fmtA])
theorem vbary (g : Pg) (d : BitVec 4) (a : BitVec 4) (b : BitVec 4) (m : BitVec 3) : Statement (.vbary g d a b m) := of_v (by simp [decodeVRaw, vvv, vv, whenB, bits_fmtA, bit_fmtA])
theorem vdedup (g : Pg) (d : BitVec 4) (a : BitVec 4) (b : BitVec 4) : Statement (.vdedup g d a b) := of_v (by simp [decodeVRaw, vvv, vv, whenB, bits_fmtA, bit_fmtA])
theorem vblend (g : Pg) (d : BitVec 4) (a : BitVec 4) (b : BitVec 4) (t : BitVec 4) (fn : BitVec 3) : Statement (.vblend g d a b t fn) := of_v (by simp [decodeVRaw, vvv, vv, whenB, bits_fmtA, bit_fmtA])
theorem vdepth (g : Pg) (d : BitVec 4) (a : BitVec 4) (b : BitVec 4) (t : BitVec 4) (m : BitVec 3) : Statement (.vdepth g d a b t m) := of_v (by simp [decodeVRaw, vvv, vv, whenB, bits_fmtA, bit_fmtA])
theorem vrbox (g : Pg) (d : BitVec 4) (a : BitVec 4) (b : BitVec 4) : Statement (.vrbox g d a b) := of_v (by simp [decodeVRaw, vvv, vv, whenB, bits_fmtA, bit_fmtA])
theorem vrtri (g : Pg) (d : BitVec 4) (a : BitVec 4) (b : BitVec 4) (m : BitVec 3) : Statement (.vrtri g d a b m) := of_v (by simp [decodeVRaw, vvv, vv, whenB, bits_fmtA, bit_fmtA])
theorem vsort (g : Pg) (d : BitVec 4) (a : BitVec 4) (b : BitVec 4) (m : BitVec 3) : Statement (.vsort g d a b m) := of_v (by simp [decodeVRaw, vvv, vv, whenB, bits_fmtA, bit_fmtA])
theorem vcomp (g : Pg) (d : BitVec 4) (a : BitVec 4) (b : BitVec 4) (m : BitVec 3) : Statement (.vcomp g d a b m) := of_v (by simp [decodeVRaw, vvv, vv, whenB, bits_fmtA, bit_fmtA])
theorem vsig (g : Pg) (d : BitVec 4) (a : BitVec 4) (b : BitVec 4) : Statement (.vsig g d a b) := of_v (by simp [decodeVRaw, vvv, vv, whenB, bits_fmtA, bit_fmtA])
theorem vsigChk (g : Pg) (d : BitVec 4) (a : BitVec 4) (b : BitVec 4) : Statement (.vsigChk g d a b) := of_v (by simp [decodeVRaw, vvv, vv, whenB, bits_fmtA, bit_fmtA])
theorem mlat (g : Pg) (a : BitVec 5) (t : BitVec 4) (latch : Bool) (gather : Option (BitVec 4)) : Statement (.mlat g a t latch gather) := of_m (by cases gather <;> simp [decodeMRaw, whenB, bits_fmtA, bit_fmtA, gatherB, x_type, x_two, x_one, x_zero])
theorem mlatc (g : Pg) (ch : BitVec 3) (t : BitVec 4) (latch : Bool) : Statement (.mlatc g ch t latch) := of_m (by simp [decodeMRaw, whenB, bits_fmtC, bit_fmtC]; revert t latch; decide)
theorem mma (g : Pg) (d : Bool) (t : BitVec 4) (bt : Bool) : Statement (.mma g d t bt) := of_m (by simp [decodeMRaw, whenB, bits_fmtA, bit_fmtA]; revert t bt; decide)
theorem mzero (g : Pg) (d : Bool) : Statement (.mzero g d) := of_m (by simp [decodeMRaw, whenB, bits_fmtA, bit_fmtA])
theorem mdrain (g : Pg) (d : Bool) (u : BitVec 4) (sh : Bool) (steer : DrainSel) : Statement (.mdrain g d u sh steer) := of_m (by cases steer <;> simp [decodeMRaw, whenB, bits_fmtA, bit_fmtA, steerA, steerB, steerX, x_type, x_two, x_one, x_zero])
theorem msav (g : Pg) (d : Bool) (a : BitVec 5) : Statement (.msav g d a) := of_m (by simp [decodeMRaw, whenB, bits_fmtA, bit_fmtA])
theorem mrst (g : Pg) (d : Bool) (a : BitVec 5) : Statement (.mrst g d a) := of_m (by simp [decodeMRaw, whenB, bits_fmtA, bit_fmtA])
theorem msync (g : Pg) : Statement (.msync g) := of_m (by simp [decodeMRaw, whenB, bits_fmtA, bit_fmtA])
theorem cmap (g : Pg) (k : BitVec 4) (a : BitVec 5) : Statement (.cmap g k a) := of_m (by simp [decodeMRaw, whenB, bits_fmtA, bit_fmtA]; revert k; decide)
theorem cdif (g : Pg) (k : BitVec 4) (a : BitVec 5) : Statement (.cdif g k a) := of_m (by simp [decodeMRaw, whenB, bits_fmtA, bit_fmtA]; revert k; decide)
theorem cact (g : Pg) (h : Bool) (a : BitVec 5) (t : BitVec 4) (sc : Bool) : Statement (.cact g h a t sc) := of_m (by simp [decodeMRaw, whenB, bits_fmtA, bit_fmtA]; revert t h sc; decide)
theorem cstep (g : Pg) (d : BitVec 2) (k : BitVec 4) (h : Bool) : Statement (.cstep g d k h) := of_m (by simp [decodeMRaw, whenB, bits_fmtA, bit_fmtA]; revert h k; decide)
theorem cclr (g : Pg) (d : BitVec 2) : Statement (.cclr g d) := of_m (by simp [decodeMRaw, whenB, bits_fmtA, bit_fmtA])
theorem cout (g : Pg) (d : BitVec 4) (a : BitVec 2) (b : BitVec 5) (hi : Bool) (h : Bool) (m : BitVec 3) : Statement (.cout g d a b hi h m) := of_m (by simp [decodeMRaw, whenB, bits_fmtA, bit_fmtA]; revert m h hi; decide)
theorem csav (g : Pg) (d : BitVec 2) (a : BitVec 5) : Statement (.csav g d a) := of_m (by simp [decodeMRaw, whenB, bits_fmtA, bit_fmtA])
theorem crst (g : Pg) (d : BitVec 2) (a : BitVec 5) : Statement (.crst g d a) := of_m (by simp [decodeMRaw, whenB, bits_fmtA, bit_fmtA])
theorem pop (g : Pg) (ch : BitVec 3) (d : BitVec 4) (cap : Option (BitVec 3)) : Statement (.pop g ch d cap) := of_c (by simp [decodeCRaw, whenB, bits_fmtC, bit_fmtC, cap_low, cap_read])
theorem peek (g : Pg) (ch : BitVec 3) (d : BitVec 4) (k : BitVec 6) (cap : Option (BitVec 3)) : Statement (.peek g ch d k cap) := of_c (by simp [decodeCRaw, whenB, bits_fmtC, bit_fmtC, cap_low, cap_read])
theorem pops (g : Pg) (ch : BitVec 3) (d : BitVec 5) (e : BitVec 4) : Statement (.pops g ch d e) := of_c (by simp [decodeCRaw, whenB, bits_fmtC, bit_fmtC]; revert e; decide)
theorem hdr (g : Pg) (ch : BitVec 3) (d : BitVec 5) : Statement (.hdr g ch d) := of_c (by simp [decodeCRaw, whenB, bits_fmtC, bit_fmtC])
theorem adv (g : Pg) (ch : BitVec 3) (n : BitVec 6) : Statement (.adv g ch n) := of_c (by simp [decodeCRaw, whenB, bits_fmtC, bit_fmtC])
theorem waitf (g : Pg) (ch : BitVec 3) (n : BitVec 6) : Statement (.waitf g ch n) := of_c (by simp [decodeCRaw, whenB, bits_fmtC, bit_fmtC])
theorem push (g : Pg) (ch : BitVec 3) (a : BitVec 4) : Statement (.push g ch a) := of_c (by simp [decodeCRaw, whenB, bits_fmtC, bit_fmtC])
theorem poke (g : Pg) (ch : BitVec 3) (a : BitVec 4) (k : BitVec 6) : Statement (.poke g ch a k) := of_c (by simp [decodeCRaw, whenB, bits_fmtC, bit_fmtC])
theorem pub (g : Pg) (ch : BitVec 3) (n : BitVec 6) : Statement (.pub g ch n) := of_c (by simp [decodeCRaw, whenB, bits_fmtC, bit_fmtC])
theorem waite (g : Pg) (ch : BitVec 3) (n : BitVec 6) : Statement (.waite g ch n) := of_c (by simp [decodeCRaw, whenB, bits_fmtC, bit_fmtC])
theorem pushs (g : Pg) (ch : BitVec 3) (a : BitVec 5) (e : BitVec 4) : Statement (.pushs g ch a e) := of_c (by simp [decodeCRaw, whenB, bits_fmtC, bit_fmtC]; revert e; decide)
theorem null (g : Pg) (ch : BitVec 3) : Statement (.null g ch) := of_c (by simp [decodeCRaw, whenB, bits_fmtC, bit_fmtC])
theorem markRe (g : Pg) (ch : BitVec 3) (a : BitVec 5) : Statement (.markRe g ch a) := of_c (by simp [decodeCRaw, whenB, bits_fmtC, bit_fmtC])
theorem markEos (g : Pg) (ch : BitVec 3) (a : BitVec 5) : Statement (.markEos g ch a) := of_c (by simp [decodeCRaw, whenB, bits_fmtC, bit_fmtC])
theorem lds (g : Pg) (d : BitVec 4) (b : BitVec 5) (imm : BitVec 12) : Statement (.lds g d b imm) := of_c (by simp [decodeCRaw, whenB, bits_fmtI])
theorem sts (g : Pg) (d : BitVec 4) (b : BitVec 5) (imm : BitVec 12) : Statement (.sts g d b imm) := of_c (by simp [decodeCRaw, whenB, bits_fmtI])
theorem ldsw (g : Pg) (d : BitVec 5) (b : BitVec 5) (imm : BitVec 12) : Statement (.ldsw g d b imm) := of_c (by simp [decodeCRaw, whenB, bits_fmtI])
theorem stsw (g : Pg) (d : BitVec 5) (b : BitVec 5) (imm : BitVec 12) : Statement (.stsw g d b imm) := of_c (by simp [decodeCRaw, whenB, bits_fmtI])
theorem ldg (g : Pg) (ch : BitVec 3) (pair : BitVec 4) (imm : BitVec 12) : Statement (.ldg g ch pair imm) := of_c (by simp [decodeCRaw, whenB, bits_fmtI])
theorem stg (g : Pg) (d : BitVec 4) (pair : BitVec 4) (imm : BitVec 12) : Statement (.stg g d pair imm) := of_c (by simp [decodeCRaw, whenB, bits_fmtI])
theorem ldw (g : Pg) (ch : BitVec 3) (b : BitVec 5) (imm : BitVec 12) : Statement (.ldw g ch b imm) := of_c (by simp [decodeCRaw, whenB, bits_fmtI])
theorem amo (g : Pg) (pair : BitVec 4) (b : BitVec 5) (fn : BitVec 4) (ret : Option (BitVec 3)) : Statement (.amo g pair b fn ret) := of_c (by cases ret <;> simp [decodeCRaw, whenB, bits_fmtA, bit_fmtA, retD] <;> revert fn <;> decide)
theorem fence (g : Pg) (scope : BitVec 3) : Statement (.fence g scope) := of_c (by simp [decodeCRaw, whenB, bits_fmtA, bit_fmtA]; revert scope; decide)
theorem bar (g : Pg) (scope : BitVec 3) : Statement (.bar g scope) := of_c (by simp [decodeCRaw, whenB, bits_fmtA, bit_fmtA]; revert scope; decide)
theorem umen (g : Pg) (a : BitVec 5) (b : BitVec 5) : Statement (.umen g a b) := of_c (by simp [decodeCRaw, whenB, bits_fmtA, bit_fmtA])
theorem umlv (g : Pg) (a : BitVec 5) : Statement (.umlv g a) := of_c (by simp [decodeCRaw, whenB, bits_fmtA, bit_fmtA])
theorem umsk (g : Pg) (a : BitVec 5) (b : BitVec 5) : Statement (.umsk g a b) := of_c (by simp [decodeCRaw, whenB, bits_fmtA, bit_fmtA])
theorem umini (g : Pg) (a : BitVec 5) (b : BitVec 5) : Statement (.umini g a b) := of_c (by simp [decodeCRaw, whenB, bits_fmtA, bit_fmtA])
theorem umabt (g : Pg) (a : BitVec 5) : Statement (.umabt g a) := of_c (by simp [decodeCRaw, whenB, bits_fmtA, bit_fmtA])
theorem arm (g : Pg) (pair : BitVec 4) (b : BitVec 5) : Statement (.arm g pair b) := of_c (by simp [decodeCRaw, whenB, bits_fmtA, bit_fmtA])
theorem fire (g : Pg) (d : BitVec 5) (a : BitVec 5) (b : BitVec 5) : Statement (.fire g d a b) := of_c (by simp [decodeCRaw, whenB, bits_fmtA, bit_fmtA])
theorem cfgt (g : Pg) (ch : BitVec 3) (a : BitVec 5) (b : BitVec 5) : Statement (.cfgt g ch a b) := of_c (by simp [decodeCRaw, whenB, bits_fmtA, bit_fmtA])
theorem send (g : Pg) (b : BitVec 4) (cls : BitVec 4) (tag : BitVec 2) : Statement (.send g b cls tag) := of_c (by simp [decodeCRaw, whenB, bits_fmtA, bit_fmtA]; revert tag cls; decide)
theorem cmask (g : Pg) (cls : BitVec 4) : Statement (.cmask g cls) := of_c (by simp [decodeCRaw, whenB, bits_fmtA, bit_fmtA]; revert cls; decide)
theorem cunm (g : Pg) (cls : BitVec 4) : Statement (.cunm g cls) := of_c (by simp [decodeCRaw, whenB, bits_fmtA, bit_fmtA]; revert cls; decide)
theorem redc (g : Pg) (d : BitVec 4) (pair : BitVec 4) (imm : BitVec 12) : Statement (.redc g d pair imm) := of_c (by simp [decodeCRaw, whenB, bits_fmtI])
theorem fillc (g : Pg) (d : BitVec 5) (pair : BitVec 4) (imm : BitVec 12) : Statement (.fillc g d pair imm) := of_c (by simp [decodeCRaw, whenB, bits_fmtI])
theorem lnch (g : Pg) (a : BitVec 5) (range : Option (BitVec 4)) (ret : Option (BitVec 3)) : Statement (.lnch g a range ret) := of_c (by cases range <;> cases ret <;> simp [decodeCRaw, whenB, bits_fmtA, bit_fmtA, rangeB, retD, lnch_high, lnch_one, lnch_zero])
theorem ccAdd (d : BitVec 5) (a : BitVec 5) (b : BitVec 5) : Statement (.ccAdd d a b) := by
  intro h; clear h; simp [Instr.reread, encode, decodeCC, cr, whenB, bits_fmtCI, Instr.command]
theorem ccSub (d : BitVec 5) (a : BitVec 5) (b : BitVec 5) : Statement (.ccSub d a b) := by
  intro h; clear h; simp [Instr.reread, encode, decodeCC, cr, whenB, bits_fmtCI, Instr.command]
theorem ccAnd (d : BitVec 5) (a : BitVec 5) (b : BitVec 5) : Statement (.ccAnd d a b) := by
  intro h; clear h; simp [Instr.reread, encode, decodeCC, cr, whenB, bits_fmtCI, Instr.command]
theorem ccOr (d : BitVec 5) (a : BitVec 5) (b : BitVec 5) : Statement (.ccOr d a b) := by
  intro h; clear h; simp [Instr.reread, encode, decodeCC, cr, whenB, bits_fmtCI, Instr.command]
theorem ccXor (d : BitVec 5) (a : BitVec 5) (b : BitVec 5) : Statement (.ccXor d a b) := by
  intro h; clear h; simp [Instr.reread, encode, decodeCC, cr, whenB, bits_fmtCI, Instr.command]
theorem ccShl (d : BitVec 5) (a : BitVec 5) (b : BitVec 5) : Statement (.ccShl d a b) := by
  intro h; clear h; simp [Instr.reread, encode, decodeCC, cr, whenB, bits_fmtCI, Instr.command]
theorem ccShr (d : BitVec 5) (a : BitVec 5) (b : BitVec 5) : Statement (.ccShr d a b) := by
  intro h; clear h; simp [Instr.reread, encode, decodeCC, cr, whenB, bits_fmtCI, Instr.command]
theorem ccSra (d : BitVec 5) (a : BitVec 5) (b : BitVec 5) : Statement (.ccSra d a b) := by
  intro h; clear h; simp [Instr.reread, encode, decodeCC, cr, whenB, bits_fmtCI, Instr.command]
theorem ccSlt (d : BitVec 5) (a : BitVec 5) (b : BitVec 5) : Statement (.ccSlt d a b) := by
  intro h; clear h; simp [Instr.reread, encode, decodeCC, cr, whenB, bits_fmtCI, Instr.command]
theorem ccSltn (d : BitVec 5) (a : BitVec 5) (b : BitVec 5) : Statement (.ccSltn d a b) := by
  intro h; clear h; simp [Instr.reread, encode, decodeCC, cr, whenB, bits_fmtCI, Instr.command]
theorem ccMul (d : BitVec 5) (a : BitVec 5) (b : BitVec 5) : Statement (.ccMul d a b) := by
  intro h; clear h; simp [Instr.reread, encode, decodeCC, cr, whenB, bits_fmtCI, Instr.command]
theorem ccAddi (d : BitVec 5) (a : BitVec 5) (imm : BitVec 16) : Statement (.ccAddi d a imm) := by
  intro h; clear h; simp [Instr.reread, encode, decodeCC, cr, whenB, bits_fmtCI, Instr.command]
theorem ccAndi (d : BitVec 5) (a : BitVec 5) (imm : BitVec 16) : Statement (.ccAndi d a imm) := by
  intro h; clear h; simp [Instr.reread, encode, decodeCC, cr, whenB, bits_fmtCI, Instr.command]
theorem ccOri (d : BitVec 5) (a : BitVec 5) (imm : BitVec 16) : Statement (.ccOri d a imm) := by
  intro h; clear h; simp [Instr.reread, encode, decodeCC, cr, whenB, bits_fmtCI, Instr.command]
theorem ccXori (d : BitVec 5) (a : BitVec 5) (imm : BitVec 16) : Statement (.ccXori d a imm) := by
  intro h; clear h; simp [Instr.reread, encode, decodeCC, cr, whenB, bits_fmtCI, Instr.command]
theorem ccShli (d : BitVec 5) (a : BitVec 5) (count : BitVec 6) : Statement (.ccShli d a count) := by
  intro h; clear h; simp [Instr.reread, encode, decodeCC, cr, whenB, bits_fmtCI, Instr.command]; revert count; decide
theorem ccShri (d : BitVec 5) (a : BitVec 5) (count : BitVec 6) : Statement (.ccShri d a count) := by
  intro h; clear h; simp [Instr.reread, encode, decodeCC, cr, whenB, bits_fmtCI, Instr.command]; revert count; decide
theorem ccSrai (d : BitVec 5) (a : BitVec 5) (count : BitVec 6) : Statement (.ccSrai d a count) := by
  intro h; clear h; simp [Instr.reread, encode, decodeCC, cr, whenB, bits_fmtCI, Instr.command]; revert count; decide
theorem ccSlti (d : BitVec 5) (a : BitVec 5) (imm : BitVec 16) : Statement (.ccSlti d a imm) := by
  intro h; clear h; simp [Instr.reread, encode, decodeCC, cr, whenB, bits_fmtCI, Instr.command]
theorem ccLui (d : BitVec 5) (imm : BitVec 16) : Statement (.ccLui d imm) := by
  intro h; clear h; simp [Instr.reread, encode, decodeCC, cr, whenB, bits_fmtCI, Instr.command]
theorem ccLdD (d : BitVec 5) (a : BitVec 5) (imm : BitVec 16) : Statement (.ccLdD d a imm) := by
  intro h; clear h; simp [Instr.reread, encode, decodeCC, cr, whenB, bits_fmtCI, Instr.command]
theorem ccLdW (d : BitVec 5) (a : BitVec 5) (imm : BitVec 16) : Statement (.ccLdW d a imm) := by
  intro h; clear h; simp [Instr.reread, encode, decodeCC, cr, whenB, bits_fmtCI, Instr.command]
theorem ccLdB (d : BitVec 5) (a : BitVec 5) (imm : BitVec 16) : Statement (.ccLdB d a imm) := by
  intro h; clear h; simp [Instr.reread, encode, decodeCC, cr, whenB, bits_fmtCI, Instr.command]
theorem ccStD (d : BitVec 5) (a : BitVec 5) (imm : BitVec 16) : Statement (.ccStD d a imm) := by
  intro h; clear h; simp [Instr.reread, encode, decodeCC, cr, whenB, bits_fmtCI, Instr.command]
theorem ccStW (d : BitVec 5) (a : BitVec 5) (imm : BitVec 16) : Statement (.ccStW d a imm) := by
  intro h; clear h; simp [Instr.reread, encode, decodeCC, cr, whenB, bits_fmtCI, Instr.command]
theorem ccStB (d : BitVec 5) (a : BitVec 5) (imm : BitVec 16) : Statement (.ccStB d a imm) := by
  intro h; clear h; simp [Instr.reread, encode, decodeCC, cr, whenB, bits_fmtCI, Instr.command]
theorem ccBeq (a : BitVec 5) (b : BitVec 5) (off : BitVec 16) : Statement (.ccBeq a b off) := by
  intro h; clear h; simp [Instr.reread, encode, decodeCC, cr, whenB, bits_fmtCI, Instr.command]
theorem ccBne (a : BitVec 5) (b : BitVec 5) (off : BitVec 16) : Statement (.ccBne a b off) := by
  intro h; clear h; simp [Instr.reread, encode, decodeCC, cr, whenB, bits_fmtCI, Instr.command]
theorem ccBlt (a : BitVec 5) (b : BitVec 5) (off : BitVec 16) : Statement (.ccBlt a b off) := by
  intro h; clear h; simp [Instr.reread, encode, decodeCC, cr, whenB, bits_fmtCI, Instr.command]
theorem ccBge (a : BitVec 5) (b : BitVec 5) (off : BitVec 16) : Statement (.ccBge a b off) := by
  intro h; clear h; simp [Instr.reread, encode, decodeCC, cr, whenB, bits_fmtCI, Instr.command]
theorem ccBltn (a : BitVec 5) (b : BitVec 5) (off : BitVec 16) : Statement (.ccBltn a b off) := by
  intro h; clear h; simp [Instr.reread, encode, decodeCC, cr, whenB, bits_fmtCI, Instr.command]
theorem ccBgen (a : BitVec 5) (b : BitVec 5) (off : BitVec 16) : Statement (.ccBgen a b off) := by
  intro h; clear h; simp [Instr.reread, encode, decodeCC, cr, whenB, bits_fmtCI, Instr.command]
theorem ccJal (d : BitVec 5) (off : BitVec 21) : Statement (.ccJal d off) := by
  intro h; clear h; simp [Instr.reread, encode, decodeCC, cr, whenB, bits_fmtCI, Instr.command]
theorem ccJalr (d : BitVec 5) (a : BitVec 5) (imm : BitVec 16) : Statement (.ccJalr d a imm) := by
  intro h; clear h; simp [Instr.reread, encode, decodeCC, cr, whenB, bits_fmtCI, Instr.command]
theorem csrr (d : BitVec 5) (num : BitVec 12) : Statement (.csrr d num) := by
  intro h; clear h; simp [Instr.reread, encode, decodeCC, cr, whenB, bits_fmtCI, Instr.command]
theorem csrw (a : BitVec 5) (num : BitVec 12) : Statement (.csrw a num) := by
  intro h; clear h; simp [Instr.reread, encode, decodeCC, cr, whenB, bits_fmtCI, Instr.command]
theorem eret : Statement (.eret) := by
  intro h; clear h; simp [Instr.reread, encode, decodeCC, cr, whenB, bits_fmtCI, Instr.command]
theorem wfe : Statement (.wfe) := by
  intro h; clear h; simp [Instr.reread, encode, decodeCC, cr, whenB, bits_fmtCI, Instr.command]
theorem tinv (d : BitVec 5) (a : BitVec 5) (b : BitVec 5) : Statement (.tinv d a b) := by
  intro h; clear h; simp [Instr.reread, encode, decodeCC, cr, whenB, bits_fmtCI, Instr.command]
theorem cfgw (d : BitVec 5) (a : BitVec 5) (b : BitVec 5) : Statement (.cfgw d a b) := by
  intro h; clear h; simp [Instr.reread, encode, decodeCC, cr, whenB, bits_fmtCI, Instr.command]
theorem tload (a : BitVec 5) (b : BitVec 5) : Statement (.tload a b) := by
  intro h; clear h; simp [Instr.reread, encode, decodeCC, cr, whenB, bits_fmtCI, Instr.command]
theorem tsr (d : BitVec 5) (a : BitVec 5) : Statement (.tsr d a) := by
  intro h; clear h; simp [Instr.reread, encode, decodeCC, cr, whenB, bits_fmtCI, Instr.command]
theorem tsw (a : BitVec 5) (b : BitVec 5) : Statement (.tsw a b) := by
  intro h; clear h; simp [Instr.reread, encode, decodeCC, cr, whenB, bits_fmtCI, Instr.command]
theorem frd (d : BitVec 5) (a : BitVec 5) : Statement (.frd d a) := by
  intro h; clear h; simp [Instr.reread, encode, decodeCC, cr, whenB, bits_fmtCI, Instr.command]
theorem frzFreeze (d : BitVec 5) (a : BitVec 5) (b : BitVec 5) : Statement (.frzFreeze d a b) := by
  intro h; clear h; simp [Instr.reread, encode, decodeCC, cr, whenB, bits_fmtCI, Instr.command]
theorem frzSwapOut (d : BitVec 5) (a : BitVec 5) (b : BitVec 5) : Statement (.frzSwapOut d a b) := by
  intro h; clear h; simp [Instr.reread, encode, decodeCC, cr, whenB, bits_fmtCI, Instr.command]
theorem frzSwapOutMemory (d : BitVec 5) (a : BitVec 5) (b : BitVec 5) : Statement (.frzSwapOutMemory d a b) := by
  intro h; clear h; simp [Instr.reread, encode, decodeCC, cr, whenB, bits_fmtCI, Instr.command]
theorem frzKill (d : BitVec 5) (a : BitVec 5) (b : BitVec 5) : Statement (.frzKill d a b) := by
  intro h; clear h; simp [Instr.reread, encode, decodeCC, cr, whenB, bits_fmtCI, Instr.command]
theorem thwThaw (d : BitVec 5) (a : BitVec 5) (b : BitVec 5) : Statement (.thwThaw d a b) := by
  intro h; clear h; simp [Instr.reread, encode, decodeCC, cr, whenB, bits_fmtCI, Instr.command]
theorem thwRestore (d : BitVec 5) (a : BitVec 5) (b : BitVec 5) : Statement (.thwRestore d a b) := by
  intro h; clear h; simp [Instr.reread, encode, decodeCC, cr, whenB, bits_fmtCI, Instr.command]
theorem thwRestoreMemory (d : BitVec 5) (a : BitVec 5) (b : BitVec 5) : Statement (.thwRestoreMemory d a b) := by
  intro h; clear h; simp [Instr.reread, encode, decodeCC, cr, whenB, bits_fmtCI, Instr.command]
theorem gtw (a : BitVec 5) (b : BitVec 5) : Statement (.gtw a b) := by
  intro h; clear h; simp [Instr.reread, encode, decodeCC, cr, whenB, bits_fmtCI, Instr.command]
theorem wfeEnd (k : CoreId) : Statement (.wfeEnd k) := fun _ => rfl
theorem timerExpiry (k : CoreId) : Statement (.timerExpiry k) := fun _ => rfl
theorem msgWrite (v : W64) : Statement (.msgWrite v) := fun _ => rfl
theorem registerWrite (r : RegSel) (v : W64) : Statement (.registerWrite r v) := fun _ => rfl
theorem actorFiring (t : Site) : Statement (.actorFiring t) := fun _ => rfl
theorem classHandlerStart (t : Site) : Statement (.classHandlerStart t) := fun _ => rfl
theorem bankBecomesIdle (t : Site) (b : BankId) : Statement (.bankBecomesIdle t b) := fun _ => rfl
theorem pendingWriteLanding (t : Site) (b : BankId) : Statement (.pendingWriteLanding t b) := fun _ => rfl
theorem asyncReportArrival (i : Nat) : Statement (.asyncReportArrival i) := fun _ => rfl
theorem freezeReachesBank (t : Site) (l : Leaf) (b : BankId) : Statement (.freezeReachesBank t l b) := fun _ => rfl
theorem bstatResumeWrite (t : Site) (l : Leaf) (b : BankId) : Statement (.bstatResumeWrite t l b) := fun _ => rfl
theorem tokenArrival (t : Site) (l : Leaf) (ch : Fin 8) : Statement (.tokenArrival t l ch) := fun _ => rfl
theorem faultDrainArrival (t : Site) (l : Leaf) (ch : Fin 8) : Statement (.faultDrainArrival t l ch) := fun _ => rfl
theorem preEmptMarkerArrival (t : Site) (l : Leaf) (ch : Fin 8) : Statement (.preEmptMarkerArrival t l ch) := fun _ => rfl
theorem slotReleaseArrival (i : Nat) : Statement (.slotReleaseArrival i) := fun _ => rfl
theorem tokenHop (t : Site) (src : Fin 64) (ph : Fin 2) : Statement (.tokenHop t src ph) := fun _ => rfl
theorem bridgeCrossing (t : Site) (w : Fin 64) : Statement (.bridgeCrossing t w) := fun _ => rfl
theorem classPacketHop (t : Site) (from_ : Fin 5) (ph : Fin 2) : Statement (.classPacketHop t from_ ph) := fun _ => rfl
theorem classPacketArrival (t : Site) (l : Leaf) : Statement (.classPacketArrival t l) := fun _ => rfl
theorem msEntryStart (t : Site) : Statement (.msEntryStart t) := fun _ => rfl
theorem msEntryEnd (t : Site) (i : Nat) : Statement (.msEntryEnd t i) := fun _ => rfl
theorem mlatcTokenTake (t : Site) (i : Nat) : Statement (.mlatcTokenTake t i) := fun _ => rfl
theorem mdrainTokenPublish (t : Site) (i : Nat) : Statement (.mdrainTokenPublish t i) := fun _ => rfl
theorem cactRunEnd (t : Site) : Statement (.cactRunEnd t) := fun _ => rfl
theorem memoryPortSend (t : Site) : Statement (.memoryPortSend t) := fun _ => rfl
theorem portQueueDispatch (mt : Site) (t : Site) : Statement (.portQueueDispatch mt t) := fun _ => rfl
theorem pageWalk (mt : Site) (i : Nat) : Statement (.pageWalk mt i) := fun _ => rfl
theorem sramBankAccess (i : Nat) : Statement (.sramBankAccess i) := fun _ => rfl
theorem responseDelivery (mt : Site) (i : Nat) : Statement (.responseDelivery mt i) := fun _ => rfl
theorem l2Request (i : Nat) (evict : Option Nat) : Statement (.l2Request i evict) := fun _ => rfl
theorem l2FillArrival (i : Nat) : Statement (.l2FillArrival i) := fun _ => rfl
theorem gddr7WriteAccept (i : Nat) : Statement (.gddr7WriteAccept i) := fun _ => rfl
theorem gatewayRequest (i : Nat) : Statement (.gatewayRequest i) := fun _ => rfl
theorem gatewayInvalidation (i : Nat) : Statement (.gatewayInvalidation i) := fun _ => rfl
theorem hostReadCompletion (i : Nat) (st : PcieStatus) : Statement (.hostReadCompletion i st) := fun _ => rfl
theorem hostCompletionTimeout (i : Nat) : Statement (.hostCompletionTimeout i) := fun _ => rfl
theorem weightStoreRead (i : Nat) : Statement (.weightStoreRead i) := fun _ => rfl
theorem weightStoreRefresh (d : DieId) : Statement (.weightStoreRefresh d) := fun _ => rfl
theorem writeAcknowledgement (i : Nat) : Statement (.writeAcknowledgement i) := fun _ => rfl
theorem ownerRequest (i : Nat) : Statement (.ownerRequest i) := fun _ => rfl
theorem amoApply (i : Nat) : Statement (.amoApply i) := fun _ => rfl
theorem fillcAtOwner (i : Nat) : Statement (.fillcAtOwner i) := fun _ => rfl
theorem redcAtOwner (i : Nat) : Statement (.redcAtOwner i) := fun _ => rfl
theorem readyTokenDelivery (i : Nat) : Statement (.readyTokenDelivery i) := fun _ => rfl
theorem counterTimeout (mt : Site) (l : Leaf) (i : Nat) : Statement (.counterTimeout mt l i) := fun _ => rfl
theorem umbraEnterAtHost (i : Nat) : Statement (.umbraEnterAtHost i) := fun _ => rfl
theorem umbraLeaveAtHost (i : Nat) : Statement (.umbraLeaveAtHost i) := fun _ => rfl
theorem umbraSkipAtHost (i : Nat) : Statement (.umbraSkipAtHost i) := fun _ => rfl
theorem umbraInitAtHost (i : Nat) : Statement (.umbraInitAtHost i) := fun _ => rfl
theorem umbraGrantArrival (i : Nat) : Statement (.umbraGrantArrival i) := fun _ => rfl
theorem umbraRefusalRetry (mt : Site) (t : Site) : Statement (.umbraRefusalRetry mt t) := fun _ => rfl
theorem umbstall (mt : Site) (l : Leaf) (key : W32) (seq : W32) : Statement (.umbstall mt l key seq) := fun _ => rfl
theorem deadlockProbeAnswer (i : Nat) : Statement (.deadlockProbeAnswer i) := fun _ => rfl
theorem umrelWrite (mt : Site) (l : Leaf) (v : W64) : Statement (.umrelWrite mt l v) := fun _ => rfl
theorem templateQueueHead (mt : Site) (l : Leaf) (u : Fin 4) : Statement (.templateQueueHead mt l u) := fun _ => rfl
theorem copyRunStart (mt : Site) (l : Leaf) (u : Fin 4) : Statement (.copyRunStart mt l u) := fun _ => rfl
theorem copyBeat (mt : Site) (l : Leaf) (u : Fin 4) : Statement (.copyBeat mt l u) := fun _ => rfl
theorem copyChunkAck (i : Nat) : Statement (.copyChunkAck i) := fun _ => rfl
theorem completionTokenPublish (mt : Site) (l : Leaf) (tag : Fin 16) : Statement (.completionTokenPublish mt l tag) := fun _ => rfl
theorem armAtMemoryTile (i : Nat) : Statement (.armAtMemoryTile i) := fun _ => rfl
theorem fireTokenEnqueue (i : Nat) : Statement (.fireTokenEnqueue i) := fun _ => rfl
theorem tplfireWrite (k : CoreId) (mt : Site) (l : Leaf) (u : Fin 4) (v : W64) : Statement (.tplfireWrite k mt l u v) := fun _ => rfl
theorem tplstWrite (mt : Site) (l : Leaf) (u : Fin 4) (v : W32) : Statement (.tplstWrite mt l u v) := fun _ => rfl
theorem edgeBufferPass (mt : Site) (l : Leaf) (x : Fin 8) : Statement (.edgeBufferPass mt l x) := fun _ => rfl
theorem edgeBufferRelease (mt : Site) (l : Leaf) (x : Fin 8) : Statement (.edgeBufferRelease mt l x) := fun _ => rfl
theorem barrierEpisodeComplete (t : Site) (l : Leaf) (scope : Fin 5) : Statement (.barrierEpisodeComplete t l scope) := fun _ => rfl
theorem entryStart : Statement (.entryStart) := fun _ => rfl
theorem indexTokenPublish (i : Nat) : Statement (.indexTokenPublish i) := fun _ => rfl
theorem dieShareReport (d : DieId) (i : Nat) : Statement (.dieShareReport d i) := fun _ => rfl
theorem graphEnd (i : Nat) : Statement (.graphEnd i) := fun _ => rfl
theorem launchAtMaster (i : Nat) : Statement (.launchAtMaster i) := fun _ => rfl
theorem notifyTokenDelivery (i : Nat) : Statement (.notifyTokenDelivery i) := fun _ => rfl
theorem masterElection : Statement (.masterElection) := fun _ => rfl
theorem millinerSample (d : DieId) (e : Fin 16) : Statement (.millinerSample d e) := fun _ => rfl
theorem tileActivation (d : DieId) (e : Fin 16) : Statement (.tileActivation d e) := fun _ => rfl
theorem tileDeactivation (d : DieId) (e : Fin 16) : Statement (.tileDeactivation d e) := fun _ => rfl
theorem elasticQueuePass (d : DieId) (e : Fin 16) : Statement (.elasticQueuePass d e) := fun _ => rfl
theorem swapDecision (d : DieId) (part : BitVec 6) : Statement (.swapDecision d part) := fun _ => rfl
theorem tileSave (t : Site) (l : Leaf) : Statement (.tileSave t l) := fun _ => rfl
theorem swapComplete (part : BitVec 6) : Statement (.swapComplete part) := fun _ => rfl
theorem restoreAtTile (t : Site) (l : Leaf) : Statement (.restoreAtTile t l) := fun _ => rfl
theorem noticeRecordWrite (d : DieId) (part : BitVec 6) : Statement (.noticeRecordWrite d part) := fun _ => rfl
theorem nqsizeWrite (d : DieId) (part : BitVec 6) (v : W64) : Statement (.nqsizeWrite d part v) := fun _ => rfl
theorem tinvAcknowledgement (k : CoreId) : Statement (.tinvAcknowledgement k) := fun _ => rfl
theorem heldWriteRetranslate (mt : Site) : Statement (.heldWriteRetranslate mt) := fun _ => rfl
theorem counterIncrement (i : Nat) : Statement (.counterIncrement i) := fun _ => rfl
theorem doorbellWrite (v : W32) : Statement (.doorbellWrite v) := fun _ => rfl
theorem pwrTargetWrite (v : W32) : Statement (.pwrTargetWrite v) := fun _ => rfl
theorem powerStateChangeComplete : Statement (.powerStateChangeComplete) := fun _ => rfl
theorem fenceWrite (v : W32) : Statement (.fenceWrite v) := fun _ => rfl
theorem dierstWrite (v : W32) : Statement (.dierstWrite v) := fun _ => rfl
theorem moduleReset : Statement (.moduleReset) := fun _ => rfl
theorem attctlGoWrite : Statement (.attctlGoWrite) := fun _ => rfl
theorem attnonceWrite (w : Fin 8) (v : W32) : Statement (.attnonceWrite w v) := fun _ => rfl
theorem attestationReportDone : Statement (.attestationReportDone) := fun _ => rfl
theorem tempAlarm (d : DieId) (temp : W16) : Statement (.tempAlarm d temp) := fun _ => rfl
theorem hostBar4Access (acc : Bar4Access) : Statement (.hostBar4Access acc) := fun _ => rfl
theorem launchWindowWrite (off : Nat) (v : W32) : Statement (.launchWindowWrite off v) := fun _ => rfl
theorem linkFlitReceive (port : Fin 18) (f : Flit) : Statement (.linkFlitReceive port f) := fun _ => rfl
theorem linkRetrainComplete (port : Fin 18) : Statement (.linkRetrainComplete port) := fun _ => rfl
theorem powerRemoval : Statement (.powerRemoval) := fun _ => rfl
theorem firmwareCheckEnd (d : DieId) : Statement (.firmwareCheckEnd d) := fun _ => rfl
theorem umbraHostMarker (mt : Site) (l : Leaf) : Statement (.umbraHostMarker mt l) := fun _ => rfl

end Sys2Proof.Laws.RoundTrip
end

