-- ==== Sys2Proof/Laws/Rates.lean ====
section
/-!
SUPPORT. The units of a memory tile that act once a cycle (R272, R290, R306): what their use changes, and that a second use in
the same cycle is turned away.
-/
namespace Sys2Proof.Machine

variable (s : State) (mt : Site) (f : LastUse → Nat → LastUse)

/-- A use changes one field of its memory tile. -/
theorem State.uses_eq : s.uses mt f = s.onMt mt (fun m => { m with last := f m.last (s.cycleAt mt + 1) }) := rfl

@[simp] theorem State.uses_cycleAt (t : Site) : (s.uses mt f).cycleAt t = s.cycleAt t := rfl

@[simp] theorem State.uses_mem : (s.uses mt f).mem = s.mem := rfl

@[simp] theorem State.uses_tiles : (s.uses mt f).tiles = s.tiles := rfl

@[simp] theorem State.uses_last : ((s.uses mt f).mt mt).last = f (s.mt mt).last (s.cycleAt mt + 1) := by
  rw [State.uses_eq, State.mt_onMt]

/-- A unit that has acted in a cycle has used it, by the field that its use writes. -/
theorem State.usedNow_uses (g : LastUse → Nat) (h : ∀ u k, g (f u k) = k) :
    (s.uses mt f).usedNow mt (g ((s.uses mt f).mt mt).last) = true := by
  simp [State.usedNow, h]

end Sys2Proof.Machine
end

