-- ==== Sys2Proof/Laws/Reset.lean ====
section
/-!
SUPPORT. The records of the reset state.
-/
namespace Sys2Proof.Machine

theorem State.reset_cores (k : CoreId) : State.reset.cores[k] = {} := by
  show (Vector.replicate 16 ({} : Core))[k] = {}
  simp only [Fin.getElem_fin, Vector.getElem_replicate]

theorem State.reset_dies (d : DieId) : State.reset.dies[d] = {} := by
  show (Vector.replicate 4 ({} : Die))[d] = {}
  simp only [Fin.getElem_fin, Vector.getElem_replicate]

theorem Tile.reset_bank (l : Leaf) (b : BankId) : (({} : Tile).ctx[l]).banks[b] = {} := by
  revert l b; decide +kernel

end Sys2Proof.Machine
end

