-- ==== Sys2Proof/Laws/Slices.lean ====
section
/-!
SUPPORT. What an access that passes an L2 slice may change on its way, said once for each operation of Machine/Slices.lean.
-/
namespace Sys2Proof.Machine

/-- Nothing has changed but what an access may change on its way: no memory; of a core only EVPEND and the records that it was
told of; and where no uncorrectable error stands, no core, no die and no error at all. -/
def State.Passed (s t : State) : Prop :=
  t.beside = s.beside ∧
  (∀ k : CoreId, t.cores[k] = { s.cores[k] with evpend := t.cores[k].evpend, records := t.cores[k].records }) ∧
  (s.ecc = [] → t.ecc = [] ∧ t.dies = s.dies ∧ t.cores = s.cores)

theorem State.Passed.refl (s : State) : s.Passed s := ⟨rfl, fun _ => rfl, fun h => ⟨h, rfl, rfl⟩⟩

theorem State.Passed.trans {s t u : State} (h1 : s.Passed t) (h2 : t.Passed u) : s.Passed u := by
  obtain ⟨a1, a2, a3⟩ := h1
  obtain ⟨b1, b2, b3⟩ := h2
  refine ⟨b1.trans a1, fun k => ?_, fun h => ?_⟩
  · rw [b2 k, a2 k]
  · obtain ⟨c1, c2, c3⟩ := a3 h
    obtain ⟨d1, d2, d3⟩ := b3 c1
    exact ⟨d1, d2.trans c2, d3.trans c3⟩

/-- The memory, the tiles, the memory tiles, the host and the stash are none of what an access changes on its way. -/
theorem State.Passed.same {s t : State} (h : s.Passed t) :
    t.mem = s.mem ∧ t.tiles = s.tiles ∧ t.memTiles = s.memTiles ∧ t.host = s.host ∧ t.stash = s.stash :=
  ⟨(congrArg State.mem h.1 :), (congrArg State.tiles h.1 :), (congrArg State.memTiles h.1 :), (congrArg State.host h.1 :),
    (congrArg State.stash h.1 :)⟩

theorem State.Passed.inv {s t : State} (h : s.Passed t) (hs : s.Inv) : t.Inv := by
  obtain ⟨h1, h2, h3, h4, h5⟩ := h.same
  obtain ⟨⟨i1, i2, i3, i4, i5, i6⟩, i7⟩ := hs
  refine ⟨⟨h1 ▸ i1, h4 ▸ i2, fun k => ?_, fun u => ?_, fun u l => ?_, h5 ▸ i6⟩, fun k => ?_⟩
  · rw [h.2.1 k]; exact i3 k
  · have := i4 u
    simpa only [State.tile, h2] using this
  · have := i5 u l
    simpa only [State.mtLeaf, State.mt, h3] using this
  · rw [h.2.1 k]; exact i7 k

theorem State.Passed.foldl {α : Type} {f : State → α → State} (hf : ∀ (s : State) (a : α), s.Passed (f s a)) :
    ∀ (l : List α) (s : State), s.Passed (l.foldl f s)
  | [], s => State.Passed.refl s
  | a :: l, s => (hf s a).trans (State.Passed.foldl hf l (f s a))

/-! ## The operations -/

theorem State.passed_onSlice (s : State) (t : Site) (f : Slice → Slice) : s.Passed (s.onSlice t f) :=
  ⟨rfl, fun _ => rfl, fun h => ⟨h, rfl, rfl⟩⟩

theorem State.passed_notify (s : State) (d : DieId) (p : BitVec 6) (r : Notice) (h : s.ecc ≠ []) : s.Passed (s.notify d p r) := by
  refine ⟨?_, fun _ => rfl, fun e => absurd e h⟩
  simp only [State.beside, State.notify, State.onNotice, State.onDie]
  congr 1
  ext i hi
  by_cases h : d.val = i
  · subst h; simp
  · simp [h]

theorem State.passed_writeBackBad (s : State) (t : Site) (sec : Nat) : s.Passed (s.writeBackBad t sec) := by
  unfold State.writeBackBad
  split
  case isFalse => exact State.Passed.refl s
  case isTrue h =>
    have hne : s.ecc ≠ [] := fun e => by simp [e] at h
    have h1 : s.Passed { s with ecc := s.ecc.filter (fun e => e != Ecc.dirty sec) ++ [Ecc.phys sec, Ecc.phys (sec + 64)] } :=
      ⟨rfl, fun _ => rfl, fun e => absurd e hne⟩
    refine h1.trans ?_
    simp only
    split
    · exact State.passed_notify _ _ _ _ (by simp)
    · refine ⟨rfl, fun k => ?_, fun e => absurd e (by simp)⟩
      by_cases e : (coreOf (siteDie t) 0).val = k.val
      · have : coreOf (siteDie t) 0 = k := Fin.ext e
        subst this; simp [State.onCore]
      · simp [State.onCore, e]

/-- An eviction changes nothing but what an access may change on its way (R238, R239, R375). -/
theorem State.passed_evict (s : State) (t : Site) (sec : Nat) : s.Passed (s.evict t sec) := by
  simp only [State.evict]
  split
  · exact State.Passed.refl s
  split
  · split
    · exact State.Passed.refl s
    · refine State.Passed.trans ?_ (State.passed_writeBackBad _ _ _)
      exact ⟨rfl, fun _ => rfl, fun h => ⟨h, rfl, rfl⟩⟩
  · exact s.passed_onSlice _ _

theorem State.passed_makeRoom {s u : State} {t : Site} {sec : Nat} (h : s.makeRoom t sec = some u) : s.Passed u := by
  have hv : s.Passed (match (s.slice t).victim sec with
      | some l => ((s.slice t).held.filter (fun a => lineOf a == l)).foldl (fun x a => x.evict t a) s
      | none => s) := by
    split
    · exact State.Passed.foldl (fun x a => x.passed_evict t a) _ s
    · exact State.Passed.refl s
  unfold State.makeRoom at h
  split at h
  · cases h; exact State.Passed.refl s
  · have e := (Option.ite_none_right_eq_some.mp h).2
    cases e; exact hv

/-- An access that passes its home slice changes nothing but what an access may change on its way (R238, R239). -/
theorem State.passed_passSlice {s u : State} {pa : Nat} {w : Bool} (h : s.passSlice pa w = some u) : s.Passed u := by
  unfold State.passSlice at h
  split at h
  · simp only at h
    split at h
    · cases h
    split at h
    · cases h; exact s.passed_onSlice _ _
    split at h
    · cases h
    split at h
    · obtain ⟨x, hx, rfl⟩ := Option.map_eq_some_iff.mp h
      exact (State.passed_makeRoom hx).trans (x.passed_onSlice _ _)
    split at h
    · cases h; exact State.Passed.refl s
    split at h
    · cases h; exact ⟨rfl, fun _ => rfl, fun h => ⟨h, rfl, rfl⟩⟩
    · cases h
  · cases h; exact State.Passed.refl s

theorem State.passed_touch (s : State) (pa : Nat) (w : Bool) : s.Passed (s.touch pa w) := by
  unfold State.touch
  cases h : s.passSlice pa w with
  | none => exact State.Passed.refl s
  | some u => exact State.passed_passSlice h

theorem State.passed_invalidate (s : State) (pa : Nat) (via : Option Nat) (id : Nat) (part : Option (BitVec 6)) :
    s.Passed (s.invalidate pa via id part) := by
  unfold State.invalidate
  split
  · exact ⟨rfl, fun _ => rfl, fun h => ⟨h, rfl, rfl⟩⟩
  · exact State.Passed.refl s

/-- One table read of a walk changes nothing but what an access may change on its way (R380). -/
theorem State.passed_walkVia (s : State) (die : DieId) (base va lv : Nat) : s.Passed (s.walkVia die base va lv).2 := by
  unfold State.walkVia
  split
  · split
    · rename_i h; exact State.passed_passSlice h
    · exact State.Passed.refl s
  · exact State.Passed.refl s

/-- A write at its home changes those bytes of memory, and otherwise only what an access may change on its way (R238, R240). -/
theorem State.passed_putHome (s : State) (pa n v : Nat) (part : Option (BitVec 6)) :
    ∃ t, s.Passed t ∧ s.putHome pa n v part = { t with mem := s.mem.writeNat pa v n } := by
  have h1 := s.passed_touch pa true
  let u := s.touch pa true
  refine ⟨u.invalidate pa none 0 part, h1.trans (u.passed_invalidate _ _ _ _), ?_⟩
  have hm : u.mem = s.mem := h1.same.1
  show (u.putPhys pa n v).invalidate pa none 0 part = _
  rw [← hm]
  simp only [State.invalidate, State.putPhys, State.invalsFor, State.slice]
  split <;> rfl

end Sys2Proof.Machine
end

