-- ==== Sys2Proof/Tests/Slice0.lean ====
section
/-!
SUPPORT. Tests: words that the spec writes out decode as it says, ill-formed terms are refused, and single steps on small
states give what the spec's examples and tables give; and a state for each statement with hypotheses that meets them.
-/
namespace Sys2Proof.Tests
open Sys2Proof Sys2Proof.Machine

set_option Elab.async false

/-- Predicate p0: always. -/
def p0 : Pg := ⟨false, 0⟩

/-! ## Words of the spec -/

/-- R47: the S-slot word of the encoding example, `(0x01 << 22) | (4 << 17) | (5 << 12) | (6 << 7)`. -/
theorem test_add_word : decodeSlot .s 0x00485300 = some (.add p0 4 5 6) := by decide +kernel
/-- R94: the words of the loop example. -/
theorem test_loop_words : decodeSlot .s 0x04C04003 = some (.loop p0 4 3) ∧ decodeSlot .s 0x004A5308 = some (.mul p0 5 5 6) ∧
    decodeSlot .s 0x00CC6001 = some (.addi p0 6 6 1) ∧ decodeSlot .s 0x00CE7001 = some (.addi p0 7 7 1) := by decide +kernel
/-- R89: `(3 << 28) | (0x10 << 22) | 0x3FFFFC`. -/
theorem test_br_word : decodeSlot .s 0x343FFFFC = some (.br ⟨false, 3⟩ (-4)) := by decide +kernel
/-- R131, R137, R139, R144: the words of the V-slot examples. -/
theorem test_vector_words : decodeSlot .v 0x010E84B2 = some (.vfma p0 7 8 9 6 2) ∧
    decodeSlot .v 0x034414B1 = some (.vcvt p0 2 1 6 9 false 1) ∧ decodeSlot .v 0x03C221A0 = some (.vsel p0 1 2 3 4) ∧
    decodeSlot .v 0x050640B0 = some (.vred p0 3 4 6 0 1) := by decide +kernel
/-- R57: an M-slot word built from the fields of its format, OP 0x03 with T in [6:3]. -/
theorem test_mma_word : decodeSlot .m ((0x03#32 <<< 22) ||| (0x7#32 <<< 3)) = some (.mma p0 false 7 false) := by decide +kernel
/-- R58: C-slot words built from the fields of their format. -/
theorem test_channel_words : decodeSlot .c 0x2124A000 = some (.push ⟨false, 2⟩ 1 5) ∧
    decodeSlot .c 0x01C40200 = some (.waitf p0 1 4) ∧ decodeSlot .c 0x0048A058 = some (.pop p0 2 5 (some 3)) := by decide +kernel
/-- R68: OP 0x10 in [31:26], D 5, A 6, immediate -4. -/
theorem test_core_word : decodeCC (fun _ => 0) ((0x10#32 <<< 26) ||| (5#32 <<< 21) ||| (6#32 <<< 16) ||| 0xFFFC#32) =
    some (.ccAddi 5 6 (-4)) := by decide +kernel
/-- R49-R54: opcodes that no op of the slot has are refused. -/
theorem test_unassigned_words : decodeSlot .s (0x0F#32 <<< 22) = none ∧ decodeSlot .v (0x2A#32 <<< 22) = none ∧
    decodeSlot .m (0x09#32 <<< 22) = none ∧ decodeSlot .c (0x17#32 <<< 22) = none ∧ decodeCC (fun _ => 0) 0 = none := by
  decide +kernel

/-! ## Ill-formed terms -/

/-- R53, R85: a compare condition 6 or 7. -/
theorem test_wf_cmp : (Instr.cmp p0 1 2 3 6).wf = false ∧ (Instr.cmp p0 1 2 3 5).wf = true := by decide
/-- R77: a state register that no row names. -/
theorem test_wf_state_register : (Instr.rdsr p0 1 0x014).wf = false ∧ (Instr.wrsr p0 1 0x030).wf = false ∧
    (Instr.rdsr p0 1 0x013).wf = true := by decide
/-- R129: types that an op does not take, and rounding codes 5 to 7. -/
theorem test_wf_vector_types : (Instr.vadd p0 1 2 3 0x9 0).wf = false ∧ (Instr.vadd p0 1 2 3 0x6 5).wf = false ∧
    (Instr.vsub p0 1 2 3 0x5 2).wf = false ∧ (Instr.vmin p0 1 2 3 0xB).wf = false ∧ (Instr.vabs p0 1 2 0x6 true).wf = false ∧
    (Instr.vand p0 1 2 3 0xD).wf = false ∧ (Instr.vshl p0 1 2 3 0x6).wf = false ∧ (Instr.vperm p0 1 2 3 0xB).wf = false ∧
    (Instr.vdot p0 1 2 3 0x6 0).wf = false := by decide
/-- R136, R138, R144, R145: conversions, conditions and functions that do not exist. -/
theorem test_wf_vector_codes : (Instr.vcvt p0 1 2 0x6 0x6 true 0).wf = false ∧ (Instr.vcvt p0 1 2 0xD 0x6 false 0).wf = false ∧
    (Instr.vcmp p0 1 2 3 0x6 7).wf = false ∧ (Instr.vred p0 1 2 0x6 3 0).wf = false ∧ (Instr.vscan p0 1 2 0x6 0 5).wf = false ∧
    (Instr.vfn p0 1 2 6).wf = false := by decide
/-- R324: codes of the graphics ops. -/
theorem test_wf_graphics : (Instr.vedge p0 1 2 3 3).wf = false ∧ (Instr.vbary p0 1 2 3 5).wf = false ∧
    (Instr.vblend p0 1 2 3 0x5 0).wf = false ∧ (Instr.vdepth p0 1 2 3 0x5 0).wf = false ∧ (Instr.vrtri p0 1 2 3 3).wf = false ∧
    (Instr.vsort p0 1 2 3 4).wf = false ∧ (Instr.vcomp p0 1 2 3 6).wf = false := by decide
/-- R191, R200, R214, R218: types of the matrix array and of the Carder. -/
theorem test_wf_matrix : (Instr.mlat p0 1 0x6 false none).wf = false ∧ (Instr.mlat p0 1 0x7 true (some 2)).wf = false ∧
    (Instr.mlatc p0 1 0x5 false).wf = false ∧ (Instr.mma p0 false 0x6 false).wf = false ∧
    (Instr.mdrain p0 false 0x6 true (.head 0)).wf = false ∧ (Instr.mdrain p0 false 0x4 false (.head 0)).wf = false ∧
    (Instr.cact p0 false 1 0x5 false).wf = false ∧ (Instr.cout p0 1 0 2 false false 5).wf = false := by decide
/-- R262, R274: scopes and functions of memory ops, and the odd pair of a compare-and-swap. -/
theorem test_wf_memory : (Instr.amo p0 1 2 9 none).wf = false ∧ (Instr.amo p0 1 3 8 none).wf = false ∧
    (Instr.fence p0 5).wf = false ∧ (Instr.bar p0 7).wf = false := by decide
/-- R12, R13: an event at a site of another kind. -/
theorem test_wf_sites : (Instr.actorFiring 0x0C0).wf = false ∧ (Instr.pageWalk 0 0).wf = false ∧
    (Instr.portQueueDispatch 0x0C0 0x120).wf = false ∧ (Instr.portQueueDispatch 0x0C0 0).wf = true := by decide +kernel

/-! ## Small states -/

/-- Reset with the issuing bank changed. -/
def bankS (f : Bank → Bank) : State := State.reset.onCurBank f
/-- Reset with the issuing context changed. -/
def ctxS (f : LeafCtx → LeafCtx) : State := State.reset.onCurCtx f
/-- Reset with the issuing tile changed. -/
def tileS (f : Tile → Tile) : State := State.reset.onCurTile f
/-- Reset with control core 0 changed. -/
def coreS (f : Core → Core) : State := State.reset.onCore 0 f
/-- Reset with scalar registers 5 and 6 of the issuing bank set. -/
def regs (x y : W32) : State := bankS (fun k => { k with s := (k.s.set 5 x).set 6 y })
/-- Reset with vector registers 1 and 2 of the issuing bank set. -/
def vecs (x y : Vec) : State := bankS (fun k => { k with v := (k.v.set 1 x).set 2 y })

/-- The pending writes of the issuing bank after an instruction, with the steps that remain. -/
def after (i : Instr) (s : State) : List (Nat × PVal) :=
  match exec i s with
  | .next t => t.curBank.pending.map (fun w => (w.rem, w.val))
  | _ => []

/-- A field of the state after an instruction. -/
def then_ {α : Type} (i : Instr) (s : State) (f : State → α) : Option α :=
  match exec i s with
  | .next t => some (f t)
  | _ => none

/-- The low 32-bit lane of the one pending vector write. -/
def lane0 (i : Instr) (s : State) : List W32 :=
  (after i s).filterMap (fun w => match w.2 with
    | .vec _ v => some (getF v 32 0)
    | _ => none)

/-! ## The S slot -/

/-- R82: `mulh` of 0x80000000 by itself is 0x40000000, `mulhn` of 0xFFFFFFFF by 2 is 1; both land after 3 steps. -/
theorem test_mulh : after (.mulh p0 4 5 6) (regs 0x80000000 0x80000000) = [(2, .scalar 4 0x40000000)] ∧
    after (.mulhn p0 4 5 6) (regs 0xFFFFFFFF 2) = [(2, .scalar 4 1)] := by decide +kernel
/-- R82: a shift by 33 shifts by 1; `clz` of 0 is 32. -/
theorem test_shift_and_clz : after (.shl p0 4 5 6) (regs 3 33) = [(0, .scalar 4 6)] ∧
    after (.clz p0 4 5) (regs 0 0) = [(0, .scalar 4 32)] := by decide +kernel
/-- R83, R84: immediates are sign-extended; `lui` shifts by 15. -/
theorem test_immediates : after (.andi p0 4 5 (-64)) (regs 0x1FF 0) = [(0, .scalar 4 0x1C0)] ∧
    after (.lui p0 4 0x2468) (regs 0 0) = [(0, .scalar 4 0x12340000)] := by decide +kernel
/-- R85: `cmp.lt` of 0xFFFFFFFF and 1 holds, `cmp.ltn` does not. -/
theorem test_cmp : after (.cmp p0 1 5 6 2) (regs 0xFFFFFFFF 1) = [(0, .pred 1 true)] ∧
    after (.cmp p0 1 5 6 4) (regs 0xFFFFFFFF 1) = [(0, .pred 1 false)] := by decide +kernel
/-- R87: -7 and 2, and the table's corners; the result lands after 18 steps. -/
theorem test_div : after (.div p0 4 5 6) (regs 0xFFFFFFF9 2) = [(17, .scalar 4 0xFFFFFFFD)] ∧
    after (.rem p0 4 5 6) (regs 0xFFFFFFF9 2) = [(17, .scalar 4 0xFFFFFFFF)] ∧
    after (.divn p0 4 5 6) (regs 0xFFFFFFF9 2) = [(17, .scalar 4 0x7FFFFFFC)] ∧
    after (.div p0 4 5 6) (regs 0x80000000 0xFFFFFFFF) = [(17, .scalar 4 0x80000000)] := by decide +kernel
/-- R65, R78: a write to s0 leaves nothing pending. -/
theorem test_write_s0 : after (.add p0 0 5 6) (regs 1 2) = [] := by decide +kernel
/-- R89, R64: a taken branch from 0x010 by -4 goes to 0x00C and owes an empty step. -/
theorem test_br : then_ (.br p0 (-4)) (bankS (fun k => { k with pc := 0x10 })) (fun t => (t.curBank.pc, t.curBank.emptyStep)) =
    some (0x0C, true) := by decide +kernel
/-- R92: the loop of the example, taken at 0x004. -/
theorem test_loop : then_ (.loop p0 5 3) ((regs 5 0).onCurBank (fun k => { k with pc := 4 }))
    (fun t => (t.curBank.pc, t.curBank.loops)) = some (5, [⟨5, 7, 4⟩]) := by decide +kernel
/-- R95, R97: `popm` of an empty stack faults SPILL with SP in FLTA. -/
theorem test_popm_spill : then_ (.popm p0 1 2) State.reset (fun t => (t.curBank.faulted, t.curBank.fltc)) =
    some (true, 0x03) := by decide +kernel
/-- R101, R363: `trap 7` stops its bank with TRAP, 7, and its bundle and slot, 0 and S. -/
theorem test_trap : then_ (.trap p0 7) State.reset (fun t => (t.curBank.fltc, t.curBank.flta, t.curBank.fltb)) =
    some (0x12, 7, 0) := by decide +kernel

/-! ## The V slot -/

/-- R106: `vadd.i8` of 100 and 60 is 0xA0, with `.sat` 0x7F. -/
theorem test_vadd_i8 : lane0 (.vadd p0 3 1 2 0x1 0) (vecs 100 60) = [0xA0] ∧
    lane0 (.vadd p0 3 1 2 0x1 1) (vecs 100 60) = [0x7F] := by decide +kernel
/-- R131: the single rounding of `vfma.f32.rne`. -/
theorem test_vfma : lane0 (.vfma p0 3 1 2 0x6 1) ((vecs 0x3F800800 0x3F800800).onCurBank (fun k =>
    { k with v := k.v.set 3 0xBF801000 })) = [0x33800000] := by decide +kernel
/-- R137: F32 to E4M3, lanes 0 to 3 of the table. -/
theorem test_vcvt : lane0 (.vcvt p0 3 1 0x6 0x9 false 1) (vecs 0x43FA000043960000_3F4000003F800000 0) = [0x7E793438] := by
  decide +kernel
/-- R126: the tree sum of 2^24 and fifteen ones. -/
theorem test_vred : lane0 (.vred p0 3 1 0x6 0 1) (vecs (packVec 32 16 (fun i => if i = 0 then 0x4B800000 else 0x3F800000)) 0) =
    [0x4B800007] := by decide +kernel
/-- R140: `vbcast.bf16` of 0x12343F80. -/
theorem test_vbcast : lane0 (.vbcast p0 3 5 0x7) (regs 0x12343F80 0) = [0x3F803F80] := by decide +kernel
/-- R325: the triangle of the example covers lanes 0 to 4. -/
theorem test_vedge : after (.vedge p0 3 1 2 0) (vecs (packVec 32 16 (fun i => if i = 2 ∨ i = 5 then 2048 else 0))
    (packVec 32 16 (fun i => if i = 1 then 3 else 0))) =
    [(3, .vec 3 (packVec 32 16 (fun i => if i < 5 then 0xFFFFFFFF else 0)))] := by decide +kernel

/-! ## The M and C slots -/

/-- R192, R193: `mzero` queues one entry. -/
theorem test_mzero : then_ (.mzero p0 true) State.reset (fun t => t.curTile.msq.map (fun e => e.op)) = some [.mzero 1] := by
  decide +kernel
/-- R212: `cclr` clears its register a step later. -/
theorem test_cclr : after (.cclr p0 2) State.reset = [(0, .batt 2 { lanes := 0, marks := 0 })] := by decide +kernel
/-- R226: `stsw` stores its word at the scaled address. -/
theorem test_stsw : then_ (.stsw p0 5 0 4) (regs 0x11223344 0) (fun t => t.curTile.scratch.readW32 16) = some 0x11223344 := by
  decide +kernel
/-- R226: a load of a byte that the bank stored itself takes one step. -/
theorem test_ldsw_own : after (.ldsw p0 4 0 4) ((regs 0 0).onCurTile (fun x => x.storeScratch 0 0 16 4 7)) =
    [(0, .scalar 4 7)] := by decide +kernel
/-- R170, R363: a `pop` of an unbound channel faults CHPROTO with low byte 01. -/
theorem test_pop_unbound : then_ (.pop p0 2 5 none) State.reset (fun t => (t.curBank.fltc, t.curBank.flta)) =
    some (0x13, 0x201) := by decide +kernel
/-- R188: `cmask 5` sets bit 5 of CLSMASK a step later. -/
theorem test_cmask : after (.cmask p0 5) State.reset = [(0, .mask 0x20)] := by decide +kernel
/-- R234: an unaligned `stg` faults ALIGN. -/
theorem test_stg_align : then_ (.stg p0 1 2 0) (regs 0 0 |>.onCurBank (fun k => { k with s := k.s.set 4 1 }))
    (fun t => (t.curBank.fltc, t.curBank.flta)) = some (0x07, 1) := by decide +kernel

/-! ## Control cores -/

/-- R390: `srai` shifts the sign in; `slti` compares as signed. -/
theorem test_core_integer : then_ (.ccSrai 1 2 4) (coreS (fun c => { c with x := c.x.set 2 0xFFFFFFFFFFFFFF00 }))
      (fun t => t.cores[(0 : CoreId)].rx 1) = some 0xFFFFFFFFFFFFFFF0 ∧
    then_ (.ccSlti 1 2 (-1)) (coreS (fun c => { c with x := c.x.set 2 0xFFFFFFFFFFFFFF00 }))
      (fun t => t.cores[(0 : CoreId)].rx 1) = some 1 := by decide +kernel
/-- R389, R391: a store to local memory, little-endian. -/
theorem test_core_store : then_ (.ccStW 1 2 8) (coreS (fun c => { c with x := (c.x.set 1 0x11223344).set 2 0x8000000000000000 }))
    (fun t => (t.cores[(0 : CoreId)].lmem.read 8, t.cores[(0 : CoreId)].lmem.read 11)) = some (0x44, 0x11) := by decide +kernel
/-- R396: an `eret` outside a handler takes ILLOP. -/
theorem test_core_exception : then_ .eret (coreS (fun c => { c with pc := 8, evec := 0x100 }))
    (fun t => let c := t.cores[(0 : CoreId)]
      (c.pc, c.epc, c.ecause, c.inExc)) = some (0x100, 8, 0x01, true) := by decide +kernel

/-! ## Events -/

/-- R401: doorbell bit 3 sets EVPEND[1] of core 3 only. -/
theorem test_doorbell : then_ (.doorbellWrite 8) State.reset (fun t => (t.cores[(3 : CoreId)].evpend, t.cores[(2 : CoreId)].evpend)) =
    some (2, 0) := by decide +kernel
/-- R401: ALARM sets at 105 degrees, 1680 sixteenths. -/
theorem test_alarm : then_ (.tempAlarm 1 1680) State.reset (fun t => t.dies[(1 : DieId)].alarm) = some true ∧
    then_ (.tempAlarm 1 1679) State.reset (fun t => t.dies[(1 : DieId)].alarm) = some false := by decide +kernel
/-- R9, R69, R388: a word placed at the pc of core 0 runs as the next step. -/
theorem test_step_core : (match step (State.reset.withFetchWord 32 0x40A6FFFC) with
    | .next t => some (t.cores[(0 : CoreId)].rx 5, t.cores[(0 : CoreId)].pc)
    | _ => none) = some (0xFFFFFFFFFFFFFFFC, 4) := by decide +kernel
/-- R42: a bundle placed at the pc of bank 0 runs as the next step. -/
theorem test_step_bundle : (match step (State.reset.withFetchWord 128 ((0x0B <<< 22) ||| (4 <<< 17) ||| 9)) with
    | .next t => some (t.curBank.pending.map (fun w => w.val), t.curBank.pc)
    | _ => none) = some ([.scalar 4 9], 1) := by decide +kernel

/-! ## States that meet the hypotheses of the statements -/

/-- A clean issue of an op in a slot: its predicate holds, no error stands in what it reads, and its writes do not clash. -/
def clean (s : State) (k : Slot) (rs : List RegRef) (ws : List (Nat × PVal)) : Bool :=
  s.settle.curBank.enabled p0 && !s.settle.curBank.checked && s.settle.clear k (⟨2, 0⟩ :: rs) ws

theorem witness_IllegalWords : (opCode (0x0F#32 <<< 22)).toNat = 0x0F ∧ (opCode (0x18#32 <<< 22)).toNat = 0x18 ∧
    (opCode (0x09#32 <<< 22)).toNat = 0x09 ∧ (opCode (0x17#32 <<< 22)).toNat = 0x17 ∧ (ccOp (0x34#32 <<< 26)).toNat = 0x34 ∧
    (let s := State.reset.withBundle (0x0F <<< 22)
     s.settle.curBank.pc < 0x1000 ∧ illSlot s.settle.curBundle = some .s) ∧
    (let s := State.reset.withCoreWord 0
     s.coreRuns 0 = true ∧ s.ecc.contains (.localMem 0 0) = false ∧ s.cores[(0 : CoreId)].decoded = none) := by decide +kernel
/-- Every operation code together with every field of a word that a clause about reserved bits asks for, every type code with
every code in M, every state-register number, and every code of a command of a control core. -/
theorem witness_IllegalWords_fields :
    (∀ op ∈ List.range 64, let w := BitVec.ofNat 32 (op * 0x400000 + 0x3FFFFF)
       (opCode w).toNat = op ∧ (∀ i ∈ List.range 22, w.getLsbD i = true ∧ w.extractLsb' i 1 ≠ 0) ∧
       (opCode (BitVec.ofNat 32 (op * 0x400000))).toNat = op) ∧
    (∀ t ∈ List.range 16, ∀ m ∈ List.range 8, let w := BitVec.ofNat 32 (0x400000 + t * 8 + m)
       (fT w).toNat = t ∧ (fM w).toNat = m ∧ (opCode w).toNat = 1) ∧
    floatT 0x6 = true ∧ floatT 0x1 = false ∧
    (∀ n ∈ [0x014, 0x01F, 0x030, 0xFFF], (fImm12 (BitVec.ofNat 32 (0x16 * 0x400000 + n))).toNat = n) ∧
    (∀ cc ∈ List.range 64, let w := BitVec.ofNat 32 (cc * 0x4000000 + 0x3FFFFFF)
       (ccOp w).toNat = cc ∧ w.extractLsb' 0 11 ≠ 0 ∧ w.extractLsb' 12 4 ≠ 0 ∧ w.extractLsb' 0 26 ≠ 0) := by decide +kernel
theorem witness_StepRuns :
    (let s := State.reset.withFetchWord 128 ((0x0B <<< 22) ||| (4 <<< 17) ||| 9)
     let x := s.tile 0
     s.agenda = [] ∧ s.solo = some (.bundle 0 0) ∧ s.clocked = true ∧ x.hasSpent 0 = false ∧ x.ctx[x.running].saved = false ∧
     x.ctx[x.running].banks[(0 : BankId)].owesStep = false ∧ s.tileIssues 0 = true ∧ s.mayIssue 0 0 = true ∧
     s.firstReady 0 0 = true ∧ (s.toIssue 0 0).settle.curBank.pc < 0x1000 ∧
     illSlot (s.toIssue 0 0).settle.curBundle = none ∧ decodeSole (s.toIssue 0 0).settle.curBundle = some (.li p0 4 9)) ∧
    (let s := State.reset.withFetchWord 32 0x40A6FFFC
     s.agenda = [] ∧ s.solo = some (.core 0) ∧ s.clocked = true ∧ s.coreRuns 0 = true ∧
     s.cores[(0 : CoreId)].decoded = some (.ccAddi 5 6 (-4))) ∧
    (isEvent (.doorbellWrite 1) = true ∧ (Instr.doorbellWrite 1).wf = true ∧ State.reset.admits (.doorbellWrite 1) = true ∧
     State.reset.timely (.doorbellWrite 1) = true) := by decide +kernel

theorem coreS_inv (f : Core → Core) (h1 : (f {}).aligned = true) (h2 : (f {}).lmem.wf = true) : (coreS f).Inv := by
  have h0 : (coreS f).cores[(0 : CoreId)] = f {} := by
    rw [← State.reset_cores 0]; exact State.cores_onCore _ _ _
  have h : ∀ k : CoreId, k ≠ 0 → (coreS f).cores[k] = {} := fun k hk => by
    rw [← State.reset_cores k]; exact State.cores_onCore_ne _ _ _ _ hk
  refine ⟨⟨rfl, rfl, fun k => ?_, fun _ => rfl, fun mt l => ?_, fun e he => nomatch he⟩, fun k => ?_⟩
  · by_cases hk : k = 0
    · rw [hk, h0]; exact h2
    · rw [h k hk]; rfl
  · show (({} : MemTile).lf[l]).store.wf = true
    revert l; decide
  · by_cases hk : k = 0
    · rw [hk, h0]; exact h1
    · rw [h k hk]; rfl

/-- A core in the middle of a program, in a state that meets the invariant: for the frames and the invariant of a step. -/
theorem witness_StepInvariant : (coreS (fun c => { c with pc := 8, evec := 4, lmem := [(0, 1)] })).Inv :=
  coreS_inv _ rfl (by decide)
theorem witness_steps_from_it : (match step { coreS (fun c => { c with pc := 8, evec := 4, lmem := [(0, 1)] }) with
    solo := some (.event (.doorbellWrite 1)) } with
    | .next _ => true
    | _ => false) = true := by decide +kernel
theorem witness_CoreFrame : coreDests (.ccAdd 1 2 3) = some [1] ∧
    (let s := coreS (fun c => { c with x := c.x.set 2 0x8000000000000008 })
     s.coreAccess true (s.curCore.rx 2) 8 = .ok (true, 8) ∧ (then_ (.ccStD 1 2 0) s (fun _ => true)) = some true) ∧
    (let s := coreS (fun c => { c with x := c.x.set 2 64 })
     s.coreAccess true (s.curCore.rx 2) 8 = .ok (false, 64)) ∧
    (let s := coreS (fun c => { c with x := c.x.set 2 1 })
     s.coreAccess true (s.curCore.rx 2) 8 = .error .align ∧ s.ecc = []) ∧
    (let s := coreS (fun c => { c with x := c.x.set 2 64 })
     (then_ (.ccLdD 1 2 0) s (fun t => t.mem)) = some s.mem ∧ (then_ (.ccStD 1 2 0) s (fun _ => true)) = some true ∧
     (then_ (.ccLdB 1 2 1) s (fun _ => true)) = some true) := by decide +kernel
theorem witness_ScratchStoreFrame : (then_ (.sts p0 1 2 0) (coreS id) (fun _ => true)) = some true ∧
    (then_ (.csav p0 1 2) (coreS id) (fun _ => true)) = some true ∧
    (then_ (.pushm p0 1 2) (coreS id) (fun _ => true)) = some true := by decide +kernel
theorem witness_RegisterOpFrame : registerDests (.add p0 4 5 6) = some [(1, 4)] ∧
    (then_ (.add p0 4 5 6) State.reset (fun _ => true)) = some true := by decide +kernel

theorem witness_PendingWrites : State.reset.curBank.loops = [] ∧ State.reset.curBank.pc + 1 < 0x1000 ∧
    (PVal.scalar 4 7).discarded = false ∧ (PVal.scalar 0 7).discarded = true ∧
    (let s := bankS (fun k => { k with pending := [⟨1, .scalar 4 7, .s⟩] })
     s.settle.curBank.enabled p0 = true ∧ (⟨1, .scalar 4 7, .s⟩ : PWrite) ∈ s.settle.curBank.pending) ∧
    (let s := bankS (fun k => { k with pending := [⟨18, .scalar 4 7, .s⟩] })
     (⟨18, .scalar 4 7, .s⟩ : PWrite) ∈ s.settle.curBank.pending ∧ s.settle.clear .s (⟨2, 0⟩ :: readsS [5, 6]) [] = true) ∧
    (let s := bankS (fun k => { k with pending := List.replicate 24 ⟨2, .scalar 4 7, .s⟩ })
     24 ≤ s.settle.curBank.pending.length ∧ ∀ w ∈ s.settle.curBank.pending, w.rem ≠ 1) := by decide +kernel
theorem witness_FaultEntry : (State.reset.bank 0 0 0).faulted = false ∧
    ((bankS (fun k => { k with faulted := true })).bank 0 0 0).faulted = true ∧
    (State.reset.noticeQ 0 0).buffer.length < 32 + (State.reset.noticeQ 0 0).free ∧
    (let q := (State.reset.onNotice 0 0 (fun q => { q with buffer := List.replicate 32 0 })).noticeQ 0 0
     32 + q.free ≤ q.buffer.length) ∧
    (let q := (State.reset.onNotice 0 0 (fun q => { q with nqsize := 6, buffer := List.replicate 94 0 })).noticeQ 0 0
     q.buffer.length < 32 + q.free) := by
  decide +kernel

/-- Reset with output channel 0 bound, with a number of free slots. -/
def outS (e : Nat) : State := ctxS (fun c => { c with outp := c.outp.set 0 { ocfg := 0x80000003, e := e } })
/-- Reset with input channel 0 bound and one token in it. -/
def inS (f : Nat) : State := ctxS (fun c => { c with inp := c.inp.set 0 { icfg := 0x80003000, f := f, slots := [(0, { side := { pred := true } })] },
                                                     respmask := 1 })

/-- Reset with output channel 0 bound and closed. -/
def closedS : State := ctxS (fun c => { c with outp := c.outp.set 0 { ocfg := 0x80000003, closed := true } })

/-- Reset with input channel 0 bound and one token in it, as a slot describes it. -/
def slotS (x : SlotInfo) : State := ctxS (fun c => { c with inp := c.inp.set 0 { icfg := 0x80003000, f := 1, slots := [(0, x)] } })

theorem witness_PredicatedOff : guardOf (.add ⟨true, 0⟩ 4 5 6) = some ⟨true, 0⟩ ∧ publishes (.add ⟨true, 0⟩ 4 5 6) = false ∧
    State.reset.settle.curBank.enabled ⟨true, 0⟩ = false ∧ State.reset.settle.clear .s [⟨2, 0⟩] [] = true ∧
    (let o := (outS 4).settle.curCtx.outCh 0
     o.bound = true ∧ o.closed = false ∧ (outS 4).settle.curBank.enabled ⟨true, 0⟩ = false ∧
     (outS 4).settle.clear .c [⟨2, 0⟩] [] = true ∧ 1 ≤ o.e ∧ 1 ≤ o.depth ∧ (4#6).toNat ≤ o.depth ∧ (4#6).toNat ≤ o.e) ∧
    (let o := (outS 0).settle.curCtx.outCh 0
     o.bound = true ∧ o.closed = false ∧ 1 ≤ o.depth ∧ o.e = 0 ∧ (4#6).toNat ≤ o.depth ∧ o.e < (4#6).toNat ∧ o.depth < (5#6).toNat ∧
     (outS 0).settle.curBank.checked = false ∧ (outS 0).settle.curBank.enabled ⟨true, 0⟩ = false ∧
     (outS 0).settle.clear .c [⟨2, 0⟩] [] = true) ∧
    (State.reset.settle.curCtx.outCh 0).bound = false ∧ closedS.settle.curBank.checked = false ∧
    (closedS.settle.curCtx.outCh 0).bound = true ∧ (closedS.settle.curCtx.outCh 0).closed = true := by
  decide +kernel

/-! ### The S slot -/

theorem witness_IntegerResults : clean State.reset .s (readsS [5, 6]) [(18, .scalar 4 0)] = true ∧
    clean (regs 7 0) .s (readsS [5, 6]) [(18, .scalar 4 0xFFFFFFFF)] = true ∧ (regs 7 0).settle.curBank.rs 6 = 0 ∧
    (regs 7 1).settle.curBank.rs 6 ≠ 0 := by decide +kernel
theorem witness_PredicateResults : clean State.reset .s (readsP [1, 2]) [(1, .pred 3 true)] = true := by decide +kernel
theorem witness_FlowOps :
    (let s := bankS (fun k => { k with pc := 0xFFF })
     clean s .s [] [(1, .scalar 31 0x1000)] = true ∧ (0 : Int) ≤ s.settle.curBank.pc + (0 : BitVec 22).toInt ∧
     0x1000 ≤ s.settle.curBank.pc + (1 : BitVec 22).toInt ∧ 0xFFF < s.settle.curBank.pc + 1) ∧
    (State.reset.settle.curBank.pc + (-1 : BitVec 22).toInt < 0) ∧ (regs 0xFFF 0x1000).settle.curBank.rs 5 = 0xFFF ∧
    (regs 0xFFF 0x1000).settle.curBank.rs 6 = 0x1000 ∧
    (let s := bankS (fun k => { k with loops := [⟨1, 5, 0⟩] })
     s.settle.curBank.loops.length < 2 ∧ (∀ e ∈ s.settle.curBank.loops.head?, s.settle.curBank.pc + 5 ≤ e.last) ∧
     5 < s.settle.curBank.pc + 6) ∧
    2 ≤ (bankS (fun k => { k with loops := [⟨1, 5, 0⟩, ⟨1, 6, 0⟩] })).settle.curBank.loops.length := by decide +kernel
theorem witness_FlowEffects :
    (let k : Bank := { pc := 5, loops := [⟨1, 5, 0⟩] }
     let e : LoopEntry := ⟨1, 5, 0⟩
     k.loops = [e] ∧ e.start ≤ k.pc ∧ k.pc ≤ e.last ∧ e.start ≤ 3 ∧ 3 ≤ e.last ∧ k.pc = e.last ∧ e.left = 0) ∧
    (let k : Bank := { pc := 5, loops := [⟨1, 5, 0⟩, ⟨1, 5, 2⟩] }
     let o : LoopEntry := ⟨1, 5, 2⟩
     k.loops = [⟨1, 5, 0⟩, o] ∧ (0 < 1 ∨ 5 < 0) ∧ k.pc = o.last ∧ o.left ≠ 0) ∧
    (let k : Bank := { pc := 6, loops := [⟨1, 5, 3⟩] }
     k.loops = [⟨1, 5, 3⟩] ∧ (k.pc < 1 ∨ 5 < k.pc) ∧ k.pc ≠ 5) ∧ ({ pc := 5, loops := [⟨1, 5, 1⟩] } : Bank).loops = [⟨1, 5, 1⟩] ∧
    (let k : Bank := { pc := 5, loops := [⟨2, 5, 0⟩, ⟨1, 6, 2⟩] }
     k.pc = 5 ∧ 5 ≠ (⟨1, 6, 2⟩ : LoopEntry).last) ∧
    State.reset.curBank.faulted = false ∧
    (let k := (bankS (fun k => { k with pc := 0xFFF })).curBank
     k.pc = 0xFFF ∧ (k.next .seq).pc = 0x1000 ∧ k.faulted = false) ∧
    (let s := bankS (fun k => { k with pc := 0x1000 })
     s.settle.curBank.pc = 0x1000 ∧ s.settle.curBank.faulted = false) := by decide +kernel
/-- Reset with a spill stack of 1,024 bytes, and SP in it. -/
def stackS (sp : W32) : State := bankS (fun k => { k with spbase := 0, splim := 1024, sp := sp })
theorem witness_SpillIssues :
    (let s := stackS 64
     let c := s.settle.curCtx
     rangeLen 1 2 = 2 ∧ c.outside 64 8 = none ∧ c.outside 56 8 = none ∧ c.outside 0 64 = none ∧ c.outside 64 64 = none ∧
     s.settle.scratchEcc 56 8 = none ∧ s.settle.scratchEcc 0 64 = none ∧ rangeLen 2 1 = 0 ∧
     clean s .s (readsS [1, 2]) [(1, .sreg 0x007 72)] = true ∧ clean s .s [] [(1, .vec 1 0), (1, .sreg 0x007 0)] = true) := by
  decide +kernel
theorem witness_StateOps : State.reset.settle.clear .s [] [] = true ∧ clean State.reset .s [] [(2, .scalar 4 0)] = true ∧
    clean State.reset .s (readsS [5]) [(1, .sreg 0x010 0)] = true := by decide +kernel

/-! ### The V slot -/

theorem witness_VectorArithmetic : clean State.reset .v (readsV [1, 2, 3]) [(4, .vec 3 0)] = true := by decide +kernel
theorem witness_VectorLogic : clean State.reset .v (readsV [1, 2, 4]) [(3, .vec 3 0)] = true ∧ cvtFault 0x6 0x9 = none := by
  decide +kernel
theorem witness_VectorElements : clean State.reset .v (readsV [3] ++ readsS [5, 6]) [(2, .vec 3 0)] = true ∧
    clean State.reset .v (readsV [1] ++ readsS [5]) [(2, .scalar 4 0)] = true := by decide +kernel
theorem witness_FunctionResults : decodeF fmtF32 0x7FC00000 = .nan ∧
    (∃ v, decodeF fmtF32 0xBF800000 = .fin true v ∧ v.m ≠ 0) ∧
    (∃ v, decodeF fmtF32 1 = .fin false v ∧ v.m ≠ 0 ∧ v.num.natAbs * 2 ^ 128 ≤ v.den) ∧
    (∃ v, decodeF fmtF32 0x43000000 = .fin false v ∧ (128 * v.den : Int) ≤ v.num) ∧
    (∃ v, decodeF fmtF32 0xC3160000 = .fin true v ∧ v.num ≤ -(150 * v.den : Int)) ∧
    (∃ v, decodeF fmtF32 0x42FE0000 = .fin false v ∧ v.num = 127 * v.den) ∧
    (∃ v, decodeF fmtF32 0xC3150000 = .fin true v ∧ v.num = -149 * v.den) ∧
    (∃ v, decodeF fmtF32 0x40400000 = .fin false v ∧ v.m ≠ 0 ∧ v.den < v.num.natAbs * 2 ^ 128) := by
  refine ⟨by decide +kernel, ?_⟩
  refine ⟨⟨_, rfl, by decide +kernel⟩, ⟨_, rfl, by decide +kernel⟩, ⟨_, rfl, by decide +kernel⟩, ⟨_, rfl, by decide +kernel⟩,
    ⟨_, rfl, by decide +kernel⟩, ⟨_, rfl, by decide +kernel⟩, ⟨_, rfl, by decide +kernel⟩⟩
theorem witness_GraphicsResults : clean State.reset .v (readsV [1, 2, 3]) [(12, .vec 3 0)] = true ∧
    State.reset.settle.curCtx.sigcfg.getLsbD 4 = false ∧
    (ctxS (fun c => { c with sigcfg := 0x10 })).settle.curCtx.sigcfg.getLsbD 4 = true ∧
    clean (ctxS (fun c => { c with sigcfg := 0x10 })) .v (readsV [1, 2]) [(3, .vec 3 0)] = true := by decide +kernel

/-! ### The M slot -/

theorem witness_MatrixIssues : State.reset.settle.curTile.msq.length + State.reset.settle.curTile.left < 4 ∧
    clean State.reset .m (readsS [5] ++ readsV [1]) [] = true ∧ (State.reset.settle.curBank.rs 5).toNat % 64 = 0 ∧
    (∀ n ∈ (List.range 32).map (fun n => 64 * n), State.reset.settle.curCtx.outside n 64 = none) ∧
    State.reset.settle.curCtx.outside 0 4096 = none ∧ (inS 1).settle.curCtx.inp[(0 : Fin 8)].bound = true ∧
    mmaFault State.reset.settle.curTile 0x7 = none ∧
    ((ctxS (fun c => { c with drain := c.drain.set 0 8 })).settle.curCtx.drain[(0 : Fin 8)]).getLsbD 3 = true ∧
    State.reset.settle.curTile.entriesOf 0 0 = [] := by decide +kernel
theorem witness_CarderIssues :
    (let s := State.reset.settle
     clean State.reset .m (readsB 0 ++ readsS [5]) [(4, .vec 1 0)] = true ∧ s.curCtx.outside 0 256 = none ∧
     s.scratchEcc 0 256 = none ∧ s.curTile.cact = none ∧ s.curTile.loading false = false ∧ (s.curTile.half false).valid = true ∧
     s.ecc.contains (.half 0 0) = false ∧ s.curCtx.outside 0 (cdifBytes s 0) = none ∧
     (dfCard (s.curTile.scratch.readNat 0 66) (s.curTile.card 0)).isSome = true) := by decide +kernel
theorem witness_SlotWaits :
    (let e : MsEntry := { id := 1, leaf := 0, bank := 0, bundle := 0, op := .mzero 0, issued := 0 }
     let s := tileS (fun x => { x with msq := [e, e, e, e] })
     4 ≤ s.settle.curTile.msq.length + s.settle.curTile.left ∧ s.settle.curTile.entriesOf 0 0 ≠ [] ∧ clean s .m [] [] = true ∧
     (s.settle.curBank.rs 5).toNat % 64 = 0 ∧ s.settle.curCtx.outside 0 4096 = none ∧ s.settle.curCtx.outside 1984 64 = none ∧
     clean s .m (readsS [5] ++ readsV [1]) [] = true ∧
     (let u := s.onCurCtx (fun c => { c with drain := c.drain.set 0 8, inp := c.inp.set 0 { icfg := 0x80003000 } })
      4 ≤ u.settle.curTile.msq.length ∧ (u.settle.curCtx.drain[(0 : Fin 8)]).getLsbD 3 = true ∧ (u.settle.curCtx.inCh 0).bound = true)) ∧
    (let s := tileS (fun x => { x with cact := some { leaf := 0, bank := 0, bundle := 0, half := 0, addr := 0, t := 1, sc := false, start := 0 } })
     s.settle.curTile.loading false = true ∧ clean s .m (readsB 0 ++ readsS [5]) [(4, .vec 1 0)] = true ∧
     s.settle.curCtx.outside 0 (cactBytes 1 false) = none) ∧
    (let c := (inS 0).settle.curCtx
     (c.inCh 0).bound = true ∧ (1#6).toNat ≤ (c.inCh 0).depth ∧ (c.inCh 0).f < (1#6).toNat ∧ clean (inS 0) .c [] [] = true ∧ (c.inCh 0).f = 0 ∧
     (0#6).toNat < (c.inCh 0).depth ∧ (c.inCh 0).f ≤ (0#6).toNat ∧ clean (inS 0) .c [] [(1, .vec 1 0), (1, .sreg 0x012 0)] = true) ∧
    (let c := (outS 0).settle.curCtx
     (c.outCh 0).bound = true ∧ (c.outCh 0).closed = false ∧ (1#6).toNat ≤ (c.outCh 0).depth ∧ (c.outCh 0).e < (1#6).toNat ∧
     (0#6).toNat < (c.outCh 0).depth ∧ (c.outCh 0).e ≤ (0#6).toNat ∧
     (c.outCh 0).e = 0 ∧ clean (outS 0) .c (readsV [1]) [] = true) := by decide +kernel

/-! ### The C slot -/

theorem witness_ConsumerIssues :
    (let i := (inS 1).settle.curCtx.inCh 0
     i.bound = true ∧ 0 < i.f ∧ (i.info (i.slot 0)).parity = false ∧ (i.info (i.slot 0)).side.kind ≠ 4 ∧
     (i.info (i.slot 0)).side.kind ≠ 7 ∧ (i.info (i.slot 0)).mark = none ∧ (i.info (i.slot 0)).side.badPlanes = false ∧
     (inS 1).settle.ecc.contains (.scratch 0 (i.slotAddr (i.slot 0))) = false ∧ (0#6).toNat < i.depth ∧ 0 < i.ratio ∧ 1 ≤ i.f ∧
     clean (inS 1) .c [] [(1, .vec 1 0), (1, .pred 2 true), (1, .sreg 0x012 0)] = true) := by decide +kernel
theorem witness_ProducerIssues :
    (let o := (outS 4).settle.curCtx.outCh 0
     o.bound = true ∧ o.closed = false ∧ 1 ≤ o.e ∧ 1 ≤ o.depth ∧ (3#6).toNat + 1 ≤ o.depth ∧ (3#6).toNat + 1 ≤ o.e ∧
     clean (outS 4) .c (readsS [5]) [] = true ∧ clean (outS 4) .c (readsV [1]) [] = true) := by decide +kernel
theorem witness_ScratchIssues :
    (let s := State.reset.settle
     clean State.reset .c (readsV [1] ++ readsS [5]) [] = true ∧ clean State.reset .c (readsS [5]) [(5, .vec 1 0)] = true ∧
     s.curCtx.outside 0x3FFC0 64 = none ∧ s.curCtx.outside 0x3FFFC 4 = none ∧ s.scratchEcc 0 64 = none) := by decide +kernel
theorem witness_GlobalIssues :
    (let s := (inS 1).settle
     s.curTile.port.length < 16 ∧ s.curCtx.respmask.getLsbD 0 = true ∧ (s.curCtx.inCh 0).canReserve = true ∧
     (s.curBank.rpair 2).toNat % 128 = 0 ∧ clean (inS 1) .c (readsPair 2 ++ readsS [5, 6]) [] = true ∧
     clean (inS 1) .c (readsV [1] ++ readsPair 2) [] = true ∧ (s.curBank.rs 5).getLsbD 31 = false) ∧
    (let s := (regs 0x80000000 0).settle
     (s.curBank.rs 5).getLsbD 31 = true) ∧
    (ctxS (fun c => { c with wswin := 0x10000 })).settle.curCtx.wsSize > 0 := by decide +kernel
theorem witness_OrderingIssues :
    (let s := ctxS (fun c => { c with barcfg := 0x00000001 })
     s.settle.fenceDone (s.settle.curCtx.effScope 0) = true ∧
     (s.settle.curCtx.barcfg.extractLsb' 0 4).getLsbD s.settle.cur.bank.val = true ∧ s.settle.fenceDone 0 = true ∧
     clean s .c [] [] = true) ∧
    (let s := bankS (fun k => { k with out := [⟨7, false⟩], checked := true })
     ({ s with acks := [7] } : State).settle.fenceDone (s.settle.curCtx.effScope 1) = false ∧
     ({ s with acks := [7] } : State).settle.curBank.checked = true ∧
     ({ s with acks := [7] } : State).settle.curBank.enabled p0 = true ∧
     ({ s with acks := [7] } : State).settle.clear .c [⟨2, 0⟩] [] = true) ∧
    (let s := { (ctxS (fun c => { c with barcfg := 1 })).onCurBank (fun k => { k with out := [⟨7, false⟩] }) with acks := [7] }
     (s.settle.curCtx.barcfg.extractLsb' 0 4).getLsbD s.settle.cur.bank.val = true ∧ s.settle.fenceDone 0 = false ∧
     clean s .c [] [] = true) ∧
    State.reset.settle.curCtx.sysBound = false ∧ (State.reset.settle.curCtx.barcfg.extractLsb' 0 4).getLsbD 0 = false := by decide +kernel
/-- Reset with one umbra host for every key, at memory tile 0 of die 0. -/
def hostedS : State := State.reset.onMt (homeMemTile 0) (fun m =>
  { m with lf := m.lf.set 0 { umhcfg := 1, umhost := Vector.replicate 64 0x80000000 } })
/-- The same, with section 0 held in slot 0. -/
def heldS : State := hostedS.onCurBank (fun k => { k with held := k.held.set 0 { valid := true } })
theorem witness_UmbraIssues :
    (hostedS.settle.umhostOf 0 0 0).isSome = true ∧ hostedS.settle.curTile.port.length < 16 ∧
    hostedS.settle.curBank.heldSlot 0 = none ∧ hostedS.settle.curBank.freeSlot = some 0 ∧
    heldS.settle.curBank.heldSlot 0 = some 0 ∧ clean hostedS .c (readsS [5, 6]) [(1, .grant 0)] = true ∧
    clean heldS .c (readsS [5, 6]) [] = true := by decide +kernel
theorem witness_CommandIssues :
    (let s := (regs 2 3).settle
     s.curTile.port.length < 16 ∧ (s.curBank.rpair 0).toNat % 128 = 0 ∧ (s.curBank.rs 6).toNat < 2 ^ 11 ∧
     ((s.curBank.rs 6).extractLsb' 2 7).toNat ≤ 95 ∧ 2 ≤ (s.curBank.rs 5).toNat ∧ (s.curBank.rs 5).toNat ≤ 19 ∧
     s.curBank.gdepth ≠ 8 ∧ (s.poolFor s.curBank.gdepth).isSome = true ∧ s.curTile.outbound < 4 ∧
     clean (regs 2 3) .c (readsS [4, 5, 6]) [] = true ∧ clean (regs 2 3) .c [] [(1, .sreg 0x010 1)] = true) ∧
    (let s := State.reset.onBox 0 (fun b => { b with cls0 := b.cls0.set 3 0xC })
     ((s.box 0).exit 0 3).isSome = true) := by decide +kernel
theorem witness_AccessFaults :
    (let s := regs 1 0
     (s.settle.curBank.rs 5).toNat % 64 ≠ 0 ∧ clean s .m (readsS [5]) [] = true ∧ clean s .c (readsV [1] ++ readsS [5]) [] = true ∧
     (s.settle.curBank.rs 5).toNat % 4 ≠ 0) ∧
    (let s := stackS 1024
     s.settle.curBank.splim.toNat < 1024 + 4 * rangeLen 1 2 ∧ clean s .s (readsS [1, 2]) [(1, .sreg 0x007 0)] = true) ∧
    (let s := stackS 4
     4 < s.settle.curBank.spbase.toNat + 4 * rangeLen 1 2 ∧ s.settle.curBank.sp.toNat % 64 ≠ 0 ∧
     clean s .s [] [(1, .scalar 1 0), (1, .scalar 2 0), (1, .sreg 0x007 0)] = true) ∧
    State.reset.settle.curCtx.outside 0x40000 64 = some 0x40000 ∧ State.reset.settle.curCtx.outside 0x40000 4 = some 0x40000 ∧
    (let s := bankS (fun k => { k with s := (k.s.set 4 4).set 5 1 })
     (s.settle.curBank.rpair 2).toNat % 64 ≠ 0 ∧ (s.settle.curBank.rpair 2).toNat % 128 ≠ 0 ∧ (s.settle.curBank.rs 5).toNat % 64 ≠ 0 ∧
     clean s .c (readsV [1] ++ readsPair 2) [] = true ∧ clean s .c (readsPair 2 ++ readsS [5]) [] = true) ∧
    (bankS (fun k => { k with s := k.s.set 4 2 })).settle.curBank.rpair 2 = 2 ∧
    State.reset.settle.curCtx.wsSize ≤ ((0 : W32) + (0 : BitVec 12).signExtend 32 * 64).toNat ∧
    (inS 1).settle.curCtx.respmask.getLsbD 0 = true ∧
    (ctxS (fun c => { c with wswin := 0x10000, respmask := 1 })).settle.curCtx.wsSize > 0 ∧
    ((regs 0x80000000 0).settle.curBank.rs 5).getLsbD 31 = true ∧
    State.reset.settle.curCtx.respmask.getLsbD 0 = false ∧
    16 ≤ (tileS (fun x => { x with port := List.replicate 16 { id := 1, src := { tile := 0, leaf := 0, bank := 0, bundle := 0 }, body := .umlv 0 } })).settle.curTile.port.length := by
  decide +kernel
theorem witness_OpFaults :
    (State.reset.settle.curCtx.inCh 0).bound = false ∧ (State.reset.settle.curCtx.outCh 0).bound = false ∧
    clean State.reset .c (readsV [1]) [] = true ∧
    (closedS.settle.curCtx.outCh 0).closed = true ∧ 1 ≤ (closedS.settle.curCtx.outCh 0).depth ∧
    (let i := fun (x : SlotInfo) => (slotS x).settle.curCtx.inCh 0
     (i {}).bound = true ∧ (i {}).depth < (63#6).toNat ∧ 0 < (i {}).f ∧ ((i { parity := true }).info 0).parity = true ∧
     ((i { side := { kind := 4 } }).info 0).side.kind = 4 ∧ ((i { mark := some 3 }).info 0).mark = some 3 ∧ (i {}).depth ≤ (4#6).toNat ∧
     ((i { side := { fmt := 0xD, head := true } }).info 0).side.badPlanes = true ∧
     clean (slotS {}) .c [] [(1, .vec 1 0), (1, .pred 2 true), (1, .sreg 0x012 0)] = true ∧
     (let s : State := { slotS {} with ecc := [.scratch 0 ((i {}).slotAddr ((i {}).slot 0))] }
      s.settle.ecc.contains (.scratch 0 ((s.settle.curCtx.inCh 0).slotAddr ((s.settle.curCtx.inCh 0).slot 0))) = true ∧
      clean s .c [] [(1, .vec 1 0), (1, .sreg 0x012 0)] = true)) ∧
    clean State.reset .c (readsS [5, 6]) [(1, .grant 0)] = true ∧
    (State.reset.settle.umhostOf 0 0 0).isSome = false ∧ heldS.settle.curBank.freeSlot = some 1 ∧
    (let s := hostedS.onCurBank (fun k => { k with held := Vector.replicate 4 { key := 9, valid := true } })
     s.settle.curBank.freeSlot = none ∧ s.settle.curBank.heldSlot 0 = none) ∧
    2 ^ 11 ≤ ((regs 0x800 0).settle.curBank.rs 5).toNat ∧ ((regs 1 0).settle.curBank.rs 5).toNat < 2 ∧
    ((State.reset.box 0).exit 0 3).isSome = false ∧ (bankS (fun k => { k with gdepth := 8 })).settle.curBank.gdepth = 8 ∧
    clean State.reset .v (readsV [1]) [(3, .vec 2 0)] = true := by decide +kernel

/-! ### Control cores -/

/-- Reset with bank 0 of tile 0 running. -/
def runningS : State := bankS (fun k => { k with life := .running })
theorem witness_CoreIntegerResults : State.reset.curCore.pc ≠ 0x3FFFC := by decide +kernel
theorem witness_CoreState : (coreS (fun c => { c with pc := 0x3FFFC })).curCore.pc = 0x3FFFC ∧
    State.reset.curCore.inExc = false ∧ (coreS (fun c => { c with inExc := true })).curCore.inExc = true := by decide +kernel
theorem witness_CoreMemory :
    (let s := coreS (fun c => { c with x := c.x.set 2 0x8000000000000008 })
     s.coreAccess false (s.curCore.rx 2) 8 = .ok (true, 8) ∧ (s.curCore.rx 2 + 1).toNat % 8 ≠ 0 ∧
     (s.curCore.rx 2).getLsbD 63 = true) ∧
    (let s := coreS (fun c => { c with x := c.x.set 2 0x0010000000000000 })
     (s.curCore.rx 2).getLsbD 63 = false ∧ (s.curCore.rx 2).extractLsb' 52 11 ≠ 0) ∧
    State.reset.coreAccess false 64 4 = .ok (false, 64) ∧ State.reset.refreshes 64 = false ∧
    State.reset.refreshes (weightPa 0 0) = true ∧ State.reset.pathShut 0 64 = false ∧ isHost 64 = false ∧
    (State.reset.passSlice 64 false).isSome = true ∧ (State.reset.passSlice 64 true).isSome = true ∧
    (let s : State := { State.reset with filters := [(sliceSite 64, sectorOf 64)] }
     s.passSlice 64 false = none) ∧
    (let s : State := { State.reset with slices := [((sliceSite 64).toNat, { miss := [sectorOf 64] })] }
     s.passSlice 64 true = none) ∧
    isHost 0x8000000000000 = true ∧ State.reset.coreAccess false 0x8000000000000 4 = .ok (false, 0x8000000000000) ∧
    State.reset.refreshes 0x8000000000000 = false ∧ State.reset.pathShut 0 0x8000000000000 = false := by decide +kernel
theorem witness_CoreBranches :
    (let c := State.reset.curCore
     (c.pc.setWidth 64 + (4 : BitVec 16).signExtend 64 * 4).toNat % 4 = 0 ∧
     0x40000 ≤ (c.pc.setWidth 64 + (-1 : BitVec 16).signExtend 64 * 4).toNat) ∧
    (let c := (coreS (fun c => { c with x := (c.x.set 2 1).set 3 2 })).curCore
     c.rx 2 ≠ c.rx 3 ∧ (c.rx 2).toInt < (c.rx 3).toInt ∧ (c.rx 2).toNat % 4 ≠ 0) := by decide +kernel
theorem witness_CoreSystem : State.reset.csr 0 0x001 = some 0 ∧ State.reset.csr 0 0x002 = none ∧
    (State.reset.setCsr 0 0x011 1).curCore.pc ≠ 0x3FFFC ∧
    (let c := (coreS (fun c => { c with evpend := 1, evmask := 3, busy := .wfe })).curCore
     c.evpend &&& c.evmask ≠ 0 ∧ c.busy = .wfe ∧ c.pc ≠ 0x3FFFC) ∧
    (State.reset.csr 0 0x000).isSome = true ∧ (coreS (fun c => { c with inExc := true })).curCore.inExc = true ∧
    State.reset.curCore.inExc = false ∧ State.reset.curCore.pc ≠ 0x3FFFC ∧
    State.reset.curCore.evpend &&& State.reset.curCore.evmask = 0 := by decide +kernel
/-- Reset with translation on at the home memory tile of tile 0, and one page of it cached: a tile of one page of GDDR7. -/
def pagedS (pbase : Nat) : State :=
  State.reset.onMt (homeMemTile 0) (fun m => { m with trcfg := m.trcfg.set 0 1, tlb := [⟨0, 0, 4096, 0xF, pbase⟩] })
theorem witness_CoreFabric :
    (let s := coreS (fun c => { c with busy := .tsw 0x10000 5 })
     s.cores[(0 : CoreId)].busy = .tsw 0x10000 5 ∧ s.fenced (siteDie (selSite 0x10000)) = false ∧
     (match s.tileWrite 0x10000 5 with
      | .ok t => t.cores[(0 : CoreId)].pc == 0
      | .error _ => false) = true ∧
     (s.applyWrite 0 0).cores[(0 : CoreId)].pc = 4 ∧
     (match runningS.tileWrite 0x340000 5 with
      | .ok _ => false
      | .error _ => true) = true ∧
     ((coreS (fun c => { c with busy := .cfgw 7 0 0 0x5C00 })).applyWrite 0 0).cores[(0 : CoreId)].busy = .none) ∧
    (let fence := fun (d : BitVec 4) => ({ State.reset with host := { State.reset.host with fence := d } } : State)
     (fence 1).fenced (siteDie (selSite 0x10000)) = true ∧ (fence 8).reach 0 (siteAt 3 0 0) = .lost ∧
     (fence 2).reach 0 (siteAt 3 0 0) = .waits ∧ State.reset.reach 0 0 = .open) ∧
    (let s := State.reset
     (match s.tileRead 0 with
      | .ok _ => true
      | .error _ => false) = true ∧
     (match runningS.tileRead 0x340000 with
      | .ok _ => false
      | .error _ => true) = true ∧
     siteKind (selSite 0) ≠ .none ∧ siteKind (selSite 24) = .none ∧ isCompute (selSite 0) = true ∧ isCompute 0x0C0 = false ∧
     (s.ctx 0 0).banks.toList.all (fun k => k.life != .running || k.faulted || k.frozen) = true ∧
     (runningS.ctx 0 0).banks.toList.all (fun k => k.life != .running || k.faulted || k.frozen) = false ∧
     ((pagedS 0).copyBundles 0 0 0 0 1).2 = .done ∧ ((pagedS 0).copyBundles 0 0 0 0 1).1.curCore.pc ≠ 0x3FFFC ∧
     (s.copyBundles 0 0 0 0 1).2 = .fault .page 0 ∧ ((pagedS (weightPa 0 0)).copyBundles 0 0 0 0 1).2 = .waits 0 0 1 ∧
     ((((pagedS 0).onMt (homeMemTile 0) (fun m => { m with tlb := [⟨0, 0, 4096, 0x2F, 0x8000000000000⟩] })).copyBundles 0 0 0 0 1).2 =
       .host 0x8000000000000 0 0 1) ∧
     s.election = false ∧ ({ s with election := true } : State).election = true ∧ (s.writeEntry 0 0 0).curCore.pc ≠ 0x3FFFC) := by
  decide +kernel
/-- Reset with a partition 0 that runs on tile 0, its graph 1, and a running launch of it. -/
def partS : State := { State.reset with
  parts := [(0, some { tiles := [(0, 0)], mts := [(homeMemTile 0, 0)] })], graphs := [(1, some { part := 0, image := 0, index := 0 })],
  launches := [{ slot := 0, graph := 1, depth := 0, feeders := [] }] }
theorem witness_CoreCommands : partS.resident 0 = true ∧ State.reset.resident 0 = false ∧
    ({ partS with parts := [(0, some { tiles := [(0, 0)], swapped := true })] } : State).restoreBad 0 false = false ∧
    State.reset.restoreBad 0 false = true ∧ State.reset.restoreBad 0 true = true ∧
    ({ partS with parts := [(0, some { tiles := [(0, 0)], swapped := true, inMemory := true })] } : State).restoreBad 0 true = false ∧
    State.reset.launches.find? (fun l => l.slot == 0) = none ∧ State.reset.curCore.pc ≠ 0x3FFFC ∧
    (partS.kill { slot := 0, graph := 1, depth := 0, feeders := [] } { part := 0, image := 0, index := 0 }).curCore.pc ≠ 0x3FFFC ∧
    (partS.launches.find? (fun l => l.slot == 0)).isSome = true ∧ (partS.graph 1).isSome = true ∧
    (let fence := fun (d : BitVec 4) => ({ partS with host := { partS.host with fence := d } } : State)
     partS.reach 0 0 = .open ∧ (fence 8).reach 0 (siteAt 3 0 0) = .lost ∧ (fence 2).reach 0 (siteAt 3 0 0) = .waits ∧
     partS.imageFenced 0 0 = false ∧ (fence 1).imageFenced 0 0 = true) := by decide +kernel


/-! ### Events -/

/-- A token with predicate 1. -/
def tokS : Token := { side := { pred := true } }
/-- A publish of a slot on a route of leaf 0. -/
def itemS (src : Producer) : Item := { src := src, part := 0, leaf := 0, graph := 0, body := .publish 0 tokS false }
/-- Reset with one request under way. -/
def flyS (b : ReqBody) (t : Target) (pa : Option Nat := none) : State :=
  { State.reset with flight := [⟨{ id := 1, src := { tile := 0, leaf := 0, bank := 0, bundle := 0 }, body := b, pa := pa }, t, false, none, false, false, [], none, 0⟩] }
/-- The first memory tile, with translation on for leaf 0 and page 0 cached. -/
def mapped (s : State) : State :=
  s.onMt 0x0C0 (fun m => { m with trcfg := m.trcfg.set 0 1, tlb := [⟨0, 0, 4096, 0xF, 0⟩] })

theorem witness_TileLife :
    (let s := ctxS (fun c => { c with inp := c.inp.set 0 { icfg := 0x80003000, f := 1, slots := [(0, { side := { pred := true } })] } })
     s.canStartBank 0 = true ∧ s.classStart 0 = none ∧ s.bankIdle 0 0 = true ∧ 0 < ((s.ctx 0 0).inCh 0).f ∧
     (((s.ctx 0 0).inCh 0).info (((s.ctx 0 0).inCh 0).slot 0)).side.bank.toFin = (0 : Fin 4)) ∧
    (let p : ClassPkt := { tok := classToken 0 3 0 0, part := 0, graph := 0 }
     let s := ctxS (fun c => { c with clsbuf := [p], handlers := c.handlers.set 3 0x1005 })
     s.canStartBank 0 = true ∧ s.classPick 0 [] (s.ctx 0 0).clsbuf = some ([], p, []) ∧ p.cls = 3) ∧
    (let s := bankS (fun k => { k with life := .running, ending := some false })
     (s.onCtx 0 0 (fun c => c.settle 0)).curBank.ending = some false ∧ (s.onCtx 0 0 (fun c => c.settle 0)).curBank.pending = []) ∧
    (let s := bankS (fun k => { k with life := .running, ending := some true, held := k.held.set 0 { key := 5, valid := true } })
     s.curTile.port.length + s.curBank.heldKeys.length ≤ 16 ∧ s.curBank.heldKeys = [5]) := by decide +kernel

theorem witness_BankStops :
    (let r : Report := { tile := 0, leaf := 0, bank := 0, slot := 3, bundle := 7, code := 0x08, flta := 64, id := 1 }
     let s := { State.reset with reports := [r] }
     s.reports[0]? = some r ∧ s.away 0 0 = false ∧ (s.bank 0 0 0).faulted = false) ∧
    (let k := (bankS (fun k => { k with faulted := true })).curBank
     k.faulted = true ∧ k.pendRaw = none ∧ k.pending.any PWrite.isGrant = k.umWait.isSome) := by decide +kernel

theorem witness_SequencerRuns :
    (let e : MsEntry := { id := 1, leaf := 0, bank := 0, bundle := 0, op := .mzero 0, issued := 0 }
     let s := (tileS (fun x => { x with msq := [e] })).onDie 0 (fun d => { d with cycle := 9 })
     (s.tile 0).canStart e (s.cycleAt 0) = true ∧ s.endDue 0 = none ∧ (s.tile 0).issued = false ∧ s.fenced 0 = false) ∧
    (let e : MsEntry := { id := 1, leaf := 0, bank := 0, bundle := 0, op := .mlat false 7 [0], issued := 0, done := 200 }
     let s := (tileS (fun x => { x with msrun := [e] })).onDie 0 (fun d => { d with cycle := 5000 })
     s.entryNo 0 1 = some e ∧ e.over (s.cycleAt 0) = true ∧ e.op.load = some (false, 7)) ∧
    (let e : MsEntry := { id := 1, leaf := 0, bank := 0, bundle := 0, op := .mlatc true 7 0, issued := 0 }
     let s := (inS 1).onTile 0 (fun x => { x with msrun := [e] })
     let i := (s.ctx 0 0).inp[(0 : Fin 8)]
     s.ecc.contains (.scratch 0 (i.slotAddr (i.slot 0))) = false ∧
     ({ s with ecc := [.scratch 0 (i.slotAddr (i.slot 0))] } : State).ecc.contains (.scratch 0 (i.slotAddr (i.slot 0))) = true ∧
     s.entryNo 0 1 = some e ∧ e.due ≤ s.cycleAt 0 ∧ e.over (s.cycleAt 0) = false ∧ 0 < (s.ctx 0 0).inp[(0 : Fin 8)].f ∧
     (mlatcFault (s.ctx 0 0) 0 7 false 0 0).isSome = true ∧
     mlatcFault ((slotS { side := { head := true, fmt := 7 } }).ctx 0 0) 0 0 false 0 0 = none) ∧
    (let e : MsEntry := { id := 1, leaf := 0, bank := 0, bundle := 0, op := .mdrain 0 6 false (some 0) 0, issued := 0 }
     let s := tileS (fun x => { x with msrun := [e, { e with op := .mdrain 0 6 false none 0 }] })
     s.entryNo 0 1 = some e ∧ e.due ≤ s.cycleAt 0 ∧ e.over (s.cycleAt 0) = false ∧ s.regBad 0 0 0x18 = false ∧
     ((outS 4).ctx 0 0).outp[(0 : Fin 8)].bound = true ∧ ((outS 4).ctx 0 0).outp[(0 : Fin 8)].closed = false ∧
     0 < ((outS 4).ctx 0 0).outp[(0 : Fin 8)].e ∧ ((outS 0).ctx 0 0).outp[(0 : Fin 8)].e = 0 ∧
     (s.ctx 0 e.leaf).inp[(0 : Fin 8)].f = 0 ∧ e.out = none) ∧
    (let e : MsEntry := { id := 1, leaf := 0, bank := 0, bundle := 0, op := .mdrain 0 6 false none 0, issued := 0 }
     let s := (inS 1).onCtx 0 0 (fun c => { c with drain := Vector.replicate 8 8 })
     (∃ p, s.drainSteer 0 e 0 = some p ∧ ((p.1.ctx 0 e.leaf).drain[p.2]).getLsbD 3 = true) ∧
     ∃ p, (inS 1).drainSteer 0 e 0 = some p ∧ ((p.1.ctx 0 e.leaf).drain[p.2]).getLsbD 3 = false) ∧
    (let r : CactRun := { leaf := 0, bank := 0, bundle := 0, half := 0, addr := 0, t := 1, sc := false, start := 0, done := 100 }
     let s := State.reset.onDie 0 (fun d => { d with cycle := 5000 })
     r.err = none ∧ cactCycles r.t r.sc ≤ r.done ∧ r.start + r.done ≤ s.cycleAt 0) := by decide +kernel

theorem witness_TokenArrivals :
    (let f : Flight := ⟨itemS .none, 0⟩
     let s := ctxS (fun c => { c with inp := c.inp.set 0 { icfg := 0x80003000, port := [f] } })
     isMemory 0 = false ∧ (s.ctx 0 0).inp[(0 : Fin 8)].port = [f] ∧ f.due ≤ s.cycleAt 0 ∧ s.regBad 0 0 0 = false ∧
     (s.ctx 0 0).inp[(0 : Fin 8)].openBack = false) ∧
    (let f : Flight := ⟨itemS .none, 0⟩
     let s := State.reset.onEbuf 0x0C0 0 0 (fun b => { b with v := true, cap64 := 4, port := [f] })
     isMemory 0x0C0 = true ∧ (s.ebuf 0x0C0 0 0).port = [f] ∧ (s.ebuf 0x0C0 0 0).uses 0 = false ∧ s.regBad 0x0C0 0 0x10 = false) ∧
    (let c := (ctxS (fun c => { c with inp := c.inp.set 0 { icfg := 0x80003000 } })).curCtx.inp[(0 : Fin 8)]
     tokS.side.kind = 0 ∧ tokS.side.null = false ∧ (tokS.side.fmt = c.fmt ∨ c.fmt = 0) ∧ (itemS .none).ratio = 1 ∧
     (tokS.side.scaled && tokS.side.aux.getLsbD 23) = false ∧ State.reset.curTile.scratch.wf = true) ∧
    (let r : Release := ⟨.tile 0 0 1, 1, some 0, 0, []⟩
     let s := { State.reset with releases := [r] }
     s.releases[0]? = some r ∧ r.due.getD 0 ≤ s.cycleAt 0) ∧
    (let r : Release := ⟨.tile 0x400 0 1, 1, some 0, 0, [(1, 3)]⟩
     ({ State.reset with releases := [r] } : State).releases[0]? = some r ∧ r.legs = [(1, 3)] ∧ State.reset.fenced 1 = false) := by decide +kernel

/-- Reset with a page table whose first entry is as given. -/
def tabledS (e : Nat) : State := { State.reset with mem := State.reset.mem.writeNat 0 e 8 }
theorem witness_RequestDispatch :
    (let q : Req := { id := 1, src := { tile := 0, leaf := 0, bank := 0, bundle := 0 }, body := .read 64 }
     let s := tileS (fun x => { x with port := [q] })
     (s.tile 0).port = [q] ∧ ((s.mt 0x0C0).queues.get 0 []).length < 32 ∧ s.settled q.waits q.dies = true) ∧
    (let q : Req := { id := 1, src := { tile := 0, leaf := 0, bank := 0, bundle := 0 }, body := .read 64 }
     let s := State.reset.onMt 0x0C0 (fun m => { m with queues := [(0, [q])], trcfg := m.trcfg.set 0 1 })
     (s.mt 0x0C0).queues.get 0 [] = [q] ∧ s.needsWalk 0x0C0 q = true ∧
     (mapped s).needsWalk 0x0C0 q = false ∧ (((mapped s).onMt 0x0C0 (fun m => { m with queues := [] })).route 0x0C0 q).isSome = true ∧
     (s.mt 0x0C0).lf[(0 : Fin 2)].ownrOf 64 = none ∧ s.moduleOf 0x0C0 q = none ∧ trEn (s.trcfg 0x0C0 0) = true ∧ (s.tile 0).sent = false ∧
     ((mapped s).tlbHit 0x0C0 0 64).isSome = true ∧
     (s.mt 0x0C0).holdsLine { q with pa := some 64 } = false ∧ (mapped s).accessCheck 0 0 .read 0xF 64 64 = none ∧
     (mapped s).targetBusy 0x0C0 q (targetOf 0 false 64) 64 = false ∧ (∀ n ∈ s.routingRegs 0x0C0 q, s.regBad 0x0C0 0 n = false)) ∧
    (let q : Req := { id := 1, src := { tile := 0, leaf := 0, bank := 0, bundle := 0 }, body := .read 64 }
     let s := (mapped { State.reset with mem := State.reset.mem.writeNat 0 0x0000000000000000 8 }).onMt 0x0C0 (fun m =>
       { m with tlb := [], walks := [⟨q, 3, 0, []⟩] })
     (match s.walkStep 0 0 64 3 with
      | .fault _ => true
      | _ => false) = true ∧ (s.mt 0x0C0).walks[0]? = some ⟨q, 3, 0, []⟩ ∧
     (⟨q, 3, 0, []⟩ : Walk).stale 64 1 = false ∧ (⟨q, 3, 0, [(0, 4096)]⟩ : Walk).stale 0 4096 = true ∧
     (match (tabledS 0x1).walkStep 0 0 64 3 with
      | .table _ => true
      | _ => false) = true ∧
     (match (tabledS 0xF).walkStep 0 0 64 0 with
      | .leaf .. => true
      | _ => false) = true ∧
     (match (tabledS 0x1).walkVia 0 0 64 3 with
      | (.table _, _) => true
      | _ => false) = true ∧
     (match (tabledS 0xF).walkVia 0 0 64 0 with
      | (.leaf .., _) => true
      | _ => false) = true ∧
     (match (tabledS 0).walkVia 0 0 64 3 with
      | (.fault _, _) => true
      | _ => false) = true ∧
     (match ({ tabledS 0xF with filters := [(sliceSite 0, 0)] } : State).walkVia 0 0 64 0 with
      | (.wait, _) => true
      | _ => false) = true ∧
     (match ({ tabledS 0xF with mem := (tabledS 0xF).mem, host := { State.reset.host with fence := 1 } } : State).walkStep 0 0 64 0 with
      | .fault _ => true
      | _ => false) = true) ∧
    (let q : Req := { id := 1, src := { tile := 0, leaf := 0, bank := 0, bundle := 0 }, body := .write 64 0 }
     let s := State.reset.onMt 0x0C0 (fun m => { m with hold := [q], tlb := [⟨0, 0, 4096, 0x8F, 0⟩] })
     let s2 := State.reset.onMt 0x0C0 (fun m => { m with hold := [q], tlb := [⟨0, 0, 4096, 0xF, 0⟩] })
     (s.mt 0x0C0).hold.find? (s.heldMoves 0x0C0) = some q ∧ s.tlbHit 0x0C0 0 64 = some ⟨0, 0, 4096, 0x8F, 0⟩ ∧
     s.accessCheck 0 0 .write 0x8F 64 64 = none ∧
     (s2.mt 0x0C0).hold.find? (s2.heldMoves 0x0C0) = some q ∧ s2.tlbHit 0x0C0 0 64 = some ⟨0, 0, 4096, 0xF, 0⟩ ∧
     s2.accessCheck 0 0 .write 0xF 64 64 = none ∧ (s2.mt 0x0C0).holdsLine { q with pa := some 64 } = false ∧
     s2.targetBusy 0x0C0 q (targetOf 0 false 64) 64 = false ∧ targetOf 0 false 64 ≠ .host) := by decide +kernel

theorem witness_TargetAccesses :
    (let s := flyS (.read 64) (.slice 0x0E0) (some 64)
     (s.inFlight 1).map (fun f => s.firstOfLine f.req) = some true ∧ s.fenced (siteDie 0x0E0) = false ∧
     (({ s with slices := [(0x0E0, { held := [sectorOf 64] })] } : State).slice 0x0E0).held.contains (sectorOf 64) = true ∧
     s.ecc.contains (.phys 64) = false) ∧
    ((flyS (.read 0) (.sram 0x0C0) (some 0)).inFlight 1).isSome = true ∧
    ((flyS (.read 0) (.weight 0) (some 64)).firstOfLine { id := 1, src := default, body := .read 0, pa := some 64 } = true ∧
     placeOf 64 = .gddr 0 ∧ placeOf (weightPa 0 0) = .weight 0 0 ∧ 64 / 64 % 64 ≠ State.reset.dies[(0 : DieId)].cycle.toNat / 300 % 64) ∧
    ({ id := 1, src := default, body := .write 0 0 } : Req).why = .op ∧ State.reset.lineBad 64 = false ∧
    ({ State.reset with ecc := [.phys 64] } : State).lineBad 64 = true ∧
    ({ id := 1, src := default, body := .write 0 0, why := .chunk true none } : Req).kind = .coreWrite ∧
    State.reset.pathOpen 0 3 = true ∧ isMemory 0 = false ∧ State.reset.mem.wf = true ∧
    (flyS (.write 64 5) (.sram 0x0C0) (some 64)).filters.any (fun e => e.1 == 0x0C0 && e.2 == sectorOf 64) = false ∧
    ((flyS (.read 0) .host (some 0)).inFlight 1).isSome = true := by decide +kernel

theorem witness_CacheEvents :
    (let s := flyS (.read 64) (.slice 0x0E0) (some 64)
     (s.slice 0x0E0).held.contains 0 = false ∧ s.filters.any (fun e => e.1 == 0x0E0 && e.2 == 0) = false ∧
     (s.slice 0x0E0).miss.contains 0 = false ∧ (s.slice 0x0E0).miss.length < 64 ∧
     (s.slice 0x0E0).room (sectorOf 64) = true ∧ (s.inFlight 1).map (fun f => f.half) = some false) ∧
    (let s := flyS (.read 64) (.gateway 0) (some 64)
     s.copyAt 0 (sectorOf 64) = none ∧ s.pathOpen 0 (Fin.ofNat 4 (homeDie 64)) = true ∧
     s.flying (fun f => f.target == .slice (sliceSite 64)) = 0 ∧ s.targetFenced (.gateway 0) = false ∧ s.targetFenced (.slice (sliceSite 64)) = false ∧
     (({ s with gateways := [(0, [(sectorOf 64, 5)])] } : State).copyAt 0 (sectorOf 64)).isSome = true) ∧
    ({ State.reset with invals := [⟨0, 0, 1, none⟩] } : State).invals[0]? = some ⟨0, 0, 1, none⟩ := by decide +kernel

theorem witness_Deliveries :
    (let e : RobEntry := { id := 1, src := { tile := 0, leaf := 0, bank := 0, bundle := 0, chan := some 0 }, resp := some tokS }
     let s := State.reset.onMt 0x0C0 (fun m => { m with rob := [(0, [e])] })
     (s.mt 0x0C0).rob.findSome? (fun p => (robReady p.2 1).map (fun r => (p.1, r))) = some (0, e, tokS)) ∧
    (let s := State.reset.onNotice 0 0 (fun q => { q with nqsize := 6, buffer := [1] })
     (s.noticeQ 0 0).buffer = [1] ∧ 6 ≤ (s.noticeQ 0 0).nqsize.toNat ∧
     ((s.noticeQ 0 0).nqtail.toNat + 1) % 2 ^ 6 ≠ (s.noticeQ 0 0).nqhead.toNat % 2 ^ 6 ∧ (placeOf 0).die.any s.fenced = false ∧
     s.pathShut 0 0 = false ∧ (s.passSlice 0 true).isSome = true ∧ s.ecc = []) ∧
    (let s : State := { State.reset with tinvs := [{ core := 0, range := (0, 0), waits := [] }], acking := [⟨4, 0, 0⟩], ready := [⟨0, 0, 0, tokS, none, false⟩],
                                         incs := [⟨0x0C0, 0, 0, 0, 0, 0, 0, 0, 0, 0⟩] }
     s.tinvDone { core := 0, range := (0, 0), waits := [] } = true ∧ s.acking[0]? = some ⟨4, 0, 0⟩ ∧ s.replies.find? (fun r => r.req.id == 4) = none ∧
     s.lineBad 0 = false ∧ s.pathShut 0 0 = false ∧ ((s.passSlice 0 false).bind (fun y => y.passSlice 0 true)).isSome = true ∧
     (let r : Reply := ⟨{ id := 4, src := default, body := .umlv 0 }, 0, default, 0⟩
      ({ s with replies := [r] } : State).replies.find? (fun r => r.req.id == 4) = some r ∧ s.invals.any (fun v => v.id == 4) = false ∧
      ({ s with invals := [⟨0, 0, 4, none⟩] } : State).invals.any (fun v => v.id == 4) = true) ∧ s.ready[0]? = some ⟨0, 0, 0, tokS, none, false⟩ ∧
     s.away 0 0 = false ∧ s.recordsNow 0 0 = false ∧ s.incs[0]?.isSome = true) := by decide +kernel

/-- Reset with a range of one page at address 0 of a class, owned by the first memory tile, and a request on its way to it. -/
def ownedS (ct : W64) (b : ReqBody) : State :=
  ({ flyS b (.owner 0x0C0) with parts := partS.parts } : State).onMt 0x0C0 (fun m => { m with lf := m.lf.set 0 { ownr := m.lf[0].ownr.set 0 ((1#64 <<< 63) ||| (ct <<< 61)) } })

theorem witness_OwnerEvents :
    (let s := ownedS 0 (.amo 0 1 5 0 true)
     (s.inFlight 1).map (fun f => (s.firstAt f, (s.ownerOf f).map (fun o => (o.1, o.2.1, ownrType o.2.2)))) =
       some (true, some (0x0C0, 0, 0)) ∧ s.ownerEcc 0x0C0 0 0 = false ∧
     s.usedNow 0x0C0 (s.mt 0x0C0).last.owner = false ∧
     (let u := s.uses 0x0C0 (fun y k => { y with owner := k })
      u.usedNow 0x0C0 (u.mt 0x0C0).last.owner = true) ∧
     s.pathOpen (siteDie 0) (siteDie 0x0C0) = true ∧
     (s.inFlight 1).bind (fun f => s.amoSeen f.target none f.req.src.tile f.req.src.part (f.req.serial.getD 0)) = none) ∧
    (let s := ownedS 1 (.redc 0 0)
     (s.inFlight 1).map (fun f => (s.ownerOf f).map (fun o => ownrType o.2.2)) = some (some 1) ∧
     ((s.mtLeaf 0x0C0 0).record 0).state ≠ 2 ∧ ((s.mtLeaf 0x0C0 0).record 0).timeoutDue = false ∧ ((s.mtLeaf 0x0C0 0).record 0).rcv ≠ 0xFFFF) ∧
    ({ state := 1, exp := 1 } : CounterRec).rcv + 1 = ({ state := 1, exp := 1 } : CounterRec).exp ∧
    ({ state := 1, exp := 4, timed := true, tleft := 0 } : CounterRec).timeoutDue = true := by decide +kernel

/-- The hosted state with a request on its way to the host. -/
def umS (b : ReqBody) : State := { hostedS with parts := partS.parts, flight := (flyS b (.umbra 0x0C0)).flight }

theorem witness_UmbraHostEvents :
    (let s := umS (.umen 0 0 0 [])
     (s.inFlight 1).map (fun f => s.firstAt f) = some true ∧ s.fenced 0 = false ∧ s.pathOpen 0 0 = true ∧ s.mtLeafOf 0 0x0C0 = some 0 ∧ (s.mtLeaf 0x0C0 0).keys.length < 2048 ∧
     s.usedNow 0x0C0 (s.mt 0x0C0).last.host = false ∧ s.stashed 0 0x0C0 0 = false ∧
     (let u := s.uses 0x0C0 (fun y k => { y with host := k })
      u.usedNow 0x0C0 (u.mt 0x0C0).last.host = true) ∧
     (s.mtLeaf 0x0C0 0).refuses 0 0 = false ∧ ((s.mtLeaf 0x0C0 0).keyRec 0).past 0 = false ∧
     ((s.mtLeaf 0x0C0 0).keyRec 0).taken 0 = false ∧ 0 = ((s.mtLeaf 0x0C0 0).keyRec 0).exp ∧
     ((s.mtLeaf 0x0C0 0).keyRec 0).past 0xFFFFFFFF = true ∧ ((s.mtLeaf 0x0C0 0).keyRec 0).past 3 = false) ∧
    (let f : MtLeaf := { marked := true }
     f.refuses 0 0 = true ∨ f.marked = true) ∧
    (let r : KeyRec := { key := 0, skips := [2], waiters := [{ id := 3, seq := 1, src := default }] }
     r.advance.2.map (fun w => w.seq) = some 1) ∧
    (let s : State := { (bankS (fun k => { k with umWait := some ⟨7, 1, 0⟩ })) with grants := [⟨{ tile := 0, leaf := 0, bank := 0, bundle := 0 }, 7, 1, false, none, false⟩] }
     s.grants[0]?.isSome = true ∧ s.away 0 0 = false ∧ s.recordsNow 0 0 = false ∧ s.partStopped 0 0 = false ∧ (s.bank 0 0 0).umWait.map (fun w => w.key) = some 7) ∧
    (let q := fun (t : Site) (n : Nat) => ({ id := n, src := { tile := t, leaf := 0, bank := 0, bundle := 0 }, body := .umlv 5 } : Req)
     let s := hostedS.onMt 0x0C0 (fun m => { m with refused := [(refusedKey 0 0, [q 0 2]), (refusedKey 32 0, [q 32 1])] })
     s.oldestRefused 0x0C0 (q 0 2) = false ∧
     (∀ r ∈ (s.mt 0x0C0).refused, ∀ x ∈ r.2.head?, (q 32 1).id ≤ x.id ∨ s.canRetry 0x0C0 x = false) ∧
     (s.umhostOf 32 0 5).isSome = true ∧ s.canRetry 0x0C0 (q 32 1) = true ∧
     s.retryHead 0x0C0 32 = some (q 32 1, refusedKey 32 0, []) ∧ s.usedNow 0x0C0 (s.mt 0x0C0).last.retry = false ∧
     (let u := s.uses 0x0C0 (fun y k => { y with retry := k })
      u.usedNow 0x0C0 (u.mt 0x0C0).last.retry = true)) ∧
    (let s : State := { partS with swaps := [{ part := 0, core := 0 }] }
     s.swappingOut 0 = true ∧ ({ s with parts := [(0, some {})] } : State).tilesSaved 0 = true) := by decide +kernel

theorem witness_CopyEvents :
    (let s := State.reset.onEbuf 0x0C0 0 0 (fun b => { b with v := true, cap64 := 4, queue := [⟨0, { pred := true }, false⟩],
                                                                out := { ocfg := 0x80000003, e := 4 } })
     (s.ebuf 0x0C0 0 0).out.bound = true ∧ (s.ebufHead 0x0C0 0 0).isSome = true ∧ (s.ebuf 0x0C0 0 0).out.e ≠ 0 ∧
     (s.ebuf 0x0C0 0 0).passed ≠ s.cycleAt 0x0C0 + 1 ∧
     (let u := s.onEbuf 0x0C0 0 0 (fun b => { b with passed := 1 })
      (u.ebuf 0x0C0 0 0).passed = u.cycleAt 0x0C0 + 1)) ∧
    (let s := State.reset.onTpl 0x0C0 0 0 (fun t => { t with state := 1, fired := [{ id := 1, soff := 0, doff := 0 }] })
     s.partHeld (s.mtLeaf 0x0C0 0).part = false ∧ (s.tpl 0x0C0 0 0).state = 1 ∧ (s.tpl 0x0C0 0 0).run = none ∧ (s.mt 0x0C0).running = 0 ∧ (s.tpl 0x0C0 0 0).fired ≠ []) ∧
    (let s := State.reset.onTpl 0x0C0 0 0 (fun t => { t with state := 1, run := some { id := 1, soff := 0, doff := 0 } })
     (s.nextUnit 0x0C0 0).map (fun x => x.1) = some 0) ∧
    (let f : Flying := { req := { id := 1, src := { tile := 0, leaf := 0, bank := 0, bundle := 0 }, body := .arm 0 0 }, target := .engine 0x0C0 }
     let s := { mapped { State.reset with flight := [f] } with parts := partS.parts }
     s.inFlight 1 = some f ∧ s.engineOf f = some (0x0C0, 0, 0) ∧ s.pathOpen 0 (siteDie 0x0C0) = true ∧
     (match s.routeNow 0x0C0 { s.unitReq 0x0C0 0 0 (.line 1) (.read 0) with counted := false } with
      | .goes _ => true
      | _ => false) = true) ∧
    (let c : Chunk := ⟨0x0C0, 0, 0, 1, false, some 0, 0, 7, [], false, 0⟩
     ({ State.reset with chunks := [c] } : State).chunks[0]? = some c ∧ State.reset.chunkUnder c = false ∧
     (flyS (.write 0 0) (.slice 0x0E0) (some 0)).chunkUnder { c with req := 1 } = true ∧ c.tag = some 0) := by decide +kernel

/-- Reset with a copy run in progress on a template, whose words are as given, and one page cached. -/
def copyS (w : Vector W32 20) (r : CopyRun) : State :=
  (mapped { State.reset with parts := partS.parts }).onTpl 0x0C0 0 0 (fun t => { t with state := 1, w := w, run := some r })
/-- The words of a template of one beat, a stream into output buffer 0, and one that strips scales. -/
def onceW : Vector W32 20 := Vector.replicate 20 0
def streamW : Vector W32 20 := onceW.set 0 0x80000000
def stripW : Vector W32 20 := ((onceW.set 16 0x07000005).set 17 0x00010100)

theorem witness_CopyBeats :
    (let s := copyS onceW { id := 1, soff := 0, doff := 0 }
     let t := s.tpl 0x0C0 0 0
     (s.mt 0x0C0).running = 0 ∧ (s.nextUnit 0x0C0 0).map (fun x => x.1) = some 0 ∧ (s.unitBeat 0x0C0 0 0).isSome = true ∧
     s.usedNow 0x0C0 (s.mt 0x0C0).last.beat = false ∧ s.partHeld (s.mtLeaf 0x0C0 0).part = false ∧ s.fenced (siteDie 0x0C0) = false ∧
     t.mode = 0 ∧ decide (t.walkLen 2 ≤ 0) = false ∧
     (t.output [] false).conv = false ∧ (t.output [] false).beats.length ≤ 0 ∧
     (match (s.takeId.onRun 0x0C0 0 0 (fun r => { r with remote := some s.nextId })).routeNow 0x0C0
        (s.unitReq 0x0C0 0 0 .beat (.read (t.beatAddr 2 0 0))) with
      | .goes _ => true
      | _ => false) = true) ∧
    (let s := copyS onceW { id := 1, soff := 0, doff := 0, input := [7] }
     let t := s.tpl 0x0C0 0 0
     decide (t.walkLen 2 ≤ 1) = true ∧ (t.output [7] true).beats.length = 1 ∧ t.walkLen 9 = 1 ∧
     (match s.sendBeat 0x0C0 0 0 1 false (t.beatAddr 9 0 0) 7 with
      | .sent _ => true
      | _ => false) = true) ∧
    (let s := (copyS streamW { id := 1, soff := 0, doff := 0, input := [7] }).onEbuf 0x0C0 0 0 (fun b => { b with v := true, cap64 := 4 })
     let t := s.tpl 0x0C0 0 0
     t.mode = 2 ∧ (t.output [7] true).conv = false ∧ 0 < (t.output [7] true).beats.length ∧ (s.ebufPut 0x0C0 0 t.obuf tokS).isSome = true) ∧
    (let t := (copyS stripW { id := 1, soff := 0, doff := 0, input := [1 <<< 500] }).tpl 0x0C0 0 0
     (t.output [1 <<< 500] true).conv = true) ∧
    (let s := copyS onceW { id := 1, soff := 0, doff := 0, remote := some 3 }
     ∃ r, (s.tpl 0x0C0 0 0).run = some r ∧ r.fault = none ∧ r.remote = some 3 ∧ (r.fails .page 0 1).fault = some (0x05, 0, 1) ∧
       ((r.fails .page 0 1).fails .conv 7 0).fault = some (0x09, 7, 0) ∧
       ((r.fails .page 0 1).fails .conv 7 2).fault = some (0x05, 0, 1)) ∧
    ((shapeRecord 0 0).2 = true ∧ ({ w := (shapeRecord 0 0).1 } : Template).legal (State.reset.mt 0x0C0).ebuf[(0 : Leaf)] = true ∧
     ({ w := (shapeRecord 1 0).1 } : Template).legal (State.reset.mt 0x0C0).ebuf[(0 : Leaf)] = false ∧ (shapeRecord 0 (1 <<< 511)).2 = false) ∧
    (let s := State.reset.onEbuf 0x0C0 0 0 (fun b => { b with v := true, cap64 := 4, queue := [⟨0, { pred := true }, false⟩], marked := true, preempt := some 0 })
     (s.ebufHead 0x0C0 0 0).isSome = true ∧ (s.ebuf 0x0C0 0 0).preempt = some 0 ∧ s.unitBad 0x0C0 0 0 = none ∧
     s.regBad 0x0C0 0 0x10 = false ∧ (s.ebufPut 0x0C0 0 0 tokS).isSome = true ∧
     (({ s with ecc := [.phys (s.ebuf 0x0C0 0 0 |>.slotAt 0x0C0 0)] } : State).ebufHead 0x0C0 0 0).map (fun p => p.2.bad) = some true) ∧
    (let c : W64 := 0x80000001
     ctagV c = true ∧ ctagCount c = 1 ∧ ctagCount c ≤ ctagRcv (c ||| 0x10000000000)) ∧
    partS.partRuns 0 = true ∧ State.reset.coreWritesDone = true := by
  refine ⟨by decide +kernel, by decide +kernel, by decide +kernel, by decide +kernel, ⟨_, rfl, by decide +kernel⟩, by decide +kernel,
    by decide +kernel, by decide +kernel, by decide +kernel⟩

theorem witness_LaunchEvents :
    (let s : State := { State.reset with launch := [(5, { w0 := 0xA0000000, w4 := 1, w1 := 0x100000 }), (6, { w0 := 0xB0000000 })],
                                         graphs := [(1, some { part := 0, image := 1, index := 0, sources := [(0, 0, 0)] })] }
     s.election = false ∧ (bestStart s.candidates).map (fun x => (x.slot, x.count)) = some (6, 0) ∧
     (bestStart ({ s with launch := s.launch.take 1 } : State).candidates).map (fun x => (x.slot, x.count)) = some (5, 1) ∧
     s.graphOf (s.entry 5) = some 1) ∧
    (let f : Feeder := { die := 0, tile := 0, leaf := 0, ch := 0, share := [(0, 3)], left := [(0, 3)], out := { ocfg := 0x80000003, e := 4 } }
     (f.token 64 0 0).isSome = true ∧ ({ f with left := [] }.token 64 0 0).isSome = true ∧ f.out.e ≠ 0 ∧ f.published ≠ partS.dies[f.die].cycle.toNat + 1 ∧ ({ f with published := 1 } : Feeder).published = partS.dies[f.die].cycle.toNat + 1 ∧
     partS.backWaits { part := 0, image := 0, index := 0 } = false ∧ partS.partStopped 0 0 = false ∧ partS.childless 1 = true ∧ partS.partAway 0 = false ∧
     (∀ d : DieId, partS.fenced d = true ∨ partS.portionDone d { slot := 0, graph := 1, depth := 0, feeders := [] }
       { part := 0, image := 0, index := 0 } = true) ∧ partS.invals.any (fun v => v.part == some 0) = false) ∧
    partS.partHeld 0 = false ∧ State.reset.ownersBad [] = none ∧ ((ownedS 0 (.umlv 0)).ownersBad [(0x0C0, 0)]).isSome = true ∧
    (let s : State := { State.reset with launch := [(5, { w0 := 0xA0000000, w2 := 0x80060000 }), (6, { w0 := 0x80000100 })] }
     (s.entry 5).w2.getLsbD 31 = true ∧ (s.entry 5).w2.getLsbD 15 = false ∧ ((s.entry 5).w2.extractLsb' 16 12).toNat = 6 ∧
     (s.entry 6).v = true ∧ (s.entry 6).state = 0 ∧ (s.entry 6).preds = 1 ∧ (s.entry 6).w2.getLsbD 31 = false) ∧
    (shareOf 0 10 4 3).2 = 10 ∧ ({ State.reset with election := true } : State).fenced 0 = false := by decide +kernel

theorem witness_EpisodesAndStages :
    (let s := State.reset.onElastic 0 0 (fun x => { x with reg := 1#64 <<< 63 })
     (s.elastic 0 0).v = true ∧ s.dies[(0 : DieId)].cycle.toNat % 4800 = 0 ∧
     (s.elastic 0 0).sampled ≠ s.dies[(0 : DieId)].cycle.toNat + 1 ∧ s.partAway (s.elastic 0 0).part = false) ∧
    (let x : Elastic := { reg := 2#64 <<< 56, pool := [(0, 0), (1, 0)], active := [0], above := 4 }
     x.change = none ∧ x.active.length < x.poolSize ∧ x.pool.find? (fun t => x.active.contains t.1 == false) = some (1, 0)) ∧
    (let s := (ctxS (fun c => { c with barcfg := 1 })).onCurBank (fun k => { k with arrived := some 0 })
     s.episodeDone 0 0 0 = true ∧ (s.tile 0).issued = false ∧ (s.tile 0).idled = 0) ∧
    (let s := (ctxS (fun c => { c with barcfg := 0x10000 })).onCurBank (fun k => { k with arrived := some 4 })
     s.episodeDone 0 0 4 = true ∧ (s.ctx 0 0).sysSent = false) ∧
    State.reset.tileQuiet 0 0 = true ∧
    (let s := (State.reset.onElastic 0 0 (fun x => { x with reg := 1#64 <<< 63, outs := [(0, { ocfg := 0x80000003, e := 4 })] })).onEbuf
       ((State.reset.elastic 0 0).queue 0).1 (State.reset.elasticLeaf 0 (State.reset.elastic 0 0)) ((State.reset.elastic 0 0).queue 0).2
       (fun b => { b with v := true, cap64 := 4, queue := [⟨0, { pred := true }, false⟩] })
     (s.ebufHead ((State.reset.elastic 0 0).queue 0).1 (State.reset.elasticLeaf 0 (State.reset.elastic 0 0)) ((State.reset.elastic 0 0).queue 0).2).isSome = true ∧
     (s.elastic 0 0).v = true ∧ ((s.elastic 0 0).outs.get 0 {}).e ≠ 0 ∧ s.leastFilled [(0, 0)] = some (0, 0)) := by decide +kernel

theorem witness_SwapEvents :
    (let w : Swap := { part := 0, core := 0 }
     let s : State := { partS with swaps := [w] }
     s.swapOf 0 = some w ∧ w.reached 0 = false ∧ (s.part 0).map (fun p => p.dies) = some [0]) ∧
    (let w : Swap := { part := 0, core := 0, coming := 1 }
     let p : Partition := { tiles := [(0, 0)] }
     let s : State := { (coreS (fun c => { c with busy := .swap 0, swstat := 1 })) with parts := [(0, some p)], swaps := [w] }
     s.part 0 = some p ∧ w.reached 0 = false ∧ w.coming.getLsbD 0 = true ∧ p.dies.all ({ w with dies := 1 } : Swap).reached = true ∧
     p.dies.all w.reached = false ∧ ((s.onSwap 0 (fun _ => { w with dies := 1 })).swapDecided 0 w p).cores[(0 : CoreId)].busy = .swap 0 ∧
     p.tiles.all (fun t => !(s.ctx t.1 t.2).saved) = true) ∧
    ((inS 1).ctx 0 0).inp[(0 : Fin 8)].bound = true ∧ ((inS 1).ctx 0 0).respmask.getLsbD 0 = true ∧
    ((slotS {}).ctx 0 0).respmask.getLsbD 0 = false ∧ (slotS {}).ingress 0 0 0 = true ∧
    (State.reset.ctx 0 0).inp[(0 : Fin 8)].bound = false ∧
    (let s := bankS (fun k => { k with pendRaw := some [(0, 1)] })
     (s.restoreFault 0 0 0).isSome = true ∧ (s.bank 0 0 0).faulted = false ∧ State.reset.restoreFault 0 0 0 = none) ∧
    (let w : Swap := { part := 0, core := 0, restore := true, dies := 1 }
     let s : State := ({ partS with swaps := [w] } : State).onCtx 0 0 (fun c => { c with saved := true })
     s.restoreFor 0 0 = some w ∧ s.stashOf 0 0 0 = none ∧ s.recordBad 0 0 none = none ∧ s.areaBad 0 (s.ctx 0 0).areaBase = none) ∧
    (let w : Swap := { part := 0, core := 0, restore := true, dies := 1, memory := some 0 }
     let s : State := ({ partS with swaps := [w], host := { partS.host with fence := 1 } } : State).onCtx 0 0 (fun c => { c with saved := true })
     s.restoreFor 0 0 = some w ∧ (s.part 0).isSome = true ∧ (placeOf 0).die.any s.fenced = true) ∧
    partS.imageShut 0 0 = false ∧
    (({ partS with host := { partS.host with fence := 4 }, parts := [(0, some { tiles := [(siteAt 3 0 0, 0)] })] } : State).imageShut 0 0) = true ∧
    (coreS (fun c => { c with swstat := 1 })).cores[(0 : CoreId)].swstat.getLsbD 0 = true ∧
    (State.reset.onTile 0 (fun x => { x with saving := some 0 })).atRest 0 0 = true := by decide +kernel

theorem witness_HostRegisterEvents : (coreS (fun c => { c with timer := 0 })).cores[(0 : CoreId)].timer = State.reset.dies[coreDie 0].cycle ∧
    State.reset.barsUp = true ∧ State.reset.election = false ∧ State.reset.host.busy = false ∧ State.reset.launches = [] ∧
    (3#32).getLsbD (coreDie 4).val = true ∧ State.reset.fenced 1 = false ∧ State.reset.host.attBusy = false := by decide +kernel

theorem witness_ModuleEvents : State.reset.dies[(0 : DieId)].boot = 0 ∧ firmwareGood 0 State.reset.host.flash = false ∧
    State.reset.bar4Fenced 0 64 = false ∧
    ({ State.reset with links := State.reset.links.set 0 { up := true } } : State).linkUp 0 = true ∧
    ({ up := true, replays := 8 } : LinkPort).replays = 8 ∧ ({ up := true } : LinkPort).held = [] ∧
    State.reset.barsUp = true ∧ ({ State.reset.host with busy := true, target := 3 } : HostRegs).busy = true := by decide +kernel

theorem witness_FabricHops :
    (let o : OutItem := { item := itemS .none, waits := [], dies := 0, due := 0 }
     let s := (ctxS (fun c => { c with outp := c.outp.set 0 { outq := [o] } })).onBox 0 (fun b => { b with words := b.words.set 0 0x5C00 })
     let s2 := (ctxS (fun c => { c with outp := c.outp.set 0 { outq := [o] } })).onBox 0 (fun b => { b with words := b.words.set 56 0x5C00 })
     let s3 := s.onBox 0 (fun b => { b with gcfg := 1 })
     s.fenced (siteDie 0) = false ∧ (s.sourceHead 0 56 0).isSome = true ∧ (s.box 0).outlet 0 56 0 = some (0, none) ∧
     s.boxHolds 0 (0 :: boxWide) 0 = none ∧ (s.box 0).drops 0 0 = false ∧ (s3.box 0).drops 0 0 = true ∧
     s.trackRoom 0 0 none = true ∧ s.trackTurn 0 0 none = true ∧
     (s2.box 0).outlet 0 56 0 = some (56, none) ∧ (s2.box 0).drops 56 0 = false ∧ isCompute 0 = true ∧
     s2.outletFree 0 56 none = true) ∧
    trackEnd (siteAt 0 31 0) 26 = .bridge (siteAt 1 0 0) ∧ State.reset.fenced 1 = false ∧
    (let p : ClassPkt := { tok := { tokS with side := { tokS.side with aux := 0x300000 } }, part := 0, graph := 0 }
     let s := (State.reset.onTile 0 (fun x => { x with clsout := [p] })).onBox 0 (fun b => { b with cls0 := b.cls0.set 3 8 })
     let s2 := (State.reset.onTile 0 (fun x => { x with clsout := [p] })).onBox 0 (fun b => { b with cls0 := b.cls0.set 3 12 })
     (s.classHead 0 4 0).isSome = true ∧ s.boxHolds 0 ((0x40 + p.cls.toNat) :: boxWide) p.part = none ∧
     (s.box 0).exit 0 p.cls = some 0 ∧ (s2.box 0).exit 0 p.cls = some 4 ∧ (s.box 0).gcfg = 0 ∧
     (classNeighbour 0 0).isSome = true ∧ s.classRoom 0 0 0 = true ∧ p.tok.side.kind ≠ 3 ∧
     (s.ctx 0 0).clsbuf.length + ((s.box 0).clsbuf.get 8 []).length < 16) ∧
    (let p : ClassPkt := { tok := { tokS with side := { tokS.side with aux := 0x300000 } }, part := 0, graph := 0 }
     let s := State.reset.onBox 0 (fun b => { b with clsbuf := b.clsbuf.set 8 [p] })
     (s.box 0).clsbuf.get 8 [] = [p] ∧ p.due ≤ s.cycleAt 0 ∧ (s.ctx 0 0).clsbuf.length < 16 ∧
     (s.ctx 0 0).saved = false ∧ p.tok.side.kind ≠ 3) := by decide +kernel
end Sys2Proof.Tests
end

section
/-!
SUPPORT. The invariant of a run at reset (R388, R395; log 3).
-/
namespace Sys2Proof.Machine

/-- Reset meets the invariant: every byte memory is empty and every word address is 0. -/
theorem State.inv_reset : State.reset.Inv := by
  refine ⟨⟨rfl, rfl, fun k => ?_, fun _ => rfl, fun _ l => ?_, fun e he => nomatch he⟩, fun k => ?_⟩
  · rw [State.reset_cores]; rfl
  · show (({} : MemTile).lf[l]).store.wf = true
    revert l; decide
  · rw [State.reset_cores]; rfl

/-- The turns that are named to come next are no part of the invariant. -/
theorem State.Inv.schedule {s : State} (h : s.Inv) (agenda : List Turn) (solo : Option Turn) :
    ({ s with agenda := agenda, solo := solo } : State).Inv := h.congr rfl rfl rfl rfl rfl rfl

/-- A word placed in a local memory keeps it canonical. -/
theorem State.Inv.withCoreWord {s : State} (h : s.Inv) (w : W32) : (s.withCoreWord w).Inv := by
  have ⟨⟨_, _, hlocal, _, _, _⟩, hcores⟩ := h
  exact (h.onCore 0 (Memory.wf_writeW32 (hlocal 0) _ _) (hcores 0)).schedule _ _

/-- Settles O6: reset meets the invariant, and a word placed in a local memory keeps it. -/
theorem resetInvariant : Obligations.ResetInvariant :=
  ⟨State.inv_reset, fun w => State.inv_reset.withCoreWord w⟩

end Sys2Proof.Machine
end

section
/-!
SUPPORT. Pending writes: what a bundle leaves pending, where a due write lands, and when two writes clash (R62-R66).
-/
namespace Sys2Proof.Machine

/-! ## What issue leaves pending -/

/-- What an op leaves depends on those of its writes only that are not discarded. -/
theorem commit_live (s : State) (k : Slot) {p q : Plan} (hw : p.live = q.live) (ha : p.act = q.act) (hf : p.flow = q.flow) :
    s.commit [(k, p)] = s.commit [(k, q)] := by
  have hfl : flowOf [(k, p)] = flowOf [(k, q)] := by
    cases hk : (k == Slot.s) <;> simp [flowOf, hk, hf]
  simp only [State.commit, hfl, List.foldl_cons, List.foldl_nil, List.flatMap_cons, List.flatMap_nil, hw, ha]

/-- Outside a loop and inside the leaf, the bundle of an op that only writes leaves its writes pending, one step on (R62,
R64). -/
theorem commit_writes (s : State) (k : Slot) (ws : List (Nat × PVal)) (hl : s.curBank.loops = [])
    (hpc : s.curBank.pc + 1 < 0x1000) :
    s.commit [(k, { writes := ws })] = s.onCurBank (fun b => { b with
      pending := (b.pending ++ ({ writes := ws } : Plan).live.map (fun w => PWrite.mk w.1 w.2 k)).map
        (fun w => { w with rem := w.rem - 1 }),
      step := b.step + 1, pc := b.pc + 1, wait := 0, checked := false }) := by
  have hfl : flowOf [(k, ({ writes := ws } : Plan))] = .seq := by
    cases hk : (k == Slot.s) <;> simp [flowOf, hk]
  simp only [State.commit, hfl, List.foldl_cons, List.foldl_nil, List.flatMap_cons, List.flatMap_nil, List.append_nil, id]
  rw [if_neg]
  · apply State.onCurBank_congr
    simp [Bank.next, Bank.advance, hl, loopBack]
  · simp [Bank.next, Bank.advance, hl, loopBack]
    omega

/-! ## Landing -/

/-- A bank of a context after a change of it, where the bank's number is no numeral. -/
theorem LeafCtx.bank_onBank (c : LeafCtx) (b : BankId) (f : Bank → Bank) : (c.onBank b f).banks[b] = f c.banks[b] :=
  c.banks_onBank b f

/-- A context whose bank is changed to what it is stays as it is. -/
theorem LeafCtx.onBank_eq_self (c : LeafCtx) (b : BankId) {f : Bank → Bank} (h : f c.banks[b] = c.banks[b]) :
    c.onBank b f = c := by
  have hset : c.banks.set b c.banks[b] = c.banks := Vector.set_getElem_self ..
  simp only [LeafCtx.onBank, h, hset]

/-- A context whose bank has one pending write that is due: the write lands. -/
theorem LeafCtx.settle_due (c : LeafCtx) (b : BankId) (w : PWrite) (hr : w.rem = 0) (hw : w.stays = false)
    (hp : c.banks[b].pending = [w]) :
    c.settle b = (c.land b w.val).onBank b (fun k => { k with pending := [] }) := by
  simp only [LeafCtx.settle, hp, LeafCtx.landAll, hr, if_true, List.filter_cons, hw, Bool.false_eq_true, if_false,
    List.filter_nil]

/-- A context whose bank has one pending write that is not due: nothing lands (R62). -/
theorem LeafCtx.settle_later (c : LeafCtx) (b : BankId) (w : PWrite) (hr : w.rem ≠ 0) (hp : c.banks[b].pending = [w]) :
    c.settle b = c := by
  have hs : w.stays = true := by cases hv : w.val <;> simp [PWrite.stays, hv, hr]
  simp only [LeafCtx.settle, hp, LeafCtx.landAll, hr, if_false, List.filter_cons, hs, if_true, List.filter_nil]
  exact c.onBank_eq_self b (by rw [← hp])

/-- The bank with `w` as its only pending write. -/
def LeafCtx.withPending (c : LeafCtx) (b : BankId) (w : PWrite) : LeafCtx := c.onBank b (fun k => { k with pending := [w] })

/-- The bank where its only pending write has landed, when that is a change `f` of the bank. -/
theorem LeafCtx.bank_settle_withPending (c : LeafCtx) (b : BankId) (w : PWrite) (f : Bank → Bank) (hr : w.rem = 0)
    (hw : w.stays = false) (hland : ∀ x : LeafCtx, x.land b w.val = x.onBank b f) :
    ((c.withPending b w).settle b).banks[b] = { f { c.banks[b] with pending := [w] } with pending := [] } := by
  have hp : (c.withPending b w).banks[b].pending = [w] := by rw [LeafCtx.withPending, LeafCtx.bank_onBank]
  rw [LeafCtx.settle_due _ _ _ hr hw hp, LeafCtx.bank_onBank, hland, LeafCtx.bank_onBank, LeafCtx.withPending,
    LeafCtx.bank_onBank]

/-- A scalar after a write of one (R65, R78). -/
theorem Bank.rs_ws (k : Bank) (r q : BitVec 5) (x : W32) : (k.ws r x).rs q = if q = r ∧ r ≠ 0 then x else k.rs q := by
  unfold Bank.ws
  by_cases hr : r = 0
  · rw [if_pos hr, if_neg (fun h => h.2 hr)]
  rw [if_neg hr]
  by_cases hq : q = r
  · subst hq
    rw [if_pos ⟨rfl, hr⟩, Bank.rs, if_neg hr]
    exact Vector.getElem_set_self _
  · have hne : r.toNat ≠ q.toNat := fun e => hq (BitVec.eq_of_toNat_eq e.symm)
    rw [if_neg (fun h => hq h.1), Bank.rs, Bank.rs]
    split
    · rfl
    · exact Vector.getElem_set_ne (by omega) _ hne

/-- A vector after a write of one. -/
theorem Bank.rv_wv (k : Bank) (d e : BitVec 4) (y : Vec) : (k.wv d y).rv e = if e = d then y else k.rv e := by
  by_cases h : e = d
  · subst h; simp [Bank.wv, Bank.rv]
  · have hne : d.toNat ≠ e.toNat := fun h' => h (BitVec.eq_of_toNat_eq h'.symm)
    simp [Bank.wv, Bank.rv, h, Vector.getElem_set_ne _ _ hne]

/-- A predicate after a write of it (R65, R78). -/
theorem Bank.rp_wp (k : Bank) (p : BitVec 3) (f : Bool) : (k.wp p f).rp p = if p = 0 then true else f := by
  unfold Bank.wp Bank.rp
  split
  · rfl
  · exact Vector.getElem_set_self _

/-- A write of a scalar leaves the vectors and the predicates. -/
theorem Bank.ws_other (k : Bank) (r : BitVec 5) (x : W32) : (k.ws r x).v = k.v ∧ (k.ws r x).p = k.p := by
  unfold Bank.ws; split <;> exact ⟨rfl, rfl⟩

/-- A write of a predicate leaves the scalars. -/
theorem Bank.wp_s (k : Bank) (p : BitVec 3) (f : Bool) : (k.wp p f).s = k.s := by
  unfold Bank.wp; split <;> rfl

/-- A landing leaves the other banks and the channels (R62). -/
theorem LeafCtx.land_others (c : LeafCtx) {b e : BankId} (v : PVal) (he : e ≠ b) :
    (c.land b v).banks[e] = c.banks[e] ∧ (c.land b v).inp = c.inp ∧ (c.land b v).outp = c.outp := by
  have hbank : ∀ f, (c.onBank b f).banks[e] = c.banks[e] ∧ (c.onBank b f).inp = c.inp ∧ (c.onBank b f).outp = c.outp :=
    fun f => ⟨c.banks_onBank_ne b e f he, rfl, rfl⟩
  cases v with
  | sreg n x =>
    simp only [LeafCtx.land]
    split
    · exact ⟨rfl, rfl, rfl⟩
    · exact hbank _
  | scalar | pred | vec | cstep | batt => exact hbank _
  | mask | grant => exact ⟨rfl, rfl, rfl⟩

/-- So do all landings of a list. -/
theorem LeafCtx.landAll_others {b e : BankId} (he : e ≠ b) (ws : List PWrite) (c : LeafCtx) :
    (c.landAll b ws).banks[e] = c.banks[e] ∧ (c.landAll b ws).inp = c.inp ∧ (c.landAll b ws).outp = c.outp := by
  induction ws generalizing c with
  | nil => exact ⟨rfl, rfl, rfl⟩
  | cons w r ih =>
    simp only [LeafCtx.landAll]
    split
    · obtain ⟨hb, hi, ho⟩ := c.land_others w.val he
      obtain ⟨hb', hi', ho'⟩ := ih (c.land b w.val)
      exact ⟨hb'.trans hb, hi'.trans hi, ho'.trans ho⟩
    · exact ih c

/-- What the landings of a bank leave of its context. -/
theorem LeafCtx.settle_others (c : LeafCtx) {b e : BankId} (he : e ≠ b) :
    (c.settle b).banks[e] = c.banks[e] ∧ (c.settle b).inp = c.inp ∧ (c.settle b).outp = c.outp := by
  obtain ⟨hb, hi, ho⟩ := LeafCtx.landAll_others he c.banks[b].pending c
  exact ⟨(LeafCtx.banks_onBank_ne _ _ _ _ he).trans hb, hi, ho⟩

/-- The context of the issuing bank once its due writes have landed. -/
theorem State.curCtx_settle (s : State) : s.settle.curCtx = s.curCtx.settle s.cur.bank := by
  simp only [State.curCtx, State.curLeaf_settle]
  exact s.ctx_onCtx _ _ _

/-! ## Clashes (R65, R66) -/

/-- A pending write goes to a register at least. -/
theorem length_le_landings (ws : List (Nat × PVal)) : ws.length ≤ (landings ws).length := by
  induction ws with
  | nil => exact le_rfl
  | cons w r ih =>
    have hd : 1 ≤ w.2.dests.length := by cases hv : w.2 <;> simp [PVal.dests]
    have he : landings (w :: r) = w.2.dests.map (fun q => (w.1, q)) ++ landings r := rfl
    simp only [he, List.length_append, List.length_map, List.length_cons]
    omega

/-- A landing of a list is that of one of its writes. -/
theorem mem_landings {ws : List (Nat × PVal)} {x : Nat × RegKey} :
    x ∈ landings ws ↔ ∃ w ∈ ws, w.1 = x.1 ∧ x.2 ∈ w.2.dests := by
  obtain ⟨n, q⟩ := x
  simp only [landings, List.mem_flatMap, List.mem_map, Prod.mk.injEq]
  constructor
  · rintro ⟨w, hw, r, hr, rfl, rfl⟩; exact ⟨w, hw, rfl, hr⟩
  · rintro ⟨w, hw, rfl, hq⟩; exact ⟨w, hw, q, hq, rfl, rfl⟩

@[simp] theorem sameReg_self (q : RegKey) : sameReg q q = true := by simp [sameReg]

/-- The landings of the pending writes of a bank. -/
def oldLandings (pending : List PWrite) : List (Nat × RegKey) := landings (pending.map (fun w => (w.rem, w.val)))

/-- A scalar register as the place of a landing (R357). -/
def scalarKey (d : BitVec 5) : RegKey := (1, d.toNat)

/-- WCLASH looks at those writes of an op only that are not discarded. -/
theorem wclash_live (pending : List PWrite) (k : Slot) {p q : Plan} (h : p.live = q.live) :
    wclash pending [(k, p)] = wclash pending [(k, q)] := by
  simp only [wclash, List.flatMap_cons, List.flatMap_nil, List.findSome?_cons, List.findSome?_nil, h]

/-- WCLASH of a bundle that writes one scalar other than s0. -/
theorem wclash_scalar (pending : List PWrite) (k : Slot) (n : Nat) {d : BitVec 5} (x : W32) (hd : d ≠ 0) :
    wclash pending [(k, { writes := [(n, .scalar d x)] })] =
      if 1 ≤ clashCount (oldLandings pending) (n, scalarKey d) then some (k, regCode (scalarKey d))
      else if 24 ≤ (oldLandings pending).length then some (.s, 0xFFF) else none := by
  have hp : ({ writes := [(n, .scalar d x)] } : Plan).live = [(n, .scalar d x)] := by simpa [Plan.live, PVal.discarded] using hd
  have hl : landings [(n, PVal.scalar d x)] = [(n, scalarKey d)] := rfl
  have hc : clashCount [(n, scalarKey d)] (n, scalarKey d) = 1 := by simp [clashCount]
  simp only [wclash, hp, hl, List.flatMap_cons, List.flatMap_nil, List.append_nil, List.findSome?_cons, List.findSome?_nil,
    List.filter_cons, List.filter_nil, ← show oldLandings pending = landings (pending.map (fun w => (w.rem, w.val))) from rfl,
    hc, decide_eq_true_eq, List.length_singleton]
  by_cases hbad : 1 ≤ clashCount (oldLandings pending) (n, scalarKey d)
  · simp [hbad, minCode]
  · simp [hbad, minCode]

/-- The register code of a scalar (R363). -/
theorem regCode_scalar (d : BitVec 5) : regCode (scalarKey d) = 0x100 ||| d.setWidth 32 := by
  revert d; decide

/-- A pending write of the register at the step of another clashes with it (R65). -/
theorem one_le_clashCount {pending : List PWrite} {n : Nat} {d : BitVec 5} {x : W32} {j : Slot}
    (h : ⟨n, .scalar d x, j⟩ ∈ pending) : 1 ≤ clashCount (oldLandings pending) (n, scalarKey d) := by
  have hmem : (n, scalarKey d) ∈ oldLandings pending :=
    mem_landings.2 ⟨_, List.mem_map_of_mem h, rfl, List.mem_singleton.2 rfl⟩
  exact List.length_pos_of_mem (List.mem_filter.2 ⟨hmem, by simp⟩)

/-- Nothing clashes at a step at which no pending write lands. -/
theorem clashCount_eq_zero {pending : List PWrite} {n : Nat} (q : RegKey) (h : ∀ w ∈ pending, w.rem ≠ n) :
    clashCount (oldLandings pending) (n, q) = 0 := by
  simp only [clashCount, List.length_eq_zero_iff, List.filter_eq_nil_iff, oldLandings]
  intro x hx
  obtain ⟨u, hu, hn, -⟩ := mem_landings.1 hx
  obtain ⟨w, hw, rfl⟩ := List.mem_map.1 hu
  simp [← hn, h w hw]

/-- An op whose writes clash faults WCLASH (R65, R66). -/
theorem issue_wclash {s : State} {k : Slot} {p : Plan} {c : Slot × W32} (hb : p.brange = none)
    (hw : wclash s.curBank.pending [(k, { writes := p.writes })] = some c) :
    s.issue [(k, p)] = s.faultHere c.1 (faultOf .wclash c.2) := by
  rw [← wclash_writes] at hw
  simp [State.issue, hb, hw]

/-- The same for an op whose predicate holds. -/
theorem issueOne_wclash {s : State} {k : Slot} {g : Pg} {on off : State → Plan} {c : Slot × W32}
    (he : s.settle.curBank.enabled g = true) (hb : (on s.settle).brange = none)
    (hw : wclash s.settle.curBank.pending [(k, { writes := (on s.settle).writes })] = some c) :
    issueOne (guarded k g on off) s = .next (s.settle.faultHere c.1 (faultOf .wclash c.2)) := by
  simp only [issueOne, guarded, he, if_true, Host.Outcome.next.injEq]
  exact issue_wclash (p := { on s.settle with reads := ⟨2, g.pr.toNat⟩ :: (on s.settle).reads }) hb hw

/-- The clash of an op that writes one scalar register with a pending write (R65, R363). -/
theorem planScalar_clash {s : State} {lat : Nat} {f : W32 → W32 → W32} {g : Pg} {d a b : BitVec 5} {v : W32} {j : Slot}
    (he : s.settle.curBank.enabled g = true) (hd : d ≠ 0) (hm : ⟨lat, .scalar d v, j⟩ ∈ s.settle.curBank.pending) :
    issueOne (planScalar lat f g d a b) s = .next (s.settle.faultHere .s (faultOf .wclash (0x100 ||| d.setWidth 32))) := by
  rw [← regCode_scalar]
  exact issueOne_wclash (c := (.s, _)) he rfl ((wclash_scalar _ _ _ _ hd).trans (if_pos (one_le_clashCount hm)))

/-- A twenty-fifth pending write faults WCLASH with 0xFFF (R66). -/
theorem planScalar_full {s : State} {lat : Nat} {f : W32 → W32 → W32} {g : Pg} {d a b : BitVec 5}
    (he : s.settle.curBank.enabled g = true) (hd : d ≠ 0) (hlen : 24 ≤ s.settle.curBank.pending.length)
    (hrem : ∀ w ∈ s.settle.curBank.pending, w.rem ≠ lat) :
    issueOne (planScalar lat f g d a b) s = .next (s.settle.faultHere .s (faultOf .wclash 0xFFF)) := by
  have hold : 24 ≤ (oldLandings s.settle.curBank.pending).length :=
    hlen.trans ((List.length_map _).symm.le.trans (length_le_landings _))
  refine issueOne_wclash (c := (.s, 0xFFF)) he rfl ((wclash_scalar _ _ _ _ hd).trans ?_)
  rw [if_neg (by rw [clashCount_eq_zero _ hrem]; decide), if_pos hold]

/-- An op that writes s0 takes effect with nothing left pending (R65). -/
theorem planScalar_zero {s : State} {lat : Nat} {f : W32 → W32 → W32} {g : Pg} {a b : BitVec 5}
    (he : s.settle.curBank.enabled g = true) (hc : s.settle.clear .s (⟨2, g.pr.toNat⟩ :: readsS [a, b]) [] = true) :
    issueOne (planScalar lat f g 0 a b) s = .next (s.settle.commit [(.s, {})]) := by
  obtain ⟨hw, hx⟩ := clear_iff.1 hc
  let q : Plan := { writes := [(lat, .scalar 0 (f (s.settle.curBank.rs a) (s.settle.curBank.rs b)))] }
  have hlive : q.live = ({} : Plan).live := by simp [q, Plan.live, PVal.discarded]
  have hclash : wclash s.settle.curBank.pending [(.s, { writes := q.writes })] = none :=
    (wclash_live _ _ hlive).trans hw
  exact (issueOne_commit (q := q) he (clear_iff.2 ⟨hclash, hx⟩) rfl rfl rfl rfl rfl rfl rfl rfl).trans
    (congrArg _ (commit_live _ _ hlive rfl rfl))

/-! ## The obligation -/

/-- Settles O8: issue leaves what `commit_writes` says pending, the landings are those of `LeafCtx.settle`, and the clashes
those of `wclash_scalar`. -/
theorem pendingWrites : Obligations.PendingWrites := by
  refine ⟨⟨?_, ?_, ?_⟩, ?_⟩
  · intro s k n v b hl hpc
    constructor <;> intro hv <;> rw [commit_writes s k _ hl hpc] <;> simp [Plan.live, hv]
  · intro c b r q d e p n x y f j one after
    have hs := c.bank_settle_withPending b ⟨0, .scalar r x, j⟩ (fun k => k.ws r x) rfl rfl (fun _ => rfl)
    have hv := c.bank_settle_withPending b ⟨0, .vec d y, j⟩ (fun k => k.wv d y) rfl rfl (fun _ => rfl)
    have hp := c.bank_settle_withPending b ⟨0, .pred p f, j⟩ (fun k => k.wp p f) rfl rfl (fun _ => rfl)
    have hone : ∀ w, after w = ((c.withPending b w).settle b).banks[b] := fun _ => rfl
    rw [hone, hone, hone, hs, hv, hp]
    refine ⟨rfl, Bank.rs_ws _ _ _ _, (Bank.ws_other _ _ _).1, (Bank.ws_other _ _ _).2, Bank.rv_wv _ _ _ _, rfl,
      Bank.rp_wp _ _ _, Bank.wp_s _ _ _, ?_⟩
    exact LeafCtx.settle_later _ _ _ (Nat.succ_ne_zero n) (by rw [LeafCtx.bank_onBank])
  · intro s b hb
    obtain ⟨hbank, hin, hout⟩ := s.curCtx.settle_others hb
    refine ⟨?_, rfl, ?_, ?_, ?_⟩
    · show (s.settle.ctx s.cur.tile s.curLeaf).banks[b] = _
      rw [State.settle, State.onCurCtx, State.ctx_onCtx]
      exact hbank
    · simp [State.settle, State.onCurCtx, State.curTile, Tile.onCtx]
    · rw [State.curCtx_settle, hin]
    · rw [State.curCtx_settle, hout]
  · intro s g d a b v j w s0 k faults he hd
    exact ⟨planScalar_clash he hd, planScalar_clash he hd, planScalar_full he hd, fun hc _ => planScalar_zero he hc⟩

end Sys2Proof.Machine
end

section
/-!
SUPPORT. The turn of a bank (R42, R44, R59): every tile op has one plan, in the slot of its word, and a bundle whose other
ops are `nop` issues as its one op by itself.
-/
namespace Sys2Proof.Machine

/-! ## Plans and slots -/

/-- The slot of an op's plan is the slot of its word; a control-core instruction and an event have no plan. -/
theorem planOf_slot (i : Instr) (s : State) :
    (planOf i).map (fun p => (p s).1) = i.slot.filter (fun k => k != .core) := by
  cases i <;> rfl

/-- A tile op by itself is the issue of its plan. -/
theorem exec_planOf {i : Instr} {p : State → SlotPlan} (h : planOf i = some p) (s : State) : exec i s = issueOne p s := by
  cases i <;> cases h <;> rfl

/-- What a decoder of a slot reads: nothing, `nop`, or an op of the slot. -/
def Reads (k : Slot) (o : Option Instr) : Prop := ∀ i, o = some i → i = .nop ∨ i.slot = some k

section
variable {k : Slot} {i : Instr}

/-- A word that does not decode reads as nothing. -/
theorem reads_none : Reads k none := fun _ e => nomatch e

/-- `nop` stands in every slot (R54). -/
theorem reads_nop : Reads k (some .nop) := fun _ e => .inl (Option.some.inj e).symm

/-- An op of the slot. -/
theorem reads_some (h : i.slot = some k) : Reads k (some i) := fun _ e => .inr (Option.some.inj e ▸ h)

/-- A check of reserved bits. -/
theorem reads_whenB {c : Bool} : Reads k (whenB c i) ↔ (c = true → Reads k (some i)) := by
  cases c <;> simp [whenB, reads_none]

/-- A field that has to be a register or a handle. -/
theorem reads_bind {α : Type} {o : Option α} {f : α → Option Instr} :
    Reads k (o >>= f) ↔ ∀ x, o = some x → Reads k (f x) := by
  cases o <;> simp [reads_none]

/-- A choice by a field of the word. -/
theorem reads_ite {c : Prop} [Decidable c] {x y : Option Instr} :
    Reads k (if c then x else y) ↔ (c → Reads k x) ∧ (¬c → Reads k y) := by
  split <;> simp [*]

/-- The check of the operands accepts nothing else. -/
theorem Reads.accept {o : Option Instr} (h : Reads k o) : Reads k (accept o) := by
  cases o with
  | none => exact reads_none
  | some j => exact reads_whenB.2 fun _ => h

end

/-- The alu ops are S ops. -/
theorem slot_decodeAlu (w : W32) : (decodeAlu w).slot = some .s := by
  unfold decodeAlu; dsimp only; split <;> rfl

/-- The predicate logic ops are S ops. -/
theorem slot_decodePlog (w : W32) : (decodePlog w).slot = some .s := by
  unfold decodePlog; dsimp only; split <;> rfl

/-- The divide ops are S ops. -/
theorem slot_decodeDiv (w : W32) : (decodeDiv w).slot = some .s := by
  unfold decodeDiv; dsimp only; split <;> rfl

/-- The S decoder reads ops of the S slot. -/
theorem reads_decodeSRaw (w : W32) : Reads .s (decodeSRaw w) := by
  unfold decodeSRaw
  dsimp only
  split <;> simp (disch := exact id rfl) only [reads_some (slot_decodeAlu w),
    reads_some (slot_decodePlog w), reads_some (slot_decodeDiv w), reads_none, reads_some, reads_whenB, reads_bind, reads_ite,
    implies_true, and_self]

/-- The V decoder reads ops of the V slot. -/
theorem reads_decodeVRaw (w : W32) : Reads .v (decodeVRaw w) := by
  unfold decodeVRaw
  dsimp only
  split <;> simp (disch := exact id rfl) only [vvv, vv, reads_none, reads_nop, reads_some, reads_bind, reads_ite,
    implies_true, and_self]

/-- The M decoder reads ops of the M slot. -/
theorem reads_decodeMRaw (w : W32) : Reads .m (decodeMRaw w) := by
  unfold decodeMRaw
  dsimp only
  split <;> simp (disch := exact id rfl) only [reads_none, reads_nop, reads_some, reads_whenB, reads_bind, reads_ite,
    implies_true, and_self]

/-- The C decoder reads ops of the C slot. -/
theorem reads_decodeCRaw (w : W32) : Reads .c (decodeCRaw w) := by
  unfold decodeCRaw
  dsimp only
  split <;> simp (disch := exact id rfl) only [reads_none, reads_nop, reads_some, reads_whenB, reads_bind, reads_ite,
    implies_true, and_self]

/-- A word in a slot reads as `nop` or as an op of the slot. -/
theorem reads_decodeSlot (k : Slot) (w : W32) : Reads k (decodeSlot k w) := by
  cases k with
  | s => exact (reads_decodeSRaw w).accept
  | v => exact (reads_decodeVRaw w).accept
  | m => exact (reads_decodeMRaw w).accept
  | c => exact (reads_decodeCRaw w).accept
  | core => exact reads_none

/-- The op of a word in a slot has a plan, in that slot unless it is `nop`. -/
theorem planOf_decodeSlot {k : Slot} {w : W32} {i : Instr} (h : decodeSlot k w = some i) :
    ∃ p, planOf i = some p ∧ (i ≠ .nop → ∀ s, (p s).1 = k) := by
  obtain rfl | hi := reads_decodeSlot k w i h
  · exact ⟨planNop, rfl, fun h => absurd rfl h⟩
  have hk : k ≠ .core := by rintro rfl; exact absurd h (by simp [decodeSlot])
  have hs : ∀ s, (planOf i).map (fun p => (p s).1) = some k := fun s => by
    rw [planOf_slot, hi, Option.filter_some, if_pos (by simpa using hk)]
  cases hp : planOf i with
  | none => exact absurd (hs State.reset) (by simp [hp])
  | some p => exact ⟨p, rfl, fun _ s => by simpa [hp] using hs s⟩

/-! ## The op of a bundle that is not `nop` -/

/-- A `nop` in a bundle asks for nothing: the bundle issues as without it, when its flow is not that of the `nop`. -/
theorem issue_nop (s : State) (l r : List SlotPlan) (hf : flowOf (l ++ planNop s :: r) = flowOf (l ++ r)) :
    s.issue (l ++ planNop s :: r) = s.issue (l ++ r) := by
  have hl : (planNop s).2.live = [] := rfl
  have hw : wclash s.curBank.pending (l ++ planNop s :: r) = wclash s.curBank.pending (l ++ r) := by
    simp [wclash, hl, landings, minCode]
  have hp : s.phase1 (l ++ planNop s :: r) = s.phase1 (l ++ r) := by
    simp [State.phase1, planNop, State.parity]
  have hact : (l ++ planNop s :: r).foldl (fun x q => q.2.act x) s = (l ++ r).foldl (fun x q => q.2.act x) s := by
    simp [planNop]
  have hnew : (l ++ planNop s :: r).flatMap (fun q => q.2.live.map (fun w => PWrite.mk w.1 w.2 q.1)) =
      (l ++ r).flatMap (fun q => q.2.live.map (fun w => PWrite.mk w.1 w.2 q.1)) := by
    simp [hl]
  have hc : s.commit (l ++ planNop s :: r) = s.commit (l ++ r) := by
    simp only [State.commit, hf, hact, hnew]
  simp only [State.issue, hw, hp, hc]
  simp [planNop]

/-- A bundle without an S op other than `nop` goes on to the next. -/
theorem flowOf_seq {s : State} {ps : List SlotPlan} (h : ∀ q ∈ ps, q = planNop s ∨ q.1 ≠ .s) : flowOf ps = .seq := by
  unfold flowOf
  split
  next q hq =>
    obtain rfl | hs := h q (List.mem_of_find?_eq_some hq)
    · rfl
    · exact absurd (by simpa using List.find?_some hq) hs
  next => rfl

/-- The `nop`s after an op do not change how it issues. -/
theorem issue_nops_right (s : State) (q : SlotPlan) (n : Nat) : s.issue (q :: List.replicate n (planNop s)) = s.issue [q] := by
  induction n with
  | zero => rfl
  | succ n ih =>
    refine (issue_nop s [q] (List.replicate n (planNop s)) ?_).trans ih
    by_cases hq : q.1 = .s
    · simp [flowOf, hq]
    · have hseq : ∀ r : List SlotPlan, (∀ x ∈ r, x = planNop s) → flowOf (q :: r) = .seq := fun r hr =>
        flowOf_seq (s := s) fun x hx => (List.mem_cons.1 hx).elim (fun e => .inr (e ▸ hq)) (fun hx => .inl (hr x hx))
      exact (hseq (List.replicate (n + 1) (planNop s)) fun x hx => List.eq_of_mem_replicate hx).trans
        (hseq (List.replicate n (planNop s)) fun x hx => List.eq_of_mem_replicate hx).symm

/-- The `nop`s before ops of other slots than S do not change how they issue. -/
theorem issue_nops_left (s : State) {r : List SlotPlan} (hr : ∀ q ∈ r, q = planNop s ∨ q.1 ≠ .s) (m : Nat) :
    s.issue (List.replicate m (planNop s) ++ r) = s.issue r := by
  induction m with
  | zero => rfl
  | succ m ih =>
    have hall : ∀ q ∈ List.replicate m (planNop s) ++ r, q = planNop s ∨ q.1 ≠ .s := fun q hq =>
      (List.mem_append.1 hq).elim (fun hq => .inl (List.eq_of_mem_replicate hq)) (hr q)
    refine (issue_nop s [] (List.replicate m (planNop s) ++ r) ?_).trans ih
    exact (flowOf_seq (s := s) fun q hq => (List.mem_cons.1 hq).elim .inl (hall q)).trans (flowOf_seq hall).symm

/-- Where a bundle has one op at most that is not `nop`, that op stands in one slot and `nop` in the others. -/
theorem decodeSole_slot {w : Bundle} {i : Instr} (h : decodeSole w = some i) :
    ∃ k ∈ tileSlots, decodeSlot k (bundleWord w k) = some i ∧
      ∀ j ∈ tileSlots, j ≠ k → decodeSlot j (bundleWord w j) = some .nop := by
  simp only [decodeSole] at h
  rw [show [Slot.s, .v, .m, .c] = tileSlots from rfl] at h
  split at h
  · cases h
  rw [List.filter_map] at h
  split at h
  next hnil =>
    obtain rfl : Instr.nop = i := Option.some.inj h
    have hall : ∀ j ∈ tileSlots, decodeSlot j (bundleWord w j) = some .nop := by
      simpa [List.filter_eq_nil_iff] using hnil
    exact ⟨.s, by decide, hall _ (by decide), fun j hj _ => hall j hj⟩
  next o hone =>
    obtain ⟨k, hk, rfl⟩ := List.map_eq_singleton_iff.1 hone
    have hmem : ∀ j, j ∈ tileSlots ∧ decodeSlot j (bundleWord w j) ≠ some .nop ↔ j = k := by
      intro j
      have := congrArg (j ∈ ·) hk
      simpa using this
    exact ⟨k, ((hmem k).2 rfl).1, h, fun j hj hjk => by_contra fun hn => hjk ((hmem j).1 ⟨hj, hn⟩)⟩
  next => cases h

/-- The plans of a bundle with one op at most that is not `nop` issue as the plan of that op. -/
theorem issue_sole {w : Bundle} {i : Instr} (h : decodeSole w = some i) :
    ∃ p, planOf i = some p ∧ ∀ s : State, s.issue (bundlePlans w s) = s.issue [p s] := by
  obtain ⟨k, hk, hi, hothers⟩ := decodeSole_slot h
  obtain ⟨p, hp, hslot⟩ := planOf_decodeSlot hi
  have hnop : planOf .nop = some planNop := rfl
  have haround : k ≠ .s → ∀ (s : State) (m n : Nat),
      s.issue (List.replicate m (planNop s) ++ p s :: List.replicate n (planNop s)) = s.issue [p s] := by
    intro hk s m n
    refine (issue_nops_left s (fun q hq => ?_) m).trans (issue_nops_right s (p s) n)
    obtain rfl | hq := List.mem_cons.1 hq
    · by_cases hn : i = .nop
      · subst hn; cases hp; exact .inl rfl
      · exact .inr (by rwa [hslot hn s])
    · exact .inl (List.eq_of_mem_replicate hq)
  refine ⟨p, hp, fun s => ?_⟩
  have hplans : bundlePlans w s = tileSlots.map (fun j => if j = k then p s else planNop s) := by
    unfold bundlePlans
    rw [← List.filterMap_eq_map]
    refine List.filterMap_congr fun j hj => ?_
    by_cases hjk : j = k
    · subst hjk; simp [hi, hp]
    · simp [hothers j hj hjk, hnop, hjk]
  rw [hplans]
  cases k with
  | s => exact issue_nops_right s (p s) 3
  | v => exact haround (by decide) s 1 2
  | m => exact haround (by decide) s 2 1
  | c => exact haround (by decide) s 3 0
  | core => exact absurd hk (by decide)

/-! ## The obligation -/

/-- The turn of a bank that can issue is the issue of its bundle. -/
theorem bankTurn_issues {s : State} {t : Site} {b : BankId} (hspent : (s.tile t).hasSpent b = false)
    (howes : ((s.tile t).ctx[(s.tile t).running]).banks[b].owesStep = false) (hissues : s.tileIssues t = true)
    (hmay : s.mayIssue t b = true) (hready : s.firstReady t b = true) :
    s.bankTurn t b = (s.toIssue t b).issueBundle := by
  have hfree := hissues
  simp only [State.tileIssues, Bool.and_eq_true, Bool.not_eq_true'] at hfree
  obtain ⟨⟨⟨⟨⟨⟨⟨⟨⟨hcompute, hfenced⟩, -⟩, -⟩, hsaved⟩, hheld⟩, -⟩, -⟩, -⟩, -⟩ := hfree
  simp only [State.bankTurn, hcompute, hfenced, hspent, hsaved, hheld, howes, hissues, hmay, hready, Bool.not_true,
    Bool.or_self, Bool.and_self, Bool.false_eq_true, if_false, if_true]

/-- A bundle inside the leaf whose four words decode issues the plans of its ops. -/
theorem issueBundle_plans {s : State} (hpc : s.settle.curBank.pc < 0x1000) (hill : illSlot s.settle.curBundle = none) :
    s.issueBundle = s.settle.issue (bundlePlans s.settle.curBundle s.settle) := by
  simp only [State.issueBundle, if_neg (Nat.not_le.2 hpc), hill]

/-- Every word of a bundle with a sole op decodes. -/
theorem illSlot_sole {w : Bundle} {i : Instr} (h : decodeSole w = some i) : illSlot w = none := by
  obtain ⟨k, -, hi, hothers⟩ := decodeSole_slot h
  simp only [illSlot, List.find?_eq_none]
  intro j hj
  by_cases hjk : j = k
  · subst hjk; simp [hi]
  · simp [hothers j hj hjk]

/-- Settles O4: the turn that is taken runs the bundle, the word or the event; a bundle with a sole op issues as that op by
`issue_sole`. -/
theorem stepRuns : Obligations.StepRuns := by
  intro s u turn rest t b k i taken x held htaken
  have hstep : step s = u.turn turn := by
    obtain ⟨ha, rfl⟩ | ⟨ha, hs, rfl⟩ := htaken
    · simp only [step, ha]
    · simp only [step, ha, hs]
  refine ⟨?_, ?_, ?_⟩
  · rintro rfl hclk hspent hsaved howes hissues hmay hready hpc
    have hturn : step s = .next ((u.toIssue t b).issueBundle) := by
      rw [hstep, ← bankTurn_issues hspent howes hissues hmay hready]
      simp only [State.turn, hclk, if_true]
    refine ⟨fun hill => ?_, fun hsole => ?_⟩
    · rw [hturn, issueBundle_plans hpc hill]
    · obtain ⟨p, hp, hissue⟩ := issue_sole hsole
      rw [hturn, issueBundle_plans hpc (illSlot_sole hsole), hissue, exec_planOf hp, issueOne]
  · rintro rfl hclk hruns hecc hdec
    rw [hstep]
    simp only [State.turn, hclk, State.coreTurn, hruns, hecc, hdec, Bool.not_true, Bool.false_eq_true, if_false, if_true]
  · rintro rfl hev hwf hadm htime
    simp [hstep, State.turn, State.eventTurn, hev, hwf, hadm, htime]

end Sys2Proof.Machine
end

section
/-!
SUPPORT. The invariant of a run, part by part: what it asks of a tile, a memory tile, a control core, the host's registers and
a stashed leaf, and what an update of one of them has to keep (R3, R388).
-/
namespace Sys2Proof.Machine
variable {s t : State}

/-! ## What the invariant asks of the parts -/

/-- What the invariant asks of a tile. -/
def Tile.Sound (x : Tile) : Prop := x.scratch.wf = true

/-- What the invariant asks of a leaf of a memory tile. -/
def MtLeaf.Sound (f : MtLeaf) : Prop := f.store.wf = true

/-- What the invariant asks of a memory tile. -/
def MemTile.Sound (m : MemTile) : Prop := ∀ l : Leaf, m.lf[l].Sound

/-- What the invariant asks of the host's registers. -/
def HostRegs.Sound (x : HostRegs) : Prop := x.flash.wf = true

/-- What the invariant asks of one control core. -/
def Core.Sound (c : Core) : Prop := c.lmem.wf = true ∧ c.aligned = true

/-- What the invariant asks of a stashed leaf. -/
def Stash.Sound (x : Stash) : Prop := x.mtLeaf.Sound

theorem State.Inv.mem (h : s.Inv) : s.mem.wf = true := by
  obtain ⟨⟨hmem, -⟩, -⟩ := h
  exact hmem

theorem State.Inv.flash (h : s.Inv) : s.host.Sound := by
  obtain ⟨⟨-, hflash, -⟩, -⟩ := h
  exact hflash

theorem State.Inv.core (h : s.Inv) (k : CoreId) : s.cores[k].Sound := by
  obtain ⟨⟨-, -, hlocal, -⟩, hcores⟩ := h
  exact ⟨hlocal k, hcores k⟩

theorem State.Inv.stash (h : s.Inv) : ∀ x ∈ s.stash, x.Sound := by
  obtain ⟨⟨-, -, -, -, -, hstash⟩, -⟩ := h
  exact hstash

/-! ## Outcomes: what a part of a step gives meets the invariant -/

/-- Where the machine goes on, it goes on in a state that meets the invariant. -/
structure Sound (o : Host.Outcome State Fault Refusal) : Prop where
  inv : ∀ t : State, o = .next t → t.Inv

/-- Where a part of a step gives a state, that state meets the invariant. -/
def Keeps (o : Option State) : Prop := ∀ ⦃u : State⦄, o = some u → u.Inv

/-- Where a write of a register gives a state, that state meets the invariant. -/
def KeepsOk (o : Except Cause State) : Prop := ∀ u : State, o = .ok u → u.Inv

/-- What becomes of a request leaves a state that meets the invariant. -/
def Way.Sound : Way → Prop
  | .fault s _ _ => s.Inv
  | .waits => True
  | .goes s => s.Inv

/-- Where a fetch goes on, it goes on in a state that meets the invariant. -/
def Fetch.Sound : Fetch → Prop
  | .now _ s => s.Inv
  | .host _ s => s.Inv
  | .waits => True
  | .fault _ => True

/-- The effect of a plan keeps the invariant. -/
def Plan.Sound (p : Plan) : Prop := ∀ s : State, s.Inv → (p.act s).Inv

theorem State.Inv.next (h : s.Inv) : Sound (.next s) := ⟨fun _ e => by cases e; exact h⟩

theorem State.Inv.keeps (h : s.Inv) : Keeps (some s) := fun _ e => Option.some.inj e ▸ h

theorem State.Inv.keepsOk (h : s.Inv) : KeepsOk (.ok s) := fun _ e => Except.ok.inj e ▸ h

theorem State.Inv.goes (h : s.Inv) : (Way.goes s).Sound := h

theorem State.Inv.wayFault (h : s.Inv) {q : Req} {f : XFault} : (Way.fault s q f).Sound := h

theorem keeps_none : Keeps none := fun _ e => nomatch e

theorem keepsOk_error {c : Cause} : KeepsOk (.error c) := fun _ e => nomatch e

theorem way_waits : Way.waits.Sound := trivial

theorem Way.Sound.of_goes {w : Way} (h : w.Sound) (e : w = .goes s) : s.Inv := by
  subst e
  exact h

theorem State.Inv.getD (h : s.Inv) {o : Option State} (ho : Keeps o) : (o.getD s).Inv := by
  cases o with
  | none => exact h
  | some u => exact ho rfl

theorem keeps_map {α : Type} {o : Option α} {f : α → State} (hf : ∀ a, o = some a → (f a).Inv) : Keeps (o.map f) := by
  cases o with
  | none => exact keeps_none
  | some a => exact (hf a rfl).keeps

theorem State.Inv.ofPair {α : Type} {p : State × α} {a : α} (h : p.1.Inv) (e : p = (s, a)) : s.Inv := by
  subst e
  exact h

/-! A choice between two sound ones is sound: the models' chains of conditions are walked with these. -/

theorem State.Inv.ite {c : Prop} [Decidable c] (h : s.Inv) (ht : t.Inv) : (if c then s else t).Inv := by
  split <;> assumption

theorem Sound.ite {c : Prop} [Decidable c] {x y : Host.Outcome State Fault Refusal} (hx : Sound x) (hy : Sound y) :
    Sound (if c then x else y) := by
  split <;> assumption

theorem KeepsOk.ite {c : Prop} [Decidable c] {x y : Except Cause State} (hx : KeepsOk x) (hy : KeepsOk y) :
    KeepsOk (if c then x else y) := by
  split <;> assumption

/-! ## Updates of the state -/

/-- An update of fields that the invariant does not look at. -/
theorem State.Inv.update (h : s.Inv) {agenda solo choices cur nextId boxes dies flight releases reports acks invals
    acking replies filters ecc gateways slices amos grants probes ready chunks incs tinvs graphs parts launch pool launches orders
    election swaps links module domain powered} :
    ({ agenda := agenda, solo := solo, choices := choices, cur := cur, nextId := nextId, tiles := s.tiles, boxes := boxes,
       memTiles := s.memTiles, dies := dies, cores := s.cores, mem := s.mem, flight := flight, releases := releases,
       reports := reports, acks := acks, invals := invals, acking := acking, replies := replies, filters := filters, ecc := ecc,
       gateways := gateways, slices := slices, amos := amos, grants := grants, probes := probes, ready := ready,
       chunks := chunks, incs := incs, tinvs := tinvs, graphs := graphs, parts := parts, launch := launch, pool := pool,
       launches := launches, orders := orders, election := election, swaps := swaps, stash := s.stash, links := links,
       module := module, domain := domain, host := s.host, powered := powered } : State).Inv :=
  h.congr rfl rfl rfl rfl rfl rfl

theorem State.Inv.withMemEcc (h : s.Inv) {m : Memory} {e : List Ecc} (hm : m.wf = true) :
    ({ s with mem := m, ecc := e } : State).Inv := (h.withMem hm).update

theorem State.Inv.foldlOf {α : Type} (h : s.Inv) {f : State → α → State} {l : List α}
    (hf : ∀ (x : State) (a : α), x.Inv → (f x a).Inv) : (l.foldl f s).Inv := State.Inv.foldl hf l s h

/-! ## Tiles -/

/-- An update of fields of a tile that the invariant does not look at. -/
theorem Tile.Sound.update {x : Tile} (h : x.Sound) {ctx running writer prog latches cura curb msq msrun halves cards cact port
    clsout issued started spent idled left sent saving savedAt} :
    ({ ctx := ctx, running := running, scratch := x.scratch, writer := writer, prog := prog, latches := latches, cura := cura,
       curb := curb, msq := msq, msrun := msrun, halves := halves, cards := cards, cact := cact, port := port, clsout := clsout,
       issued := issued, started := started, spent := spent, idled := idled, left := left, sent := sent, saving := saving,
       savedAt := savedAt } : Tile).Sound := h

theorem State.Inv.setTile (h : s.Inv) {u : Site} {x : Tile} (hx : x.Sound) : (s.setTile u x).Inv :=
  h.onTile u (f := fun _ => x) hx

theorem State.Inv.onTileS (h : s.Inv) {u : Site} {f : Tile → Tile} (hf : ∀ x : Tile, x.Sound → (f x).Sound) :
    (s.onTile u f).Inv := h.onTile u (hf _ (h.scratch u))

/-- A tile may change in everything but its scratch. -/
theorem State.Inv.onTileOf (h : s.Inv) {u : Site} {f : Tile → Tile}
    (hf : ∀ x, (f x).scratch = x.scratch := by intro; rfl) : (s.onTile u f).Inv := h.onTile u (by rw [hf]; exact h.scratch u)

theorem State.Inv.onCurTileS (h : s.Inv) {f : Tile → Tile} (hf : ∀ x : Tile, x.Sound → (f x).Sound) :
    (s.onCurTile f).Inv := h.onTileS hf

theorem State.Inv.onCurTileOf (h : s.Inv) {f : Tile → Tile} (hf : ∀ x, (f x).scratch = x.scratch := by intro; rfl) :
    (s.onCurTile f).Inv := h.onTileOf hf

/-! ## Memory tiles and their leaves -/

/-- An update of fields of a leaf that the invariant does not look at. -/
theorem MtLeaf.Sound.update {f : MtLeaf} (h : f.Sound) {ownr umhcfg umhost umblim redto domwin ctag ctagHeld toMark tpl keys
    lanes records spare pages part occupied marked} :
    ({ ownr := ownr, umhcfg := umhcfg, umhost := umhost, umblim := umblim, redto := redto, domwin := domwin, ctag := ctag,
       ctagHeld := ctagHeld, toMark := toMark, tpl := tpl, keys := keys, store := f.store, lanes := lanes, records := records,
       spare := spare, pages := pages, part := part, occupied := occupied, marked := marked } : MtLeaf).Sound := h

theorem MemTile.Sound.setLeaf {m : MemTile} (h : m.Sound) {l : Leaf} {f : MtLeaf} (hf : f.Sound) :
    ({ m with lf := m.lf.set l f } : MemTile).Sound := fun k => by
  by_cases e : l = k
  · subst e; simpa using hf
  · have hk : l.val ≠ k.val := fun x => e (Fin.ext x)
    simpa [Vector.getElem_set, hk] using h k

theorem MemTile.Sound.mapLeaves {m n : MemTile} (h : m.Sound) {f : MtLeaf → MtLeaf} (hn : n.lf = m.lf.map f)
    (hf : ∀ x : MtLeaf, x.Sound → (f x).Sound) : n.Sound := fun l => by
  simpa only [hn, Fin.getElem_fin, Vector.getElem_map] using hf _ (h l)

theorem State.Inv.onMtS (h : s.Inv) {u : Site} {f : MemTile → MemTile} (hf : ∀ x : MemTile, x.Sound → (f x).Sound) :
    (s.onMt u f).Inv := h.onMt u (hf _ (h.store u))

/-- A memory tile may change in everything but its leaves. -/
theorem State.Inv.onMtOf (h : s.Inv) {u : Site} {f : MemTile → MemTile} (hf : ∀ x, (f x).lf = x.lf := by intro; rfl) :
    (s.onMt u f).Inv := h.onMtLeaves u (hf _)

theorem State.Inv.onMtLeafS (h : s.Inv) {mt : Site} {l : Leaf} {f : MtLeaf → MtLeaf}
    (hf : ∀ x : MtLeaf, x.Sound → (f x).Sound) : (s.onMtLeaf mt l f).Inv :=
  h.onMtS fun _ hm => hm.setLeaf (hf _ (hm l))

/-- A leaf of a memory tile may change in everything but its owned bytes. -/
theorem State.Inv.onMtLeafOf (h : s.Inv) {mt : Site} {l : Leaf} {f : MtLeaf → MtLeaf}
    (hf : ∀ x, (f x).store = x.store := by intro; rfl) : (s.onMtLeaf mt l f).Inv :=
  h.onMtLeafS fun x hx => by rw [MtLeaf.Sound, hf]; exact hx

/-! ## Control cores (R388, R392-R396) -/

/-- An update of fields of a core that the invariant does not look at. -/
theorem Core.Sound.update {c : Core} (h : c.Sound) {x ecause eaddr inExc evpend evmask timer msg swstat started halted busy
    records} :
    ({ x := x, pc := c.pc, evec := c.evec, epc := c.epc, ecause := ecause, eaddr := eaddr, inExc := inExc, evpend := evpend,
       evmask := evmask, timer := timer, msg := msg, swstat := swstat, lmem := c.lmem, started := started, halted := halted,
       busy := busy, records := records } : Core).Sound := h

theorem Core.sound_iff {c : Core} :
    c.Sound ↔ c.lmem.wf = true ∧ (c.pc &&& 3 == 0) = true ∧ (c.evec &&& 3 == 0) = true ∧ (c.epc &&& 3 == 0) = true := by
  simp only [Core.Sound, Core.aligned, Bool.and_eq_true, and_assoc]

theorem aligned_mask (v : BitVec 18) : (v &&& 0x3FFFC &&& 3 == 0) = true := by
  rw [BitVec.and_assoc]
  simp

theorem aligned_iff (v : BitVec 18) : (v &&& 3 == 0) = true ↔ v.extractLsb' 0 2 = 0 := by
  rw [beq_iff_eq, ← BitVec.toNat_inj, ← BitVec.toNat_inj]
  simp [Nat.and_two_pow_sub_one_eq_mod v.toNat 2]

/-- A jump that does not fault goes to a word (R392). -/
theorem aligned_of_jumpFault {a : W64} (h : jumpFault a = none) : (a.setWidth 18 &&& 3 == 0) = true := by
  have h0 : a.extractLsb' 0 2 = 0 := by
    by_contra hn
    simp only [jumpFault, ne_eq, hn, not_false_eq_true, if_true, reduceCtorEq] at h
  rw [aligned_iff, ← h0]
  ext i hi
  simp
  omega

theorem Core.Sound.exception {c : Core} (h : c.Sound) {cause : Cause} {a : W64} : (c.exception cause a).Sound := by
  obtain ⟨hm, ha⟩ := h
  exact ⟨hm, Core.aligned_exception ha cause a⟩

theorem Core.Sound.eret {c : Core} (h : c.Sound) : c.eret.Sound := by
  obtain ⟨hm, -, hevec, hepc⟩ := Core.sound_iff.1 h
  exact Core.sound_iff.2 ⟨hm, hepc, hevec, hepc⟩

theorem Core.Sound.wx {c : Core} (h : c.Sound) {r : BitVec 5} {v : W64} : (c.wx r v).Sound := by
  simpa only [Core.Sound, Core.wx_lmem, Core.wx_aligned] using h

theorem Core.Sound.done {c : Core} (h : c.Sound) : c.done.Sound := by
  unfold Core.done
  split
  · exact h.exception
  · obtain ⟨hm, hpc, hevec, hepc⟩ := Core.sound_iff.1 h
    exact Core.sound_iff.2 ⟨hm, Core.aligned_next hpc, hevec, hepc⟩

theorem Core.Sound.raise {c : Core} (h : c.Sound) {bit : Nat} : (c.raise bit).Sound := h

theorem Core.Sound.withLmem {c : Core} (h : c.Sound) {m : Memory} (hm : m.wf = true) : ({ c with lmem := m } : Core).Sound := by
  obtain ⟨-, ha⟩ := h
  exact ⟨hm, ha⟩

theorem State.Inv.onCoreOf (h : s.Inv) {k : CoreId} {f : Core → Core} (hf : ∀ c : Core, c.Sound → (f c).Sound) :
    (s.onCore k f).Inv := by
  obtain ⟨hm, ha⟩ := hf _ (h.core k)
  exact h.onCore k hm ha

/-! ## The host's registers -/

theorem State.Inv.onHostS (h : s.Inv) {f : HostRegs → HostRegs} (hf : ∀ x : HostRegs, x.Sound → (f x).Sound) :
    (s.onHost f).Inv := h.onHost (hf _ h.flash)

/-- The host's registers may change in everything but the flash. -/
theorem State.Inv.onHostOf (h : s.Inv) {f : HostRegs → HostRegs} (hf : ∀ x, (f x).flash = x.flash := by intro; rfl) :
    (s.onHost f).Inv := h.onHost (by rw [hf]; exact h.flash)

/-! ## Tables and stashed leaves -/

/-- A property of every record of a table stays when each record is changed in its place by something that keeps it. -/
theorem FMap.get_map_of {α : Type} {P : α → Prop} {g : Nat × α → Nat × α} (hk : ∀ q, (g q).1 = q.1)
    (hg : ∀ q, P q.2 → P (g q).2) {m : FMap α} {k : Nat} {d : α} (h : P (m.get k d)) : P (FMap.get (m.map g) k d) := by
  induction m with
  | nil => exact h
  | cons q r ih =>
    by_cases e : q.1 = k
    · have h0 : P q.2 := by simpa [FMap.get, e] using h
      simpa [FMap.get, hk, e] using hg q h0
    · have h0 : P (FMap.get r k d) := by simpa [FMap.get, e] using h
      simpa [FMap.get, hk, e] using ih h0

/-- The tables of tiles and of memory tiles may change record by record, each record by something that keeps it sound. -/
theorem State.Inv.mapTables (h : s.Inv) {f : Nat × Tile → Nat × Tile} {g : Nat × MemTile → Nat × MemTile}
    (ht : t.tiles = s.tiles.map f) (hr : t.memTiles = s.memTiles.map g) (hm : t.mem = s.mem)
    (hh : t.host.flash = s.host.flash) (hc : t.cores = s.cores) (hs : t.stash = s.stash) (hf : ∀ q, (f q).1 = q.1)
    (hf' : ∀ q, q.2.Sound → (f q).2.Sound) (hg : ∀ q, (g q).1 = q.1) (hg' : ∀ q, q.2.Sound → (g q).2.Sound) : t.Inv := by
  obtain ⟨⟨hmem, hflash, hlocal, htile, hmt, hstash⟩, hcores⟩ := h
  refine ⟨⟨hm ▸ hmem, hh ▸ hflash, hc ▸ hlocal, fun u => ?_, fun u => ?_, hs ▸ hstash⟩, hc ▸ hcores⟩
  · rw [State.tile, ht]
    exact FMap.get_map_of (P := Tile.Sound) hf hf' (htile u)
  · have hu : MemTile.Sound (t.mt u) := by
      rw [State.mt, hr]
      exact FMap.get_map_of (P := MemTile.Sound) hg hg' (hmt u)
    exact hu

/-- The stashed leaves may be others, each of them sound. -/
theorem State.Inv.withStash (h : s.Inv) (hs : ∀ x ∈ t.stash, x.Sound) (hm : t.mem = s.mem := by rfl)
    (hf : t.host.flash = s.host.flash := by rfl) (hc : t.cores = s.cores := by rfl) (ht : t.tiles = s.tiles := by rfl)
    (hr : t.memTiles = s.memTiles := by rfl) : t.Inv := by
  have h' : ({ s with stash := t.stash } : State).Inv := by
    obtain ⟨⟨hmem, hflash, hlocal, htile, hmt, -⟩, hcores⟩ := h
    exact ⟨⟨hmem, hflash, hlocal, htile, hmt, hs⟩, hcores⟩
  exact h'.congr hm hf hc ht hr rfl

theorem State.Inv.mapStash (h : s.Inv) {f : Stash → Stash} (hf : ∀ x : Stash, x.Sound → (f x).Sound) :
    ({ s with stash := s.stash.map f } : State).Inv :=
  h.withStash fun _ he => by
    obtain ⟨x, hx, rfl⟩ := List.mem_map.mp he
    exact hf x (h.stash x hx)

theorem State.Inv.onStashS (h : s.Inv) {part : BitVec 6} {u : Site} {l : Leaf} {f : Stash → Stash}
    (hf : ∀ x : Stash, x.Sound → (f x).Sound) : (s.onStash part u l f).Inv :=
  h.mapStash fun x hx => by
    split
    · exact hf x hx
    · exact hx

/-- A stashed leaf may change in everything but its owned bytes. -/
theorem State.Inv.onStashOf (h : s.Inv) {part : BitVec 6} {u : Site} {l : Leaf} {f : Stash → Stash}
    (hf : ∀ x, (f x).mtLeaf.store = x.mtLeaf.store := by intro; rfl) : (s.onStash part u l f).Inv :=
  h.onStashS fun x hx => by rw [Stash.Sound, MtLeaf.Sound, hf]; exact hx

end Sys2Proof.Machine
end

section
/-!
SUPPORT. What a compute tile does keeps the invariant: the issue of a bundle, and the events of its banks and units.
-/
namespace Sys2Proof.Machine
set_option Elab.async false
variable {s : State} {t mt : Site} {l : Leaf} {b : BankId} {d : DieId} {k : CoreId} {q : Req} {part : BitVec 6} {i : Nat}

/-! ## Faults, exceptions and the issue of a bundle (R59-R66, R88, R101, R394) -/

theorem State.Inv.settle (h : s.Inv) : s.settle.Inv := h.onCurCtx _

theorem State.Inv.takeFault (h : s.Inv) {fltb : W32} {f : FaultInfo} : (s.takeFault t l b fltb f).Inv :=
  (h.onBank _ _ _ _).notify _ _ _

theorem State.Inv.faultHere (h : s.Inv) {slot : Slot} {f : FaultInfo} : (s.faultHere slot f).Inv := h.takeFault

theorem State.Inv.ccException (h : s.Inv) {cause : Cause} {eaddr : W64} : (s.ccException k cause eaddr).Inv :=
  h.onCoreOf fun _ hc => hc.exception

theorem State.Inv.pastEnd (h : s.Inv) : s.pastEnd.Inv := h.takeFault

theorem State.Inv.commit (h : s.Inv) {ps : List SlotPlan} (hp : ∀ q ∈ ps, q.2.Sound) : (s.commit ps).Inv := by
  have h1 : (ps.foldl (fun x q => q.2.act x) s).Inv := List.foldlRecOn ps _ h fun x hx q hq => hp q hq x hx
  unfold State.commit
  extract_lets s1 new fl pc s2 here
  have h2 : s2.Inv := h1.onCurBank _
  clear_value fl s2
  split
  · exact h2.takeFault
  · exact h2
  · exact h2
  · exact .ite h2.pastEnd h2

theorem State.Inv.issue (h : s.Inv) {ps : List SlotPlan} (hp : ∀ q ∈ ps, q.2.Sound) : (s.issue ps).Inv := by
  unfold State.issue
  split
  · exact h.faultHere
  split
  · exact h.faultHere
  split
  · exact h.faultHere
  split
  · exact h.onCurBank _
  split
  · exact h.faultHere
  · exact h.commit hp

theorem Plan.Sound.of_id {p : Plan} (ha : p.act = id) : p.Sound := fun s h => by rw [ha]; exact h

theorem nothing_sound : (nothing s).Sound := .of_id rfl

/-- A plan under a predicate keeps the invariant where both sides do. -/
theorem guarded_sound {k : Slot} {g : Pg} {on off : State → Plan} (hon : (on s).Sound) (hoff : (off s).Sound) :
    (guarded k g on off s).2.Sound := by
  simp only [guarded]
  split
  · exact hon
  · exact hoff

theorem issueOne_inv (h : s.Inv) {p : State → SlotPlan} (hp : ∀ s, (p s).2.Sound) : Sound (issueOne p s) :=
  (h.settle.issue (by simpa using hp _)).next

/-! ## Scratch (R225) -/

theorem Tile.Sound.putScratch {x : Tile} (h : x.Sound) {a n v : Nat} : (x.putScratch a n v).Sound :=
  Memory.wf_writeNat h a v n

theorem Tile.Sound.storeScratch {x : Tile} (h : x.Sound) {a n v : Nat} : (x.storeScratch l b a n v).Sound :=
  Memory.wf_writeNat h a v n

theorem State.Inv.maskNext (h : s.Inv) {m : W16} : (s.maskNext m).Inv := h.onCurCtx _

/-! ## Channels (R148-R171) -/

theorem State.Inv.advanceIn (h : s.Inv) {ch : BitVec 3} {n : Nat} : (s.advanceIn t l ch n).Inv := by
  dsimp only [State.advanceIn]
  split
  · exact h.onCtx _ _ _
  · exact (h.onCtx _ _ _).update

theorem State.Inv.markEdges (h : s.Inv) : (s.markEdges t l).Inv := by
  unfold State.markEdges
  split
  · exact h
  · exact h.foldlOf fun _ _ hx => hx.onMtOf

/-! ## The memory port of a tile (R228) -/

theorem State.Inv.toPort (h : s.Inv) {src : Sender} {body : ReqBody} {waits : List Nat} {dies : BitVec 4} :
    (s.toPort src body waits dies).Inv := h.onTileOf.takeId

theorem State.Inv.accessAfter (h : s.Inv) {src : Sender} {body : ReqBody} {read : Bool} {waits : List Nat}
    {dies : BitVec 4} : (s.accessAfter src body read waits dies).Inv := (h.toPort.onBank _ _ _ _).update

theorem State.Inv.access (h : s.Inv) {src : Sender} {body : ReqBody} {read : Bool} : (s.access src body read).Inv :=
  h.accessAfter

theorem State.Inv.countQ (h : s.Inv) {ch : BitVec 3} : (s.countQ ch).Inv := h.onCurCtx _

theorem State.Inv.countRn (h : s.Inv) {ch : BitVec 3} : (s.countRn ch).Inv := h.onCurCtx _

/-! ## The Carder (R214) -/

theorem State.Inv.cactCycle (h : s.Inv) : (s.cactCycle t).Inv := by
  dsimp only [State.cactCycle]
  split
  · exact h
  split
  · exact h.onTileOf
  · exact h

/-! ## The matrix sequencer (R190-R206) -/

theorem Tile.Sound.startHead {x : Tile} (h : x.Sound) {cycle : Nat} : (Tile.startHead x cycle).Sound := by
  dsimp only [Tile.startHead]
  split
  · exact h
  split
  · exact h
  · exact h

theorem MsEntry.sound_cycle {x : Tile} (h : x.Sound) {e : MsEntry} {n : Nat} : (e.cycle x n).1.Sound := by
  unfold MsEntry.cycle
  cases e.op with
  | msav d addr =>
    dsimp only
    split
    · exact h.putScratch
    · exact h
  | mlat | mrst | mma | mzero => dsimp only; split <;> exact h
  | mlatc | mdrain => exact h

theorem Tile.Sound.msCycle {x : Tile} (h : x.Sound) {cycle : Nat} : (x.msCycle cycle).Sound :=
  List.foldlRecOn _ _ h fun _ hy _ _ => MsEntry.sound_cycle hy

theorem Tile.Sound.endEntry {x : Tile} (h : x.Sound) {e : MsEntry} : (Tile.endEntry x e).Sound := by
  dsimp only [Tile.endEntry]
  split
  · exact h
  · exact h
  · exact h

theorem State.Inv.runFault (h : s.Inv) {e : MsEntry} {f : FaultInfo} : (s.runFault t e f).Inv := h.onTileOf.update

theorem State.Inv.msCycle (h : s.Inv) : (s.msCycle t).Inv := by
  dsimp only [State.msCycle]
  refine (h.foldlOf (fun _ _ hx => ?_)).onTileS (fun _ hx => hx.msCycle)
  split
  · exact hx
  split
  · exact hx.runFault
  · exact hx

theorem State.Inv.mlatcTake (h : s.Inv) {e : MsEntry} {ch : Fin 8} {ty : BitVec 4} : (s.mlatcTake t e ch ty).Inv := by
  dsimp only [State.mlatcTake]
  split
  · exact h.runFault
  · exact h.onTileOf.advanceIn

theorem State.Inv.drainSteer {u : State} {e : MsEntry} {hd n : Fin 8} (h : s.Inv)
    (he : s.drainSteer t e hd = some (u, n)) : u.Inv := by
  simp only [State.drainSteer] at he
  split at he
  · cases he
  · cases he; exact h.advanceIn

theorem State.Inv.drainSelect (h : s.Inv) {e : MsEntry} {n : Fin 8} : (s.drainSelect t e n).Inv := by
  dsimp only [State.drainSelect]
  split
  · exact h.runFault
  · exact h.onTileOf

theorem State.Inv.drainPublish (h : s.Inv) {e : MsEntry} {d : Fin 2} {u : BitVec 4} {sh : Bool} {n : Fin 8} :
    (s.drainPublish t e d u sh n).Inv := by
  dsimp only [State.drainPublish]
  split
  · exact h.runFault
  split
  · exact h
  · exact (h.onCtx _ _ _).onTileOf

/-! ## Banks that go on (R357, R367, R368) -/

theorem State.Inv.reenter (h : s.Inv) : (s.reenter t l b).Inv := by
  dsimp only [State.reenter]
  split
  · exact h.onBank _ _ _ _
  · exact h.takeFault

theorem State.Inv.resumeBank (h : s.Inv) : (s.resumeBank t l b).Inv := by
  dsimp only [State.resumeBank]
  split
  · exact (h.onBank _ _ _ _).reenter
  · exact h

theorem State.Inv.thawBank (h : s.Inv) : (s.thawBank t l b).Inv := by
  dsimp only [State.thawBank]
  split
  · exact (h.onBank _ _ _ _).reenter
  · exact h

/-! ## Copies, invalidations and requests in flight (R239-R241) -/

theorem State.Inv.fly (h : s.Inv) {target : Target} : (s.fly q target).Inv := h.update

theorem State.Inv.tellReg (h : s.Inv) {n : Nat} : (s.tellReg t l part n).Inv := by
  dsimp only [State.tellReg]
  split
  · exact h.update.notify _ _ _
  · exact h

theorem State.Inv.onLaunchOf (h : s.Inv) {g : Nat} {f : Launch → Launch} : (s.onLaunchOf g f).Inv := h.update

theorem State.Inv.withdrawReport (h : s.Inv) {g : Nat} : (s.withdrawReport g d).Inv := h.onLaunchOf

theorem State.Inv.onSlice (h : s.Inv) {f : Slice → Slice} : (s.onSlice t f).Inv := h.update

theorem State.Inv.dropCopy (h : s.Inv) {n sector : Nat} : (s.dropCopy n sector).Inv := h.update

theorem State.Inv.invalidate (h : s.Inv) {pa : Nat} {via : Option Nat} {id : Nat} {part : Option (BitVec 6)} :
    (s.invalidate pa via id part).Inv := by
  dsimp only [State.invalidate]
  split
  · exact h.update
  · exact h

theorem State.Inv.applyInval (h : s.Inv) {v : Inval} : (s.applyInval v).Inv :=
  (h.foldlOf fun _ _ hx => hx.dropCopy).onSlice

theorem State.Inv.mergeCopy (h : s.Inv) {via : Option Nat} {pa : Nat} {v : Vec} {m : BitVec 16} :
    (s.mergeCopy via pa v m).Inv := by
  dsimp only [State.mergeCopy]
  split
  · exact h
  split
  · exact h
  · exact h.update

theorem State.Inv.putLine (h : s.Inv) {pa : Nat} {v : Vec} {m : BitVec 16} {via : Option Nat} {id : Nat}
    {part : Option (BitVec 6)} : (s.putLine pa v m via id part).Inv := (h.putPhys _ _ _).mergeCopy.invalidate

theorem State.Inv.addCopy (h : s.Inv) {n sector : Nat} {v : BitVec 1024} : (s.addCopy n sector v).Inv := h.update

theorem State.Inv.copyIn (h : s.Inv) {n pa : Nat} : (s.copyIn n pa).Inv := h.addCopy.onSlice

/-! ## Umbra releases (R293-R298) -/

theorem State.Inv.umbraRelease {x : State} (h : x.Inv) {body : ReqBody} : (x.umbraRelease s body).Inv := h.toPort

/-! ## Events of a compute tile -/

theorem happens_inv {t : State} (h : s.Inv) (ht : t.Inv) {c : Bool} : Sound (happens c s t) := by
  unfold happens
  split
  · exact ht.next
  · exact h.next

theorem State.Inv.startBank (h : s.Inv) {entry : Nat} : (s.startBank t b entry).Inv := (h.onBank _ _ _ _).onTileOf

theorem State.Inv.tellHandlers (h : s.Inv) : (s.tellHandlers t).Inv := h.foldlOf fun _ _ hx => hx.tellReg

theorem execClassHandlerStart_inv (h : s.Inv) : Sound (execClassHandlerStart t s) := by
  dsimp only [execClassHandlerStart]
  split
  · exact h.tellHandlers.next
  · exact (((h.onCtx _ _ _).onBank _ _ _ _).startBank).next

theorem execActorFiring_inv (h : s.Inv) : Sound (execActorFiring t s) := by
  dsimp only [execActorFiring]
  split
  · exact h.next
  · exact happens_inv h h.startBank

theorem State.Inv.leaveHeld (h : s.Inv) : (s.leaveHeld t l b).Inv := by
  refine h.foldlOf fun x j hx => ?_
  split
  · exact hx.toPort.onBank _ _ _ _
  · exact hx

theorem execBankBecomesIdle_inv (h : s.Inv) : Sound (execBankBecomesIdle t b s) := by
  dsimp only [execBankBecomesIdle]
  split
  · exact happens_inv h (((h.onCtx _ _ _).onBank _ _ _ _).onTileOf)
  · exact happens_inv h ((((h.onCtx _ _ _).leaveHeld).onBank _ _ _ _).onTileOf)
  · exact h.next

theorem State.Inv.arrive (h : s.Inv) {r : Report} : (s.arrive r).Inv := by
  dsimp only [State.arrive]
  split
  · exact (h.update.onBank _ _ _ _).takeFault
  · exact h.update.takeFault

theorem execAsyncReportArrival_inv (h : s.Inv) : Sound (execAsyncReportArrival i s) := by
  dsimp only [execAsyncReportArrival]
  split
  · exact h.next
  · exact happens_inv h h.update.arrive

theorem execMsEntryEnd_inv (h : s.Inv) : Sound (execMsEntryEnd t i s) := by
  dsimp only [execMsEntryEnd]
  split
  · exact h.next
  · exact happens_inv h (h.onTileS (fun _ hx => hx.endEntry))

theorem execMlatcTokenTake_inv (h : s.Inv) : Sound (execMlatcTokenTake t i s) := by
  dsimp only [execMlatcTokenTake]
  split
  · exact h.next
  split
  · exact happens_inv h h.mlatcTake
  · exact h.next

theorem execMdrainTokenPublish_inv (h : s.Inv) : Sound (execMdrainTokenPublish t i s) := by
  unfold execMdrainTokenPublish
  split
  · exact h.next
  split
  · refine .ite h.next ?_
    extract_lets hold
    have hh : ∀ n, (hold n).Inv := fun n => h.tellReg
    split
    · exact .ite (hh _).next h.drainPublish.next
    · exact h.drainPublish.next
    split
    · exact h.runFault.next
    · exact h.next
    next he => exact .ite (hh _).next (h.drainSteer he).drainSelect.next
  · exact h.next

theorem execCactRunEnd_inv (h : s.Inv) : Sound (execCactRunEnd t s) := by
  dsimp only [execCactRunEnd]
  split
  · exact h.next
  split
  · split
    · exact h.onTileOf.next
    · exact h.onTileOf.update.next
  · exact h.next

end Sys2Proof.Machine
end

section
/-!
SUPPORT. The L2 slices and the instructions of a control core keep the invariant.
-/
namespace Sys2Proof.Machine
set_option Elab.async false
variable {s : State} {t mt : Site} {l : Leaf} {b : BankId} {d : DieId} {k : CoreId} {q : Req} {part : BitVec 6} {i : Nat}

/-! ## The L2 slices and the walks through them (R238, R380) -/

theorem State.Inv.writeBackBad (h : s.Inv) {sec : Nat} : (s.writeBackBad t sec).Inv :=
  (s.passed_writeBackBad t sec).inv h

theorem State.Inv.evict (h : s.Inv) {sec : Nat} : (s.evict t sec).Inv := by
  dsimp only [State.evict]
  split
  · exact h
  split
  · split
    · exact h
    · exact h.onSlice.update.writeBackBad
  · exact h.onSlice

theorem State.Inv.passSlice (h : s.Inv) {pa : Nat} {w : Bool} : Keeps (s.passSlice pa w) :=
  fun _ e => (State.passed_passSlice e).inv h

theorem State.Inv.touch (h : s.Inv) {pa : Nat} {w : Bool} : (s.touch pa w).Inv := (s.passed_touch pa w).inv h

theorem State.Inv.putHome (h : s.Inv) {pa n v : Nat} {part : Option (BitVec 6)} : (s.putHome pa n v part).Inv :=
  (h.touch.putPhys _ _ _).invalidate

theorem State.Inv.walkVia (h : s.Inv) {die : DieId} {base va lv : Nat} : (s.walkVia die base va lv).2.Inv :=
  (s.passed_walkVia die base va lv).inv h

theorem State.Inv.walkDown (h : s.Inv) {die : DieId} {va base lv : Nat} : (s.walkDown die va base lv).2.Inv := by
  induction lv generalizing s base with
  | zero => exact h.walkVia
  | succ lv ih =>
    unfold State.walkDown
    split
    next e => exact ih (by simpa only [e] using h.walkVia (die := die) (base := base) (va := va) (lv := lv + 1))
    · exact h.walkVia

theorem State.Inv.translateNow {u : State} (h : s.Inv) {va : Nat} {x : TlbEntry}
    (e : s.translateNow t l va = some (.ok (x, u))) : u.Inv := by
  unfold State.translateNow at e
  split at e
  · cases e
  split at e
  · cases e; exact h
  split at e
  next ew =>
    have hw := h.walkDown (die := siteDie t) (va := va) (base := trRoot (s.trcfg t l)) (lv := 4)
    rw [ew] at hw
    cases e
    exact State.Inv.onMtOf hw
  all_goals cases e

/-! ## Control-core instructions (R388-R396) -/

theorem State.Inv.onCurCoreOf (h : s.Inv) {f : Core → Core} (hf : ∀ c : Core, c.Sound → (f c).Sound) :
    (s.onCurCore f).Inv := h.onCoreOf hf

theorem State.Inv.coreFault (h : s.Inv) {c : Cause} {eaddr : W64} : (s.coreFault c eaddr).Inv := h.ccException

theorem coreWrite_inv (h : s.Inv) {d : BitVec 5} {f : Core → W64} : Sound (coreWrite d f s) :=
  (h.onCurCoreOf (fun _ hc => hc.wx.done)).next

theorem State.Inv.hostRead (h : s.Inv) {ea : W64} {pa : Nat} {why : Purpose} : (s.hostRead k ea pa why).Inv :=
  h.takeId.fly.onCoreOf fun _ hc => hc.update

theorem State.Inv.hostLoad (h : s.Inv) {n : Nat} {d : BitVec 5} {ea : W64} {pa : Nat} : (s.hostLoad n d ea pa).Inv :=
  h.hostRead

theorem coreLoad_inv (h : s.Inv) {n : Nat} {d a : BitVec 5} {imm : BitVec 16} : Sound (coreLoad n d a imm s) := by
  dsimp only [coreLoad]
  split
  · exact h.coreFault.next
  · exact (h.onCurCoreOf (fun _ hx => hx.wx.done)).next
  split
  · exact h.next
  split
  · exact h.hostLoad.next
  split
  · exact h.next
  next e' => exact ((h.passSlice e').onCurCoreOf (fun _ hx => hx.wx.done)).next

theorem coreStore_inv (h : s.Inv) {n : Nat} {d a : BitVec 5} {imm : BitVec 16} : Sound (coreStore n d a imm s) := by
  unfold coreStore
  dsimp only
  split
  · exact h.coreFault.next
  · exact (h.onCurCoreOf fun _ hc => (hc.withLmem (Memory.wf_writeNat hc.1 _ _ _)).done).next
  split
  · exact h.next
  · exact (h.putHome.onCurCoreOf fun _ hc => hc.done).next

theorem coreJump_inv (h : s.Inv) {link : Option (BitVec 5)} {t : W64} : (coreJump link t s).Inv := by
  unfold coreJump
  split
  · exact h.coreFault
  next hf =>
    refine h.onCurCoreOf fun c hc => ?_
    have hx : (match link with | some d => c.wx d (c.pc.setWidth 64 + 4) | none => c).Sound := by
      cases link with
      | some d => exact hc.wx
      | none => exact hc
    obtain ⟨hm, -, hevec, hepc⟩ := Core.sound_iff.1 hx
    exact Core.sound_iff.2 ⟨hm, aligned_of_jumpFault hf, hevec, hepc⟩

theorem coreBranch_inv (h : s.Inv) {a b : BitVec 5} {off : BitVec 16} {f : W64 → W64 → Bool} :
    Sound (coreBranch a b off f s) := by
  dsimp only [coreBranch]
  split
  · exact (coreJump_inv h).next
  · exact (h.onCurCoreOf (fun _ hx => hx.done)).next

theorem execCcBge_inv (h : s.Inv) {a b : BitVec 5} {off : BitVec 16} : Sound (execCcBge a b off s) := coreBranch_inv h

theorem execCcBgen_inv (h : s.Inv) {a b : BitVec 5} {off : BitVec 16} : Sound (execCcBgen a b off s) := coreBranch_inv h

theorem State.Inv.message (h : s.Inv) {v : W64} : (s.message v).Inv :=
  h.onCoreOf fun _ hc => (Core.Sound.update hc).raise

theorem State.Inv.setCsr (h : s.Inv) {n : BitVec 12} {v : W64} : (s.setCsr k n v).Inv := by
  have hevec : (s.onCore k (fun c => { c with evec := v.extractLsb' 0 18 &&& 0x3FFFC })).Inv := h.onCoreOf fun c hc => by
    obtain ⟨hm, hpc, -, hepc⟩ := Core.sound_iff.1 hc
    exact Core.sound_iff.2 ⟨hm, hpc, aligned_mask _, hepc⟩
  have hepc : (s.onCore k (fun c => { c with epc := v.extractLsb' 0 18 &&& 0x3FFFC })).Inv := h.onCoreOf fun c hc => by
    obtain ⟨hm, hpc, hevec, -⟩ := Core.sound_iff.1 hc
    exact Core.sound_iff.2 ⟨hm, hpc, hevec, aligned_mask _⟩
  unfold State.setCsr
  dsimp only
  split
  · exact hevec
  split
  · exact hepc
  split
  · exact h.onCoreOf fun _ hc => hc.update
  split
  · exact h.onCoreOf fun _ hc => hc.update
  split
  · exact h.onCoreOf fun _ hc => hc.update
  split
  · exact h.message
  split
  · exact h.onDie _ _
  split
  · exact h.onNotice _ _ _
  · exact h

theorem execCsrr_inv (h : s.Inv) {d : BitVec 5} {num : BitVec 12} : Sound (execCsrr d num s) := by
  dsimp only [execCsrr]
  split
  · exact h.coreFault.next
  · exact (h.onCurCoreOf (fun _ hc => hc.wx.done)).next

theorem execCsrw_inv (h : s.Inv) {a : BitVec 5} {num : BitVec 12} : Sound (execCsrw a num s) := by
  dsimp only [execCsrw]
  split
  · exact h.coreFault.next
  · exact (h.setCsr.onCurCoreOf (fun _ hx => hx.done)).next

theorem execEret_inv (h : s.Inv) : Sound (execEret s) := by
  dsimp only [execEret]
  split
  · exact (h.onCurCoreOf (fun _ hc => hc.eret)).next
  · exact h.coreFault.next

theorem execWfe_inv (h : s.Inv) : Sound (execWfe s) := by
  dsimp only [execWfe]
  split
  · exact (h.onCurCoreOf (fun _ hc => hc.done)).next
  · exact (h.onCurCoreOf (fun _ hc => hc.update)).next

theorem execWfeEnd_inv (h : s.Inv) : Sound (execWfeEnd k s) := by
  dsimp only [execWfeEnd]
  split
  · exact (h.onCoreOf fun _ hc => (Core.Sound.update hc).done).next
  · exact h.next

theorem execTimerExpiry_inv (h : s.Inv) : Sound (execTimerExpiry k s) := by
  unfold execTimerExpiry
  split
  · exact (h.onCoreOf fun _ hc => hc.raise).next
  · exact h.next

theorem execNoticeRecordWrite_inv (h : s.Inv) : Sound (execNoticeRecordWrite d part s) := by
  dsimp only [execNoticeRecordWrite]
  split
  · exact h.next
  split
  · exact h.next
  · exact ((h.putHome.onNotice _ _ _).onCoreOf (fun _ hc => hc.raise)).next

end Sys2Proof.Machine
end

section
/-!
SUPPORT. The fabric, and the memory beyond a tile, keep the invariant.
-/
namespace Sys2Proof.Machine
set_option Elab.async false
variable {s : State} {t mt : Site} {l : Leaf} {b : BankId} {d : DieId} {k : CoreId} {q : Req} {part : BitVec 6} {i : Nat}

/-! ## The fabric network (R172-R189) -/

theorem State.Inv.sourceHead {u : State} (h : s.Inv) {src ph : Nat} {i : Item} (e : s.sourceHead t src ph = some (i, u)) :
    u.Inv := by
  simp only [State.sourceHead] at e
  split at e
  · split at e
    · split at e
      · cases e
      · split at e
        · cases e; exact h.onBox _ _
        · cases e
    · split at e
      · cases e
      · split at e
        · cases e
        · cases e; exact h.onBox _ _
  · split at e
    · split at e
      · cases e
      · obtain ⟨p, -, e⟩ := Option.map_eq_some_iff.1 e
        cases e; exact h.onCtx _ _ _
    · split at e
      · obtain ⟨p, -, e⟩ := Option.map_eq_some_iff.1 e
        cases e; exact h.onMtOf
      · cases e

theorem State.Inv.guardDrop (h : s.Inv) {cls : Bool} {word : BitVec 6} {ph : Nat} {side : Sideband} :
    (s.guardDrop t cls word ph side part).Inv := by
  dsimp only [State.guardDrop]
  split
  · exact h.onBox _ _
  · exact (h.onBox _ _).notify _ _ _

theorem State.Inv.boxHolds (h : s.Inv) {regs : List Nat} : Keeps (s.boxHolds t regs part) := by
  dsimp only [State.boxHolds]
  split
  · exact keeps_none
  split
  · exact (h.update.notify _ _ _).keeps
  · exact h.keeps

theorem State.Inv.putTrack (h : s.Inv) {w ph : Nat} {i : Item} : (s.putTrack t w ph i).Inv := h.onBox _ _

theorem State.Inv.deliver (h : s.Inv) {c : Fin 8} {i : Item} : (s.deliver t c l i).Inv := by
  dsimp only [State.deliver]
  split
  · exact h.onMtOf
  · exact h.onCtx _ _ _

theorem State.Inv.hop (h : s.Inv) {src ph : Nat} : Keeps (s.hop t src ph) := by
  unfold State.hop
  split
  · exact keeps_none
  split
  next i s1 w shared e _ =>
    have h1 := h.sourceHead e
    extract_lets op
    clear_value op
    split
    · exact h.boxHolds
    split
    · exact h1.guardDrop.keeps
    split
    · split
      · exact h1.putTrack.keeps
      · exact keeps_none
    split
    · split
      · exact (h1.deliver.onBox _ _).keeps
      · exact keeps_none
    · exact keeps_none
  · exact keeps_none

theorem execTokenHop_inv (h : s.Inv) {src : Fin 64} {ph : Fin 2} : Sound (execTokenHop t src ph s) := by
  unfold execTokenHop
  extract_lets told
  have ht : told.Inv := .ite h.tellReg h
  exact (ht.getD h.hop).next

theorem State.Inv.countCrossing (h : s.Inv) {g : Nat} {a b : DieId} : (s.countCrossing g a b).Inv := h.onLaunchOf

theorem execBridgeCrossing_inv (h : s.Inv) {w : Fin 64} : Sound (execBridgeCrossing t w s) := by
  dsimp only [execBridgeCrossing]
  split
  · split
    · exact h.next
    · split
      · exact h.next
      · split
        · exact (((h.onBox _ _).onBox _ _).countCrossing).next
        · exact ((h.onBox _ _).onBox _ _).next
  · exact h.next

theorem Tile.Sound.putLine {x : Tile} (h : x.Sound) {a : Nat} {v : Vec} : (Tile.putLine x a v).Sound := h.putScratch

theorem State.Inv.storeSlots (h : s.Inv) {ch : Fin 8} {n : Nat} {ps : List (SlotInfo × Option Vec)} :
    (s.storeSlots t l ch n ps).Inv := by
  induction ps generalizing s n with
  | nil => exact h
  | cons p r ih =>
    refine ih (State.Inv.onCtx ?_ _ _ _)
    split
    · exact h.onTileS fun _ hx => hx.putLine
    · exact h

theorem State.Inv.publishArrival (h : s.Inv) {ch : Fin 8} {i : Item} {slot : Nat} {tok : Token} {poked : Bool} :
    (s.publishArrival t l ch i slot tok poked).Inv := ((h.onCtx _ _ _).storeSlots).onCtx _ _ _

theorem State.Inv.landPoke (h : s.Inv) {ch : Fin 8} {it : Item} {slot : Nat} {fmt : BitVec 4} {v : Vec} :
    (s.landPoke t l ch it slot fmt v).Inv := h.foldlOf fun _ _ hx => hx.onTileS fun _ hy => hy.putLine

theorem State.Inv.takePort (h : s.Inv) {ch : Fin 8} : (s.takePort t l ch).Inv := h.onCtx _ _ _

theorem State.Inv.onEbuf (h : s.Inv) {x : Fin 8} {f : EdgeBuf → EdgeBuf} : (s.onEbuf mt l x f).Inv := h.onMtOf

theorem State.Inv.ebufStore (h : s.Inv) {x : Fin 8} {slot : Nat} {own : Bool} {tok : Token} :
    (s.ebufStore mt l x slot own tok).Inv := by
  unfold State.ebufStore
  dsimp only
  split
  · exact h.onEbuf
  · exact State.Inv.onEbuf (h.withMemEcc (Memory.wf_writeVec h.mem _ _))

theorem State.Inv.ebufReturn (h : s.Inv) {b : EdgeBuf} {n : Nat} : (s.ebufReturn mt b n).Inv := by
  dsimp only [State.ebufReturn]
  split
  · exact h
  · exact h.update

theorem MtLeaf.Sound.drainQueue {f : MtLeaf} (h : f.Sound) {x : Fin 8} : (f.drainQueue x).Sound := h

theorem State.Inv.ebufArrival (h : s.Inv) {x : Fin 8} {i : Item} : (s.ebufArrival mt l x i).Inv := by
  unfold State.ebufArrival
  dsimp only
  split
  · split
    · exact h
    · exact h.withMem (Memory.wf_writeVec h.mem _ _)
  · exact h.onEbuf.ebufStore
  · exact h.onEbuf
  · exact (h.onMtS fun _ hm => hm.setLeaf (hm l).drainQueue).ebufReturn.onEbuf

theorem happens'_inv {t : State} (h : s.Inv) (ht : t.Inv) {c : Bool} : Sound (execTokenArrival.happens' c s t) := by
  unfold execTokenArrival.happens'
  split
  · exact ht.next
  · exact h.next

theorem execTokenArrival_inv (h : s.Inv) {ch : Fin 8} : Sound (execTokenArrival t l ch s) := by
  unfold execTokenArrival
  split
  · split
    · exact h.next
    · split
      · exact h.tellReg.next
      · exact happens'_inv h h.onEbuf.ebufArrival
  split
  · exact h.tellReg.next
  · dsimp only
    split
    · exact h.takePort.landPoke.next
    · exact h.takePort.publishArrival.next
    · exact h.next

theorem execPreEmptMarkerArrival_inv (h : s.Inv) {ch : Fin 8} : Sound (execPreEmptMarkerArrival t l ch s) := by
  dsimp only [execPreEmptMarkerArrival]
  split
  · split
    · exact h.next
    · split
      · exact h.onEbuf.ebufArrival.next
      · exact h.next
  split
  · split
    · exact (h.takePort.onCtx _ _ _).next
    · exact h.next
  · exact h.next

theorem execFaultDrainArrival_inv (h : s.Inv) {ch : Fin 8} : Sound (execFaultDrainArrival t l ch s) := by
  dsimp only [execFaultDrainArrival]
  split
  · split
    · exact h.next
    · split
      · exact h.onEbuf.ebufArrival.next
      · exact h.next
  split
  · split
    · exact h.takePort.advanceIn.next
    · exact h.next
  · exact h.next

theorem execSlotReleaseArrival_inv (h : s.Inv) : Sound (execSlotReleaseArrival i s) := by
  dsimp only [execSlotReleaseArrival]
  split
  · exact h.next
  split
  · split
    · exact h.next
    · exact h.update.next
  · split
    · exact h.next
    · exact (h.update.onCtx _ _ _).next
  · split
    · exact h.next
    · exact h.update.onEbuf.next
  · split
    · exact h.next
    · exact h.update.next
  · split
    · exact h.next
    · exact (h.update.onDie _ _).next
  · exact h.update.next

theorem State.Inv.classHead {u : State} (h : s.Inv) {d ph : Nat} {p : ClassPkt} (e : s.classHead t d ph = some (p, u)) :
    u.Inv := by
  simp only [State.classHead] at e
  split at e
  · split at e
    · cases e
    · split at e
      · cases e
      · split at e
        · cases e
        · cases e; exact .ite (h.onBox _ _) (h.onBox _ _).countCrossing
  · split at e
    · cases e
    · split at e
      · cases e; exact h.onTileOf
      · cases e

theorem State.Inv.markOn (h : s.Inv) {p : ClassPkt} : (s.markOn t l p).Inv := by
  dsimp only [State.markOn]
  split
  · exact h
  split
  · split
    · exact h
    · exact h.onBox _ _
  split
  · exact h
  · exact h.onBox _ _

theorem State.Inv.classMark (h : s.Inv) {src : Nat} {p : ClassPkt} : (s.classMark t src l p).Inv := by
  dsimp only [State.classMark]
  split
  · exact (h.onBox _ _).markOn
  · exact h.onBox _ _

theorem State.Inv.classHop (h : s.Inv) {d ph : Nat} : Keeps (s.classHop t d ph) := by
  unfold State.classHop
  split
  · exact keeps_none
  split
  · exact keeps_none
  next e =>
    have h1 := h.classHead e
    split
    · exact h1.classMark.keeps
    extract_lets l b drop n
    have hdrop : Keeps (some drop) := h1.guardDrop.keeps
    split
    · exact h.boxHolds
    split
    · exact hdrop
    split
    · split
      · exact hdrop
      split
      · exact hdrop
      split
      · exact (h1.onBox _ _).keeps
      · exact keeps_none
    split
    · exact hdrop
    split
    · exact keeps_none
    split
    · exact (h1.onBox _ _).keeps
    · exact keeps_none

theorem execClassPacketArrival_inv (h : s.Inv) : Sound (execClassPacketArrival t l s) := by
  dsimp only [execClassPacketArrival]
  split
  · exact h.next
  split
  · exact ((h.onBox _ _).onCtx _ _ _).next
  · exact h.next

/-! ## Answers and failures of requests (R229, R233, R374) -/

theorem State.Inv.respond (h : s.Inv) {tok : Token} : (s.respond q tok).Inv := h.onMtOf

theorem State.Inv.performed (h : s.Inv) {id : Nat} : (s.performed id).Inv := h.update

theorem State.Inv.acknowledge (h : s.Inv) : (s.acknowledge q).Inv := h.update

theorem State.Inv.sendReady (h : s.Inv) {src : Option DieId} {ch : Fin 8} {tok : Token} :
    (s.sendReady src part t l ch tok).Inv := by
  dsimp only [State.sendReady]
  split
  · exact h.onStashOf
  · exact h.update

theorem State.Inv.refuseFillc (h : s.Inv) {rcv exp : W16} {more : Bool} : (s.refuseFillc q rcv exp more).Inv := by
  dsimp only [State.refuseFillc]
  split
  · split
    · exact h.sendReady
    · exact h
  · exact h

theorem State.Inv.reportTo (h : s.Inv) {f : FaultInfo} {refused : Bool} : (s.reportTo q f refused).Inv := h.update

theorem State.Inv.failOp (h : s.Inv) {c : Cause} : (s.failOp q c).Inv := by
  dsimp only [State.failOp]
  split
  · exact h.reportTo.refuseFillc.respond
  · exact h.reportTo.refuseFillc

theorem State.Inv.land (h : s.Inv) : (s.land i).Inv := h.update

theorem State.Inv.onFlying (h : s.Inv) {f : Flying → Flying} : (s.onFlying i f).Inv := h.update

theorem State.Inv.onTpl (h : s.Inv) {u : Fin 4} {f : Template → Template} : (s.onTpl mt l u f).Inv := h.onMtLeafOf

theorem State.Inv.tellTemplate (h : s.Inv) {u : Fin 4} {code : BitVec 8} {va : W64} :
    (s.tellTemplate mt l u code va).Inv := h.notify _ _ _

theorem State.Inv.endRun (h : s.Inv) {u : Fin 4} : (s.endRun mt l u).Inv := by
  dsimp only [State.endRun]
  split
  · exact h
  split
  · split
    · exact h
    · exact h.onTpl.tellTemplate
  split
  · exact h.onTpl
  · exact h

theorem State.Inv.onRun (h : s.Inv) {u : Fin 4} {f : CopyRun → CopyRun} : (s.onRun mt l u f).Inv := h.onTpl

theorem State.Inv.runFails (h : s.Inv) {u : Fin 4} {c : Cause} {va : W64} {beat : Nat} :
    (s.runFails mt l u c va beat).Inv := h.onRun.endRun

theorem State.Inv.writeFails (h : s.Inv) {x : Chunk} {c : Cause} {va : W64} : (s.writeFails x c va).Inv := by
  dsimp only [State.writeFails]
  split
  · exact h.runFails
  split
  · exact h.endRun
  · exact h.update.onTpl.tellTemplate

theorem State.Inv.runTakes (h : s.Inv) {v : Vec} : (s.runTakes q v).Inv := h.onRun

theorem State.Inv.runRefused (h : s.Inv) {c : Cause} : (s.runRefused q c).Inv := by
  dsimp only [State.runRefused]
  split
  · split
    · exact h.runFails
    · exact h
  · exact h

theorem State.Inv.chunkFails (h : s.Inv) {c : Cause} : (s.chunkFails q c).Inv := by
  dsimp only [State.chunkFails]
  split
  · exact h.update.writeFails
  · exact h

theorem State.Inv.onLink (h : s.Inv) {p : Fin 18} {f : LinkPort → LinkPort} : (s.onLink p f).Inv := h.update

theorem State.Inv.sendLink (h : s.Inv) {p : Fin 18} {dest : BitVec 8} {unit : Nat} {body : LinkBody} :
    (s.sendLink p dest unit part body).Inv := h.update

theorem State.Inv.respondTo (h : s.Inv) {p : Fin 18} {m : LinkMsg} {data : Vec} {code : BitVec 8} :
    (s.respondTo p m part data code).Inv := h.sendLink.onLink

theorem State.Inv.replyLater (h : s.Inv) {p : Fin 18} {m : LinkMsg} {data : Vec} : (s.replyLater q p m data).Inv :=
  h.update.acknowledge

theorem State.Inv.putBundle (h : s.Inv) {a : Nat} {w : Bundle} : (s.putBundle t l a w).Inv := h.onTileOf

theorem State.Inv.answer (h : s.Inv) {payload : Vec} : (s.answer q payload).Inv := by
  dsimp only [State.answer]
  split
  · exact h.respond.performed
  · exact h.runTakes
  · exact h
  · exact h.onFlying
  · split
    · exact h.replyLater
    · exact h.respondTo
  · split
    · exact h.onCoreOf (fun _ hc => hc.update.wx.done)
    · exact h
  split
  · exact h.putBundle.onCoreOf (fun _ hc => hc.update)
  · exact h

theorem State.Inv.written (h : s.Inv) : (s.written q).Inv := by
  dsimp only [State.written]
  split
  · exact h.acknowledge
  · exact h.replyLater
  · exact h.update
  · exact h

theorem State.Inv.coreFails (h : s.Inv) {c : Cause} : (s.coreFails k q c).Inv := by
  dsimp only [State.coreFails]
  split
  · exact (h.onCoreOf (fun _ hc => hc.update)).ccException
  · exact h

theorem State.Inv.failReq (h : s.Inv) {c : Cause} : (s.failReq q c).Inv := by
  dsimp only [State.failReq]
  split
  · exact h.failOp
  · exact h.runRefused
  · exact h.chunkFails
  · split
    · exact h.land.failOp
    · exact h
  · exact h.respondTo
  · exact h.coreFails
  · exact h.coreFails

/-! ## Requests beyond a tile (R228-R241, R377-R383) -/

theorem execMemoryPortSend_inv (h : s.Inv) : Sound (execMemoryPortSend t s) := by
  dsimp only [execMemoryPortSend]
  split
  · exact h.next
  split
  · exact h.onTileOf.onMtOf.next
  · exact h.next

theorem State.Inv.takeRob (h : s.Inv) : (s.takeRob q).Inv := by
  dsimp only [State.takeRob]
  split
  · exact h.onMtOf
  · exact h

theorem State.Inv.takeSerial (h : s.Inv) : (s.takeSerial q).1.Inv := by
  unfold State.takeSerial
  split
  · exact h.onMtOf
  · exact h

theorem State.Inv.count (h : s.Inv) {e : TlbEntry} {pa : Nat} : (s.count mt q e pa).1.Inv := by
  unfold State.count
  split
  · exact h.update
  · exact h

theorem State.Inv.holdReq (h : s.Inv) : Keeps (s.holdReq mt q) := by
  dsimp only [State.holdReq]
  split
  · exact h.onMtOf.keeps
  split
  · exact h.onMtOf.keeps
  · exact keeps_none

theorem State.Inv.unhold (h : s.Inv) : (s.unhold mt q).Inv := h.onMtOf

theorem State.Inv.enlist (h : s.Inv) : (State.enlist s q).1.Inv := h.takeSerial.takeRob

theorem State.Inv.postHost (h : s.Inv) {pa : Nat} : (s.postHost q pa).Inv := by
  dsimp only [State.postHost]
  split
  · exact (h.putPhys _ _ _).written
  · exact h

theorem State.Inv.routeTranslated (h : s.Inv) {e : TlbEntry} : (s.routeTranslated mt q e).Sound := by
  have hr : ∀ q1 pa, ((s.enlist q1).1.count mt (s.enlist q1).2 e pa).1.Inv := fun _ _ => h.enlist.count
  unfold State.routeTranslated
  dsimp only
  split
  · exact h.wayFault
  split
  · exact way_waits
  split
  · split
    next e' => exact ((hr _ _).holdReq e').goes
    · exact way_waits
  split
  · exact (hr _ _).wayFault
  split
  · exact way_waits
  split
  · split
    · exact way_waits
    · exact (hr _ _).unhold.postHost.goes
  · exact (hr _ _).unhold.fly.goes

theorem State.Inv.routeOwned (h : s.Inv) {e : W64} : (s.routeOwned q e).Sound := by
  dsimp only [State.routeOwned]
  split
  · exact h.wayFault
  split
  · exact way_waits
  · exact h.enlist.fly.goes

theorem State.Inv.sendRequest (h : s.Inv) {p : Fin 18} {dest : BitVec 8} : (s.sendRequest p dest q).Inv :=
  h.sendLink.update

theorem State.Inv.routeModule (h : s.Inv) {m : BitVec 8} : (s.routeModule q m).Sound := by
  dsimp only [State.routeModule]
  split
  · exact h.wayFault
  split
  · exact h.wayFault
  split
  · exact way_waits
  · exact h.enlist.fly.sendRequest.goes

theorem State.Inv.startWalk (h : s.Inv) : (s.startWalk mt q).Inv := by
  dsimp only [State.startWalk]
  split
  · exact h
  · exact h.onMtOf

theorem State.Inv.routeAccess (h : s.Inv) : (s.routeAccess mt q).Sound := by
  dsimp only [State.routeAccess]
  split
  · exact h.routeOwned
  split
  · exact h.routeModule
  split
  · exact h.wayFault
  split
  · exact way_waits
  · exact h.routeTranslated

theorem Way.Sound.settle {w : Way} (h : w.Sound) : Keeps (w.settle mt) := by
  cases w with
  | fault s q f => exact (State.Inv.failReq (State.Inv.takeRob (State.Inv.unhold h))).keeps
  | waits => exact keeps_none
  | goes s => exact State.Inv.keeps h

theorem State.Inv.route (h : s.Inv) : Keeps (s.route mt q) := by
  have humbra : ∀ key : W32, Keeps (
      let k := refusedKey q.src.tile q.src.leaf
      let kept := (s.mt mt).refused.get k []
      if !kept.isEmpty then some (s.onMt mt (fun m => { m with refused := m.refused.set k (kept ++ [q]) }))
      else
        match s.umhostOf q.src.tile q.src.leaf key with
        | some e => some (s.fly q (.umbra (umhostSite e)))
        | none => some (s.reportTo q (faultOf .chproto 0x0000000A) false)) := fun key => by
    dsimp only
    split
    · exact h.onMtOf.keeps
    split
    · exact h.fly.keeps
    · exact h.reportTo.keeps
  have hengine : ∀ sel : BitVec 11, Keeps (
      match s.mtLeafOf q.src.part (selectorSite sel) with
      | some _ =>
        if s.targetBusy mt q (.engine (selectorSite sel)) 0 then none else some (s.fly q (.engine (selectorSite sel)))
      | none => some (s.failReq q .perm)) := fun sel => by
    split
    · split
      · exact keeps_none
      · exact h.fly.keeps
    · exact h.failReq.keeps
  unfold State.route
  dsimp only
  split
  · exact humbra _
  · exact humbra _
  · exact humbra _
  · exact humbra _
  · exact humbra _
  · exact hengine _
  · exact hengine _
  · exact h.fly.keeps
  · exact h.takeRob.fly.keeps
  · exact h.routeAccess.settle
  · exact h.routeAccess.settle
  · exact h.routeAccess.settle
  · exact h.routeAccess.settle
  · exact h.routeAccess.settle

theorem State.Inv.routeNow (h : s.Inv) : (s.routeNow mt q).Sound := by
  unfold State.routeNow
  split
  · split
    · exact way_waits
    · exact h.wayFault
    next e => exact (h.translateNow e).routeAccess
  · exact h.routeAccess

theorem execPortQueueDispatch_inv (h : s.Inv) : Sound (execPortQueueDispatch mt t s) := by
  dsimp only [execPortQueueDispatch]
  split
  · exact h.next
  split
  · exact h.next
  split
  · exact h.tellReg.next
  split
  · exact h.startWalk.next
  · exact (h.getD h.onMtOf.route).next

theorem execPageWalk_inv (h : s.Inv) : Sound (execPageWalk mt i s) := by
  unfold execPageWalk
  split
  · exact h.next
  dsimp only
  split
  · exact h.next
  · exact h.walkVia.onMtOf.next
  · split
    · exact h.walkVia.onMtOf.next
    · exact h.walkVia.onMtOf.onMtOf.next
  split
  · exact h.walkVia.onMtOf.next
  · exact h.walkVia.onMtOf.onMtOf.takeRob.failReq.next

theorem execHeldWriteRetranslate_inv (h : s.Inv) : Sound (execHeldWriteRetranslate mt s) := by
  unfold execHeldWriteRetranslate
  split
  · exact h.next
  split
  · exact (h.getD h.routeTranslated.settle).next
  · exact h.startWalk.next
  · exact (h.getD h.onMtOf.routeTranslated.settle).next

theorem State.Inv.takeEffect (h : s.Inv) {f : Flying} {pa : Nat} : (s.takeEffect f pa).Inv := by
  dsimp only [State.takeEffect]
  split
  · split
    · exact h.putLine.land.written
    · exact h.putLine.onFlying
  split
  · exact h.land.failReq
  · exact h.land.answer

theorem execSramBankAccess_inv (h : s.Inv) : Sound (execSramBankAccess i s) := by
  dsimp only [execSramBankAccess]
  split
  · split
    · split
      · exact h.next
      · split
        · exact h.land.failReq.next
        · split
          · exact h.next
          · exact h.takeEffect.next
    · exact h.next
  · exact h.next

theorem execWeightStoreRead_inv (h : s.Inv) : Sound (execWeightStoreRead i s) := by
  dsimp only [execWeightStoreRead]
  split
  · split
    · split
      · exact h.next
      · split
        · exact h.land.failReq.next
        · split
          · exact h.next
          · exact h.takeEffect.next
    · exact h.next
  · exact h.next

theorem execGatewayRequest_inv (h : s.Inv) : Sound (execGatewayRequest i s) := by
  unfold execGatewayRequest
  split
  · split
    · dsimp only
      split
      · exact h.next
      split
      · exact h.land.failReq.next
      split
      · exact (State.Inv.onDie h.dropCopy.update _ _).next
      split
      · exact h.land.answer.next
      split
      · exact h.next
      · exact h.onFlying.next
    · exact h.next
  · exact h.next

theorem execGatewayInvalidation_inv (h : s.Inv) : Sound (execGatewayInvalidation i s) := by
  dsimp only [execGatewayInvalidation]
  split
  · exact h.next
  split
  · exact h.next
  · exact h.update.applyInval.next

theorem State.Inv.keepCopy (h : s.Inv) {f : Flying} {pa : Nat} : (s.keepCopy f pa).Inv := by
  dsimp only [State.keepCopy]
  split
  · exact h
  split
  · exact h
  · exact h.copyIn

theorem State.Inv.atSlice (h : s.Inv) {f : Flying} {pa : Nat} {dirty : Bool} : (s.atSlice t f pa dirty).Inv := by
  dsimp only [State.atSlice]
  split
  · exact h.onSlice.takeEffect
  · exact h.keepCopy.takeEffect

theorem execL2Request_inv (h : s.Inv) {evict : Option Nat} : Sound (execL2Request i evict s) := by
  unfold execL2Request
  split
  · split
    · refine .ite h.next <| .ite h.land.failReq.next <| .ite h.atSlice.next <| .ite h.next <|
        .ite (.ite h.next h.atSlice.next) <| .ite h.onFlying.next <|
        .ite (.ite (State.Inv.onSlice ?_).onFlying.next h.next) <| .ite h.next <|
        .ite (.ite h.next h.atSlice.update.next) h.onFlying.next
      split
      · exact h.evict
      · exact h
    · exact h.next
  · exact h.next

theorem execL2FillArrival_inv (h : s.Inv) : Sound (execL2FillArrival i s) := by
  dsimp only [execL2FillArrival]
  split
  · split
    · split
      · exact h.next
      · split
        · exact h.onSlice.update.next
        · split
          · exact h.atSlice.next
          · exact h.next
    · exact h.next
  · exact h.next

theorem State.Inv.fillResponse (h : s.Inv) {ch : Fin 8} {tok : Token} {f : InCh → InCh} :
    (s.fillResponse t l ch tok f).Inv := (h.onTileS fun _ hx => hx.putScratch).onCtx _ _ _

theorem execResponseDelivery_inv (h : s.Inv) : Sound (execResponseDelivery mt i s) := by
  dsimp only [execResponseDelivery]
  split
  · exact h.next
  split
  · exact h.onMtOf.next
  · exact h.onMtOf.fillResponse.next

theorem execWriteAcknowledgement_inv (h : s.Inv) : Sound (execWriteAcknowledgement i s) := by
  dsimp only [execWriteAcknowledgement]
  split
  · exact h.next
  split
  · exact h.update.performed.next
  split
  · exact h.next
  · exact h.update.respondTo.next

theorem execReadyTokenDelivery_inv (h : s.Inv) : Sound (execReadyTokenDelivery i s) := by
  dsimp only [execReadyTokenDelivery]
  split
  · exact h.next
  split
  · exact h.next
  split
  · exact h.update.next
  · exact h.update.fillResponse.withdrawReport.next

theorem execCounterIncrement_inv (h : s.Inv) {n : Nat} : Sound (execCounterIncrement n s) := by
  unfold execCounterIncrement
  split
  · exact h.next
  dsimp only
  split
  · exact h.next
  split
  · exact h.update.next
  split
  · exact h.next
  split
  · exact h.next
  · exact .ite (State.Inv.notify h.update.touch.putHome _ _ _).next h.update.touch.putHome.next

theorem State.Inv.tinvDrop (h : s.Inv) {asid : W16} {lo hi : Nat} : (s.tinvDrop k asid lo hi).Inv := by
  unfold State.tinvDrop
  dsimp only
  exact h.mapTables (List.map_id _).symm rfl rfl rfl rfl rfl (fun _ => rfl) (fun _ hx => hx) (fun _ => rfl) (fun _ hm => hm)

end Sys2Proof.Machine
end

section
/-!
SUPPORT. Owner nodes, copy engines and umbra hosts keep the invariant.
-/
namespace Sys2Proof.Machine
set_option Elab.async false
variable {s : State} {t mt : Site} {l : Leaf} {b : BankId} {d : DieId} {k : CoreId} {q : Req} {part : BitVec 6} {i : Nat}

/-! ## Owner nodes, counters and `amo` (R269-R286) -/

theorem MtLeaf.Sound.setOwned {f : MtLeaf} (h : f.Sound) {ct : BitVec 2} {va : Nat} {x : W32} :
    (f.setOwned ct va x).Sound := by
  unfold MtLeaf.setOwned
  split
  · exact h
  · exact Memory.wf_writeW32 h _ _

theorem MtLeaf.Sound.addOwned {f : MtLeaf} (h : f.Sound) {ct : BitVec 2} {va : Nat} {x : W32} :
    (f.addOwned ct va x).Sound := by
  unfold MtLeaf.addOwned
  split
  · exact h
  · exact Memory.wf_writeW32 h _ _

theorem MtLeaf.Sound.eachWord {f : MtLeaf} (h : f.Sound) {g : MtLeaf → Nat → MtLeaf} {n : Nat}
    (hg : ∀ (y : MtLeaf) (i : Nat), y.Sound → (g y i).Sound) : (f.eachWord g n).Sound := by
  induction n with
  | zero => exact h
  | succ n ih => exact hg _ n ih

theorem MtLeaf.Sound.setLine {f : MtLeaf} (h : f.Sound) {ct : BitVec 2} {va : Nat} {v : Vec} :
    (MtLeaf.setLine f ct va v).Sound := h.eachWord (fun _ _ hx => hx.setOwned)

theorem MtLeaf.Sound.setTailWord {f : MtLeaf} (h : f.Sound) {w : Nat} {ct : BitVec 2} {sector k : Nat} {x : W32} :
    (f.setTailWord w ct sector k x).Sound := by
  unfold MtLeaf.setTailWord
  dsimp only
  split
  · exact h
  · exact List.foldlRecOn (motive := MtLeaf.Sound) _ _ h fun _ hy _ _ => hy
  · exact h
  · exact h

theorem MtLeaf.Sound.setStorageWord {f : MtLeaf} (h : f.Sound) {w : Nat} {x : W32} : (f.setStorageWord mt w x).Sound := by
  unfold MtLeaf.setStorageWord
  split
  · exact h
  split
  · split
    · exact h
    · exact h.setTailWord
  split
  · exact Memory.wf_writeW32 h _ _
  · exact h.setTailWord

theorem State.Inv.touchPage (h : s.Inv) {pa : Nat} {write : Bool} : (s.touchPage pa write).Inv :=
  h.foldlOf (fun _ _ hx => hx.touch)

theorem State.Inv.fillPage (h : s.Inv) {ct : BitVec 2} {va : Nat} : (s.fillPage mt l ct va).Inv := by
  unfold State.fillPage
  split
  · exact h
  · exact h.touchPage.onMtLeafS fun _ hx => (hx.eachWord fun _ _ hy => hy.setOwned).update

theorem State.Inv.backPage (h : s.Inv) {f : MtLeaf} {ct : BitVec 2} {va : Nat} : (s.backPage mt f ct va).Inv := by
  unfold State.backPage
  split
  · exact h
  split
  · exact h
  · exact State.Inv.foldlOf (h.touchPage.withMem (Memory.wf_takeOwned h.touchPage.mem _ _ _ _ _)) fun _ _ hx => hx.invalidate

theorem State.Inv.fillOwners (h : s.Inv) {g : Graph} : (s.fillOwners g).Inv := by
  refine h.foldlOf fun x m hx => ?_
  have hy := hx.onMtLeafS (mt := m.1) (l := m.2)
    (f := fun f => { f with store := [], lanes := [], records := [], pages := [] }) fun _ _ => rfl
  exact hy.foldlOf fun _ _ hz => hz.foldlOf fun _ _ hw => hw.fillPage

theorem State.Inv.onLeafForS (h : s.Inv) {f : MtLeaf → MtLeaf} (hf : ∀ x : MtLeaf, x.Sound → (f x).Sound) :
    (s.onLeafFor part mt l f).Inv := by
  unfold State.onLeafFor
  split
  · exact h.onStashS fun _ hx => hf _ hx
  · exact h.onMtLeafS hf

theorem State.Inv.backOwners (h : s.Inv) {g : Graph} : (s.backOwners g).Inv :=
  h.foldlOf fun _ _ hx => hx.foldlOf fun _ _ hy => hy.foldlOf fun _ _ hz => hz.backPage

theorem State.Inv.uses (h : s.Inv) {f : LastUse → Nat → LastUse} : (s.uses mt f).Inv := h.onMtOf

theorem State.Inv.atOwner (h : s.Inv) {ok : ReqBody → Bool} {g : Flying → Site → Leaf → W64 → State → State}
    (hg : ∀ f mt l e (x : State), x.Inv → (g f mt l e x).Inv) : (s.atOwner i ok g).Inv := by
  unfold State.atOwner
  split
  · exact h
  split
  · exact h
  split
  · split
    · exact h.land.failReq
    split
    · exact h
    dsimp only
    split
    · exact h.land.uses.failReq
    · exact hg _ _ _ _ _ h.land.uses
  · exact h

theorem execOwnerRequest_inv (h : s.Inv) : Sound (execOwnerRequest i s) := by
  dsimp only [execOwnerRequest]
  refine (h.atOwner (fun _ _ _ _ _ hx => ?_)).next
  split
  · exact (hx.onMtLeafS (fun _ hx' => hx'.setLine)).written
  split
  · exact hx.failReq
  · exact hx.answer

theorem State.Inv.tellSub (h : s.Inv) {src : Option DieId} {u : Subscriber} {tok : Token} :
    (s.tellSub src part u tok).Inv := by
  dsimp only [State.tellSub]
  split
  · exact h.sendReady
  split
  · exact h.sendLink
  · exact h

theorem State.Inv.tellSubs (h : s.Inv) {src : Option DieId} {r : CounterRec} {sector : Nat} {subs : List Subscriber}
    {status : W32} : (s.tellSubs src part r sector subs status).Inv := h.foldlOf (fun _ _ hx => hx.tellSub)

theorem MtLeaf.Sound.resetSector {f : MtLeaf} (h : f.Sound) {ct : BitVec 2} {sector : Nat} :
    (f.resetSector ct sector).Sound := h.eachWord fun _ _ hy => hy.setOwned

theorem State.Inv.subscribe (h : s.Inv) {u : Subscriber} {sector : Nat} {r : CounterRec} :
    (s.subscribe mt l part u sector r).1.Inv := by
  unfold State.subscribe
  split
  · exact h
  split
  · exact h.tellSubs
  split
  · exact h.tellSubs
  · exact h.onMtLeafS fun _ hx => hx

theorem State.Inv.fillCounter (h : s.Inv) {ct : BitVec 2} {sector : Nat} {c : W32} {u : Subscriber} :
    (s.fillCounter mt l ct sector c u).1.Inv := by
  unfold State.fillCounter
  extract_lets count part r r1 y
  have hy : y.Inv := h.onMtLeafS fun _ hx => hx
  split
  · exact h
  split
  · exact h
  split
  · exact State.Inv.tellSubs (h.onMtLeafS fun _ hx => hx.resetSector)
  split
  · exact h
  split
  · exact hy.subscribe
  · exact hy

theorem State.Inv.addCounter (h : s.Inv) {ct : BitVec 2} {va : Nat} {v : Vec} : (s.addCounter mt l ct va v).1.Inv := by
  unfold State.addCounter
  extract_lets sector part r y rcv done r1 w
  have hy : y.Inv := h.onMtLeafS fun _ hx => hx.eachWord fun _ _ hx => hx.addOwned
  have hw : w.Inv := hy.onMtLeafS fun _ hx => hx
  split
  · exact h
  split
  · exact h
  split
  · exact h
  · exact State.Inv.ite hw.tellSubs hw

theorem State.Inv.turnAway (h : s.Inv) {r : CounterRec} : (s.turnAway q r).Inv := by
  dsimp only [State.turnAway]
  split
  · split
    · exact h.tellSub.respondTo
    · exact h.respondTo
  · exact h.reportTo.refuseFillc

theorem State.Inv.counted (h : s.Inv) {r : State × Counted} (hr : r.1.Inv) : (s.counted q r).Inv := by
  unfold State.counted
  split
  · exact hr.written
  · exact hr.failReq
  · exact hr.turnAway
  · exact h

theorem execFillcAtOwner_inv (h : s.Inv) : Sound (execFillcAtOwner i s) := by
  dsimp only [execFillcAtOwner]
  refine (h.atOwner (fun _ _ _ _ _ hx => ?_)).next
  split
  · exact h.counted hx.fillCounter
  · exact hx

theorem execRedcAtOwner_inv (h : s.Inv) : Sound (execRedcAtOwner i s) := by
  dsimp only [execRedcAtOwner]
  refine (h.atOwner (fun _ _ _ _ _ hx => ?_)).next
  split
  · split
    · exact hx.failReq
    · exact h.counted hx.addCounter
  · exact hx

theorem execCounterTimeout_inv (h : s.Inv) : Sound (execCounterTimeout mt l i s) := by
  dsimp only [execCounterTimeout]
  split
  · exact (h.onMtLeafOf.tellSubs.notify _ _ _).next
  · exact h.next

theorem State.Inv.noteAmo (h : s.Inv) {t : Target} {m : Option (BitVec 8)} {src : Site} {serial : BitVec 12} {old : W32} :
    (s.noteAmo t m src part serial old).Inv := h.update

theorem State.Inv.replyAmo (h : s.Inv) {ret : Bool} {old : W32} : (s.replyAmo q ret old).Inv := by
  dsimp only [State.replyAmo]
  split
  · exact h.answer
  · exact h.written

theorem State.Inv.applyAmo (h : s.Inv) {f : Flying} {old : W32} {write : W32 → State → State}
    (hw : ∀ v (x : State), x.Inv → (write v x).Inv) : (s.applyAmo f old write).Inv := by
  unfold State.applyAmo
  split
  · dsimp only
    split
    · exact h.replyAmo
    · exact (hw _ _ h).noteAmo.replyAmo
  · exact h

theorem State.Inv.putWord (h : s.Inv) {pa : Nat} {v : W32} {id : Nat} {part : Option (BitVec 6)} :
    (s.putWord pa v d id part).Inv := h.putLine

theorem State.Inv.amoPhys (h : s.Inv) {f : Flying} {pa : Nat} : (s.amoPhys f pa).Inv := by
  dsimp only [State.amoPhys]
  split
  · exact h.failReq
  · exact h.applyAmo (fun _ _ hx => hx.putWord)

theorem execAmoApply_inv (h : s.Inv) : Sound (execAmoApply i s) := by
  unfold execAmoApply
  split
  · exact h.next
  dsimp only
  refine .ite h.next ?_
  split
  · exact (h.atOwner fun _ _ _ _ _ hx => .ite hx.failReq <| .ite hx.failReq <|
      hx.applyAmo fun _ _ hy => hy.onMtLeafS fun _ hz => hz.setOwned).next
  · exact .ite h.next <| .ite h.land.failReq.next <| .ite h.next <| .ite h.next h.onSlice.land.amoPhys.next
  · exact .ite h.next <| .ite h.land.failReq.next <| .ite h.next h.land.amoPhys.next
  · exact h.next
  · exact h.land.failReq.next

/-! ## Edge buffers and copy engines (R244-R247, R306-R323) -/

theorem State.Inv.ebufTake (h : s.Inv) {x : Fin 8} : (s.ebufTake mt l x).Inv := h.ebufReturn.onEbuf

theorem State.Inv.ebufPut (h : s.Inv) {x : Fin 8} {tok : Token} : Keeps (s.ebufPut mt l x tok) := by
  dsimp only [State.ebufPut]
  split
  · exact h.ebufStore.keeps
  · exact keeps_map (fun _ e => h.ebufStore)

theorem execEdgeBufferPass_inv (h : s.Inv) {x : Fin 8} : Sound (execEdgeBufferPass mt l x s) := by
  dsimp only [execEdgeBufferPass]
  split
  · exact h.next
  split
  · exact h.tellReg.next
  split
  · exact h.onEbuf.next
  split
  · split
    · exact h.next
    · exact h.ebufTake.onEbuf.next
  · exact h.next

theorem execEdgeBufferRelease_inv (h : s.Inv) {x : Fin 8} : Sound (execEdgeBufferRelease mt l x s) := by
  dsimp only [execEdgeBufferRelease]
  split
  · exact h.onEbuf.next
  · exact h.next

theorem execCompletionTokenPublish_inv (h : s.Inv) {tag : Fin 16} : Sound (execCompletionTokenPublish mt l tag s) := by
  dsimp only [execCompletionTokenPublish]
  split
  · exact h.next
  split
  · exact h.tellReg.next
  split
  · exact h.next
  next e => exact ((h.ebufPut e).onMtLeafOf).next

theorem State.Inv.sendBeat {u : State} (h : s.Inv) {i : Fin 4} {run : Nat} {byCore : Bool} {va : W64} {v : Vec}
    (e : s.sendBeat mt l i run byCore va v = .sent u) : u.Inv := by
  unfold State.sendBeat at e
  dsimp only at e
  split at e
  · cases e
  · cases e
  next e' =>
    cases e
    exact Way.Sound.of_goes (State.Inv.routeNow h.takeId.onTpl.update) e'

theorem State.Inv.sendBeat_waits {u : State} (h : s.Inv) {i : Fin 4} {run : Nat} {byCore : Bool} {va : W64} {v : Vec}
    (e : s.sendBeat mt l i run byCore va v = .waits u) : u.Inv := by
  unfold State.sendBeat at e
  dsimp only at e
  split at e
  · cases e
  · cases e; exact h.onTpl
  · cases e

theorem State.Inv.countWords (h : s.Inv) {c : Chunk} : (s.countWords c).Inv := by
  dsimp only [State.countWords]
  split
  · exact h
  · exact h.onMtLeafOf

theorem execCopyChunkAck_inv (h : s.Inv) : Sound (execCopyChunkAck i s) := by
  dsimp only [execCopyChunkAck]
  split
  · exact h.next
  split
  · exact h.next
  · exact h.update.countWords.endRun.next

theorem State.Inv.applyPending (h : s.Inv) {u : Fin 4} : (s.applyPending mt l u).Inv := by
  dsimp only [State.applyPending]
  split
  · exact h
  split
  · exact h.onTpl
  · exact h.onTpl.tellTemplate

theorem State.Inv.beatNow (h : s.Inv) : (s.beatNow mt).Inv := h.uses

theorem State.Inv.scatterBeat (h : s.Inv) {u : Fin 4} {v : Vec} : Keeps (s.scatterBeat mt l u v) := by
  dsimp only [State.scatterBeat]
  split
  · exact keeps_none
  split
  next e => exact (((h.sendBeat e).onTpl).beatNow).keeps
  · exact keeps_none
  · exact h.onTpl.tellTemplate.keeps

theorem State.Inv.queueToken (h : s.Inv) {u : Fin 4} {tok : Token} : Keeps (s.queueToken mt l u tok) := by
  dsimp only [State.queueToken]
  split
  · split
    · exact h.keeps
    · split
      · split
        · exact keeps_none
        · exact h.scatterBeat
      · split
        · exact h.takeId.onTpl.keeps
        · exact keeps_none
  split
  · split
    · split
      · exact h.ebufPut
      · exact keeps_none
    · exact h.keeps
  split
  · split
    · exact keeps_none
    · split
      · exact h.applyPending.onTpl.ebufPut
      · exact h.applyPending.onTpl.keeps
  split
  · exact h.onTpl.keeps
  · exact h.keeps

theorem State.Inv.queueEcc (h : s.Inv) {u : Fin 4} : (s.queueEcc mt l u).Inv := h.onTpl.tellTemplate

theorem State.Inv.forwardMarker (h : s.Inv) : (s.forwardMarker mt l).Inv :=
  (h.foldlOf (fun _ _ hx => hx.onEbuf)).onMtLeafOf

theorem execTemplateQueueHead_inv (h : s.Inv) {u : Fin 4} : Sound (execTemplateQueueHead mt l u s) := by
  dsimp only [execTemplateQueueHead]
  split
  · exact h.next
  split
  · split
    · exact h.tellReg.next
    · split
      · exact h.ebufTake.queueEcc.next
      · exact (h.getD h.ebufTake.queueToken).next
  split
  · exact h.forwardMarker.next
  · exact h.next

theorem execCopyRunStart_inv (h : s.Inv) {u : Fin 4} : Sound (execCopyRunStart mt l u s) := by
  dsimp only [execCopyRunStart]
  split
  · exact h.next
  split
  · exact h.onTpl.next
  · exact h.next

theorem State.Inv.readBeat (h : s.Inv) {u : Fin 4} {r : CopyRun} : (s.readBeat mt l u r).Inv := by
  dsimp only [State.readBeat]
  split
  · exact h.runFails
  · exact h
  next e => exact h.takeId.onRun.routeNow.of_goes e

theorem State.Inv.beatSent (h : s.Inv) {u : Fin 4} {last : Bool} : (s.beatSent mt l u last).Inv := h.onRun.endRun

theorem State.Inv.writeBeat (h : s.Inv) {u : Fin 4} {r : CopyRun} {v : Vec} : (s.writeBeat mt l u r v).Inv := by
  unfold State.writeBeat
  dsimp only
  split
  next e => exact (h.sendBeat e).beatSent
  next e => exact h.sendBeat_waits e
  · exact h.runFails

theorem State.Inv.streamBeat (h : s.Inv) {u : Fin 4} {r : CopyRun} {c : ChainAt} {v : Vec} {last : Bool} :
    (s.streamBeat mt l u r c v last).Inv := by
  dsimp only [State.streamBeat]
  split
  · exact h
  next e => exact (h.ebufPut e).beatSent

theorem State.Inv.beat (h : s.Inv) {u : Fin 4} {r : CopyRun} : (s.beat mt l u r).Inv := by
  dsimp only [State.beat]
  split
  · exact h.runFails
  split
  · split
    · exact h.streamBeat
    · split
      · exact h.onRun.endRun
      · exact h.readBeat
  split
  · exact h.writeBeat
  · exact h.readBeat

theorem State.Inv.unitBeat (h : s.Inv) {u : Fin 4} : Keeps (s.unitBeat mt l u) := by
  dsimp only [State.unitBeat]
  split
  · exact keeps_none
  split
  · exact h.beat.keeps
  · exact keeps_none

theorem State.Inv.nextUnit {x : State} (h : s.Inv) {u : Fin 4} (e : s.nextUnit mt l = some (u, x)) : x.Inv := by
  obtain ⟨k, -, hk⟩ := List.exists_of_findSome?_eq_some e
  obtain ⟨y, hy, e'⟩ := Option.map_eq_some_iff.1 hk
  cases e'
  exact h.unitBeat hy

theorem execCopyBeat_inv (h : s.Inv) {u : Fin 4} : Sound (execCopyBeat mt l u s) := by
  unfold execCopyBeat
  refine .ite h.next ?_
  split
  · exact h.next
  next e => exact .ite (State.Inv.beatNow (h.nextUnit e).onMtOf).next h.next

theorem State.Inv.hostReadFails (h : s.Inv) {f : Flying} {c : Cause} : (s.hostReadFails f c).Inv :=
  State.Inv.failReq (h.land.onHostOf (f := fun x => { x with readErrors := x.readErrors + 1 }))

theorem execHostReadCompletion_inv (h : s.Inv) {st : PcieStatus} : Sound (execHostReadCompletion i st s) := by
  dsimp only [execHostReadCompletion]
  split
  · split
    · split
      · exact h.takeEffect.next
      · exact h.hostReadFails.next
      · exact h.hostReadFails.next
    · exact h.next
  · exact h.next

theorem execHostCompletionTimeout_inv (h : s.Inv) : Sound (execHostCompletionTimeout i s) := by
  dsimp only [execHostCompletionTimeout]
  split
  · split
    · exact h.hostReadFails.next
    · exact h.next
  · exact h.next

theorem State.Inv.install (h : s.Inv) {u : Fin 4} {g : Nat} {w : Vector W32 20} : (s.install mt l u g w).Inv := by
  dsimp only [State.install]
  split
  · exact h.onTpl.onMtLeafOf
  · exact h.onTpl

theorem State.Inv.armWith (h : s.Inv) {u : Fin 4} {w : Vector W32 20} : (s.armWith q mt l u w).Inv := by
  dsimp only [State.armWith]
  split
  · exact h.onFlying
  · exact h.land.install.written

theorem State.Inv.askLine (h : s.Inv) {f : Flying} {u : Fin 4} {ea : W64} : (s.askLine f mt l u ea).Inv := by
  dsimp only [State.askLine]
  split
  · exact h.land.failReq
  · exact h
  next e => exact h.takeId.onFlying.routeNow.of_goes e

theorem execArmAtMemoryTile_inv (h : s.Inv) : Sound (execArmAtMemoryTile i s) := by
  dsimp only [execArmAtMemoryTile]
  split
  · exact h.next
  split
  · split
    · exact h.land.failReq.next
    · split
      · exact h.next
      · split
        · exact h.armWith.next
        · split
          · exact h.land.failReq.next
          · exact h.armWith.next
        · split
          · exact h.next
          · exact h.askLine.next
  · exact h.next

theorem execFireTokenEnqueue_inv (h : s.Inv) : Sound (execFireTokenEnqueue i s) := by
  dsimp only [execFireTokenEnqueue]
  split
  · exact h.next
  split
  · split
    · exact h.land.failReq.next
    · split
      · exact h.next
      · split
        · exact h.next
        next e => exact (((h.ebufPut e).land).acknowledge).next
  · exact h.next

theorem State.Inv.tplfire (h : s.Inv) {u : Fin 4} {v : W64} : Keeps (s.tplfire mt l u v) := by
  dsimp only [State.tplfire]
  split
  · exact keeps_none
  · exact h.takeId.onTpl.keeps

theorem execTplfireWrite_inv (h : s.Inv) {u : Fin 4} {v : W64} : Sound (execTplfireWrite k mt l u v s) := by
  dsimp only [execTplfireWrite]
  split
  next e => exact (h.tplfire e).next
  · exact h.ccException.next

theorem State.Inv.setTplst (h : s.Inv) {u : Fin 4} {v : W32} : (s.setTplst mt l u v).Inv := h.onTpl

/-! ## Umbra hosts (R287-R304) -/

theorem MtLeaf.Sound.setKey {f : MtLeaf} (h : f.Sound) {r : KeyRec} : (MtLeaf.setKey f r).Sound := by
  dsimp only [MtLeaf.setKey]
  split
  · exact h.update
  split
  · exact h.update
  · exact h.update

theorem State.Inv.grantTo (h : s.Inv) {src : Sender} {key seq : W32} {poison : Bool} :
    (s.grantTo mt l src key seq poison).Inv := by
  dsimp only [State.grantTo]
  split
  · exact h.onStashOf
  · exact h.update

theorem State.Inv.advanceKey (h : s.Inv) {r : KeyRec} : (s.advanceKey part mt l r).Inv := by
  dsimp only [State.advanceKey]
  split
  · exact h.onLeafForS (fun _ hx => hx.setKey)
  · exact (h.onLeafForS (fun _ hx => hx.setKey)).grantTo

theorem State.Inv.leaveKey (h : s.Inv) {key : W32} {p : Bool} : (s.leaveKey part mt l key p).Inv := h.advanceKey

theorem State.Inv.umbraReport (h : s.Inv) {c : Cause} {key seq : W32} {reason : BitVec 8} {refused : Bool} :
    (s.umbraReport q c key seq reason refused).Inv := h.reportTo

theorem State.Inv.startProbe (h : s.Inv) {r : KeyRec} {id : Nat} {keys : List W32} : (s.startProbe mt l r id keys).Inv := by
  dsimp only [State.startProbe]
  split
  · exact h
  split
  · exact h
  · exact h.update

theorem State.Inv.enterKey (h : s.Inv) {key seq : W32} {keys : List W32} : (s.enterKey mt l q key seq keys).Inv := by
  dsimp only [State.enterKey]
  split
  · exact h.umbraReport
  split
  · exact h.umbraReport
  split
  · exact (h.onMtLeafS (fun _ hx => hx.setKey)).grantTo
  · exact (h.onMtLeafS (fun _ hx => hx.setKey)).startProbe

theorem State.Inv.skipKey (h : s.Inv) {key seq : W32} : (s.skipKey mt l q key seq).Inv := by
  dsimp only [State.skipKey]
  split
  · exact h.umbraReport
  split
  · exact h.umbraReport
  split
  · exact h.advanceKey
  · exact h.onMtLeafS (fun _ hx => hx.setKey)

theorem State.Inv.initKey (h : s.Inv) {key seq : W32} : (s.initKey mt l q key seq).Inv := by
  dsimp only [State.initKey]
  split
  · exact h.umbraReport
  · exact h.onMtLeafS (fun _ hx => hx.setKey)

theorem State.Inv.refuse (h : s.Inv) : (s.refuse q).Inv := h.onMtOf

theorem State.Inv.atHost (h : s.Inv) {g : Req → Site → Leaf → State → Option State}
    (hg : ∀ q mt l (x : State), x.Inv → Keeps (g q mt l x)) : (s.atHost i g).Inv := by
  unfold State.atHost
  split
  · exact h
  split
  · exact h
  split
  · split
    · exact h.land.failReq
    split
    · exact h
    dsimp only
    split
    · exact h.land.uses.reportTo
    · exact h.getD (hg _ _ _ _ h.land.uses)
  · exact h

theorem execUmbraEnterAtHost_inv (h : s.Inv) : Sound (execUmbraEnterAtHost i s) := by
  dsimp only [execUmbraEnterAtHost]
  refine (h.atHost (fun _ _ _ _ hx => ?_)).next
  split
  · split
    · exact hx.refuse.keeps
    · exact hx.enterKey.keeps
  · exact keeps_none

theorem execUmbraLeaveAtHost_inv (h : s.Inv) : Sound (execUmbraLeaveAtHost i s) := by
  dsimp only [execUmbraLeaveAtHost]
  refine (h.atHost (fun _ _ _ _ hx => ?_)).next
  split
  · split
    · exact hx.refuse.keeps
    · exact hx.leaveKey.keeps
  · split
    · exact hx.refuse.keeps
    · exact hx.leaveKey.keeps
  · exact keeps_none

theorem execUmbraSkipAtHost_inv (h : s.Inv) : Sound (execUmbraSkipAtHost i s) := by
  dsimp only [execUmbraSkipAtHost]
  refine (h.atHost (fun _ _ _ _ hx => ?_)).next
  split
  · split
    · exact hx.refuse.keeps
    · exact hx.skipKey.keeps
  · exact keeps_none

theorem execUmbraInitAtHost_inv (h : s.Inv) : Sound (execUmbraInitAtHost i s) := by
  dsimp only [execUmbraInitAtHost]
  refine (h.atHost (fun _ _ _ _ hx => ?_)).next
  split
  · split
    · exact hx.refuse.keeps
    · exact hx.initKey.keeps
  · exact keeps_none

theorem execUmbraRefusalRetry_inv (h : s.Inv) : Sound (execUmbraRefusalRetry mt t s) := by
  dsimp only [execUmbraRefusalRetry]
  split
  · exact h.next
  split
  · exact h.next
  split
  · exact h.next
  · exact h.onMtOf.uses.fly.next

theorem State.Inv.leaveGrant (h : s.Inv) {g : Grant} : (s.leaveGrant g).Inv := by
  dsimp only [State.leaveGrant]
  split
  · exact h.leaveKey
  · exact h

theorem execUmbraGrantArrival_inv (h : s.Inv) : Sound (execUmbraGrantArrival i s) := by
  dsimp only [execUmbraGrantArrival]
  split
  · exact h.next
  split
  · exact h.next
  split
  · exact h.update.next
  split
  · split
    · exact (h.update.onBank _ _ _ _).next
    · exact h.update.leaveGrant.next
  · exact h.update.leaveGrant.next

theorem execUmbstall_inv (h : s.Inv) {key seq : W32} : Sound (execUmbstall mt l key seq s) := by
  dsimp only [execUmbstall]
  split
  · exact ((h.onMtLeafS (fun _ hx => hx.setKey)).notify _ _ _).next
  split
  · exact h.next
  · exact (h.onMtOf.update.notify _ _ _).next

theorem State.Inv.withdraw (h : s.Inv) {key : W32} {id : Nat} : (s.withdraw mt l key id).Inv :=
  h.onMtLeafS (fun _ hx => hx.setKey)

theorem execDeadlockProbeAnswer_inv (h : s.Inv) : Sound (execDeadlockProbeAnswer i s) := by
  dsimp only [execDeadlockProbeAnswer]
  split
  · exact h.next
  split
  · exact h.update.next
  split
  · exact h.update.next
  split
  · exact h.update.withdraw.umbraReport.next
  · exact h.update.next

theorem execUmrelWrite_inv (h : s.Inv) {v : W64} : Sound (execUmrelWrite mt l v s) := by
  dsimp only [execUmrelWrite]
  split
  · exact h.leaveKey.next
  · exact h.next

theorem execUmbraHostMarker_inv (h : s.Inv) : Sound (execUmbraHostMarker mt l s) := by
  dsimp only [execUmbraHostMarker]
  split
  · exact h.onMtLeafOf.next
  · exact h.next

end Sys2Proof.Machine
end

section
/-!
SUPPORT. Launches, signatures and the plan of every tile op keep the invariant.
-/
namespace Sys2Proof.Machine
set_option Elab.async false
variable {s : State} {t mt : Site} {l : Leaf} {b : BankId} {d : DieId} {k : CoreId} {q : Req} {part : BitVec 6} {i : Nat}

/-! ## The launch table and the distributors (R340-R351) -/

theorem State.Inv.onEntry (h : s.Inv) {n : Nat} {f : LaunchEntry → LaunchEntry} : (s.onEntry n f).Inv := h.update

theorem State.Inv.makeReady (h : s.Inv) {n o : Nat} : (s.makeReady n o).Inv := h.onEntry.update

theorem State.Inv.readyCheck (h : s.Inv) {n o : Nat} : (s.readyCheck n o).Inv := by
  dsimp only [State.readyCheck]
  split
  · exact h.makeReady
  · exact h

theorem State.Inv.writeEntry (h : s.Inv) {n j : Nat} {v : W32} : (s.writeEntry n j v).Inv := by
  dsimp only [State.writeEntry]
  split
  · split
    · exact h.onEntry
    · exact h
  split
  · exact h.onEntry.makeReady
  · exact h.onEntry.readyCheck

theorem State.Inv.decrement (h : s.Inv) {n o : Nat} : (s.decrement n o).Inv := h.onEntry.readyCheck

theorem State.Inv.completeEntry (h : s.Inv) {n : Nat} : (s.completeEntry n).Inv := by
  dsimp only [State.completeEntry]
  split
  · split
    · exact h.onEntry.decrement.decrement
    · exact h.onEntry.decrement
  split
  · exact h.onEntry.decrement
  · exact h.onEntry

theorem State.Inv.endPool (h : s.Inv) {n : Nat} {status : W32} : (s.endPool n status).Inv := by
  dsimp only [State.endPool]
  split
  · exact h
  split
  · exact h.update.sendReady
  · exact h.update

theorem State.Inv.finish (h : s.Inv) {slot : Nat} {ended : Bool} {status : W32} : (s.finish slot ended status).Inv := by
  dsimp only [State.finish]
  split
  · split
    · exact h.completeEntry
    · exact h.onEntry
  · exact h.endPool

theorem State.Inv.channelsAtLoad (h : s.Inv) {g : Nat} {x : Graph} : (s.channelsAtLoad g x).Inv :=
  (h.foldlOf (fun _ _ hx => hx.onCtx _ _ _)).foldlOf (fun _ _ hx => hx.onMtOf)

theorem State.Inv.dropReleases (h : s.Inv) {gi : Nat} {g : Graph} {slot : Nat} : (s.dropReleases gi g slot).Inv :=
  h.update

theorem State.Inv.bindFeeders (h : s.Inv) {slot : Nat} {fs : List Feeder} : (s.bindFeeders slot fs).Inv :=
  h.foldlOf (fun _ _ hx => hx.onCtx _ _ _)

theorem State.Inv.startElastic (h : s.Inv) {g : Graph} : (s.startElastic g).Inv := by
  dsimp only [State.startElastic]
  refine h.foldlOf (fun _ _ hx => hx.foldlOf (fun _ _ hx' => ?_))
  split
  · exact (hx'.onDie _ _).foldlOf (fun _ _ hx' => hx'.onCtx _ _ _)
  · exact hx'

theorem State.Inv.startGraph (h : s.Inv) {x : Start} {gi : Nat} {g : Graph} : (s.startGraph x gi g).Inv := by
  dsimp only [State.startGraph]
  split
  · exact h.finish.notify _ _ _
  · exact ((h.fillOwners.dropReleases.channelsAtLoad.startElastic.foldlOf (fun _ _ hx => hx.onCtx _ _ _)).bindFeeders).update

theorem State.Inv.running (h : s.Inv) {slot : Nat} : (s.running slot).Inv := by
  dsimp only [State.running]
  split
  · exact h.onEntry
  · exact h.update

theorem execEntryStart_inv (h : s.Inv) : Sound (execEntryStart s) := by
  dsimp only [execEntryStart]
  split
  · exact h.next
  split
  · exact h.next
  split
  · exact h.finish.next
  split
  · exact h.next
  split
  · exact h.next
  · exact h.running.startGraph.next

theorem State.Inv.toTrigger (h : s.Inv) {ch : Fin 8} {i : Item} : (s.toTrigger t l ch i).Inv := h.onCtx _ _ _

theorem execIndexTokenPublish_inv (h : s.Inv) : Sound (execIndexTokenPublish i s) := by
  dsimp only [execIndexTokenPublish]
  split
  · exact h.next
  split
  · split
    · exact h.next
    · split
      · exact h.next
      · exact h.update.toTrigger.next
  · exact h.next

theorem execDieShareReport_inv (h : s.Inv) : Sound (execDieShareReport d i s) := by
  dsimp only [execDieShareReport]
  split
  · exact h.next
  split
  · exact h.next
  split
  · exact h.onLaunchOf.next
  · exact h.next

theorem State.Inv.leaveSections (h : s.Inv) : (s.leaveSections t l).Inv := by
  dsimp only [State.leaveSections]
  refine h.foldlOf (fun _ _ hx => hx.foldlOf (fun _ _ hx' => ?_))
  split
  · split
    · exact (hx'.onBank _ _ _ _).leaveKey
    · exact hx'.onBank _ _ _ _
  · exact hx'

theorem State.Inv.releaseEdges (h : s.Inv) {gi : Nat} {g : Graph} : (s.releaseEdges gi g).Inv :=
  h.foldlOf (fun _ _ hx => hx.onMtOf)

theorem State.Inv.settleEnd (h : s.Inv) {gi : Nat} {g : Graph} : (s.settleEnd gi g).Inv :=
  State.Inv.releaseEdges <| State.Inv.foldlOf (h.foldlOf fun _ _ hx => hx.onCtx _ _ _) fun _ _ hx =>
    hx.onMtS fun _ hm => hm.setLeaf (MtLeaf.Sound.update (hm _))

theorem State.Inv.dropLaunch (h : s.Inv) {slot : Nat} : (s.dropLaunch slot).Inv := h.update

theorem execGraphEnd_inv (h : s.Inv) : Sound (execGraphEnd i s) := by
  dsimp only [execGraphEnd]
  split
  · exact h.next
  split
  · exact h.next
  split
  · exact h.next
  split
  · exact h.next
  split
  · exact h.backOwners.onLaunchOf.next
  split
  · exact h.next
  · exact ((((h.foldlOf (fun _ _ hx => hx.leaveSections)).settleEnd).dropLaunch).finish).next

theorem MtLeaf.Sound.unwait {f : MtLeaf} (h : f.Sound) {hit : Sender → Bool} : (f.unwait hit).Sound := h

theorem State.Inv.withdrawAll (h : s.Inv) {hit : Sender → Bool} {here : List (Site × Leaf)} :
    (s.withdrawAll hit here).Inv := by
  unfold State.withdrawAll
  dsimp only
  exact h.mapTables rfl rfl rfl rfl rfl rfl (fun _ => rfl) (fun _ hx => hx) (fun _ => rfl) fun q hm =>
    MemTile.Sound.mapLeaves hm rfl fun _ hx => hx.unwait

theorem State.Inv.clearFabric (h : s.Inv) {g : Nat} : (s.clearFabric g).Inv := h.update

theorem State.Inv.killTemplates (h : s.Inv) {gi : Nat} {g : Graph} : (s.killTemplates gi g).Inv :=
  h.foldlOf fun _ _ hx => hx.onMtS fun _ hm => hm.setLeaf (MtLeaf.Sound.update (hm _))

theorem Stash.Sound.kill {x : Stash} (h : x.Sound) {hit : Sender → Bool} {gi : Nat} {g : Graph} :
    (x.kill hit gi g).Sound := by
  unfold Stash.kill
  dsimp only
  split
  · exact h
  split
  · exact h
  split
  · exact h
  · exact h

theorem State.Inv.killCtx (h : s.Inv) {lost : Fin 8 → Nat} : (s.killCtx t l lost).Inv := h.leaveSections.onTileOf

theorem State.Inv.kill (h : s.Inv) {l : Launch} {g : Graph} : (s.kill l g).Inv := by
  unfold State.kill
  extract_lets here hit s1 s2 s3 s4
  have h1 : s1.Inv := h.backOwners.withdrawAll
  have h2 : s2.Inv := h1.mapStash fun _ hx => hx.kill
  have h3 : s3.Inv := h2.foldlOf fun _ _ hx => hx.killCtx
  have h4 : s4.Inv := h3.killTemplates.releaseEdges
  exact h4.clearFabric.dropLaunch.finish

theorem execLaunchAtMaster_inv (h : s.Inv) : Sound (execLaunchAtMaster i s) := by
  dsimp only [execLaunchAtMaster]
  split
  · exact h.next
  split
  · split
    · exact h.land.update.next
    · exact h.land.endPool.failReq.next
  · exact h.next

theorem execMasterElection_inv (h : s.Inv) : Sound (execMasterElection s) := by
  unfold execMasterElection
  refine .ite h.next ?_
  split
  · exact h.next
  dsimp only
  refine State.Inv.next (State.Inv.foldlOf (State.Inv.foldlOf ?_ fun x _ hx => ?_) fun _ _ hx => hx.writeEntry)
  · exact State.Inv.update (h.onHostOf (f := fun x => { x with held := [] }))
  · split
    · split
      · exact hx.notify _ _ _
      · exact hx
    · exact hx

theorem State.Inv.sendArrivals (h : s.Inv) {c : LeafCtx} : (s.sendArrivals c).Inv := by
  dsimp only [State.sendArrivals]
  refine h.foldlOf (fun _ _ hx => ?_)
  split
  · exact hx.sendLink
  · exact hx

theorem State.Inv.completeBarrier (h : s.Inv) {scope : Fin 5} : (s.completeBarrier t l scope).Inv :=
  h.foldlOf (fun _ _ hx => hx.onCtx _ _ _)

theorem execBarrierEpisodeComplete_inv (h : s.Inv) {scope : Fin 5} : Sound (execBarrierEpisodeComplete t l scope s) := by
  dsimp only [execBarrierEpisodeComplete]
  split
  · exact h.next
  split
  · exact h.next
  split
  · exact (h.sendArrivals.foldlOf (fun _ _ hx => hx.onCtx _ _ _)).next
  split
  · exact h.next
  · exact h.completeBarrier.next

theorem State.Inv.onElastic (h : s.Inv) {e : Fin 16} {f : Elastic → Elastic} : (s.onElastic d e f).Inv := h.onDie _ _

theorem execMillinerSample_inv (h : s.Inv) {e : Fin 16} : Sound (execMillinerSample d e s) := by
  dsimp only [execMillinerSample]
  split
  · exact h.onElastic.next
  · exact h.next

theorem execTileActivation_inv (h : s.Inv) {e : Fin 16} : Sound (execTileActivation d e s) := by
  dsimp only [execTileActivation]
  split
  · exact h.onElastic.next
  · exact h.next

theorem execTileDeactivation_inv (h : s.Inv) {e : Fin 16} : Sound (execTileDeactivation d e s) := by
  dsimp only [execTileDeactivation]
  split
  · split
    · exact h.onElastic.next
    · exact h.next
  · exact h.next

theorem execElasticQueuePass_inv (h : s.Inv) {e : Fin 16} : Sound (execElasticQueuePass d e s) := by
  dsimp only [execElasticQueuePass]
  split
  · exact h.next
  split
  · exact (h.onEbuf.foldlOf (fun _ _ hx => hx.toTrigger)).next
  split
  · split
    · exact h.next
    · exact h.ebufTake.onEbuf.onElastic.toTrigger.next
  · exact h.next

/-! ## Signatures (R337-R339) -/

theorem State.Inv.putSig (h : s.Inv) {die : DieId} {n : Nat} {v : W64} {bad : Bool} : (s.putSig die n v bad).Inv := by
  dsimp only [State.putSig]
  split
  · exact h.update.onDie _ _
  · exact h.onDie _ _

/-! ## The plan of every tile op (R44, R59-R61) -/

theorem producerPlan_sound {ch : BitVec 3} {n : Nat} {rs : List RegRef} {f : OutCh → OutCh} :
    (producerPlan s ch n rs f).Sound := fun _ h => h.onCurCtx _

theorem nullPlan_sound {ch : BitVec 3} : (nullPlan ch s).Sound := producerPlan_sound

theorem entryPlan_sound {rs : List RegRef} {check late : Option FaultInfo} {op : MsOp} :
    (entryPlan s rs check late op).Sound := fun _ h => (h.onCurTileOf).takeId

theorem leavePlan_sound {a : BitVec 5} {body : W32 → ReqBody} : (leavePlan a body s).Sound := by
  unfold leavePlan
  dsimp only
  split
  · exact .of_id rfl
  · exact fun _ h => h.umbraRelease.onCurBank _

theorem maskPlan_sound {f : W16 → W16} : (maskPlan s f).Sound := fun _ h => h.maskNext

theorem planMarkEos_sound {g : Pg} {ch : BitVec 3} {a : BitVec 5} : (planMarkEos g ch a s).2.Sound :=
  guarded_sound (fun x h => (producerPlan_sound x h).markEdges) nullPlan_sound

theorem planAmo_sound {g : Pg} {q : BitVec 4} {b : BitVec 5} {fn : BitVec 4} {ret : Option (BitVec 3)} :
    (planAmo g q b fn ret s).2.Sound := by
  refine guarded_sound ?_ nothing_sound
  cases ret with
  | none => exact fun _ h => h.access
  | some ch => exact fun _ h => h.access.countQ

theorem planFillc_sound {g : Pg} {d : BitVec 5} {q : BitVec 4} {imm : BitVec 12} : (planFillc g d q imm s).2.Sound := by
  refine guarded_sound ?_ nothing_sound
  dsimp only
  split
  · exact fun _ h => h.access.countRn
  · exact fun _ h => h.access

theorem planCdif_sound {g : Pg} {k : BitVec 4} {a : BitVec 5} : (planCdif g k a s).2.Sound := by
  refine guarded_sound (fun x h => ?_) nothing_sound
  dsimp only
  split
  · exact h.onCurTileOf
  · exact h

theorem planMdrain_sound {g : Pg} {d : Bool} {u : BitVec 4} {sh : Bool} {steer : DrainSel} :
    (planMdrain g d u sh steer s).2.Sound := by
  refine guarded_sound ?_ nothing_sound
  cases steer with
  | scalar | head => exact entryPlan_sound

theorem planVsigChk_sound {g : Pg} {d a b : BitVec 4} : (planVsigChk g d a b s).2.Sound := by
  refine guarded_sound ?_ nothing_sound
  dsimp only
  split
  · exact .of_id rfl
  · exact fun _ h => h.putSig

theorem planLnch_sound {g : Pg} {a : BitVec 5} {range : Option (BitVec 4)} {ret : Option (BitVec 3)} :
    (planLnch g a range ret s).2.Sound := by
  refine guarded_sound (fun x h => ?_) nothing_sound
  dsimp only
  cases ret with
  | none => exact h.toPort.update
  | some ch => exact State.Inv.countRn h.toPort.update

theorem planCsav_sound {g : Pg} {d : BitVec 2} {a : BitVec 5} : (planCsav g d a s).2.Sound := by
  refine guarded_sound (fun x h => ?_) nothing_sound
  dsimp only
  exact h.onCurTileS fun _ ht => ht.putScratch

theorem planWrsr_sound {g : Pg} {a : BitVec 5} {num : BitVec 12} : (planWrsr g a num s).2.Sound := by
  refine guarded_sound (fun x h => ?_) nothing_sound
  dsimp only
  split
  · exact h.maskNext
  · exact h

theorem planPushm_sound {g : Pg} {a b : BitVec 5} : (planPushm g a b s).2.Sound := by
  refine guarded_sound (fun x h => ?_) nothing_sound
  dsimp only
  split
  · exact h
  · exact h.onCurTileS fun _ ht => ht.putScratch

theorem planVpushm_sound {g : Pg} {a b : BitVec 4} : (planVpushm g a b s).2.Sound := by
  refine guarded_sound (fun x h => ?_) nothing_sound
  dsimp only
  split
  · exact h
  · exact h.onCurTileS fun _ ht => ht.putScratch

/-- The effect of every tile op keeps the invariant. -/
theorem planOf_sound {i : Instr} {p : State → SlotPlan} (h : planOf i = some p) (s : State) : (p s).2.Sound := by
  cases i
  all_goals cases h
  case pop | pops | adv => exact guarded_sound (fun _ h => h.advanceIn) nothing_sound
  case push | pub | markRe => exact guarded_sound producerPlan_sound producerPlan_sound
  case poke | pushs | null => exact guarded_sound producerPlan_sound nothing_sound
  case markEos => exact planMarkEos_sound
  case sts | stsw => exact guarded_sound (fun _ h => h.onCurTileS fun _ ht => ht.storeScratch) nothing_sound
  case csav => exact planCsav_sound
  case ldg | ldw => exact guarded_sound (fun _ h => h.access.countQ) nothing_sound
  case stg | redc | arm => exact guarded_sound (fun _ h => h.access) nothing_sound
  case fire => exact guarded_sound (fun _ h => h.accessAfter) nothing_sound
  case amo => exact planAmo_sound
  case fillc => exact planFillc_sound
  case bar => exact guarded_sound (fun _ h => h.onCurBank _) nothing_sound
  case cmap | cact | send => exact guarded_sound (fun _ h => h.onCurTileOf) nothing_sound
  case cdif => exact planCdif_sound
  case mlat | mlatc | mma | mzero | msav | mrst => exact guarded_sound entryPlan_sound nothing_sound
  case mdrain => exact planMdrain_sound
  case umen => exact guarded_sound (fun _ h => h.toPort.onCurBank _) nothing_sound
  case umlv | umabt => exact guarded_sound leavePlan_sound nothing_sound
  case umsk => exact guarded_sound (fun _ h => h.umbraRelease) nothing_sound
  case umini => exact guarded_sound (fun _ h => h.toPort) nothing_sound
  case cmask | cunm => exact guarded_sound maskPlan_sound nothing_sound
  case cfgt => exact guarded_sound (fun _ h => h.onCurCtx _) nothing_sound
  case lnch => exact planLnch_sound
  case vsigChk => exact planVsigChk_sound
  case pushm => exact planPushm_sound
  case vpushm => exact planVpushm_sound
  case wrsr => exact planWrsr_sound
  case nop => exact .of_id rfl
  all_goals exact guarded_sound (.of_id rfl) nothing_sound

theorem bundlePlans_sound {w : Bundle} : ∀ q ∈ bundlePlans w s, q.2.Sound := fun q hq => by
  obtain ⟨k, -, hk⟩ := List.mem_filterMap.1 hq
  obtain ⟨p, hp, rfl⟩ := Option.map_eq_some_iff.1 hk
  obtain ⟨i, -, hi⟩ := Option.bind_eq_some_iff.1 hp
  exact planOf_sound hi s

theorem State.Inv.atBank (h : s.Inv) : (s.atBank t b).Inv := h.update

end Sys2Proof.Machine
end

section
/-!
SUPPORT. Context swaps, the fabric instructions of a control core and the host keep the invariant.
-/
namespace Sys2Proof.Machine
set_option Elab.async false
variable {s : State} {t mt : Site} {l : Leaf} {b : BankId} {d : DieId} {k : CoreId} {q : Req} {part : BitVec 6} {i : Nat}

/-! ## Context images (R355-R357) -/

theorem Tile.Sound.onEntries {x : Tile} (h : x.Sound) {run : Bool} {f : Nat → MsEntry → MsEntry} :
    (Tile.onEntries x l run f).Sound := by
  dsimp only [Tile.onEntries]
  split
  · exact h.update
  split
  · exact h.update
  · exact h.update

theorem Tile.Sound.setHeaderWord {x : Tile} (h : x.Sound) {v : W32} : (Tile.setHeaderWord x l i v).Sound := by
  dsimp only [Tile.setHeaderWord]
  split
  · split
    · exact h
    · exact h
  split
  · exact h.onEntries
  split
  · exact h
  · exact h

theorem State.Inv.setEpisode (h : s.Inv) {scope : Nat} {on : Bool} : (s.setEpisode t l scope on).Inv := h.onCtx _ _ _

theorem State.Inv.setFiring (h : s.Inv) {b : Option BankId} : (s.setFiring t l b).Inv := h.onCtx _ _ _

theorem State.Inv.addEvent (h : s.Inv) {x : BitVec 128} : (s.addEvent t l x).Inv := by
  dsimp only [State.addEvent]
  split
  · exact h.update
  split
  · exact h.update
  split
  · exact h.update
  split
  · exact h.setEpisode
  split
  · exact h.setFiring
  · exact h

theorem State.Inv.setEvent (h : s.Inv) {n : Nat} {x : BitVec 128} : (s.setEvent t l n x).Inv := by
  dsimp only [State.setEvent]
  split
  · split
    · exact h.update
    · exact h.update.addEvent
  split
  · split
    · exact h.update
    · exact h.update.addEvent
  split
  · split
    · exact h.update
    · exact h.update.addEvent
  split
  · exact h.setEpisode.addEvent
  split
  · exact h.setFiring.addEvent
  split
  · exact h.addEvent
  · exact h

theorem State.Inv.setEventWord (h : s.Inv) {v : W32} : (s.setEventWord t l i v).Inv := h.setEvent

theorem State.Inv.cutEvents (h : s.Inv) {n : Nat} : (s.cutEvents t l n).Inv := by
  dsimp only [State.cutEvents]
  refine h.foldlOf (fun _ _ hx => ?_)
  split
  · exact hx.setEvent
  · exact hx

theorem State.Inv.setQueueWord (h : s.Inv) {v : W32} : (s.setQueueWord t l i v).Inv := by
  dsimp only [State.setQueueWord]
  split
  · split
    · refine h.onTileS (fun _ hx => ?_)
      split
      · exact hx
      · exact hx
    · exact h.onTileS (fun _ hx => hx.onEntries)
  split
  · refine (h.onTileS (fun _ hx => ?_)).update
    split
    · exact hx
    · exact hx
  · exact h

theorem State.Inv.setRecordWord (h : s.Inv) {o : Nat} {v : W32} : (s.setRecordWord t l o v).Inv := by
  unfold State.setRecordWord
  split
  · exact h.onCtx _ _ _
  · exact .ite h.cutEvents <| .ite (h.onTileS fun _ hx => hx.setHeaderWord) <| .ite h.setQueueWord <|
      .ite (h.onCtx _ _ _) <| .ite (h.onCtx _ _ _) <| .ite (h.onCtx _ _ _) <| .ite h.setEventWord h

theorem State.Inv.recordOut (h : s.Inv) {pa n : Nat} : (s.recordOut t l pa n).Inv := by
  induction n generalizing s with
  | zero => exact h
  | succ n ih => exact ih h.putHome

theorem State.Inv.recordIn (h : s.Inv) {pa n : Nat} : (s.recordIn t l pa n).Inv := by
  induction n generalizing s with
  | zero => exact h
  | succ n ih => exact ih (.ite h.touch h.touch.setRecordWord)

theorem State.Inv.recordLoad (h : s.Inv) {pa : Nat} : (s.recordLoad t l pa).Inv := h.recordIn.recordIn

theorem Memory.wf_foldl_writeNat {α : Type} {m : Memory} (h : m.wf = true) {l : List α} {a v n : α → Nat} :
    (l.foldl (fun m x => m.writeNat (a x) (v x) (n x)) m).wf = true :=
  List.foldlRecOn (motive := fun m : Memory => m.wf = true) l _ h fun _ hm _ _ => Memory.wf_writeNat hm _ _ _

theorem Tile.Sound.areaOut {x : Tile} (h : x.Sound) {a : Nat} : (x.areaOut a).Sound := by
  simp only [Tile.Sound, Tile.areaOut]
  exact Memory.wf_foldl_writeNat (Memory.wf_foldl_writeNat (Memory.wf_foldl_writeNat h))

/-! ## Swap-outs and restores (R353-R359) -/

theorem State.Inv.onPart (h : s.Inv) {p : BitVec 6} {f : Partition → Partition} : (s.onPart p f).Inv := h.update

theorem State.Inv.onSwap (h : s.Inv) {p : BitVec 6} {f : Swap → Swap} : (s.onSwap p f).Inv := h.update

theorem State.Inv.beginSwap (h : s.Inv) {p : BitVec 6} {memory : Option Nat} {restore : Bool} :
    (s.beginSwap p k memory restore).Inv := (h.onCoreOf (fun _ hc => hc.update)).update

theorem State.Inv.markIngress (h : s.Inv) : (s.markIngress t l).Inv := by
  dsimp only [State.markIngress]
  refine h.foldlOf (fun _ _ hx => ?_)
  split
  · exact hx
  split
  · exact hx.onCtx _ _ _
  split
  · exact hx.toTrigger
  · exact hx

theorem State.Inv.markClassPort (h : s.Inv) : (s.markClassPort t l).Inv := h.onTileOf.onCtx _ _ _

theorem State.Inv.markClassBox (h : s.Inv) : (s.markClassBox t part).Inv := by
  dsimp only [State.markClassBox]
  refine h.foldlOf (fun _ _ hx => ?_)
  split
  · refine hx.foldlOf (fun _ _ hx' => ?_)
    split
    · exact hx'.markOn
    · exact hx'
  · exact hx

theorem State.Inv.markBuffers (h : s.Inv) : (s.markBuffers mt l).Inv := h.onMtLeafOf.foldlOf (fun _ _ hx => hx.onEbuf)

theorem State.Inv.afterEvent (h : s.Inv) {o : Host.Outcome State Fault Refusal} (ho : Sound o) : (afterEvent s o).Inv := by
  cases o with
  | next t => exact ho.inv t rfl
  | fault | refused => exact h

theorem MtLeaf.Sound.loaded {x : MtLeaf} (h : x.Sound) {f : MtLeaf} : (f.loaded x).Sound := h

theorem State.Inv.publishHeld (h : s.Inv) : (s.publishHeld mt l).Inv := by
  unfold State.publishHeld
  extract_lets tags
  refine State.Inv.foldlOf (h.onMtLeafS fun _ hf => ?_) fun _ _ hx => hx.afterEvent (execCompletionTokenPublish_inv hx)
  exact hf

theorem State.Inv.restoreMt (h : s.Inv) {p : BitVec 6} : (s.restoreMt p mt l).Inv := by
  unfold State.restoreMt
  extract_lets s1
  have h1 : s1.Inv := by
    simp only [s1]
    split
    next x e =>
      have hx : x.mtLeaf.Sound := h.stash x (List.mem_of_find?_eq_some e)
      refine State.Inv.withStash (h.onMtS (f := fun m => { m with
        lf := m.lf.set l (m.lf[l].loaded x.mtLeaf), ebuf := m.ebuf.set l x.ebufs }) fun m hm => hm.setLeaf hx.loaded)
        fun e he => h.stash e (List.mem_of_mem_filter he)
    · exact h
  refine State.Inv.publishHeld (h1.onMtS fun m hm => ?_)
  exact MemTile.Sound.setLeaf (m := { m with running := l }) hm (MtLeaf.Sound.update (hm l))

theorem State.Inv.swapDecided (h : s.Inv) {w : Swap} {p : Partition} : (s.swapDecided d w p).Inv := by
  dsimp only [State.swapDecided]
  split
  · exact h.foldlOf (fun _ _ hx => hx.restoreMt)
  · have hin := h.foldlOf (l := p.tiles.filter fun t => siteDie t.1 == d) fun _ t hx =>
      (hx.markIngress (t := t.1) (l := t.2)).markClassPort (t := t.1) (l := t.2)
    exact (hin.foldlOf fun _ _ hx => hx.markClassBox).foldlOf fun _ _ hx => hx.markBuffers

theorem execSwapDecision_inv (h : s.Inv) : Sound (execSwapDecision d part s) := by
  dsimp only [execSwapDecision]
  split
  · split
    · exact h.next
    · exact h.onSwap.next
  · exact h.next

theorem State.Inv.decideSwap (h : s.Inv) {w : Swap} : (s.decideSwap d w).Inv := by
  dsimp only [State.decideSwap]
  split
  · exact h
  split
  · exact h
  split
  · exact h.onSwap.swapDecided.onCoreOf (fun _ hx => hx.update.done)
  · exact h.onSwap.swapDecided

theorem State.Inv.decideSwaps (h : s.Inv) : (s.decideSwaps d).Inv := h.foldlOf (fun _ _ hx => hx.decideSwap)

theorem State.Inv.saveTile (h : s.Inv) : (s.saveTile t l).Inv := by
  unfold State.saveTile
  extract_lets x c0 c out c1 x1
  have hx : (x.areaOut c.areaBase).Sound := Tile.Sound.areaOut (h.scratch t)
  have hx1 : x1.Sound := by simp only [x1, Tile.Sound]; exact hx
  clear_value x1
  exact State.Inv.onSwap (h.setTile hx1.update)

theorem execTileSave_inv (h : s.Inv) : Sound (execTileSave t l s) := by
  dsimp only [execTileSave]
  split
  · split
    · exact h.saveTile.next
    · exact h.next
  split
  · exact h.onTileOf.next
  · exact h.next

theorem State.Inv.deliverOne (h : s.Inv) : Keeps (s.deliverOne t l) := by
  unfold State.deliverOne
  split
  · exact (h.afterEvent (execUmbraGrantArrival_inv h)).keeps
  split
  · exact (h.afterEvent (execReadyTokenDelivery_inv h)).keeps
  split
  · exact (h.afterEvent (execAsyncReportArrival_inv h)).keeps
  · exact keeps_none

theorem State.Inv.deliverPending (h : s.Inv) {n : Nat} : (s.deliverPending t l n).Inv := by
  induction n generalizing s with
  | zero => exact h
  | succ n ih =>
    unfold State.deliverPending
    split
    next e => exact ih (h.deliverOne e)
    · exact h

theorem State.Inv.deliverFiring (h : s.Inv) : (s.deliverFiring t l).Inv := by
  dsimp only [State.deliverFiring]
  split
  · split
    · exact (h.onCtx _ _ _).startBank
    · exact h.onCtx _ _ _
  · exact h.onCtx _ _ _

theorem State.Inv.deliverAll (h : s.Inv) : (s.deliverAll t l).Inv := (h.update.deliverPending.onCtx _ _ _).deliverFiring

theorem State.Inv.restoreStops (h : s.Inv) {unit loc : Nat} : (s.restoreStops t l part unit loc).Inv :=
  (h.onCtx _ _ _).notify _ _ _

theorem State.Inv.setSigs (h : s.Inv) {c : LeafCtx} {q : FMap (Option W64)} : (s.setSigs t c q).Inv := by
  dsimp only [State.setSigs]
  split
  · exact h.onDie _ _
  · exact h

theorem State.Inv.unstash (h : s.Inv) {x : Stash} : (s.unstash x).Inv := by
  unfold State.unstash
  extract_lets key s1
  have h1 : s1.Inv := State.Inv.onMtOf (h.onCtx _ _ _)
  have h2 : (s1.setSigs x.site x.ctx x.sigs).Inv := h1.setSigs
  exact h2.withStash fun e he => h1.stash e (List.mem_of_mem_filter he)

theorem State.Inv.addLate (h : s.Inv) {x : Option Stash} : (s.addLate x).Inv := by
  dsimp only [State.addLate]
  split
  · exact h.update
  · exact h

theorem State.Inv.loadTile (h : s.Inv) : (s.loadTile t l).Inv := by
  unfold State.loadTile
  extract_lets cycle x c x1 c1 x2 s1 s2
  have hx2 : x2.scratch.wf = true := h.scratch t
  clear_value x2
  have h1 : s1.Inv := (h.setTile hx2).foldlOf fun _ _ hy => hy.reenter
  have h2 : s2.Inv := h1.deliverAll
  exact .ite h2.killCtx h2

theorem State.Inv.restoreTile (h : s.Inv) : (s.restoreTile t l).Inv := by
  dsimp only [State.restoreTile]
  split
  · refine h.foldlOf (fun _ _ hx => ?_)
    split
    · exact hx.takeFault
    · exact hx
  · exact h.loadTile

theorem execRestoreAtTile_inv (h : s.Inv) : Sound (execRestoreAtTile t l s) := by
  unfold execRestoreAtTile
  split
  · exact h.next
  extract_lets s1 s2 n place s3
  have h1 : s1.Inv := h.onSwap
  have h2 : s2.Inv := by
    simp only [s2]
    split
    · exact h1.unstash
    · exact h1
  have h3 : s3.Inv := by
    refine State.Inv.addLate ?_
    cases place with
    | some pa => exact h2.recordLoad
    | none => exact h2
  refine .ite h.next (.ite h1.next ?_)
  split
  · exact h3.restoreStops.next
  · exact h3.restoreStops.next
  · exact h3.restoreTile.next

theorem State.Inv.sendOut (h : s.Inv) {pa n : Nat} {t : Site × Leaf} : (s.sendOut part pa n t).Inv := by
  unfold State.sendOut
  extract_lets s1 c m key grant token report x s2 s3
  have h1 : s1.Inv := .ite h h.recordOut
  have hx : x.Sound := show (({} : MtLeaf).store.wf) = true from rfl
  clear_value x
  have h2 : s2.Inv := State.Inv.onMtOf (h1.onCtx _ _ _)
  clear_value s1 s2
  have h3 : s3.Inv := h2.setSigs
  clear_value s3
  refine h3.withStash fun e he => ?_
  obtain he | he := List.mem_append.1 he
  · exact h1.stash e he
  · rw [List.mem_singleton.1 he]; exact hx

theorem State.Inv.sendOutMt (h : s.Inv) {m : Site × Leaf} : (s.sendOutMt part m).Inv := by
  unfold State.sendOutMt
  extract_lets x f
  have h1 := h.onMtLeafS (mt := m.1) (l := m.2)
    (f := fun f =>
      { f with keys := [], store := [], lanes := [], records := [],
               tpl := f.tpl.map (fun t => { t with pend := [], fired := [], run := none }) }) fun _ _ => rfl
  refine h1.withStash fun e he => ?_
  obtain he | he := List.mem_append.1 he
  · exact h.stash e he
  · rw [List.mem_singleton.1 he]
    exact h.store m.1 m.2

theorem State.Inv.tellSwap (h : s.Inv) {w : Swap} : (s.tellSwap w).Inv := by
  dsimp only [State.tellSwap]
  split
  · exact h.onCoreOf (fun _ hc => hc.update.raise)
  · exact h

theorem State.Inv.endSwap (h : s.Inv) {w : Swap} {p : Partition} : (s.endSwap w p).Inv := by
  unfold State.endSwap
  extract_lets s1 left s2 freed s3
  have h2 : s2.Inv := State.Inv.onPart h.update
  clear_value s2 left
  have hfreed : freed.Inv := h2.foldlOf fun _ _ hx => State.Inv.onMtOf (hx.onMtLeafOf)
  clear_value freed
  have h3 : s3.Inv := by
    refine .ite h2 (.ite ?_ ?_)
    · split
      · exact (hfreed.foldlOf fun _ _ hx => hx.sendOut).foldlOf fun _ _ hx => hx.sendOutMt
      · exact hfreed
    · exact State.Inv.foldlOf (h2.withStash fun e he => h2.stash e (List.mem_of_mem_filter he)) fun _ _ hx => hx.deliverAll
  exact h3.tellSwap

theorem execSwapComplete_inv (h : s.Inv) : Sound (execSwapComplete part s) := by
  dsimp only [execSwapComplete]
  split
  · exact happens_inv h h.endSwap
  · exact h.next

/-! ## Fabric instructions of a control core (R397-R399) -/

theorem State.Inv.setSigcfg (h : s.Inv) {w : W32} : (s.setSigcfg t l w).Inv := by
  dsimp only [State.setSigcfg]
  split
  · split
    · exact h.onCtx _ _ _
    · exact (h.onCtx _ _ _).setSigs
  · exact h.onCtx _ _ _

theorem State.Inv.setComputeReg (h : s.Inv) {n : Nat} {v : W64} : (s.setComputeReg t l b n v).Inv :=
  .ite (h.onCtx _ _ _) <| .ite (h.onCtx _ _ _) <| .ite (h.onCtx _ _ _) <| .ite (h.onCtx _ _ _) <| .ite (h.onCtx _ _ _) <|
  .ite (h.onCtx _ _ _) <| .ite (h.onCtx _ _ _) <| .ite h.setSigcfg <| .ite (h.onCtx _ _ _) <| .ite (h.onCtx _ _ _) <|
  .ite (.ite h.resumeBank h) <| .ite (h.onBank _ _ _ _) <| .ite (h.onBank _ _ _ _) <| .ite (h.onBank _ _ _ _) <|
  .ite h.setRecordWord <| .ite (h.onTileS fun _ hx => hx.putScratch) h

theorem State.Inv.setMemoryReg (h : s.Inv) {n : Nat} {v : W64} : KeepsOk (s.setMemoryReg t l n v) := by
  have hleaf {f : MtLeaf → MtLeaf} (hf : ∀ x : MtLeaf, x.Sound → (f x).Sound) : KeepsOk (.ok (s.onMtLeaf t l f)) :=
    (h.onMtLeafS hf).keepsOk
  have hfire : KeepsOk (match s.tplfire t l (Fin.ofNat 4 n) v with | some s1 => .ok s1 | none => .error .perm) := by
    split
    next e => exact (h.tplfire e).keepsOk
    · exact keepsOk_error
  exact .ite (hleaf fun _ hx => hx) <| .ite (hleaf fun _ hx => hx) <| .ite (hleaf fun _ hx => hx) <|
    .ite (h.afterEvent (execUmrelWrite_inv h)).keepsOk <| .ite (hleaf fun _ hx => hx) <| .ite h.onMtOf.keepsOk <|
    .ite (hleaf fun _ hx => hx) <| .ite h.onMtOf.keepsOk <| .ite h.onEbuf.keepsOk <| .ite (hleaf fun _ hx => hx) <|
    .ite h.setTplst.keepsOk <| .ite hfire <| .ite (hleaf fun _ hx => hx) <| .ite h.onTpl.keepsOk <|
    .ite (hleaf fun _ hx => hx.setStorageWord) h.keepsOk

theorem State.Inv.tileWrite (h : s.Inv) {a v : W64} : KeepsOk (s.tileWrite a v) := by
  unfold State.tileWrite
  split
  · exact .ite h.setComputeReg.keepsOk keepsOk_error
  · exact h.setMemoryReg
  · exact h.keepsOk

theorem State.Inv.onSite (h : s.Inv) {x : W64} {o : Host.Outcome State Fault Refusal} (ho : Sound o) :
    Sound (s.onSite x o) := by
  unfold State.onSite
  split
  · exact ho
  · exact h.next
  · exact h.coreFault.next

theorem execTsr_inv (h : s.Inv) {d a : BitVec 5} : Sound (execTsr d a s) := by
  refine h.onSite ?_
  split
  · exact (h.onCurCoreOf fun _ hc => hc.wx.done).next
  · exact h.coreFault.next

theorem execTsw_inv (h : s.Inv) {a b : BitVec 5} : Sound (execTsw a b s) := by
  refine h.onSite ?_
  split
  · exact .ite (h.onCurCoreOf fun _ hc => hc.update).next (h.onCurCoreOf fun _ hc => hc.done).next
  · exact h.coreFault.next

theorem State.Inv.fetchFor (h : s.Inv) {va : Nat} : (s.fetchFor t l va).Sound := by
  unfold State.fetchFor
  extract_lets mt
  split
  · trivial
  · trivial
  next e =>
    have h1 := h.translateNow e
    extract_lets pa
    split
    · trivial
    split
    · trivial
    split
    · exact h1
    split
    · trivial
    split
    · trivial
    split
    · trivial
    next e' => exact h1.passSlice e'

theorem State.Inv.copyBundles (h : s.Inv) {first va n : Nat} : (s.copyBundles t l first va n).1.Inv := by
  induction n generalizing s first va with
  | zero => exact h
  | succ n ih =>
    have hf := h.fetchFor (t := t) (l := l) (va := va)
    unfold State.copyBundles
    split
    · exact h
    · exact h
    next e => rw [e] at hf; exact hf
    next e => rw [e] at hf; exact ih (State.Inv.putBundle hf)

theorem State.Inv.loadBundles (h : s.Inv) {first va n : Nat} : (s.loadBundles k t l first va n).Inv := by
  dsimp only [State.loadBundles]
  split
  next e => exact (h.copyBundles.ofPair e).onCoreOf (fun _ hx => hx.update.done)
  next e => exact ((h.copyBundles.ofPair e).onCoreOf (fun _ hx => hx.update)).ccException
  next e => exact (h.copyBundles.ofPair e).onCoreOf (fun _ hx => hx.update)
  next e => exact (h.copyBundles.ofPair e).hostRead

theorem State.Inv.applyWrite (h : s.Inv) : (s.applyWrite d k).Inv := by
  unfold State.applyWrite
  extract_lets free
  have hfree : ∀ c : Core, c.Sound → (free c).Sound := fun _ hx => hx.update
  have hstop {c : Cause} {a : W64} : ((s.onCore k free).ccException k c a).Inv := (h.onCoreOf hfree).ccException
  split
  · refine .ite h (.ite hstop ?_)
    split
    next e => exact (h.tileWrite _ e).onCoreOf fun c hx => (hfree c hx).done
    · exact hstop
  · exact .ite h (.ite hstop ((h.onBox _ _).onCoreOf fun c hx => (hfree c hx).wx.done))
  · exact .ite h (.ite hstop h.loadBundles)
  · exact h

theorem State.Inv.applyWrites (h : s.Inv) : (s.applyWrites d).Inv := h.foldlOf (fun _ _ hx => hx.applyWrite)

theorem execTinv_inv (h : s.Inv) {d a b : BitVec 5} : Sound (execTinv d a b s) := by
  dsimp only [execTinv]
  split
  · exact h.coreFault.next
  · exact (h.tinvDrop.onCurCoreOf (fun _ hx => hx.update)).next

theorem execTinvAcknowledgement_inv (h : s.Inv) : Sound (execTinvAcknowledgement k s) := by
  dsimp only [execTinvAcknowledgement]
  split
  · exact h.next
  split
  · refine (h.update.onCoreOf (fun _ hx => ?_)).next
    split
    · exact hx.update.done
    · exact hx
  · exact h.next

theorem execGtw_inv (h : s.Inv) {a b : BitVec 5} : Sound (execGtw a b s) := by
  dsimp only [execGtw]
  split
  · exact h.next
  split
  · exact (h.onCurCoreOf (fun _ hc => hc.done)).next
  · exact (h.writeEntry.onCurCoreOf (fun _ hc => hc.done)).next

theorem State.Inv.onMask (h : s.Inv) {a : W64} {f : State → BankId → State}
    (hf : ∀ (x : State) (b : BankId), x.Inv → (f x b).Inv) : (s.onMask a f).Inv :=
  .ite (h.foldlOf fun _ _ hx => .ite (hf _ _ hx) hx) h

theorem State.Inv.swapCmd (h : s.Inv) {memory : Option Nat} {restore : Bool} : (s.swapCmd part memory restore).Inv := by
  dsimp only [State.swapCmd]
  split
  · split
    · exact h.coreFault
    · exact h.beginSwap
  · exact h.beginSwap

theorem State.Inv.swapOutCmd (h : s.Inv) {a : BitVec 5} {memory : Option Nat} : (s.swapOutCmd a memory).Inv := by
  dsimp only [State.swapOutCmd]
  split
  · exact h.swapCmd
  · exact h.coreFault

theorem State.Inv.restoreCmd (h : s.Inv) {a : BitVec 5} {memory : Option Nat} : (s.restoreCmd a memory).Inv := by
  dsimp only [State.restoreCmd]
  split
  · exact h.coreFault
  · exact h.swapCmd

theorem execFrzKill_inv (h : s.Inv) {d a b : BitVec 5} : Sound (execFrzKill d a b s) := by
  unfold execFrzKill
  extract_lets x n slot s1
  have h1 : s1.Inv := by
    simp only [s1]
    split
    · exact h
    split
    · exact h.kill
    · exact h
  exact (h1.onCurCoreOf fun _ hc => hc.done).next

/-! ## The host port and the module (R400-R409) -/

theorem State.Inv.moduleReset (h : s.Inv) : s.moduleReset.Inv := by
  have hr := State.inv_reset
  obtain ⟨⟨hmem, hflash, -⟩, -⟩ := h
  obtain ⟨⟨-, -, hlocal, htile, hmt, hstash⟩, hcores⟩ := hr
  exact ⟨⟨Memory.wf_dropBelow hmem _, hflash, hlocal, htile, hmt, hstash⟩, hcores⟩

theorem State.Inv.writePwr (h : s.Inv) {v : W32} : (s.writePwr v).Inv := by
  dsimp only [State.writePwr]
  split
  · exact h.onHostOf
  · exact h.onHostOf

theorem execPowerStateChangeComplete_inv (h : s.Inv) : Sound (execPowerStateChangeComplete s) := by
  have hdrop {x : State} (hx : x.Inv) (a : Nat) : ({ x with mem := x.mem.dropBelow a } : State).Inv :=
    hx.withMemEcc (Memory.wf_dropBelow hx.mem a)
  refine .ite h.next (.ite h.moduleReset.onHostOf.next (State.Inv.next ?_))
  exact .ite (hdrop h.onHostOf _) h.onHostOf

theorem State.Inv.writeFence (h : s.Inv) {v : W32} : (s.writeFence v).Inv := by
  dsimp only [State.writeFence]
  split
  · exact h
  · exact (h.onHostOf.foldlOf (fun _ _ hx => hx.foldlOf (fun _ _ hx' => hx'.onCoreOf (fun _ hx' => hx'.update)))).update

theorem State.Inv.resetCores (h : s.Inv) : (s.resetCores d).Inv :=
  ((h.foldlOf (fun _ _ hx => hx.onCore _ rfl rfl)).onDie _ _).update

theorem State.Inv.writeDierst (h : s.Inv) {v : W32} : (s.writeDierst v).Inv := by
  dsimp only [State.writeDierst]
  refine h.foldlOf (fun _ _ hx => ?_)
  split
  · exact hx
  · exact hx.resetCores

theorem State.Inv.writeDoorbell (h : s.Inv) {v : W32} : (s.writeDoorbell v).Inv := by
  dsimp only [State.writeDoorbell]
  refine h.foldlOf (fun _ _ hx => ?_)
  split
  · exact hx.onCoreOf (fun _ hx' => hx')
  · exact hx

theorem execFirmwareCheckEnd_inv (h : s.Inv) : Sound (execFirmwareCheckEnd d s) := by
  have hseg : (s.host.flash.slice 16 (firmwareLength s.host.flash)).wf = true := Memory.wf_slice h.flash _ _
  refine .ite h.next (.ite (State.Inv.onDie (h.foldlOf fun x k hx => hx.onCoreOf fun c hc => ?_) _ _).next (h.onDie _ _).next)
  have hpc : ((0 : BitVec 18) &&& 3 == 0) = true := by decide
  obtain ⟨-, -, hevec, hepc⟩ := Core.sound_iff.1 hc
  exact Core.sound_iff.2 ⟨hseg, hpc, hevec, hepc⟩

theorem State.Inv.writeNonce (h : s.Inv) {w : Fin 8} {v : W32} : (s.writeNonce w v).Inv := by
  dsimp only [State.writeNonce]
  refine h.onHostS (fun _ hx => ?_)
  split
  · exact hx
  · exact hx

theorem State.Inv.writeAttctl (h : s.Inv) {v : W32} : (s.writeAttctl v).Inv := by
  dsimp only [State.writeAttctl]
  split
  · exact h.onHostOf
  · exact h

theorem execAttestationReportDone_inv (h : s.Inv) : Sound (execAttestationReportDone s) := by
  dsimp only [execAttestationReportDone]
  split
  · exact h.onHostOf.next
  · exact h.next

theorem State.Inv.setBar0 (h : s.Inv) {off : Nat} {v : W32} : (s.setBar0 off v).Inv :=
  .ite h.writeDoorbell <| .ite h.writePwr <| .ite h.writeFence <| .ite h.writeDierst <| .ite (h.onDie _ _) <| .ite h.update <|
  .ite h.writeNonce <| .ite h.writeAttctl h

theorem execRegisterWrite_inv (h : s.Inv) {r : RegSel} {v : W64} : Sound (execRegisterWrite r v s) := by
  unfold execRegisterWrite
  split
  · split
    next e => exact (h.tileWrite _ e).next
    · exact h.next
  · exact h.setCsr.next
  · exact h.setBar0.next

theorem execLaunchWindowWrite_inv (h : s.Inv) {off : Nat} {v : W32} : Sound (execLaunchWindowWrite off v s) := by
  dsimp only [execLaunchWindowWrite]
  split
  · exact h.next
  split
  · exact h.onHostOf.next
  · exact h.writeEntry.next

theorem State.Inv.hostPut (h : s.Inv) {off : Nat} {l : List Byte} : (s.hostPut off l).Inv := by
  induction l generalizing s off with
  | nil => exact h
  | cons x r ih => exact ih (.ite h.putHome h)

theorem execHostBar4Access_inv (h : s.Inv) {acc : Bar4Access} : Sound (execHostBar4Access acc s) := by
  unfold execHostBar4Access
  split
  · extract_lets bad one s1
    have h1 : s1.Inv := .ite h (h.foldlOf fun _ _ hx => hx.touch)
    exact h1.onHostOf.next
  · exact .ite h.next h.hostPut.next

theorem State.Inv.serve (h : s.Inv) {p : Fin 18} {m : LinkMsg} {ask : Option (BitVec 12) × ReqBody × Option (BitVec 12)} :
    Keeps (s.serve p m ask) := by
  unfold State.serve
  split
  · exact h.respondTo.keeps
  · extract_lets q
    split
    · exact keeps_none
    · exact h.takeId.routeNow.settle

theorem State.Inv.answered (h : s.Inv) {id : Nat} {data : Vec} {fault : BitVec 8} : (s.answered id data fault).Inv := by
  dsimp only [State.answered]
  split
  · exact h
  split
  · exact h.land.reportTo
  split
  · exact h.land.failReq
  split
  · exact h.land.replyAmo
  · exact h.land.answer
  · exact h.land.written

theorem State.Inv.peerArrives (h : s.Inv) {m : BitVec 8} {sysid : BitVec 12} : (s.peerArrives m sysid).Inv := by
  unfold State.peerArrives
  extract_lets up
  have h1 := h.mapStash (f := fun x => { x with ctx := up x.ctx }) fun _ hx => hx
  exact h1.mapTables rfl (List.map_id _).symm rfl rfl rfl rfl (fun _ => rfl) (fun _ hx => hx) (fun _ => rfl) fun _ hx => hx

theorem State.Inv.tokenComes (h : s.Inv) {ch : Fin 8} {pred : Bool} {v : Vec} : (s.tokenComes part t l b ch pred v).Inv := by
  dsimp only [State.tokenComes]
  split
  · exact h.sendReady
  · exact h

theorem State.Inv.deliverMsg (h : s.Inv) {p : Fin 18} {m : LinkMsg} : Keeps (s.deliverMsg p m) := by
  unfold State.deliverMsg
  extract_lets s1
  have h1 : s1.Inv := h.onLink
  clear_value s1
  split
  · exact h1.peerArrives.keeps
  · exact h1.tokenComes.keeps
  · split
    · exact (State.Inv.answered h1.onLink).keeps
    · exact h1.keeps
  split
  · exact h1.keeps
  · exact h1.serve

theorem State.Inv.releaseHeld (h : s.Inv) {p : Fin 18} {tried : List Nat} {n : Nat} : (s.releaseHeld p tried n).Inv := by
  induction n generalizing s tried with
  | zero => exact h
  | succ n ih =>
    unfold State.releaseHeld
    split
    · split
      next e => exact ih (State.Inv.deliverMsg h.onLink e)
      · exact ih h
    · exact h

theorem State.Inv.receiveMsg (h : s.Inv) {p : Fin 18} {m : LinkMsg} : (s.receiveMsg p m).Inv := by
  unfold State.receiveMsg
  extract_lets l want hold
  have hh : hold.Inv := .ite h h.onLink
  clear_value hold
  refine .ite (hh.getD h.deliverMsg) (.ite ?_ hh)
  split
  · exact h.sendLink
  · exact h

theorem execLinkFlitReceive_inv (h : s.Inv) {p : Fin 18} {f : Flit} : Sound (execLinkFlitReceive p f s) := by
  unfold execLinkFlitReceive
  refine .ite h.next ?_
  split
  · exact h.onLink.next
  · exact h.onLink.next
  · exact (State.Inv.releaseHeld (State.Inv.foldlOf h.onLink fun _ _ hx => hx.receiveMsg)).next

end Sys2Proof.Machine
end

section
/-!
Every instruction, event and turn keeps the invariant, and so does a step (O7).
-/
namespace Sys2Proof.Machine
set_option Elab.async false
variable {s : State} {t mt : Site} {l : Leaf} {b : BankId} {d : DieId} {k : CoreId} {q : Req} {part : BitVec 6} {i : Nat}

/-! ## Every instruction and every event -/

/-- Every instruction and every event keeps the invariant. -/
theorem exec_inv (h : s.Inv) {i : Instr} : Sound (exec i s) := by
  cases hp : planOf i with
  | some p => rw [exec_planOf hp]; exact issueOne_inv h (planOf_sound hp)
  | none =>
    cases i
    case ccAdd | ccSub | ccAnd | ccOr | ccXor | ccShl | ccShr | ccSra | ccSlt | ccSltn | ccMul | ccAddi | ccAndi |
        ccOri | ccXori | ccShli | ccShri | ccSrai | ccSlti | ccLui => exact coreWrite_inv h
    case ccLdD | ccLdW | ccLdB => exact coreLoad_inv h
    case ccStD | ccStW | ccStB => exact coreStore_inv h
    case ccBeq | ccBne | ccBlt | ccBltn => exact coreBranch_inv h
    case ccBge => exact execCcBge_inv h
    case ccBgen => exact execCcBgen_inv h
    case ccJal | ccJalr => exact (coreJump_inv h).next
    case csrr => exact execCsrr_inv h
    case csrw => exact execCsrw_inv h
    case eret => exact execEret_inv h
    case wfe => exact execWfe_inv h
    case tinv => exact execTinv_inv h
    case cfgw =>
      exact h.onSite (.ite (h.onCurCoreOf fun _ hc => hc.wx.done).next (h.onCurCoreOf fun _ hc => hc.update).next)
    case tload =>
      exact .ite h.coreFault.next <| .ite h.coreFault.next <| .ite h.coreFault.next (h.onSite h.loadBundles.next)
    case tsr => exact execTsr_inv h
    case tsw => exact execTsw_inv h
    case frd => exact (h.onCurCoreOf (fun _ hc => hc.wx.done)).next
    case frzFreeze => exact h.onSite ((h.onMask fun _ _ hx => hx.onBank _ _ _ _).onCurCoreOf fun _ hc => hc.done).next
    case frzSwapOut | frzSwapOutMemory => exact h.swapOutCmd.next
    case frzKill d a b => exact execFrzKill_inv (d := d) (b := b) h
    case thwThaw => exact h.onSite ((h.onMask fun _ _ hx => hx.thawBank).onCurCoreOf fun _ hc => hc.done).next
    case thwRestore | thwRestoreMemory => exact h.restoreCmd.next
    case gtw => exact execGtw_inv h
    case wfeEnd => exact execWfeEnd_inv h
    case timerExpiry => exact execTimerExpiry_inv h
    case msgWrite => exact h.message.next
    case registerWrite => exact execRegisterWrite_inv h
    case actorFiring => exact execActorFiring_inv h
    case classHandlerStart => exact execClassHandlerStart_inv h
    case bankBecomesIdle => exact execBankBecomesIdle_inv h
    case pendingWriteLanding => exact (h.onCtx _ _ _).next
    case asyncReportArrival => exact execAsyncReportArrival_inv h
    case freezeReachesBank => exact (h.onBank _ _ _ _).next
    case bstatResumeWrite => exact h.resumeBank.next
    case tokenArrival => exact execTokenArrival_inv h
    case faultDrainArrival => exact execFaultDrainArrival_inv h
    case preEmptMarkerArrival => exact execPreEmptMarkerArrival_inv h
    case slotReleaseArrival => exact execSlotReleaseArrival_inv h
    case tokenHop => exact execTokenHop_inv h
    case bridgeCrossing => exact execBridgeCrossing_inv h
    case classPacketHop => exact (h.getD h.classHop).next
    case classPacketArrival => exact execClassPacketArrival_inv h
    case msEntryStart => exact happens_inv h ((h.onTileS (fun _ hx => hx.startHead)).msCycle)
    case msEntryEnd => exact execMsEntryEnd_inv h
    case mlatcTokenTake => exact execMlatcTokenTake_inv h
    case mdrainTokenPublish => exact execMdrainTokenPublish_inv h
    case cactRunEnd => exact execCactRunEnd_inv h
    case memoryPortSend => exact execMemoryPortSend_inv h
    case portQueueDispatch => exact execPortQueueDispatch_inv h
    case pageWalk => exact execPageWalk_inv h
    case sramBankAccess => exact execSramBankAccess_inv h
    case responseDelivery => exact execResponseDelivery_inv h
    case l2Request => exact execL2Request_inv h
    case l2FillArrival => exact execL2FillArrival_inv h
    case gddr7WriteAccept => exact h.update.next
    case gatewayRequest => exact execGatewayRequest_inv h
    case gatewayInvalidation => exact execGatewayInvalidation_inv h
    case hostReadCompletion => exact execHostReadCompletion_inv h
    case hostCompletionTimeout => exact execHostCompletionTimeout_inv h
    case weightStoreRead => exact execWeightStoreRead_inv h
    case weightStoreRefresh => exact h.next
    case writeAcknowledgement => exact execWriteAcknowledgement_inv h
    case ownerRequest => exact execOwnerRequest_inv h
    case amoApply => exact execAmoApply_inv h
    case fillcAtOwner => exact execFillcAtOwner_inv h
    case redcAtOwner => exact execRedcAtOwner_inv h
    case readyTokenDelivery | notifyTokenDelivery => exact execReadyTokenDelivery_inv h
    case counterTimeout => exact execCounterTimeout_inv h
    case umbraEnterAtHost => exact execUmbraEnterAtHost_inv h
    case umbraLeaveAtHost => exact execUmbraLeaveAtHost_inv h
    case umbraSkipAtHost => exact execUmbraSkipAtHost_inv h
    case umbraInitAtHost => exact execUmbraInitAtHost_inv h
    case umbraGrantArrival => exact execUmbraGrantArrival_inv h
    case umbraRefusalRetry => exact execUmbraRefusalRetry_inv h
    case umbstall => exact execUmbstall_inv h
    case deadlockProbeAnswer => exact execDeadlockProbeAnswer_inv h
    case umrelWrite => exact execUmrelWrite_inv h
    case templateQueueHead => exact execTemplateQueueHead_inv h
    case copyRunStart => exact execCopyRunStart_inv h
    case copyBeat => exact execCopyBeat_inv h
    case copyChunkAck => exact execCopyChunkAck_inv h
    case completionTokenPublish => exact execCompletionTokenPublish_inv h
    case armAtMemoryTile => exact execArmAtMemoryTile_inv h
    case fireTokenEnqueue => exact execFireTokenEnqueue_inv h
    case tplfireWrite => exact execTplfireWrite_inv h
    case tplstWrite => exact h.setTplst.next
    case edgeBufferPass => exact execEdgeBufferPass_inv h
    case edgeBufferRelease => exact execEdgeBufferRelease_inv h
    case barrierEpisodeComplete => exact execBarrierEpisodeComplete_inv h
    case entryStart => exact execEntryStart_inv h
    case indexTokenPublish => exact execIndexTokenPublish_inv h
    case dieShareReport => exact execDieShareReport_inv h
    case graphEnd => exact execGraphEnd_inv h
    case launchAtMaster => exact execLaunchAtMaster_inv h
    case masterElection => exact execMasterElection_inv h
    case millinerSample => exact execMillinerSample_inv h
    case tileActivation => exact execTileActivation_inv h
    case tileDeactivation => exact execTileDeactivation_inv h
    case elasticQueuePass => exact execElasticQueuePass_inv h
    case swapDecision => exact execSwapDecision_inv h
    case tileSave => exact execTileSave_inv h
    case swapComplete => exact execSwapComplete_inv h
    case restoreAtTile => exact execRestoreAtTile_inv h
    case noticeRecordWrite => exact execNoticeRecordWrite_inv h
    case nqsizeWrite => exact (h.onNotice _ _ _).next
    case tinvAcknowledgement => exact execTinvAcknowledgement_inv h
    case heldWriteRetranslate => exact execHeldWriteRetranslate_inv h
    case counterIncrement => exact execCounterIncrement_inv h
    case doorbellWrite => exact h.writeDoorbell.next
    case pwrTargetWrite => exact h.writePwr.next
    case powerStateChangeComplete => exact execPowerStateChangeComplete_inv h
    case fenceWrite => exact h.writeFence.next
    case dierstWrite => exact h.writeDierst.next
    case moduleReset => exact h.moduleReset.next
    case attctlGoWrite => exact h.writeAttctl.next
    case attnonceWrite => exact h.writeNonce.next
    case attestationReportDone => exact execAttestationReportDone_inv h
    case tempAlarm => exact (h.onDie _ _).next
    case hostBar4Access => exact execHostBar4Access_inv h
    case launchWindowWrite => exact execLaunchWindowWrite_inv h
    case linkFlitReceive => exact execLinkFlitReceive_inv h
    case linkRetrainComplete => exact h.onLink.next
    case powerRemoval => exact h.moduleReset.update.next
    case firmwareCheckEnd => exact execFirmwareCheckEnd_inv h
    case umbraHostMarker => exact execUmbraHostMarker_inv h
    all_goals cases hp

/-! ## Turns (R22, R64, R352, R395) -/

theorem State.Inv.issueBundle (h : s.Inv) : s.issueBundle.Inv := by
  unfold State.issueBundle
  dsimp only
  split
  · exact h.settle.pastEnd
  split
  · exact h.settle.faultHere
  · exact h.settle.issue bundlePlans_sound

theorem State.Inv.markIssue (h : s.Inv) : s.markIssue.Inv := h.onCurTileOf.onCurCtx _

theorem State.Inv.toIssue (h : s.Inv) : (s.toIssue t b).Inv := by
  dsimp only [State.toIssue]
  split
  · exact h.atBank.markIssue
  · exact h.atBank

theorem State.Inv.spendStep (h : s.Inv) : (s.spendStep t b).Inv := ((h.onCtx _ _ _).onBank _ _ _ _).onTileOf

theorem State.Inv.bankTurn (h : s.Inv) : (s.bankTurn t b).Inv := by
  dsimp only [State.bankTurn]
  split
  · exact h
  split
  · exact h.spendStep
  split
  · exact h.toIssue.issueBundle
  · exact h

theorem State.Inv.coreTurn (h : s.Inv) : Sound (s.coreTurn k) := by
  have h1 : (s.atCore k).Inv := h.update
  unfold State.coreTurn
  refine .ite h.next (.ite h1.coreFault.next ?_)
  split
  · exact h1.coreFault.next
  · exact exec_inv h1

theorem State.Inv.eventTurn (h : s.Inv) {i : Instr} : Sound (s.eventTurn i) := .ite (exec_inv h) h.next

theorem State.Inv.tileCycle (h : s.Inv) : (s.tileCycle t).Inv := by
  dsimp only [State.tileCycle]
  split
  · exact h.msCycle.cactCycle.completeBarrier
  · exact h.msCycle.cactCycle

theorem MemTile.Sound.spend {m : MemTile} (h : m.Sound) {runs : BitVec 6 → Bool} : (m.spend runs).Sound :=
  h.mapLeaves rfl fun x hx => by split <;> exact hx

theorem State.Inv.timers (h : s.Inv) : (s.timers d).Inv := by
  dsimp only [State.timers]
  refine h.foldlOf (fun _ _ hx => ?_)
  split
  · exact hx.onCoreOf (fun _ hx' => hx')
  · exact hx

theorem Tile.Sound.newCycle {x : Tile} (h : x.Sound) : x.newCycle.Sound := h

/-- A cycle of a die changes its tiles and memory tiles in their places. -/
theorem State.Inv.mapDie (h : s.Inv) {f : Tile → Tile} {g : MemTile → MemTile} (hf : ∀ x : Tile, x.Sound → (f x).Sound)
    (hg : ∀ m : MemTile, m.Sound → (g m).Sound) :
    ({ s with tiles := s.tiles.onDie d f, memTiles := s.memTiles.onDie d g } : State).Inv :=
  h.mapTables rfl rfl rfl rfl rfl rfl (fun q => by split <;> rfl) (fun q hq => by split; exacts [hf _ hq, hq])
    (fun q => by split <;> rfl) (fun q hq => by split; exacts [hg _ hq, hq])

theorem State.Inv.sleep (h : s.Inv) : (s.sleep d).Inv := by
  dsimp only [State.sleep]
  split
  · exact h.onDie _ _
  · exact h

theorem State.Inv.ageFlights (h : s.Inv) : (s.ageFlights d).Inv := h.update

theorem State.Inv.newCycle (h : s.Inv) : (s.newCycle d).Inv := by
  unfold State.newCycle
  extract_lets s1 s2 s3 ts
  have h1 : s1.Inv := h.onDie _ _
  clear_value s1
  have h2 : s2.Inv := (h1.mapDie (fun _ hx => hx.newCycle) fun _ hm => hm.spend).ageFlights.applyWrites
  have h3 : s3.Inv := h2.decideSwaps
  exact (h3.foldlOf fun _ _ hx => hx.tileCycle).timers

theorem State.Inv.dieTurn (h : s.Inv) : (s.dieTurn d).Inv := by
  dsimp only [State.dieTurn]
  split
  · exact ((h.onDie _ _).applyWrites).decideSwaps
  split
  · exact h
  · exact h.newCycle

theorem State.Inv.turn (h : s.Inv) {u : Turn} : Sound (s.turn u) := by
  cases u with
  | event i => exact h.eventTurn
  | tick d => exact (State.Inv.ite h.dieTurn h.sleep).next
  | bundle t b => exact (State.Inv.ite h.bankTurn h).next
  | core k => exact .ite h.coreTurn h.next

/-! ## A step -/

theorem step_inv (h : s.Inv) : Sound (step s) := by
  unfold step
  split
  · exact (h.schedule _ _).turn
  split
  · exact h.turn
  · exact h.update.turn

/-- Settles O7: whatever the turn, what it leaves meets the invariant. -/
theorem stepInvariant : Obligations.StepInvariant := fun _ _ h e => (step_inv h).inv _ e

end Sys2Proof.Machine
end

section
/-!
SUPPORT. Control cores: an instruction that completes below the last word of local memory, and one that acts on a site (R388,
R397, R406).
-/
namespace Sys2Proof.Machine
variable {s : State} {k : CoreId}

/-! ## The end of an instruction (R388) -/

/-- Below the last word of local memory a core goes on to the next one (R388). -/
theorem Core.done_eq {c : Core} (h : c.pc ≠ 0x3FFFC) : c.done = { c with pc := c.pc + 4 } := if_neg h

@[simp] theorem Core.wx_pc (c : Core) (r : BitVec 5) (v : W64) : (c.wx r v).pc = c.pc := by
  unfold Core.wx; split <;> rfl

/-- Only what a change makes of the core as it stands counts. -/
theorem State.onCore_congr {f g : Core → Core} (h : f s.cores[k] = g s.cores[k]) : s.onCore k f = s.onCore k g := by
  simp only [State.onCore, h]

theorem State.onCore_onCore (f g : Core → Core) : (s.onCore k f).onCore k g = s.onCore k (fun c => g (f c)) := by
  simp [State.onCore]

/-- A change that leaves pc, and then the end of the instruction. -/
theorem State.onCore_done {f : Core → Core} (hf : (f s.cores[k]).pc = s.cores[k].pc) (h : s.cores[k].pc ≠ 0x3FFFC) :
    s.onCore k (fun c => (f c).done) = s.onCore k (fun c => { f c with pc := c.pc + 4 }) :=
  State.onCore_congr ((Core.done_eq (by rwa [hf])).trans (by rw [hf]))

/-- The end of an instruction that changes nothing else of its core. -/
theorem State.onCurCore_done (h : s.curCore.pc ≠ 0x3FFFC) :
    s.onCurCore Core.done = s.onCurCore (fun c => { c with pc := c.pc + 4 }) :=
  State.onCore_done (f := id) rfl h

/-- The end of an instruction that gives a register a value. -/
theorem State.onCurCore_wx_done (d : BitVec 5) (v : W64) (h : s.curCore.pc ≠ 0x3FFFC) :
    s.onCurCore (fun c => (c.wx d v).done) = s.onCurCore (fun c => { c.wx d v with pc := c.pc + 4 }) :=
  State.onCore_done (Core.wx_pc _ d v) h

/-! ## Instructions that act on a site (R397, R406) -/

section Site
variable {x : W64} {o : Host.Outcome State Fault Refusal}

theorem State.onSite_open (h : s.reach s.cur.core (selSite x) = .open) : s.onSite x o = o := by rw [State.onSite, h]

theorem State.onSite_waits (h : s.reach s.cur.core (selSite x) = .waits) : s.onSite x o = .next s := by rw [State.onSite, h]

theorem State.onSite_lost (h : s.reach s.cur.core (selSite x) = .lost) :
    s.onSite x o = .next (s.ccException s.cur.core .page x) := by
  rw [State.onSite, h]; rfl

end Site

/-! ## What a `tload` leaves of who executes (R397) -/

/-- What an access changes on its way is not who executes. -/
theorem State.Passed.cur {s t : State} (h : s.Passed t) : t.cur = s.cur := by
  obtain ⟨hbeside, -⟩ := h
  exact (congrArg State.cur hbeside :)

/-- A whole walk changes nothing but what an access may change on its way (R380). -/
theorem State.passed_walkDown (die : DieId) (va : Nat) (lv : Nat) :
    ∀ (s : State) (base : Nat), s.Passed (s.walkDown die va base lv).2 := by
  induction lv with
  | zero => exact fun s base => s.passed_walkVia die base va 0
  | succ lv ih =>
    intro s base
    have hvia := s.passed_walkVia die base va (lv + 1)
    unfold State.walkDown
    split
    next e => exact State.Passed.trans (by simpa only [e] using hvia) (ih _ _)
    · exact hvia

/-- A translation leaves who executes. -/
theorem State.cur_translateNow {u : State} {mt : Site} {l : Leaf} {va : Nat} {e : TlbEntry}
    (h : s.translateNow mt l va = some (.ok (e, u))) : u.cur = s.cur := by
  unfold State.translateNow at h
  split at h
  · cases h
  split at h
  · cases h; rfl
  split at h
  next hw =>
    have hcur := (State.passed_walkDown (siteDie mt) va 4 s (trRoot (s.trcfg mt l))).cur
    rw [hw] at hcur
    cases h; exact hcur
  all_goals cases h

/-- Where a fetch goes on, the same core executes as before. -/
def Fetch.KeepsCur (c : Cursor) : Fetch → Prop
  | .now _ s => s.cur = c
  | .host _ s => s.cur = c
  | .waits => True
  | .fault _ => True

theorem State.keepsCur_fetchFor (s : State) (t : Site) (l : Leaf) (va : Nat) : (s.fetchFor t l va).KeepsCur s.cur := by
  unfold State.fetchFor
  extract_lets mt
  split
  · trivial
  · trivial
  next htr =>
    have hcur := State.cur_translateNow htr
    extract_lets pa
    split
    · trivial
    split
    · trivial
    split
    · exact hcur
    split
    · trivial
    split
    · trivial
    split
    · trivial
    next hpass => exact (State.passed_passSlice hpass).cur.trans hcur

/-- A `tload` leaves who executes, however far it comes. -/
theorem State.cur_copyBundles (t : Site) (l : Leaf) (n : Nat) :
    ∀ (s : State) (first va : Nat), (s.copyBundles t l first va n).1.cur = s.cur := by
  induction n with
  | zero => exact fun _ _ _ => rfl
  | succ n ih =>
    intro s first va
    have hfetch := s.keepsCur_fetchFor t l va
    unfold State.copyBundles
    split
    · rfl
    · rfl
    next e => rw [e] at hfetch; exact hfetch
    next e => rw [e] at hfetch; exact (ih _ _ _).trans hfetch

end Sys2Proof.Machine
end

section
/-!
SUPPORT. The fabric instructions of a control core, one by one (R397-R399).
-/
namespace Sys2Proof.Machine
variable {s s1 : State} {k : CoreId}

/-! ## What waits for a cycle boundary (R176, R397) -/

/-- A core whose instruction waits no more. -/
def Core.free (c : Core) : Core := { c with busy := .none }

section Tsw
variable {sel v : W64} (hbusy : s.cores[k].busy = .tsw sel v)
include hbusy

/-- A write that its target takes is made at the boundary, and the `tsw` completes. -/
theorem State.applyWrite_tsw_ok (hopen : s.fenced (siteDie (selSite sel)) = false) (hwrite : s.tileWrite sel v = .ok s1)
    (hpc : s1.cores[k].pc ≠ 0x3FFFC) :
    s.applyWrite (siteDie (selSite sel)) k = s1.onCore k (fun c => { c with busy := .none, pc := c.pc + 4 }) := by
  have h : s.applyWrite (siteDie (selSite sel)) k = s1.onCore k (fun c => c.free.done) := by
    rw [State.applyWrite, hbusy]
    simp only [hopen, hwrite, ne_eq, not_true_eq_false, Bool.false_eq_true, if_false]
    rfl
  exact h.trans (State.onCore_done (f := Core.free) rfl hpc)

/-- One that its target refuses faults there. -/
theorem State.applyWrite_tsw_error {f : Cause} (hopen : s.fenced (siteDie (selSite sel)) = false)
    (hwrite : s.tileWrite sel v = .error f) :
    s.applyWrite (siteDie (selSite sel)) k = (s.onCore k Core.free).ccException k f sel := by
  rw [State.applyWrite, hbusy]
  simp only [hopen, hwrite, ne_eq, not_true_eq_false, Bool.false_eq_true, if_false]
  rfl

/-- One whose target lies on a fenced die faults PAGE (R406; log 58). -/
theorem State.applyWrite_tsw_fenced (hfence : s.fenced (siteDie (selSite sel)) = true) :
    s.applyWrite (siteDie (selSite sel)) k = (s.onCore k Core.free).ccException k .page sel := by
  rw [State.applyWrite, hbusy]
  simp only [hfence, ne_eq, not_true_eq_false, if_false, if_true]
  rfl

end Tsw

/-- A `cfgw` writes its box register at the boundary and gives what stood there (R176). -/
theorem State.applyWrite_cfgw {x : BitVec 5} {t : Site} {n : Nat} {v : W32} (hbusy : s.cores[k].busy = .cfgw x t n v)
    (hpc : s.cores[k].pc ≠ 0x3FFFC) (hopen : s.fenced (siteDie t) = false) :
    s.applyWrite (siteDie t) k = (s.onBox t (fun q => q.setReg n v)).onCore k (fun c =>
      { c.free.wx x (((s.box t).reg n).setWidth 64) with pc := c.pc + 4 }) := by
  have h : s.applyWrite (siteDie t) k = (s.onBox t (fun q => q.setReg n v)).onCore k (fun c =>
      (c.free.wx x (((s.box t).reg n).setWidth 64)).done) := by
    rw [State.applyWrite, hbusy]
    simp only [hopen, ne_eq, not_true_eq_false, Bool.false_eq_true, if_false]
    rfl
  exact h.trans (State.onCore_done (f := fun c => c.free.wx x _) (Core.wx_pc _ _ _) hpc)

/-! ## `tsr`, `tsw` and `cfgw` of a site that is reached (R175, R397, R398) -/

section Site
variable {d a b : BitVec 5} (hreach : s.reach s.cur.core (selSite (s.curCore.rx a)) = .open)
include hreach

theorem exec_tsr_ok {v : W64} (hpc : s.curCore.pc ≠ 0x3FFFC) (hread : s.tileRead (s.curCore.rx a) = .ok v) :
    exec (.tsr d a) s = .next (s.onCurCore (fun c => { c.wx d v with pc := c.pc + 4 })) := by
  refine (State.onSite_open hreach).trans ?_
  rw [hread, ← State.onCurCore_wx_done d v hpc]

theorem exec_tsr_error {f : Cause} (hread : s.tileRead (s.curCore.rx a) = .error f) :
    exec (.tsr d a) s = .next (s.ccException s.cur.core f (s.curCore.rx a)) := by
  refine (State.onSite_open hreach).trans ?_
  rw [hread]; rfl

theorem exec_tsw_ok (hpc : s.curCore.pc ≠ 0x3FFFC) (hwrite : s.tileWrite (s.curCore.rx a) (s.curCore.rx b) = .ok s1) :
    exec (.tsw a b) s =
      .next (if isCompute (selSite (s.curCore.rx a)) ∨ isMemory (selSite (s.curCore.rx a)) then
          s.onCurCore (fun c => { c with busy := .tsw (s.curCore.rx a) (s.curCore.rx b) })
        else s.onCurCore (fun c => { c with pc := c.pc + 4 })) := by
  refine (State.onSite_open hreach).trans ?_
  rw [hwrite, ← State.onCurCore_done hpc]
  exact (apply_ite Host.Outcome.next _ _ _).symm

theorem exec_tsw_error {f : Cause} (hwrite : s.tileWrite (s.curCore.rx a) (s.curCore.rx b) = .error f) :
    exec (.tsw a b) s = .next (s.ccException s.cur.core f (s.curCore.rx a)) := by
  refine (State.onSite_open hreach).trans ?_
  rw [hwrite]; rfl

/-- A `cfgw` that writes waits. -/
theorem exec_cfgw_write (hsite : siteKind (selSite (s.curCore.rx a)) ≠ .none) (hb : b ≠ 0) :
    exec (.cfgw d a b) s = .next (s.onCurCore (fun c =>
      { c with busy := .cfgw d (selSite (s.curCore.rx a)) (selNum (s.curCore.rx a)) ((s.curCore.rx b).extractLsb' 0 32) })) := by
  refine (State.onSite_open hreach).trans (if_neg (not_or.mpr ⟨hb, ?_⟩))
  simp [hsite]

/-- One with x0 only reads. -/
theorem exec_cfgw_read (hpc : s.curCore.pc ≠ 0x3FFFC) (hsite : siteKind (selSite (s.curCore.rx a)) ≠ .none) :
    exec (.cfgw d a 0) s = .next (s.onCurCore (fun c =>
      { c.wx d (((s.box (selSite (s.curCore.rx a))).reg (selNum (s.curCore.rx a))).setWidth 64) with pc := c.pc + 4 })) := by
  refine ((State.onSite_open hreach).trans (if_pos (.inl rfl))).trans ?_
  rw [← State.onCurCore_wx_done d _ hpc]
  simp [hsite]

/-- At a number that names no site, 0 is read (R175). -/
theorem exec_cfgw_none (hpc : s.curCore.pc ≠ 0x3FFFC) (hsite : siteKind (selSite (s.curCore.rx a)) = .none) :
    exec (.cfgw d a b) s = .next (s.onCurCore (fun c => { c.wx d 0 with pc := c.pc + 4 })) := by
  refine ((State.onSite_open hreach).trans (if_pos (.inr (by simp [hsite])))).trans ?_
  rw [← State.onCurCore_wx_done d _ hpc]
  simp [hsite]

end Site

/-! ## `tload` (R397) -/

/-- The first bundle that the selector of a `tload` names. -/
def loadFirst (x : W64) : Nat := (x.extractLsb' 16 12).toNat

/-- How many bundles it names. -/
def loadCount (x : W64) : Nat := (x.extractLsb' 32 13).toNat

/-- No bank of a leaf runs: a `tload` may write its bundles (R397). -/
def State.leafStopped (s : State) (t : Site) (l : Leaf) : Bool :=
  (s.ctx t l).banks.toList.all (fun k => k.life != .running || k.faulted || k.frozen)

theorem State.any_running_eq (t : Site) (l : Leaf) :
    (s.ctx t l).banks.toList.any (fun k => k.life == .running && !k.faulted && !k.frozen) = !s.leafStopped t l := by
  rw [State.leafStopped, List.not_all_eq_any_not]
  congr 1
  funext k
  cases k.faulted <;> cases k.frozen <;> simp [bne]

section Tload
variable {a b : BitVec 5}

theorem exec_tload_srange (h : loadCount (s.curCore.rx a) = 0 ∨
      4096 < loadFirst (s.curCore.rx a) + loadCount (s.curCore.rx a)) :
    exec (.tload a b) s = .next (s.ccException s.cur.core .srange (s.curCore.rx a)) :=
  if_pos (h.imp id .inr)

variable (hcount : loadCount (s.curCore.rx a) ≠ 0) (hend : loadFirst (s.curCore.rx a) + loadCount (s.curCore.rx a) ≤ 4096)
include hcount hend

theorem tload_inRange : ¬ (loadCount (s.curCore.rx a) = 0 ∨ 4096 < loadCount (s.curCore.rx a) ∨
    4096 < loadFirst (s.curCore.rx a) + loadCount (s.curCore.rx a)) := by
  omega

theorem exec_tload_perm (h : isCompute (selSite (s.curCore.rx a)) = false ∨
      s.leafStopped (selSite (s.curCore.rx a)) (selLeaf (s.curCore.rx a)) = false) :
    exec (.tload a b) s = .next (s.ccException s.cur.core .perm (s.curCore.rx a)) := by
  refine (if_neg (tload_inRange hcount hend)).trans (if_pos ?_)
  rw [State.any_running_eq]
  simpa using h

variable (hcompute : isCompute (selSite (s.curCore.rx a)) = true)
  (hstopped : s.leafStopped (selSite (s.curCore.rx a)) (selLeaf (s.curCore.rx a)) = true)
include hcompute hstopped

theorem exec_tload_align (h : (s.curCore.rx b).toNat % 16 ≠ 0) :
    exec (.tload a b) s = .next (s.ccException s.cur.core .align (s.curCore.rx b)) := by
  refine (if_neg (tload_inRange hcount hend)).trans ((if_neg ?_).trans ((if_pos h).trans ?_))
  · rw [State.any_running_eq]
    simp [hcompute, hstopped]
  · rw [BitVec.ofNat_toNat, BitVec.setWidth_eq]; rfl

/-- A `tload` that passes its checks copies its bundles where the site is reached. -/
theorem exec_tload (h : (s.curCore.rx b).toNat % 16 = 0) :
    exec (.tload a b) s = s.onSite (s.curCore.rx a) (.next (s.loadBundles s.cur.core (selSite (s.curCore.rx a))
      (selLeaf (s.curCore.rx a)) (loadFirst (s.curCore.rx a)) (s.curCore.rx b).toNat (loadCount (s.curCore.rx a)))) := by
  refine (if_neg (tload_inRange hcount hend)).trans ((if_neg ?_).trans (if_neg (not_not.mpr h)))
  rw [State.any_running_eq]
  simp [hcompute, hstopped]

end Tload

/-! What a `tload` leaves, by how far it came (R237, R241, R397). -/

section Loaded
variable {t : Site} {l : Leaf} {first va n i m pa : Nat} {f : Cause}

theorem State.loadBundles_done (h : s.copyBundles t l first va n = (s1, .done)) (hpc : s1.curCore.pc ≠ 0x3FFFC) :
    s.loadBundles s.cur.core t l first va n =
      (s1.onCore s.cur.core Core.free).onCore s.cur.core (fun c => { c with pc := c.pc + 4 }) := by
  have hcur := s.cur_copyBundles t l n first va
  rw [h] at hcur
  have hdone : s.loadBundles s.cur.core t l first va n = s1.onCore s.cur.core (fun c => c.free.done) := by
    rw [State.loadBundles, h]; rfl
  rw [hdone, State.onCore_onCore, ← hcur]
  exact State.onCore_done (f := Core.free) rfl hpc

theorem State.loadBundles_fault (h : s.copyBundles t l first va n = (s1, .fault f m)) :
    s.loadBundles k t l first va n = (s1.onCore k Core.free).ccException k f (BitVec.ofNat 64 m) := by
  rw [State.loadBundles, h]; rfl

theorem State.loadBundles_waits (h : s.copyBundles t l first va n = (s1, .waits i pa m)) :
    s.loadBundles k t l first va n = s1.onCore k (fun c => { c with busy := .tload t l i pa m }) := by
  rw [State.loadBundles, h]

theorem State.loadBundles_host {ea : Nat} (h : s.copyBundles t l first va n = (s1, .host pa i ea m)) :
    s.loadBundles k t l first va n = s1.hostRead k (BitVec.ofNat 64 ea) pa (.bundle k t l i m) := by
  rw [State.loadBundles, h]

end Loaded

/-! ## `tinv`, `frd` and `gtw` (R341, R346, R383, R397) -/

section Table
variable {d a b : BitVec 5}

theorem exec_tinv_srange (h : s.curCore.rx b = 0 ∨ 2 ^ 42 < (s.curCore.rx b).toNat) :
    exec (.tinv d a b) s = .next (s.ccException s.cur.core .srange (s.curCore.rx b)) := if_pos h

/-- A `tinv` drops the translations at its issue (log 27), and its core waits. -/
theorem exec_tinv (hzero : s.curCore.rx b ≠ 0) (hmax : (s.curCore.rx b).toNat ≤ 2 ^ 42) :
    exec (.tinv d a b) s =
      .next ((s.tinvDrop s.cur.core ((s.curCore.rx d).extractLsb' 0 16) ((s.curCore.rx a).toNat / 4096 * 4096)
        ((s.curCore.rx a).toNat / 4096 * 4096 + 4096 * (s.curCore.rx b).toNat)).onCurCore (fun c => { c with busy := .tinv })) :=
  if_neg (not_or.mpr ⟨hzero, Nat.not_lt.mpr hmax⟩)

/-- A `frd` gives a word of the launch table, or of the pool. -/
theorem exec_frd (hpc : s.curCore.pc ≠ 0x3FFFC) :
    exec (.frd d a) s = .next (s.onCurCore (fun c =>
      { c.wx d ((if (s.curCore.rx a).getLsbD 16 then
          s.poolWord (((s.curCore.rx a).extractLsb' 4 12).toNat % 1024) ((s.curCore.rx a).extractLsb' 0 3).toNat
        else (s.entry ((s.curCore.rx a).extractLsb' 4 12).toNat).word ((s.curCore.rx a).extractLsb' 0 3).toNat).setWidth 64) with
        pc := c.pc + 4 })) :=
  congrArg Host.Outcome.next (State.onCurCore_wx_done d _ hpc)

/-- A `gtw` waits for an election (R349; log 43). -/
theorem exec_gtw_election (h : s.election = true) : exec (.gtw a b) s = .next s := if_pos h

/-- A pool entry and words 5 to 7 stay as they are (log 43). -/
theorem exec_gtw_ignored (hpc : s.curCore.pc ≠ 0x3FFFC) (he : s.election = false)
    (h : (s.curCore.rx a).getLsbD 16 = true ∨ 4 < ((s.curCore.rx a).extractLsb' 0 3).toNat) :
    exec (.gtw a b) s = .next (s.onCurCore (fun c => { c with pc := c.pc + 4 })) := by
  show execGtw a b s = _
  simp only [execGtw, he, if_pos h, State.onCurCore_done hpc, Bool.false_eq_true, if_false]

/-- Another word is written. -/
theorem exec_gtw_write {u : State} (he : s.election = false) (hbit : (s.curCore.rx a).getLsbD 16 = false)
    (hword : ((s.curCore.rx a).extractLsb' 0 3).toNat ≤ 4)
    (hu : s.writeEntry ((s.curCore.rx a).extractLsb' 4 12).toNat ((s.curCore.rx a).extractLsb' 0 3).toNat
      ((s.curCore.rx b).extractLsb' 0 32) = u) (hpc : u.curCore.pc ≠ 0x3FFFC) :
    exec (.gtw a b) s = .next (u.onCurCore (fun c => { c with pc := c.pc + 4 })) := by
  have h : ¬ ((s.curCore.rx a).getLsbD 16 = true ∨ 4 < ((s.curCore.rx a).extractLsb' 0 3).toNat) := by
    rw [hbit]; simpa using hword
  show execGtw a b s = _
  simp only [execGtw, he, if_neg h, hu, State.onCurCore_done hpc, Bool.false_eq_true, if_false]

end Table

/-! ## The obligation -/

/-- Settles O41: what waits for a boundary is what `State.applyWrite` makes of it, an instruction on a site goes by
`State.onSite`, and a `tload` leaves its core as its copy came to an end, which changes nothing of who executes
(`State.cur_copyBundles`). -/
theorem coreFabric : Obligations.CoreFabric := by
  unfold Obligations.CoreFabric
  refine ⟨fun s s1 k sel v f hbusy => ⟨State.applyWrite_tsw_ok hbusy, State.applyWrite_tsw_error hbusy,
    State.applyWrite_tsw_fenced hbusy⟩, fun s k x t n v => State.applyWrite_cfgw, ?_⟩
  intro s s1 d a b v f va i m pa c k x y t box next gives faults n j first count lo stopped loads free
  refine ⟨fun hlost => ⟨State.onSite_lost hlost, State.onSite_lost hlost, State.onSite_lost hlost, ?_⟩,
    fun hwaits => ⟨State.onSite_waits hwaits, State.onSite_waits hwaits, State.onSite_waits hwaits, ?_⟩,
    exec_tload_srange, exec_tload_perm, exec_tload_align, exec_tinv_srange, fun hpc => ⟨fun hopen => exec_tsr_ok hopen hpc,
    fun hopen => exec_tsr_error hopen, fun hopen => exec_tsw_ok hopen hpc, fun hopen => exec_tsw_error hopen,
    exec_cfgw_write, fun hopen => exec_cfgw_read hopen hpc,
    fun hopen => exec_cfgw_none hopen hpc, ?_, exec_tinv, ?_, ?_, exec_gtw_election, exec_gtw_ignored hpc, ?_⟩⟩
  · rintro ⟨hcount, hend, hcompute, hstopped, halign⟩
    exact (exec_tload hcount hend hcompute hstopped halign).trans (State.onSite_lost hlost)
  · rintro ⟨hcount, hend, hcompute, hstopped, halign⟩
    exact (exec_tload hcount hend hcompute hstopped halign).trans (State.onSite_waits hwaits)
  · rintro hopen ⟨hcount, hend, hcompute, hstopped, halign⟩
    have hload := (exec_tload hcount hend hcompute hstopped halign).trans (State.onSite_open hopen)
    exact ⟨fun h hpc' => hload.trans (congrArg _ (State.loadBundles_done h hpc')),
      fun h => hload.trans (congrArg _ (State.loadBundles_fault h)),
      fun h => hload.trans (congrArg _ (State.loadBundles_waits h)),
      fun h => hload.trans (congrArg _ (State.loadBundles_host h))⟩
  · intro hbit
    exact (exec_frd hpc).trans (by rw [if_neg (by rw [hbit]; decide)])
  · intro hbit
    exact (exec_frd hpc).trans (by rw [if_pos hbit])
  · exact fun he hbit hword hpc' => exec_gtw_write he hbit hword rfl hpc'

end Sys2Proof.Machine
end

section
/-!
SUPPORT. The byte memory under the operations of the module and of BAR4: what remains of one that loses its low part, and bytes
written one by one (R37, R400).
-/
namespace Sys2Proof.Machine

/-! ## Memories -/

/-- A memory that has lost its low part reads 0 there (log 3). -/
theorem Memory.read_dropBelow_below {m : Memory} {b a : Nat} (h : a < b) : (m.dropBelow b).read a = 0 := by
  induction m with
  | nil => rfl
  | cons c r ih =>
    by_cases hc : b ≤ c.1
    · have hne : a ≠ c.1 := by omega
      have hlt : a < c.1 := by omega
      simp [Memory.dropBelow, Memory.read, hc, hne, hlt]
    · simpa [Memory.dropBelow, hc] using ih

/-- And reads as before above. -/
theorem Memory.read_dropBelow_above {m : Memory} {b a : Nat} (h : b ≤ a) : (m.dropBelow b).read a = m.read a := by
  induction m with
  | nil => rfl
  | cons c r ih =>
    obtain ⟨d, x⟩ := c
    by_cases hd : b ≤ d
    · simp only [Memory.dropBelow, List.filter_cons, hd, decide_true, if_true, Memory.read]
      rw [← ih, Memory.dropBelow]
    · have hne : a ≠ d := by omega
      have hlt : ¬ a < d := by omega
      rw [Memory.read, if_neg hne, if_neg hlt, ← ih]
      simp [Memory.dropBelow, hd]

theorem Memory.writeNat_one (m : Memory) (a : Nat) (x : Byte) : m.writeNat a x.toNat 1 = m.write a x := by
  simp [Memory.writeNat]

/-! ## Accesses of the host through BAR4 (R238, R400) -/

/-- What an access may change on its way does not depend on what memory holds. -/
theorem State.Passed.withMem {s t : State} (h : s.Passed t) (m : Memory) :
    ({ s with mem := m } : State).Passed { t with mem := m } := by
  obtain ⟨hbeside, hcores, hecc⟩ := h
  exact ⟨congrArg (fun x : State => { x with mem := m }) hbeside, hcores, hecc⟩

/-- Where no uncorrectable error stands, an access changes no core on its way. -/
theorem State.Passed.cores_of_ecc {s t : State} (h : s.Passed t) (he : s.ecc = []) : t.cores = s.cores := by
  obtain ⟨-, -, hecc⟩ := h
  obtain ⟨-, -, hcores⟩ := hecc he
  exact hcores

/-- Bytes that the host writes below the end of GDDR7 change memory as a write of those bytes does, and otherwise only what an
access may change on its way. -/
theorem State.passed_hostPut (bytes : List Byte) : ∀ (s : State) (off : Nat), off + bytes.length ≤ gddrEnd →
    ∃ t, s.Passed t ∧ s.hostPut off bytes = { t with mem := s.mem.writeBytes off bytes } := by
  induction bytes with
  | nil => exact fun s _ _ => ⟨s, .refl s, rfl⟩
  | cons x r ih =>
    intro s off hoff
    rw [List.length_cons] at hoff
    obtain ⟨t, ht, hput⟩ := s.passed_putHome off 1 x.toNat none
    obtain ⟨u, hu, hrest⟩ := ih { t with mem := s.mem.write off x } (off + 1) (by omega)
    refine ⟨{ u with mem := t.mem }, ht.trans (hu.withMem t.mem), ?_⟩
    rw [State.hostPut, if_pos (by omega), hput, Memory.writeNat_one, hrest]
    rfl

/-- A read of the host touches the home slices of its bytes, and is answered with them (R238, R400). -/
theorem exec_bar4Read {s : State} {off n : Nat} (hup : s.barsUp = true) (hfence : s.bar4Fenced off n = false)
    (hend : off + n ≤ gddrEnd) :
    exec (.hostBar4Access (.read off n)) s =
      .next (((List.range n).foldl (fun x i => x.touch (off + i) false) s).onHost (fun h =>
        { h with answers := h.answers ++ [some ((List.range n).map (fun i => s.mem.read (off + i)))] })) := by
  have hbytes : (List.range n).map (fun i => if off + i < gddrEnd then s.mem.read (off + i) else 0) =
      (List.range n).map (fun i => s.mem.read (off + i)) :=
    List.map_congr_left (fun i hi => if_pos (by have := List.mem_range.mp hi; omega))
  show execHostBar4Access (.read off n) s = _
  simp only [execHostBar4Access, hup, hfence, Bool.not_true, Bool.or_false, Bool.false_eq_true, if_false, hbytes]

/-- A write of the host puts its bytes through their home slices (R238, R400). -/
theorem exec_bar4Write {s : State} {off : Nat} {bytes : List Byte} (hup : s.barsUp = true)
    (hfence : s.bar4Fenced off bytes.length = false) :
    exec (.hostBar4Access (.write off bytes)) s = .next (s.hostPut off bytes) := by
  show execHostBar4Access (.write off bytes) s = _
  simp [execHostBar4Access, hup, hfence]

/-! ## Control cores (R14, R408) -/

/-- One change of each core of a list, where a second one adds nothing. -/
theorem State.cores_foldl_onCore {f : Core → Core} (hf : ∀ c, f (f c) = f c) (k : CoreId) (ks : List CoreId) :
    ∀ s : State, (ks.foldl (fun y j => y.onCore j f) s).cores[k] = if k ∈ ks then f s.cores[k] else s.cores[k] := by
  induction ks with
  | nil => exact fun s => rfl
  | cons j r ih =>
    intro s
    rw [List.foldl_cons, ih]
    by_cases hj : k = j
    · subst hj
      simp [hf]
    · rw [s.cores_onCore_ne j k f hj]
      simp [hj]

/-- The cores of a die are those that it numbers (R14). -/
theorem mem_coresOf {d : DieId} {k : CoreId} : k ∈ (List.finRange 4).map (coreOf d) ↔ coreDie k = d := by
  revert d k; decide

/-- A core as the boot ROM releases it (R388, R408). -/
def Core.booted (seg : Memory) (c : Core) : Core := { c with lmem := seg, pc := 0, started := true }

/-- Where the checks succeed, the boot ROM releases the cores of its die and no others (R408). -/
theorem exec_firmwareCheckEnd_good {s : State} {d : DieId} (hboot : s.dies[d].boot = 0)
    (hgood : firmwareGood d s.host.flash = true) :
    ∃ u, exec (.firmwareCheckEnd d) s = .next u ∧ u.dies[d].boot = 1 ∧
      ∀ k, u.cores[k] = if coreDie k = d then
        s.cores[k].booted (s.host.flash.slice 16 (firmwareLength s.host.flash)) else s.cores[k] := by
  let seg := s.host.flash.slice 16 (firmwareLength s.host.flash)
  have hcores := State.cores_foldl_onCore (f := Core.booted seg) (fun _ => rfl)
  refine ⟨_, (if_neg (by simpa using hboot)).trans (if_pos hgood), by simp, fun k => ?_⟩
  have h := hcores k ((List.finRange 4).map (coreOf d)) s
  simp only [List.foldl_map, mem_coresOf] at h
  exact h

/-- What an image has where the boot ROM accepts it (R408; log 60). -/
theorem firmwareGood_iff {d : DieId} {f : Memory} :
    firmwareGood d f = true ↔
      firmwareHeader f = true ∧ shake256 (f.readBytes (0x10 + firmwareLength f) 64) digestBytes = Config.keyHash d ∧
        slhVerify (f.readBytes (0x10 + firmwareLength f) 64) (f.readBytes 0 (0x50 + firmwareLength f))
          (f.readBytes (0x50 + firmwareLength f) signatureBytes) = true := by
  simp [firmwareGood, and_assoc]

theorem firmwareHeader_iff {f : Memory} :
    firmwareHeader f = true ↔
      f.readNat 0 4 = 0x48314657 ∧ firmwareLength f % 4 = 0 ∧ 4 ≤ firmwareLength f ∧ firmwareLength f ≤ 262144 ∧
        f.readNat 12 4 = 0 := by
  simp [firmwareHeader, and_assoc]

/-! ## Link ports (R403) -/

theorem State.links_onLink (s : State) (p : Fin 18) (f : LinkPort → LinkPort) : (s.onLink p f).links[p] = f s.links[p] := by
  simp [State.onLink]

/-- A port that is up counts a flit that fails its CRC, or gives it up as lost (R403). -/
theorem exec_badCrc {s : State} {p : Fin 18} (hup : s.linkUp p = true) :
    exec (.linkFlitReceive p .badCrc) s = .next (s.onLink p LinkPort.bad) := by
  show execLinkFlitReceive p .badCrc s = _
  simp [execLinkFlitReceive, hup]

/-- A port that is up and holds no message hears of the messages that an intact flit without any acknowledges (R403). -/
theorem exec_intact {s : State} {p : Fin 18} {acks : List (BitVec 8 × Nat × BitVec 12)} (hup : s.linkUp p = true)
    (hheld : s.links[p].held = []) :
    exec (.linkFlitReceive p (.intact acks [])) s =
      .next (s.onLink p (fun l => { l with replays := 0, out := l.out.filter (fun m =>
        !(acks.contains (m.dest, m.unit, m.serial) && l.carried.contains m)) })) := by
  show execLinkFlitReceive p (.intact acks []) s = _
  simp only [execLinkFlitReceive, hup, List.foldl_nil, State.links_onLink, hheld]
  rfl

/-! ## Power and attestation (R405, R409) -/

/-- A power change within P0 to P2 completes (R405). -/
theorem exec_powerStateChangeComplete {s : State} (hbusy : s.host.busy = true) (hcur : s.host.cur ≠ 3)
    (htarget : s.host.target ≠ 3) :
    exec .powerStateChangeComplete s = .next { s with host := { s.host with cur := s.host.target, busy := false } } := by
  have hnot : ¬ (!s.host.busy) = true := by simp [hbusy]
  exact (if_neg hnot).trans ((if_neg fun ⟨h, _⟩ => hcur h).trans (congrArg _ (if_neg htarget)))

/-- A power change to P3 completes, and loses GDDR7 (R405; log 3). -/
theorem exec_powerStateChangeComplete_p3 {s : State} (hbusy : s.host.busy = true) (htarget : s.host.target = 3) :
    exec .powerStateChangeComplete s =
      .next { s with host := { s.host with cur := 3, busy := false }, mem := s.mem.dropBelow 0x4800000000 } := by
  show execPowerStateChangeComplete s = _
  simp [execPowerStateChangeComplete, State.onHost, hbusy, htarget]

/-- A report that is being produced is written, with the nonce as it stood (R409). -/
theorem exec_attestationReportDone {s : State} (h : s.host.attBusy = true) :
    ∃ u, exec .attestationReportDone s = .next u ∧ u.host.attBusy = false ∧ u.host.attDone = true ∧
      u.host.report = attReport s.host ∧ u.host.noncePend = [] :=
  ⟨_, if_pos h, rfl, rfl, rfl, rfl⟩

/-! ## The obligation -/

/-- Settles O59: a reset leaves of memory what `Memory.dropBelow` says, the boot ROM's checks are those of `firmwareGood_iff`, and
an access through BAR4 changes on its way what `State.Passed` says. -/
theorem moduleEvents : Obligations.ModuleEvents := by
  unfold Obligations.ModuleEvents
  intro s d k off n bytes port acks f l up
  refine ⟨rfl, rfl, rfl, rfl, fun a => Memory.read_dropBelow_below, fun a => Memory.read_dropBelow_above, rfl, rfl, rfl,
    State.reset_cores k, State.reset_dies d, exec_powerStateChangeComplete, fun hbusy htarget => ?_, fun hboot hgood => ?_,
    fun hgood => ?_, fun hboot hbad => ?_, exec_attestationReportDone, fun hup hfence hend => ?_, fun hup hfence hend => ?_,
    fun hup hcount => ?_, fun hup hcount => ?_, exec_intact, rfl⟩
  · exact ⟨_, exec_powerStateChangeComplete_p3 hbusy htarget, rfl, rfl, fun a => Memory.read_dropBelow_below⟩
  · obtain ⟨u, hexec, hdie, hcores⟩ := exec_firmwareCheckEnd_good hboot hgood
    refine ⟨u, hexec, hdie, fun hk => ?_, fun hk => (hcores k).trans (if_neg hk)⟩
    rw [hcores, if_pos hk]
    exact ⟨rfl, rfl, rfl⟩
  · obtain ⟨hheader, hkey, hsig⟩ := firmwareGood_iff.mp hgood
    obtain ⟨hmagic, hmod, hlow, hhigh, hzero⟩ := firmwareHeader_iff.mp hheader
    exact ⟨hmagic, hmod, hlow, hhigh, hzero, hkey, hsig⟩
  · exact (if_neg (not_not.mpr hboot)).trans (if_neg (by rw [hbad]; decide))
  · have hpass := State.Passed.foldl (fun (x : State) i => x.passed_touch (off + i) false) (List.range n) s
    obtain ⟨hmem, htiles, -, hhost, -⟩ := hpass.same
    refine ⟨_, exec_bar4Read hup hfence hend, ?_, hmem, htiles, hpass.cores_of_ecc⟩
    rw [State.onHost, hhost]
  · obtain ⟨t, ht, hput⟩ := State.passed_hostPut bytes s off hend
    obtain ⟨-, htiles, -⟩ := ht.same
    exact ⟨_, (exec_bar4Write hup hfence).trans (congrArg _ hput), rfl, htiles, ht.cores_of_ecc⟩
  · exact ⟨_, exec_badCrc hup, (s.links_onLink port _).trans (if_neg (Nat.ne_of_lt hcount))⟩
  · exact ⟨_, exec_badCrc hup, (s.links_onLink port _).trans (if_pos hcount)⟩

end Sys2Proof.Machine
end

section
/-!
SUPPORT. A firing whose trigger channel is about to be emptied by a fault-drain token does not happen (R149, R165, R370).
-/
namespace Sys2Proof.Machine

/-- A trigger channel that a fault-drain token is about to empty names no bank, whatever its slots hold (R149, R370). -/
theorem LeafCtx.triggerBank_draining {c : LeafCtx} (h : (c.inCh c.trig).draining = true) : c.triggerBank = none := by
  simp [LeafCtx.triggerBank, h]

/-- So the firing of that tile changes nothing. -/
theorem exec_actorFiring_draining {s : State} {t : Site}
    (h : ((s.ctx t (s.tile t).running).inCh (s.ctx t (s.tile t).running).trig).draining = true) :
    exec (.actorFiring t) s = .next s := by
  show execActorFiring t s = _
  simp only [execActorFiring, State.triggerBank, LeafCtx.triggerBank_draining h]

/-- A bank that can start is idle (R64). -/
theorem State.idle_of_bankIdle {s : State} {t : Site} {b : BankId} (h : s.bankIdle t b = true) :
    (s.bank t (s.tile t).running b).life = .idle := by
  simp only [State.bankIdle, Bank.canStart, Bool.and_eq_true, beq_iff_eq] at h
  obtain ⟨⟨⟨hlife, -⟩, -⟩, -⟩ := h
  exact hlife

/-- A bound channel with a filled slot that names bank 0, and a fault-drain token at its port (R149, R152). -/
def drainedTrigger : InCh :=
  { icfg := 0x80000000, f := 1, port := [⟨{ src := .none, part := 0, leaf := 0, graph := 0, body := .faultDrain }, 0⟩] }

/-- Refutes O43: where a fault-drain token stands at the port of the trigger channel, the firing that the statement claims does
not happen, and the idle bank stays idle (R149, R370). -/
theorem not_tileLife : ¬ Obligations.TileLife := by
  unfold Obligations.TileLife
  rintro ⟨hstart, -⟩
  let s : State := State.reset.onCtx 0 0 (fun c => { c with inp := c.inp.set 0 drainedTrigger })
  have hdrain : ((s.ctx 0 (s.tile 0).running).inCh (s.ctx 0 (s.tile 0).running).trig).draining = true := by decide +kernel
  have hidle : s.bankIdle 0 0 = true := by decide +kernel
  have hstarts : s.canStartBank 0 = true ∧ s.classStart 0 = none := by decide +kernel
  have hhead : drainedTrigger.bound = true ∧ 0 < drainedTrigger.f ∧
      (drainedTrigger.info (drainedTrigger.slot 0)).side.bank.toFin = (0 : BankId) := by decide +kernel
  obtain ⟨hbound, hfilled, hbank⟩ := hhead
  obtain ⟨hfire, -⟩ := hstart s 0 0 [] [] default hstarts.left
  obtain ⟨u, hu, ⟨hlife, -⟩, -⟩ := hfire hstarts.right hbound hfilled hbank hidle
  rw [exec_actorFiring_draining hdrain, Host.Outcome.next.injEq] at hu
  subst hu
  rw [State.idle_of_bankIdle hidle] at hlife
  cases hlife

end Sys2Proof.Machine
end

section
/-!
SUPPORT. The round trip of the encoding, over all instructions (R47-R60).
-/
namespace Sys2Proof.Laws.RoundTrip

/-- Every instruction: the lemmas of its constructors, in their order. -/
theorem statement (i : Instr) : Statement i :=
  Instr.casesOn (motive := Statement) i
    nop add sub and or xor shl shr sra mul mulh mulhn min max minn maxn clz cmp addi andi ori xori shli shri srai cmpi
    li lui pand por pxor pandn div divn rem remn br call jr loop pushm popm vpushm vpopm rdsr wrsr yield halt trap
    vadd vsub vmul vfma vmin vmax vabs vneg vand vor vxor vshl vshr vcvt vcmp vsel vbcast vext vins vperm vred vscan
    vfn vdot vedge vbary vdedup vblend vdepth vrbox vrtri vsort vcomp vsig vsigChk mlat mlatc mma mzero mdrain msav
    mrst msync cmap cdif cact cstep cclr cout csav crst pop peek pops hdr adv waitf push poke pub waite pushs null
    markRe markEos lds sts ldsw stsw ldg stg ldw amo fence bar umen umlv umsk umini umabt arm fire cfgt send cmask
    cunm redc fillc lnch ccAdd ccSub ccAnd ccOr ccXor ccShl ccShr ccSra ccSlt ccSltn ccMul ccAddi ccAndi ccOri ccXori
    ccShli ccShri ccSrai ccSlti ccLui ccLdD ccLdW ccLdB ccStD ccStW ccStB ccBeq ccBne ccBlt ccBge ccBltn ccBgen ccJal
    ccJalr csrr csrw eret wfe tinv cfgw tload tsr tsw frd frzFreeze frzSwapOut frzSwapOutMemory frzKill thwThaw
    thwRestore thwRestoreMemory gtw wfeEnd timerExpiry msgWrite registerWrite actorFiring classHandlerStart
    bankBecomesIdle pendingWriteLanding asyncReportArrival freezeReachesBank bstatResumeWrite tokenArrival
    faultDrainArrival preEmptMarkerArrival slotReleaseArrival tokenHop bridgeCrossing classPacketHop
    classPacketArrival msEntryStart msEntryEnd mlatcTokenTake mdrainTokenPublish cactRunEnd memoryPortSend
    portQueueDispatch pageWalk sramBankAccess responseDelivery l2Request l2FillArrival gddr7WriteAccept gatewayRequest
    gatewayInvalidation hostReadCompletion hostCompletionTimeout weightStoreRead weightStoreRefresh
    writeAcknowledgement ownerRequest amoApply fillcAtOwner redcAtOwner readyTokenDelivery counterTimeout
    umbraEnterAtHost umbraLeaveAtHost umbraSkipAtHost umbraInitAtHost umbraGrantArrival umbraRefusalRetry umbstall
    deadlockProbeAnswer umrelWrite templateQueueHead copyRunStart copyBeat copyChunkAck completionTokenPublish
    armAtMemoryTile fireTokenEnqueue tplfireWrite tplstWrite edgeBufferPass edgeBufferRelease barrierEpisodeComplete
    entryStart indexTokenPublish dieShareReport graphEnd launchAtMaster notifyTokenDelivery masterElection
    millinerSample tileActivation tileDeactivation elasticQueuePass swapDecision tileSave swapComplete restoreAtTile
    noticeRecordWrite nqsizeWrite tinvAcknowledgement heldWriteRetranslate counterIncrement doorbellWrite
    pwrTargetWrite powerStateChangeComplete fenceWrite dierstWrite moduleReset attctlGoWrite attnonceWrite
    attestationReportDone tempAlarm hostBar4Access launchWindowWrite linkFlitReceive linkRetrainComplete powerRemoval
    firmwareCheckEnd umbraHostMarker

end Sys2Proof.Laws.RoundTrip

namespace Sys2Proof.Machine

/-- What the check of the operands lets through is well-formed (R60). -/
theorem wf_of_accept {o : Option Instr} {i : Instr} (h : accept o = some i) : i.wf = true := by
  cases o with
  | none => cases h
  | some j =>
    cases hj : j.wf <;> simp only [accept, whenB, hj, if_true, Bool.false_eq_true, if_false] at h
    · cases h
    · cases h; exact hj

/-- What a word of a slot decodes to is well-formed (R60). -/
theorem wf_decodeSlot {k : Slot} {w : W32} {i : Instr} (h : decodeSlot k w = some i) : i.wf = true := by
  cases k with
  | s | v | m | c => exact wf_of_accept h
  | core => cases h

/-- Settles O2: the round trip of each constructor, and what `accept` and the slot's decoder let through. -/
theorem decodeEncode : Obligations.DecodeEncode :=
  ⟨Laws.RoundTrip.statement, fun k w i h => ⟨wf_decodeSlot h, reads_decodeSlot k w i h⟩⟩

end Sys2Proof.Machine
end

section
/-!
SUPPORT. The words that the spec writes out (R47, R54-R58, R68), and the records of the state after reset (R77, R388).
-/
namespace Sys2Proof.Machine

/-- Settles O1: the decoder and the split of a bundle, run on the words of the spec. -/
theorem decodeWords : Obligations.DecodeWords := by
  unfold Obligations.DecodeWords
  decide +kernel

/-- The channels of a context at reset (R153). -/
theorem LeafCtx.reset_channels (ch : Fin 8) : ({} : LeafCtx).inp[ch] = {} ∧ ({} : LeafCtx).outp[ch] = {} :=
  ⟨Vector.getElem_replicate _, Vector.getElem_replicate _⟩

/-- The halves of a tile at reset (R207). -/
theorem Tile.reset_half (h : Fin 2) : ({} : Tile).halves[h] = {} := Vector.getElem_replicate _

/-- Settles O5: each record of the reset state is the default of its kind. -/
theorem resetState : Obligations.ResetState := by
  refine ⟨rfl, rfl, rfl, rfl, rfl, fun t l b => ?_, fun t => ?_, fun d => ?_, fun k => ?_⟩
  · have hbank : State.reset.bank t l b = {} := Tile.reset_bank l b
    rw [hbank]
    exact ⟨rfl, rfl, rfl, rfl, rfl, rfl, rfl, rfl, rfl, rfl, rfl, rfl, rfl, rfl⟩
  · refine ⟨rfl, rfl, rfl, fun ch => ?_, fun h => ?_, rfl, rfl, rfl⟩
    · obtain ⟨hin, hout⟩ := LeafCtx.reset_channels ch
      exact ⟨congrArg InCh.icfg hin, congrArg OutCh.ocfg hout⟩
    · exact ⟨congrArg Half.valid (Tile.reset_half h), congrArg Half.rows (Tile.reset_half h)⟩
  · have hdie : State.reset.dies[d] = {} := State.reset_dies d
    simp only [State.noticeQ]
    rw [hdie]
    exact ⟨rfl, rfl, rfl, rfl, fun p => ⟨rfl, rfl⟩⟩
  · intro c
    have hcore : c = {} := State.reset_cores k
    rw [hcore]
    exact ⟨rfl, rfl, rfl, rfl, rfl, rfl, rfl, rfl, rfl, rfl, rfl⟩

end Sys2Proof.Machine
end

section
/-!
SUPPORT. Illegal words (R48-R60, R68, R69): what the decoders refuse, reason by reason, and what a bundle or a control core
does at a word that does not decode.
-/
namespace Sys2Proof.Machine

/-! ## What the check of the operands refuses -/

section
variable {i : Instr}

@[simp] theorem accept_none : accept none = none := rfl

/-- Operands that are not accepted. -/
@[simp] theorem accept_some_eq_none : accept (some i) = none ↔ i.wf = false := by
  cases h : i.wf <;> simp [accept, whenB, h]

/-- A check of reserved bits. -/
@[simp] theorem accept_whenB_eq_none {c : Bool} : accept (whenB c i) = none ↔ (c = true → i.wf = false) := by
  cases c <;> simp [whenB]

/-- A field that has to be a register or a handle. -/
@[simp] theorem accept_bind_eq_none {α : Type} {o : Option α} {f : α → Option Instr} :
    accept (o.bind f) = none ↔ ∀ x, o = some x → accept (f x) = none := by
  cases o <;> simp

/-- A choice by a field of the word. -/
@[simp] theorem accept_ite_eq_none {c : Prop} [Decidable c] {x y : Option Instr} :
    accept (if c then x else y) = none ↔ (c → accept x = none) ∧ (¬c → accept y = none) := by
  split <;> simp [*]

end

/-! ## Codes that no op accepts (R53, R103, R129, R191, R200, R324) -/

section
variable {t : BitVec 4} {m : BitVec 3}

theorem arithT_eq_false (h : t.toNat = 0 ∨ 9 ≤ t.toNat) : arithT t = false := by revert t; decide
theorem anyT_eq_false (h : t.toNat = 0xD ∨ t.toNat = 0xE) : anyT t = false := by revert t; decide
theorem cvtT_eq_false (h : t.toNat = 0xD ∨ t.toNat = 0xE) : cvtT t = false := by revert t; decide
theorem shiftT_eq_false (h : t.toNat = 0 ∨ 6 ≤ t.toNat) : shiftT t = false := by revert t; decide
theorem permT_eq_false (h : 0xB ≤ t.toNat ∧ t.toNat ≤ 0xE) : permT t = false := by revert t; decide
theorem dotT_eq_false (h : t.toNat < 3 ∨ 5 ≤ t.toNat ∧ t.toNat < 7 ∨ 9 ≤ t.toNat) : dotT t = false := by revert t; decide
theorem blendT_eq_false (h : t.toNat < 6 ∨ 9 ≤ t.toNat) : blendT t = false := by revert t; decide
theorem arrayT_eq_false (h : t.toNat = 0 ∨ 2 ≤ t.toNat ∧ t.toNat < 7 ∨ 0xD ≤ t.toNat) : arrayT t = false := by
  revert t; decide
theorem drainT_eq_false (h : t.toNat = 2 ∨ t.toNat = 4 ∨ 0xD ≤ t.toNat) : drainT t = false := by revert t; decide
theorem scaleHeadT_eq_false (h : t.toNat < 7 ∨ t.toNat = 0xC) : scaleHeadT t = false := by revert t; decide
theorem roundOk_eq_false (h : 5 ≤ m.toNat) : roundOk m = false := by revert m; decide
theorem modeOk_eq_false (h : if floatT t then 5 ≤ m.toNat else 2 ≤ m.toNat) : modeOk t m = false := by revert t m; decide
theorem srAssigned_eq_false {n : BitVec 12} (h : 0x014 ≤ n.toNat ∧ n.toNat < 0x020 ∨ 0x030 ≤ n.toNat) :
    srAssigned n = false := by
  simp only [srAssigned, BitVec.ult, BitVec.ule, BitVec.toNat_ofNat]
  simp
  omega

/-- The destination codes that a `vcvt` refuses, with the bit that asks for `.nsat` (R129, R136). -/
theorem cvt_refused {ovf : Bool} (h : t = 0xD ∨ t = 0xE ∨ ovf = true ∧ t ∈ [0x0#4, 0x6#4, 0x7#4, 0x8#4, 0xF#4])
    (hc : cvtT t = true) : (ovf = true ∧ narrowFloatT t = false) ∧ intT t = false := by
  revert t ovf; decide

end

/-! ## Fields that name no register or handle (R49-R51) -/

section
variable {w : W32}

theorem vreg_fD_eq_none (h : w.getLsbD 21 = true) : vreg (fD w) = none := by
  simpa [vreg, fD, BitVec.getLsbD_extractLsb'] using h
theorem vreg_fA_eq_none (h : w.getLsbD 16 = true) : vreg (fA w) = none := by
  simpa [vreg, fA, BitVec.getLsbD_extractLsb'] using h
theorem vreg_fB_eq_none (h : w.getLsbD 11 = true) : vreg (fB w) = none := by
  simpa [vreg, fB, BitVec.getLsbD_extractLsb'] using h
theorem vreg_fG_eq_none (h : w.getLsbD 17 = true) : vreg (fG w) = none := by
  simpa [vreg, fG, BitVec.getLsbD_extractLsb'] using h
theorem pairReg_fA_eq_none (h : w.getLsbD 12 = true) : pairReg (fA w) = none := by
  simpa [pairReg, fA, BitVec.getLsbD_extractLsb'] using h
theorem pairReg_fB_eq_none (h : w.getLsbD 7 = true) : pairReg (fB w) = none := by
  simpa [pairReg, fB, BitVec.getLsbD_extractLsb'] using h
theorem inHandle_fH_eq_none (h : w.getLsbD 21 = true) : inHandle (fH w) = none := by
  simpa [inHandle, fH, BitVec.getLsbD_extractLsb'] using h
theorem outHandle_fH_eq_none (h : w.getLsbD 21 = false) : outHandle (fH w) = none := by
  simpa [outHandle, fH, BitVec.getLsbD_extractLsb'] using h
end

/-! ## Illegal words, slot by slot -/

/-- A word of a slot with one of the opcodes is illegal where the condition holds (R60). -/
def Refused (k : Slot) (w : W32) (ops : List Nat) (p : Prop) : Prop :=
  (opCode w).toNat ∈ ops → p → decodeSlot k w = none

/-- What a slot's decoder reads before the operands are checked. -/
def decodeRaw (k : Slot) (w : W32) : Option Instr :=
  match k with
  | .s => decodeSRaw w
  | .v => decodeVRaw w
  | .m => decodeMRaw w
  | .c => decodeCRaw w
  | .core => none

theorem decodeSlot_eq_accept (k : Slot) (w : W32) : decodeSlot k w = accept (decodeRaw k w) := by cases k <;> rfl

section
variable {k : Slot} {w : W32} {ops : List Nat} {p : Prop}

/-- A word is illegal when, opcode by opcode, what is read from it is not accepted. -/
theorem refused_of_raw (h : ∀ n ∈ ops, (opCode w).toNat = n → p → accept (decodeRaw k w) = none) : Refused k w ops p :=
  fun hop hp => (decodeSlot_eq_accept k w).trans (h _ hop rfl hp)

end

/-- The S slot (R55). -/
theorem refused_s (w : W32) :
    Refused .s w [0x01] (w.extractLsb' 4 3 ≠ 0#3) ∧ Refused .s w [0x02] (w.extractLsb' 3 4 ≠ 0#4) ∧
    Refused .s w [0x0D, 0x0E] (w.extractLsb' 2 5 ≠ 0#5) ∧ Refused .s w [0x12, 0x18, 0x19] (w.extractLsb' 0 7 ≠ 0#7) ∧
    Refused .s w [0x14, 0x15] (w.extractLsb' 1 6 ≠ 0#6) ∧
    Refused .s w [0x14, 0x15] (w.getLsbD 0 = true ∧ (w.getLsbD 16 = true ∨ w.getLsbD 11 = true)) ∧
    Refused .s w [0x02] (6 ≤ (fM w).toNat) ∧
    Refused .s w [0x16, 0x17] (0x014 ≤ (fImm12 w).toNat ∧ (fImm12 w).toNat < 0x020 ∨ 0x030 ≤ (fImm12 w).toNat) := by
  refine ⟨?_, ?_, ?_, ?_, ?_, ?_, ?_, ?_⟩ <;> refine refused_of_raw fun n hn e hp => ?_
  · fin_cases hn; simp [decodeRaw, decodeSRaw, e, hp]
  · fin_cases hn; simp [decodeRaw, decodeSRaw, e, hp]
  · fin_cases hn <;> simp [decodeRaw, decodeSRaw, e, hp]
  · fin_cases hn <;> simp [decodeRaw, decodeSRaw, fX, e, hp]
  · fin_cases hn <;> simp [decodeRaw, decodeSRaw, e, hp]
  · obtain ⟨h0, ha | hb⟩ := hp
    · fin_cases hn <;> simp [decodeRaw, decodeSRaw, e, h0, vreg_fA_eq_none ha]
    · fin_cases hn <;> simp [decodeRaw, decodeSRaw, e, h0, vreg_fB_eq_none hb]
  · have hc : ¬ fM w = 6#3 → fM w = 7#3 := by simp only [BitVec.toNat_eq, BitVec.toNat_ofNat]; omega
    fin_cases hn; simpa [decodeRaw, decodeSRaw, e, Instr.wf] using fun _ => hc
  · fin_cases hn <;> simp [decodeRaw, decodeSRaw, e, Instr.wf, srAssigned_eq_false hp]

/-- The V slot (R56, R129, R324). -/
theorem refused_v (w : W32) :
    Refused .v w [0x01, 0x02, 0x03, 0x04, 0x05, 0x06, 0x07, 0x08, 0x09, 0x0A, 0x0B, 0x0C, 0x0D, 0x0E, 0x0F, 0x10, 0x12, 0x13,
      0x14, 0x15, 0x16, 0x17, 0x20, 0x21, 0x22, 0x23, 0x24, 0x25, 0x26, 0x27, 0x28, 0x29] (w.getLsbD 21 = true) ∧
    Refused .v w [0x01, 0x02, 0x03, 0x04, 0x05, 0x06, 0x07, 0x08, 0x09, 0x0A, 0x0B, 0x0C, 0x0D, 0x0E, 0x0F, 0x11, 0x13,
      0x14, 0x15, 0x16, 0x17, 0x20, 0x21, 0x22, 0x23, 0x24, 0x25, 0x26, 0x27, 0x28, 0x29] (w.getLsbD 16 = true) ∧
    Refused .v w [0x01, 0x02, 0x03, 0x04, 0x05, 0x06, 0x08, 0x09, 0x0A, 0x0B, 0x0C, 0x0E, 0x0F, 0x13,
      0x17, 0x20, 0x21, 0x22, 0x23, 0x24, 0x25, 0x26, 0x27, 0x28, 0x29] (w.getLsbD 11 = true) ∧
    Refused .v w [0x05, 0x06, 0x08, 0x09, 0x0A, 0x0B, 0x0C, 0x0F, 0x10, 0x11, 0x12, 0x13, 0x22, 0x25]
      (w.extractLsb' 0 3 ≠ 0#3) ∧
    Refused .v w [0x07] (w.getLsbD 2 = true) ∧
    Refused .v w [0x01, 0x02, 0x03, 0x04, 0x05, 0x06, 0x07, 0x0E, 0x14, 0x15] ((fT w).toNat = 0 ∨ 9 ≤ (fT w).toNat) ∧
    Refused .v w [0x08, 0x09, 0x0A, 0x0D, 0x10, 0x11, 0x12] ((fT w).toNat = 0xD ∨ (fT w).toNat = 0xE) ∧
    Refused .v w [0x0B, 0x0C] ((fT w).toNat = 0 ∨ 6 ≤ (fT w).toNat) ∧
    Refused .v w [0x13] (0xB ≤ (fT w).toNat ∧ (fT w).toNat ≤ 0xE) ∧
    Refused .v w [0x17] ((fT w).toNat < 3 ∨ 5 ≤ (fT w).toNat ∧ (fT w).toNat < 7 ∨ 9 ≤ (fT w).toNat) ∧
    Refused .v w [0x20, 0x22, 0x27] ((fT w).toNat ≠ 5) ∧ Refused .v w [0x16, 0x21, 0x25, 0x26, 0x28] ((fT w).toNat ≠ 6) ∧
    Refused .v w [0x23] ((fT w).toNat < 6 ∨ 9 ≤ (fT w).toNat) ∧ Refused .v w [0x24] ((fT w).toNat ≠ 6 ∧ (fT w).toNat ≠ 4) ∧
    Refused .v w [0x29] ((fT w).toNat ≠ 0 ∨ 2 ≤ (fM w).toNat) ∧
    Refused .v w [0x01, 0x02, 0x03, 0x04, 0x17] (if floatT (fT w) then 5 ≤ (fM w).toNat else 2 ≤ (fM w).toNat) ∧
    Refused .v w [0x07] (floatT (fT w) = true ∧ w.getLsbD 1 = true) ∧ Refused .v w [0x0E] ((fM w).toNat = 7) ∧
    Refused .v w [0x0D, 0x21, 0x23, 0x28] (5 ≤ (fM w).toNat) ∧
    Refused .v w [0x14, 0x15, 0x20, 0x26, 0x27] (3 ≤ (fM w).toNat) ∧
    Refused .v w [0x14, 0x15] (floatT (fT w) = true ∧ (fM w).toNat = 0 ∧ 5 ≤ (w.extractLsb' 7 3).toNat) ∧
    Refused .v w [0x16] (6 ≤ (fM w).toNat) ∧
    Refused .v w [0x0D] (w.extractLsb' 7 4 = 0xD ∨ w.extractLsb' 7 4 = 0xE ∨
      w.getLsbD 11 = true ∧ w.extractLsb' 7 4 ∈ [0x0#4, 0x6#4, 0x7#4, 0x8#4, 0xF#4]) := by
  refine ⟨?_, ?_, ?_, ?_, ?_, ?_, ?_, ?_, ?_, ?_, ?_, ?_, ?_, ?_, ?_, ?_, ?_, ?_, ?_, ?_, ?_, ?_, ?_⟩ <;>
    refine refused_of_raw fun n hn e hp => ?_
  · fin_cases hn <;> simp [decodeRaw, decodeVRaw, vvv, vv, e, vreg_fD_eq_none hp]
  · fin_cases hn <;> simp [decodeRaw, decodeVRaw, vvv, vv, e, vreg_fA_eq_none hp]
  · fin_cases hn <;> simp [decodeRaw, decodeVRaw, vvv, e, vreg_fB_eq_none hp]
  · have hm : fM w ≠ 0#3 := hp
    fin_cases hn <;> simp [decodeRaw, decodeVRaw, e, hm]
  · have hm : (fM w)[2] = true := by simpa [fM] using hp
    fin_cases hn; simp [decodeRaw, decodeVRaw, e, hm]
  · fin_cases hn <;> simp [decodeRaw, decodeVRaw, vvv, vv, e, Instr.wf, arithT_eq_false hp]
  · fin_cases hn <;> simp [decodeRaw, decodeVRaw, vvv, vv, e, Instr.wf, anyT_eq_false hp, cvtT_eq_false hp]
  · fin_cases hn <;> simp [decodeRaw, decodeVRaw, vvv, e, Instr.wf, shiftT_eq_false hp]
  · fin_cases hn; simp [decodeRaw, decodeVRaw, vvv, e, Instr.wf, permT_eq_false hp]
  · fin_cases hn; simp [decodeRaw, decodeVRaw, vvv, e, Instr.wf, dotT_eq_false hp]
  · fin_cases hn <;> simp [decodeRaw, decodeVRaw, e, BitVec.toNat_eq, hp]
  · fin_cases hn <;> simp [decodeRaw, decodeVRaw, e, BitVec.toNat_eq, hp]
  · fin_cases hn; simp [decodeRaw, decodeVRaw, vvv, e, Instr.wf, blendT_eq_false hp]
  · fin_cases hn; simp [decodeRaw, decodeVRaw, vvv, e, Instr.wf, BitVec.toNat_eq, hp]
  · fin_cases hn
    obtain ht | hm := hp
    · simp [decodeRaw, decodeVRaw, e, BitVec.toNat_eq, ht]
    · have h0 : (fM w).toNat ≠ 0 := by omega
      have h1 : (fM w).toNat ≠ 1 := by omega
      simp [decodeRaw, decodeVRaw, e, BitVec.toNat_eq, h0, h1]
  · fin_cases hn <;> simp [decodeRaw, decodeVRaw, vvv, e, Instr.wf, modeOk_eq_false hp]
  · obtain ⟨hf, h1⟩ := hp
    have hm : (fM w)[1] = true := by simpa [fM] using h1
    fin_cases hn; simp [decodeRaw, decodeVRaw, vv, e, Instr.wf, hf, hm]
  · fin_cases hn; simp [decodeRaw, decodeVRaw, vvv, e, Instr.wf, BitVec.toNat_eq, hp]
  · fin_cases hn <;> simp [decodeRaw, decodeVRaw, vvv, vv, e, Instr.wf, roundOk_eq_false hp]
  · have h0 : (fM w).toNat ≠ 0 := by omega
    have h1 : (fM w).toNat ≠ 1 := by omega
    have h2 : (fM w).toNat ≠ 2 := by omega
    fin_cases hn <;> simp [decodeRaw, decodeVRaw, vvv, vv, e, Instr.wf, BitVec.toNat_eq, h0, h1, h2]
  · obtain ⟨hf, hm, hr⟩ := hp
    have hm : fM w = 0#3 := BitVec.eq_of_toNat_eq hm
    fin_cases hn <;> simp [decodeRaw, decodeVRaw, vv, sumRound, e, Instr.wf, hf, hm, roundOk_eq_false hr]
  · have hc : ¬ fM w = 6#3 → fM w = 7#3 := by simp only [BitVec.toNat_eq, BitVec.toNat_ofNat]; omega
    fin_cases hn; simpa [decodeRaw, decodeVRaw, vv, e, Instr.wf] using fun _ _ _ _ _ => hc
  · fin_cases hn; simpa [decodeRaw, decodeVRaw, vv, e, Instr.wf] using fun _ _ _ _ _ hd _ => cvt_refused hp hd

/-- The M slot (R57, R191, R200, R208). -/
theorem refused_m (w : W32) :
    Refused .m w [0x01, 0x05, 0x12] (w.getLsbD 2 = true) ∧ Refused .m w [0x02, 0x03] (w.extractLsb' 1 2 ≠ 0#2) ∧
    Refused .m w [0x04, 0x06, 0x07, 0x08, 0x14, 0x16, 0x17] (w.extractLsb' 0 7 ≠ 0#7) ∧
    Refused .m w [0x10, 0x11] (w.extractLsb' 4 3 ≠ 0#3) ∧ Refused .m w [0x13, 0x15] (w.extractLsb' 5 2 ≠ 0#2) ∧
    Refused .m w [0x02, 0x15] (w.getLsbD 21 = true) ∧
    Refused .m w [0x01] (w.getLsbD 1 = true ∧ (w.getLsbD 11 = true ∨ w.getLsbD 0 = true)) ∧
    Refused .m w [0x01, 0x02, 0x03] ((fT w).toNat = 0 ∨ 2 ≤ (fT w).toNat ∧ (fT w).toNat < 7 ∨ 0xD ≤ (fT w).toNat) ∧
    Refused .m w [0x05] ((fT w).toNat = 2 ∨ (fT w).toNat = 4 ∨ 0xD ≤ (fT w).toNat) ∧
    Refused .m w [0x05] (w.getLsbD 0 = true ∧ ((fT w).toNat < 7 ∨ (fT w).toNat = 0xC)) ∧
    Refused .m w [0x12] ((fT w).toNat ≠ 1 ∧ (fT w).toNat ≠ 3) ∧ Refused .m w [0x15] (5 ≤ (w.extractLsb' 2 3).toNat) := by
  refine ⟨?_, ?_, ?_, ?_, ?_, ?_, ?_, ?_, ?_, ?_, ?_, ?_⟩ <;> refine refused_of_raw fun n hn e hp => ?_
  · fin_cases hn <;> simp [decodeRaw, decodeMRaw, e, hp]
  · fin_cases hn <;> simp [decodeRaw, decodeMRaw, e, hp]
  · fin_cases hn <;> simp [decodeRaw, decodeMRaw, fX, e, hp]
  · fin_cases hn <;> simp [decodeRaw, decodeMRaw, e, hp]
  · fin_cases hn <;> simp [decodeRaw, decodeMRaw, e, hp]
  · fin_cases hn <;> simp [decodeRaw, decodeMRaw, e, vreg_fD_eq_none hp, inHandle_fH_eq_none hp]
  · obtain ⟨h1, hb | h0⟩ := hp
    · fin_cases hn; simp [decodeRaw, decodeMRaw, e, h1, vreg_fB_eq_none hb]
    · fin_cases hn; simp [decodeRaw, decodeMRaw, e, h1, h0, Instr.wf]
  · fin_cases hn <;> simp [decodeRaw, decodeMRaw, e, Instr.wf, arrayT_eq_false hp]
  · fin_cases hn; simp [decodeRaw, decodeMRaw, e, Instr.wf, drainT_eq_false hp]
  · obtain ⟨h0, ht⟩ := hp
    fin_cases hn; simp [decodeRaw, decodeMRaw, e, Instr.wf, h0, scaleHeadT_eq_false ht]
  · fin_cases hn; simp [decodeRaw, decodeMRaw, e, Instr.wf, BitVec.toNat_eq, hp]
  · fin_cases hn; simp [decodeRaw, decodeMRaw, e, Instr.wf, roundOk_eq_false hp]

/-- The C slot (R58). -/
theorem refused_c (w : W32) :
    Refused .c w [0x01, 0x02] (w.extractLsb' 0 3 ≠ 0#3) ∧ Refused .c w [0x0C, 0x0D, 0x24, 0x25] (w.extractLsb' 4 3 ≠ 0#3) ∧
    Refused .c w [0x18] (w.extractLsb' 4 2 ≠ 0#2) ∧ Refused .c w [0x19, 0x1A] (w.extractLsb' 3 4 ≠ 0#4) ∧
    Refused .c w [0x03, 0x04, 0x05, 0x06, 0x07, 0x08, 0x0A, 0x0B, 0x1B, 0x1C, 0x1D, 0x1E, 0x1F, 0x20, 0x21, 0x22]
      (w.extractLsb' 0 7 ≠ 0#7) ∧
    Refused .c w [0x23] (w.getLsbD 6 = true) ∧ Refused .c w [0x28] (w.extractLsb' 2 5 ≠ 0#5) ∧
    Refused .c w [0x09] (fX w ≠ 1#7 ∧ fX w ≠ 2#7) ∧
    Refused .c w [0x01, 0x02, 0x03, 0x07, 0x0B, 0x0C] (w.getLsbD 21 = true) ∧
    Refused .c w [0x04, 0x05, 0x06, 0x08, 0x09, 0x0A, 0x0D] (w.getLsbD 21 = false) ∧
    Refused .c w [0x01, 0x02, 0x04, 0x05] (w.getLsbD 17 = true) ∧
    Refused .c w [0x10, 0x11, 0x15, 0x26] (w.getLsbD 21 = true) ∧ Refused .c w [0x23] (w.getLsbD 11 = true) ∧
    Refused .c w [0x14, 0x15, 0x18, 0x20, 0x26, 0x27] (w.getLsbD 12 = true) ∧
    Refused .c w [0x28] (w.getLsbD 0 = true ∧ w.getLsbD 7 = true) ∧
    Refused .c w [0x18] (9 ≤ (w.extractLsb' 0 4).toNat ∨ w.extractLsb' 0 4 = 8#4 ∧ w.getLsbD 7 = true) ∧
    Refused .c w [0x19, 0x1A] (5 ≤ (fM w).toNat) := by
  refine ⟨?_, ?_, ?_, ?_, ?_, ?_, ?_, ?_, ?_, ?_, ?_, ?_, ?_, ?_, ?_, ?_, ?_⟩ <;> refine refused_of_raw fun n hn e hp => ?_
  · fin_cases hn <;> simp [decodeRaw, decodeCRaw, fM, e, hp]
  · fin_cases hn <;> simp [decodeRaw, decodeCRaw, e, hp]
  · fin_cases hn; simp [decodeRaw, decodeCRaw, e, hp]
  · fin_cases hn <;> simp [decodeRaw, decodeCRaw, e, hp]
  · fin_cases hn <;> simp [decodeRaw, decodeCRaw, fX, e, hp]
  · fin_cases hn; simp [decodeRaw, decodeCRaw, e, hp]
  · fin_cases hn; simp [decodeRaw, decodeCRaw, e, hp]
  · fin_cases hn; simp [decodeRaw, decodeCRaw, e, hp]
  · fin_cases hn <;> simp [decodeRaw, decodeCRaw, e, inHandle_fH_eq_none hp]
  · fin_cases hn <;> simp [decodeRaw, decodeCRaw, e, outHandle_fH_eq_none hp]
  · fin_cases hn <;> simp [decodeRaw, decodeCRaw, e, vreg_fG_eq_none hp]
  · fin_cases hn <;> simp [decodeRaw, decodeCRaw, e, vreg_fD_eq_none hp]
  · fin_cases hn; simp [decodeRaw, decodeCRaw, e, vreg_fB_eq_none hp]
  · fin_cases hn <;> simp [decodeRaw, decodeCRaw, e, pairReg_fA_eq_none hp]
  · obtain ⟨h0, h7⟩ := hp
    fin_cases hn; simp [decodeRaw, decodeCRaw, e, h0, pairReg_fB_eq_none h7]
  · obtain hf | ⟨hf, h7⟩ := hp
    · have hult : (w.extractLsb' 0 4).ult 9#4 = false := by simpa [BitVec.ult] using hf
      fin_cases hn; simp [decodeRaw, decodeCRaw, e, Instr.wf, hult]
    · have hb : (fB w)[0] = true := by simpa [fB] using h7
      fin_cases hn; simp [decodeRaw, decodeCRaw, e, Instr.wf, hf, hb]
  · have hs : (fM w).ult 5#3 = false := by simpa [BitVec.ult] using hp
    fin_cases hn <;> simp [decodeRaw, decodeCRaw, e, Instr.wf, hs]

/-- Opcodes that no op of the slot has (R55-R58): the decoder falls through to its last arm. -/
theorem refused_opcode (w : W32) :
    (((opCode w).toNat = 0x0F ∨ 0x1B ≤ (opCode w).toNat) → decodeSlot .s w = none) ∧
    ((0x18 ≤ (opCode w).toNat ∧ (opCode w).toNat < 0x20 ∨ 0x2A ≤ (opCode w).toNat) → decodeSlot .v w = none) ∧
    ((0x09 ≤ (opCode w).toNat ∧ (opCode w).toNat < 0x10 ∨ 0x18 ≤ (opCode w).toNat) → decodeSlot .m w = none) ∧
    (((opCode w).toNat = 0x0E ∨ (opCode w).toNat = 0x0F ∨ (opCode w).toNat = 0x17 ∨ 0x29 ≤ (opCode w).toNat) →
      decodeSlot .c w = none) := by
  have hnone : ∀ {k : Slot}, decodeRaw k w = none → decodeSlot k w = none := fun h => by
    rw [decodeSlot_eq_accept, h, accept_none]
  refine ⟨fun h => hnone ?_, fun h => hnone ?_, fun h => hnone ?_, fun h => hnone ?_⟩
  · unfold decodeRaw decodeSRaw; dsimp only; split
    case h_27 => rfl
    all_goals omega
  · unfold decodeRaw decodeVRaw; dsimp only; split
    case h_35 => rfl
    all_goals omega
  · unfold decodeRaw decodeMRaw; dsimp only; split
    case h_18 => rfl
    all_goals omega
  · unfold decodeRaw decodeCRaw; dsimp only; split
    case h_39 => rfl
    all_goals omega

/-- Words of a control core (R68, R69, R399). -/
theorem refused_cc (w : W32) (c : BitVec 5 → BitVec 4) :
    (((ccOp w).toNat = 0 ∨ 0x0C ≤ (ccOp w).toNat ∧ (ccOp w).toNat < 0x10 ∨ 0x19 ≤ (ccOp w).toNat ∧ (ccOp w).toNat < 0x20 ∨
      (ccOp w).toNat = 0x23 ∨ (ccOp w).toNat = 0x27 ∨ 0x35 ≤ (ccOp w).toNat ∧ (ccOp w).toNat < 0x38) →
      decodeCC c w = none) ∧
    ((ccOp w).toNat ∈ [0x01, 0x02, 0x03, 0x04, 0x05, 0x06, 0x07, 0x08, 0x09, 0x0A, 0x0B, 0x34, 0x38, 0x39, 0x3A, 0x3B, 0x3C,
        0x3D, 0x3E, 0x3F] → w.extractLsb' 0 11 ≠ 0#11 → decodeCC c w = none) ∧
    ((ccOp w).toNat ∈ [0x30, 0x31] → w.extractLsb' 12 4 ≠ 0#4 → decodeCC c w = none) ∧
    ((ccOp w).toNat ∈ [0x32, 0x33] → w.extractLsb' 0 26 ≠ 0#26 → decodeCC c w = none) ∧
    ((ccOp w).toNat = 0x3D → 4 ≤ (c (ccB w)).toNat → decodeCC c w = none) ∧
    ((ccOp w).toNat = 0x3E → 3 ≤ (c (ccB w)).toNat → decodeCC c w = none) := by
  refine ⟨fun hop => ?_, fun hop h => ?_, fun hop h => ?_, fun hop h => ?_, fun hop h => ?_, fun hop h => ?_⟩
  · unfold decodeCC; dsimp only; split
    case h_48 => rfl
    all_goals omega
  · have hcr : ∀ f, cr w f = none := fun f => by simp [cr, whenB, h]
    unfold decodeCC; generalize (ccOp w).toNat = n at hop ⊢
    fin_cases hop <;> simp [hcr]
    all_goals split <;> rfl
  · unfold decodeCC; generalize (ccOp w).toNat = n at hop ⊢
    fin_cases hop <;> simp [whenB, h]
  · unfold decodeCC; generalize (ccOp w).toNat = n at hop ⊢
    fin_cases hop <;> simp [whenB, h]
  · simp only [decodeCC, hop]; split
    case h_5 => rfl
    all_goals omega
  · simp only [decodeCC, hop]; split
    case h_4 => rfl
    all_goals omega

/-! ## A bundle and a control core at an illegal word (R59, R60, R68) -/

/-- The slot in which a bundle faults ILLOP is the first whose word does not decode. -/
theorem illSlot_eq_some {w : Bundle} {k : Slot} (h : illSlot w = some k) :
    decodeSlot k (bundleWord w k) = none ∧
      ∀ j ∈ tileSlots.takeWhile (fun j => j != k), decodeSlot j (bundleWord w j) ≠ none := by
  obtain ⟨hk, before, after, hsplit, hbefore⟩ := List.find?_eq_some_iff_append.1 h
  refine ⟨by simpa using hk, fun j hj => ?_⟩
  have hkb : k ∉ before := fun hmem => by simpa [hk] using hbefore k hmem
  have htake : tileSlots.takeWhile (fun j => j != k) = before := by
    rw [hsplit, List.takeWhile_append_of_pos (fun x hx => by simpa using fun e : x = k => hkb (e ▸ hx))]
    simp
  rw [htake] at hj
  simpa [Option.isSome_iff_ne_none] using hbefore j hj

/-- A bundle inside the leaf with an illegal word faults ILLOP in its first such slot. -/
theorem issueBundle_illegal {s : State} {k : Slot} (hpc : s.settle.curBank.pc < 0x1000)
    (hill : illSlot s.settle.curBundle = some k) : s.issueBundle = s.settle.faultHere k (faultOf .illop 0) := by
  simp only [State.issueBundle, if_neg (Nat.not_le.2 hpc), hill]

/-- Settles O3: the reasons slot by slot, and the first illegal slot of a bundle. -/
theorem illegalWords : Obligations.IllegalWords := by
  refine ⟨fun w c => ?_, fun s k hpc hill => ⟨issueBundle_illegal hpc hill, illSlot_eq_some hill⟩,
    fun s k hruns hecc hdec => ?_⟩
  · intro op cc t m illegal field bit
    obtain ⟨hcc, hcore⟩ := refused_cc w c
    have h := And.intro (refused_opcode w) (And.intro hcc (And.intro (refused_s w) (And.intro (refused_v w)
      (And.intro (refused_m w) (And.intro (refused_c w) hcore)))))
    simp only [and_assoc] at h
    exact h
  · simp only [State.coreTurn, hruns, hecc, hdec, Bool.not_true, Bool.false_eq_true, if_false]

end Sys2Proof.Machine
end

section
/-!
SUPPORT. What the issue of one op by itself can leave (R59-R61), and what its issuing bank is then.
-/
namespace Sys2Proof.Machine

/-! ## The issuing bank after a fault or a bundle -/

section
variable (s : State) (k : Slot) (p : Plan)

/-- The issuing bank after it has taken a fault (R362, R365). -/
theorem State.curBank_takeFault (w : W32) (f : FaultInfo) :
    (s.takeFault s.cur.tile s.curLeaf s.cur.bank w f).curBank = s.curBank.fault w f :=
  s.curBank_onCurBank (fun b => b.fault w f)

@[simp] theorem State.curBank_faultHere (f : FaultInfo) :
    (s.faultHere k f).curBank = s.curBank.fault (fltbWord false s.curLeaf (slotNum k) s.curBank.pc) f :=
  s.curBank_takeFault _ f

@[simp] theorem Bank.fault_pending (b : Bank) (w : W32) (f : FaultInfo) : (b.fault w f).pending = b.pending := by
  unfold Bank.fault; split <;> rfl

/-- The first fault since the last resume stops the bank where it is (R362, R365). -/
theorem Bank.fault_first {b : Bank} (h : b.faulted = false) (w : W32) (f : FaultInfo) : b.fault w f =
    { b with fltc := f.code, flta := f.flta, fltb := w, fltx := f.fltx, faulted := true, wait := 0, checked := false } := by
  rw [Bank.fault, if_neg (by simp [h])]

/-- The bank that a bundle leaves, whatever its flow: its pending writes come one step nearer (R62). -/
@[simp] theorem Bank.next_pending (b : Bank) (fl : Flow) :
    (b.next fl).pending = b.pending.map (fun w => { w with rem := w.rem - 1 }) := by
  cases fl with
  | loopIn len count => simp only [Bank.next]; split <;> rfl
  | seq | taken | yield | halt | trap => rfl

/-- The bank that a bundle leaves is faulted as it was. -/
@[simp] theorem Bank.next_faulted (b : Bank) (fl : Flow) : (b.next fl).faulted = b.faulted := by
  cases fl with
  | loopIn len count => simp only [Bank.next]; split <;> rfl
  | seq | taken | yield | halt | trap => rfl

/-- The pending writes that an op creates in its slot (R62, R65). -/
def Plan.created : List PWrite := p.live.map (fun w => PWrite.mk w.1 w.2 k)

/-- An op alone in its bundle has taken effect; the stop of a `trap` or of the end of the leaf is still to come. -/
def State.effected : State :=
  (p.act s).onCurBank (fun b => ({ b with pending := b.pending ++ p.created k } : Bank).next (flowOf [(k, p)]))

/-- The bundle of one op leaves its effects, or besides them a fault of the issuing bank (R88, R101). -/
theorem State.commit_cases : s.commit [(k, p)] = s.effected k p ∨
    (∃ w f, s.commit [(k, p)] = (s.effected k p).takeFault s.cur.tile s.curLeaf s.cur.bank w f) ∨
    s.commit [(k, p)] = (s.effected k p).pastEnd := by
  have hnew : [(k, p)].flatMap (fun q => q.2.live.map (fun w => PWrite.mk w.1 w.2 q.1)) = p.created k :=
    List.append_nil _
  simp only [State.commit, List.foldl_cons, List.foldl_nil, hnew]
  split
  · exact .inr (.inl ⟨_, _, rfl⟩)
  · exact .inl rfl
  · exact .inl rfl
  · split
    · exact .inr (.inr rfl)
    · exact .inl rfl

/-- The issue of one op: its bank faults, or waits, or the op takes effect (R59, R61). -/
theorem State.issue_cases : (∃ j f, s.issue [(k, p)] = s.faultHere j f) ∨
    s.issue [(k, p)] = s.onCurBank (fun b => { p.onWait b with wait := p.wait, checked := true }) ∨
    s.issue [(k, p)] = s.commit [(k, p)] := by
  unfold State.issue
  split
  · exact .inl ⟨_, _, rfl⟩
  split
  · exact .inl ⟨_, _, rfl⟩
  split
  · exact .inl ⟨_, _, rfl⟩
  split
  next q hq =>
    obtain rfl : q = (k, p) := by simpa using List.mem_of_find?_eq_some hq
    exact .inr (.inl rfl)
  split
  · exact .inl ⟨_, _, rfl⟩
  · exact .inr (.inr rfl)

end

/-- The bundle of one op without an effect of its own leaves its writes pending behind those of its bank (R62). -/
theorem State.pending_commit (s : State) (k : Slot) {p : Plan} (ha : p.act = id) :
    (s.commit [(k, p)]).curBank.pending = (s.curBank.pending ++ p.created k).map
      (fun w => { w with rem := w.rem - 1 }) := by
  have hcur : (s.effected k p).cur = s.cur := by simp only [State.effected, ha]; rfl
  have hleaf : (s.effected k p).curLeaf = s.curLeaf := by simp [State.effected, ha]
  have hbank : (s.effected k p).curBank.pending = (s.curBank.pending ++ p.created k).map
      (fun w => { w with rem := w.rem - 1 }) := by simp [State.effected, ha]
  obtain h | ⟨w, f, h⟩ | h := s.commit_cases k p
  · rw [h, hbank]
  · rw [h, ← hcur, ← hleaf, State.curBank_takeFault, Bank.fault_pending, hbank]
  · rw [h, State.pastEnd, State.curBank_takeFault, Bank.fault_pending, hbank]

end Sys2Proof.Machine
end

section
/-!
SUPPORT. Ops that their predicate turns off (R45, R46).
-/
namespace Sys2Proof.Machine

section
variable {s : State} {k : Slot} {g : Pg} {on off : State → Plan}

/-- An op that its predicate turns off asks for what `off` asks, and reads its predicate (R46, R375). -/
theorem guarded_off (h : s.curBank.enabled g = false) :
    guarded k g on off s = (k, { off s with reads := ⟨2, g.pr.toNat⟩ :: (off s).reads }) := by
  simp [guarded, h]

/-- An op that its predicate turns off and whose wait is not over makes its bank wait. -/
theorem issueOne_off_wait {c : BitVec 4} (he : s.settle.curBank.enabled g = false)
    (h : s.settle.clear k (⟨2, g.pr.toNat⟩ :: (off s.settle).reads) (off s.settle).writes = true)
    (hb : (off s.settle).brange = none) (hc : (off s.settle).check = none) (hr : (off s.settle).ready = false)
    (ho : (off s.settle).onWait = id) (hcode : (off s.settle).wait = c) :
    issueOne (guarded k g on off) s = .next (s.settle.onCurBank (fun b => { b with wait := c, checked := true })) := by
  subst hcode
  rw [issueOne, guarded_off he,
    issue_wait (p := { off s.settle with reads := ⟨2, g.pr.toNat⟩ :: (off s.settle).reads }) hb hc hr h]
  simp only [ho, id]

/-- An op that its predicate turns off and that fails a check of phase 1 faults. -/
theorem issueOne_off_fault {f : FaultInfo} (he : s.settle.curBank.enabled g = false)
    (hk : s.settle.curBank.checked = false)
    (h : s.settle.clear k (⟨2, g.pr.toNat⟩ :: (off s.settle).reads) (off s.settle).writes = true)
    (hb : (off s.settle).brange = none) (hc : (off s.settle).check = some f) :
    issueOne (guarded k g on off) s = .next (s.settle.faultHere k f) := by
  rw [issueOne, guarded_off he,
    issue_fault (p := { off s.settle with reads := ⟨2, g.pr.toNat⟩ :: (off s.settle).reads }) hb hc hk h]

end

/-- Every tile op but those that publish null tokens is turned off altogether by its predicate (R46). -/
theorem planOf_guarded {i : Instr} {g : Pg} (hg : guardOf i = some g) (hp : publishes i = false) :
    ∃ k on, i.slot = some k ∧ planOf i = some (guarded k g on nothing) := by
  cases i <;> cases hg
  case push | pub | markRe | markEos => cases hp
  all_goals exact ⟨_, _, rfl, rfl⟩

/-! ## What a producer op checks (R170) -/

section
variable {c : LeafCtx} {ch : BitVec 3} {beyond : Bool}

theorem producerCheck_unbound (h : (c.outCh ch).bound = false) :
    producerCheck c ch beyond = some (faultOf .chproto (chWord (8 + ch.toNat) 0x01)) := by simp [producerCheck, h]

theorem producerCheck_beyond (h : (c.outCh ch).bound = true) :
    producerCheck c ch true = some (faultOf .chproto (chWord (8 + ch.toNat) 0x02)) := by simp [producerCheck, h]

theorem producerCheck_closed (h : (c.outCh ch).bound = true) (hc : (c.outCh ch).closed = true) :
    producerCheck c ch false = some (faultOf .chproto (chWord (8 + ch.toNat) 0x04)) := by simp [producerCheck, h, hc]

theorem producerCheck_open (h : (c.outCh ch).bound = true) (hc : (c.outCh ch).closed = false) :
    producerCheck c ch false = none := by simp [producerCheck, h, hc]

end

/-! ## A producer op that its predicate turns off (R46, R160) -/

section
variable {s : State} {g : Pg} {ch : BitVec 3} {n : Nat} {f : State → OutCh → OutCh} {on : State → Plan}

/-- It changes its channel when the channel is open and has `n` free slots. -/
theorem producerOff_commit (he : s.settle.curBank.enabled g = false) (h : s.settle.clear .c [⟨2, g.pr.toNat⟩] [] = true)
    (hb : (s.settle.curCtx.outCh ch).bound = true) (hc : (s.settle.curCtx.outCh ch).closed = false)
    (hd : n ≤ (s.settle.curCtx.outCh ch).depth) (hn : n ≤ (s.settle.curCtx.outCh ch).e) :
    issueOne (guarded .c g on (fun x => producerPlan x ch n [] (f x))) s =
      .next (s.settle.commit [(.c, { act := fun y => y.onCurCtx (fun c => c.onOut ch (f s.settle)) })]) := by
  have hbeyond : decide ((s.settle.curCtx.outCh ch).depth < n) = false := by simpa using hd
  refine issueOne_off (rs := []) he h rfl rfl ?_ ?_ rfl rfl rfl rfl
  · exact (congrArg _ hbeyond).trans (producerCheck_open hb hc)
  · exact decide_eq_true hn

/-- It waits when the channel is open and has fewer. -/
theorem producerOff_wait (he : s.settle.curBank.enabled g = false) (h : s.settle.clear .c [⟨2, g.pr.toNat⟩] [] = true)
    (hb : (s.settle.curCtx.outCh ch).bound = true) (hc : (s.settle.curCtx.outCh ch).closed = false)
    (hd : n ≤ (s.settle.curCtx.outCh ch).depth) (hn : (s.settle.curCtx.outCh ch).e < n) :
    issueOne (guarded .c g on (fun x => producerPlan x ch n [] (f x))) s =
      .next (s.settle.onCurBank (fun b => { b with wait := 1, checked := true })) := by
  have hbeyond : decide ((s.settle.curCtx.outCh ch).depth < n) = false := by simpa using hd
  refine issueOne_off_wait he h rfl ?_ ?_ rfl rfl
  · exact (congrArg _ hbeyond).trans (producerCheck_open hb hc)
  · exact decide_eq_false (by omega)

/-- It faults CHPROTO as the executing op does. -/
theorem producerOff_fault {beyond : Bool} {low : Nat} (he : s.settle.curBank.enabled g = false)
    (h : s.settle.clear .c [⟨2, g.pr.toNat⟩] [] = true) (hk : s.settle.curBank.checked = false)
    (hd : decide ((s.settle.curCtx.outCh ch).depth < n) = beyond)
    (hf : producerCheck s.settle.curCtx ch beyond = some (faultOf .chproto (chWord (8 + ch.toNat) low))) :
    issueOne (guarded .c g on (fun x => producerPlan x ch n [] (f x))) s =
      .next (s.settle.faultHere .c (faultOf .chproto (BitVec.ofNat 32 ((8 + ch.toNat) * 256 + low)))) :=
  issueOne_off_fault he hk h rfl ((congrArg _ hd).trans hf)

end

/-- Settles O10: a predicate turns an op off altogether by `planOf_guarded`; the ops that publish null tokens are the producer
ops of `producerOff_commit`, `producerOff_wait` and `producerOff_fault`. -/
theorem predicatedOff : Obligations.PredicatedOff := by
  refine ⟨?_, ?_, ?_⟩
  · intro s g i s0 hg hp he hclear
    obtain ⟨k, on, hk, hplan⟩ := planOf_guarded hg hp
    rw [hk] at hclear ⊢
    rw [exec_planOf hplan]
    exact issueOne_off (rs := []) he hclear rfl rfl rfl rfl rfl rfl rfl rfl
  · intro s g ch a r n s0 o on null does hb hc he h
    exact ⟨fun h1 hd => ⟨producerOff_commit he h hb hc hd h1, producerOff_commit he h hb hc hd h1,
      producerOff_commit he h hb hc hd h1⟩, fun hd hn => producerOff_commit he h hb hc hd hn⟩
  · intro s g ch a r n s0 o waits faults he h
    have hone : 1 ≤ o.depth → decide (o.depth < 1) = false := fun hd => decide_eq_false (by omega)
    refine ⟨fun hb hc hd hz => ?_, fun hb hc hd hn => producerOff_wait he h hb hc hd hn, fun hb => ?_, fun hb hd hk => ?_,
      fun hb hc hd => ?_⟩
    · have hn : o.e < 1 := by omega
      exact ⟨producerOff_wait he h hb hc hd hn, producerOff_wait he h hb hc hd hn, producerOff_wait he h hb hc hd hn⟩
    · have hf : ∀ {beyond}, producerCheck s0.curCtx ch beyond = some (faultOf .chproto (chWord (8 + ch.toNat) 1)) :=
        producerCheck_unbound hb
      exact ⟨fun hk => producerOff_fault he h hk rfl hf, fun hk => producerOff_fault he h hk rfl hf,
        fun hk => producerOff_fault he h hk rfl hf, fun hk => producerOff_fault he h hk rfl hf⟩
    · exact producerOff_fault he h hk (decide_eq_true hd) (producerCheck_beyond hb)
    · have hf := producerCheck_closed hb hc
      exact ⟨fun hk => producerOff_fault he h hk (hone hd) hf, fun hk => producerOff_fault he h hk (hone hd) hf,
        fun hk => producerOff_fault he h hk (hone hd) hf,
        fun hn hk => producerOff_fault he h hk (decide_eq_false (Nat.not_lt.2 hn)) hf⟩

end Sys2Proof.Machine
end

section
/-!
SUPPORT. The frame of the tile ops that only write registers (R44, R61, R62).
-/
namespace Sys2Proof.Machine

/-! ## Ops that only write registers -/

/-- The registers that the writes of an op go to. -/
def Plan.dests (p : Plan) : List RegKey := p.writes.flatMap (fun w => w.2.dests)

/-- An op that asks for nothing but writes of the registers of a list, and for a place to go on. -/
structure RegisterPlan (dests : List RegKey) (p : Plan) : Prop where
  act : p.act = id
  waits : ∀ b, (p.onWait b).bare = b.bare ∧ (p.onWait b).pending = b.pending
  writes : p.dests ⊆ dests

section
variable {dests : List RegKey} {k : Slot} {g : Pg} {on : State → Plan} {s t : State} {p : Plan}

/-- A predicate takes nothing from such an op but the op as a whole (R46). -/
theorem RegisterPlan.guarded (h : RegisterPlan dests (on s)) : RegisterPlan dests (guarded k g on nothing s).2 := by
  obtain ⟨hact, hwaits, hwrites⟩ := h
  unfold Machine.guarded
  split
  · exact ⟨hact, hwaits, hwrites⟩
  · exact ⟨rfl, fun _ => ⟨rfl, rfl⟩, List.nil_subset _⟩

/-- The write of a `pop` or `peek` (R157). -/
theorem popWrites_dests (d : BitVec 4) (cap : Option (BitVec 3)) (v : Vec) (x : Sideband) :
    (popWrites d cap v x).flatMap (fun w => w.2.dests) = (4, d.toNat) :: cap.toList.map (fun p => (2, p.toNat)) := by
  cases cap <;> rfl

/-- The plans of the ops of `registerDests`. -/
theorem planOf_register {i : Instr} (h : registerDests i = some dests) :
    ∃ p, planOf i = some p ∧ ∀ s, RegisterPlan dests (p s).2 := by
  cases i <;> cases h
  case nop => exact ⟨_, rfl, fun _ => ⟨rfl, fun _ => ⟨rfl, rfl⟩, List.Subset.refl _⟩⟩
  case peek => exact ⟨_, rfl, fun _ => .guarded ⟨rfl, fun _ => ⟨rfl, rfl⟩, fun _ hr => popWrites_dests _ _ _ _ ▸ hr⟩⟩
  all_goals exact ⟨_, rfl, fun _ => .guarded ⟨rfl, fun _ => ⟨rfl, rfl⟩, List.Subset.refl _⟩⟩

/-- Such an op leaves pending what was pending, and writes of its own registers. -/
theorem RegisterPlan.pending (h : RegisterPlan dests p) {w : PWrite} (hw : w ∈ (s.issue [(k, p)]).curBank.pending) :
    (∀ r ∈ w.val.dests, r ∈ dests) ∨ ∃ o ∈ s.curBank.pending, o.val = w.val := by
  obtain ⟨j, f, hi⟩ | hi | hi := s.issue_cases k p <;> rw [hi] at hw
  · exact .inr ⟨w, by simpa using hw, rfl⟩
  · exact .inr ⟨w, by simpa [(h.waits _).2] using hw, rfl⟩
  · rw [s.pending_commit k h.act] at hw
    obtain ⟨o, ho, rfl⟩ := List.mem_map.1 hw
    obtain ho | ho := List.mem_append.1 ho
    · exact .inr ⟨o, ho, rfl⟩
    · obtain ⟨x, hx, rfl⟩ := List.mem_map.1 ho
      exact .inl fun r hr => h.writes (List.mem_flatMap.2 ⟨x, List.mem_of_mem_filter hx, hr⟩)

end

/-- Settles O11: the op's plan is a `RegisterPlan`, so that its issue changes its bank only and leaves its writes pending. -/
theorem registerOpFrame : Obligations.RegisterOpFrame := by
  intro s t i dests hdests hexec
  obtain ⟨p, hp, hplan⟩ := planOf_register hdests
  rw [exec_planOf hp, issueOne, Host.Outcome.next.injEq] at hexec
  subst hexec
  have h := hplan s.settle
  exact ⟨BankOnly.issue _ _ _ h.act fun b => (h.waits b).1, fun w hw => h.pending hw⟩

end Sys2Proof.Machine
end

section
/-!
SUPPORT. The frame of the tile ops that store to scratch (R63, R95, R219, R226).
-/
namespace Sys2Proof.Machine

/-- A change of a tile that stores `n` bytes of scratch from an address, and notes who wrote them. -/
def Tile.StoresAt (a n : Nat) (f : Tile → Tile) : Prop :=
  ∀ x, ∃ v m, f x = { x with scratch := x.scratch.writeNat a v n, writer := m }

theorem Tile.storesAt_putScratch (a n v : Nat) : Tile.StoresAt a n (fun x => x.putScratch a n v) :=
  fun x => ⟨v, markWriter x.writer a 0 n, rfl⟩

theorem Tile.storesAt_storeScratch (l : Leaf) (b : BankId) (a n v : Nat) :
    Tile.StoresAt a n (fun x => x.storeScratch l b a n v) :=
  fun x => ⟨v, markWriter x.writer a (writerMark l b) n, rfl⟩

/-- What a store of `n` bytes of scratch at an address leaves of the issuing tile and of the rest of the machine. -/
structure StoreFrame (a n : Nat) (s t : State) : Prop where
  scratch : ∀ x, (x < a ∨ a + n ≤ x) → t.curTile.scratch.read x = s.curTile.scratch.read x
  apart : t.apart = s.apart
  tiles : ∀ w : Site, w ≠ s.cur.tile → t.tile w = s.tile w
  prog : t.curTile.prog = s.curTile.prog
  latches : t.curTile.latches = s.curTile.latches
  scalars : t.curBank.s = s.curBank.s
  vectors : t.curBank.v = s.curBank.v
  preds : t.curBank.p = s.curBank.p
  batts : t.curBank.batt = s.curBank.batt
  inp : t.curCtx.inp = s.curCtx.inp
  outp : t.curCtx.outp = s.curCtx.outp

/-- The landing of due writes leaves the issuing tile but for its context (R62). -/
theorem State.curTile_settle (s : State) :
    s.settle.curTile = s.curTile.onCtx s.curLeaf (fun c => c.settle s.cur.bank) :=
  s.tile_onCtx _ _ _

section
variable {a n : Nat} {s t u : State} {k : Slot} {g : Pg} {p : Plan} {on : State → Plan} {f : Tile → Tile}

/-- A change of the issuing bank that keeps its registers is a store of nothing. -/
theorem BankOnly.storeFrame (h : BankOnly s t) : StoreFrame a n s t := by
  obtain ⟨hapart, htiles, htile, -, hctx, hbank⟩ := h
  have hscratch : t.curTile.scratch = s.curTile.scratch := by injection htile
  constructor
  case scratch => exact fun x _ => congrArg (fun m : Memory => m.read x) hscratch
  case apart => exact hapart
  case tiles => exact htiles
  case prog => injection htile
  case latches => injection htile
  case scalars | vectors | preds | batts => injection hbank
  case inp | outp => injection hctx

theorem StoreFrame.trans (h : StoreFrame a n s t) (h' : StoreFrame a n t u) : StoreFrame a n s u := by
  have hcur : t.cur = s.cur := by injection h.apart
  exact ⟨fun x hx => (h'.scratch x hx).trans (h.scratch x hx), h'.apart.trans h.apart,
    fun w hw => (h'.tiles w (hcur ▸ hw)).trans (h.tiles w hw), h'.prog.trans h.prog, h'.latches.trans h.latches,
    h'.scalars.trans h.scalars, h'.vectors.trans h.vectors, h'.preds.trans h.preds, h'.batts.trans h.batts,
    h'.inp.trans h.inp, h'.outp.trans h.outp⟩

/-- A store to scratch leaves the contexts of the issuing tile. -/
theorem Tile.StoresAt.onCurTile (hf : Tile.StoresAt a n f) (s : State) :
    (s.onCurTile f).curLeaf = s.curLeaf ∧ (s.onCurTile f).curCtx = s.curCtx ∧ (s.onCurTile f).curBank = s.curBank := by
  obtain ⟨v, m, hx⟩ := hf (s.tile s.cur.tile)
  have htile : (s.onCurTile f).tile s.cur.tile = { s.tile s.cur.tile with
      scratch := (s.tile s.cur.tile).scratch.writeNat a v n, writer := m } := (s.tile_onTile _ f).trans hx
  simp [State.curLeaf, State.curCtx, State.curBank, State.ctx, State.bank, htile]

/-- A store to scratch by itself. -/
theorem Tile.StoresAt.storeFrame (hf : Tile.StoresAt a n f) (hs : s.curTile.scratch.wf = true) :
    StoreFrame a n s (s.onCurTile f) := by
  obtain ⟨-, hctx, hbank⟩ := hf.onCurTile s
  obtain ⟨v, m, hx⟩ := hf s.curTile
  have htile : (s.onCurTile f).curTile = { s.curTile with
      scratch := s.curTile.scratch.writeNat a v n, writer := m } := (s.tile_onTile _ f).trans hx
  constructor
  case scratch => exact fun x hout => htile ▸ Memory.read_writeNat_out hs _ _ _ _ hout
  case apart => rfl
  case tiles => exact fun w hw => s.tile_onTile_ne _ _ _ hw
  case prog | latches => rw [htile]
  case scalars | vectors | preds | batts => rw [hbank]
  case inp | outp => rw [hctx]

/-- The bundle of an op takes effect on what the op's own effect leaves, where that keeps the issuing bank. -/
theorem State.commit_act (hcur : (p.act s).cur = s.cur) (hleaf : (p.act s).curLeaf = s.curLeaf)
    (hbank : (p.act s).curBank = s.curBank) : s.commit [(k, p)] = (p.act s).commit [(k, { p with act := id })] := by
  have hflow : flowOf [(k, { p with act := id })] = flowOf [(k, p)] := by cases k <;> rfl
  simp only [State.commit, List.foldl_cons, List.foldl_nil, id, hcur, hleaf, hbank, hflow]
  rfl

/-- An op whose one effect is a store to scratch, if it has one. -/
structure StorePlan (a n : Nat) (p : Plan) : Prop where
  act : p.act = id ∨ ∃ f, Tile.StoresAt a n f ∧ p.act = fun x => x.onCurTile f
  onWait : p.onWait = id

/-- A predicate takes nothing from such an op but the op as a whole (R46). -/
theorem StorePlan.guarded (h : StorePlan a n (on s)) : StorePlan a n (guarded k g on nothing s).2 := by
  obtain ⟨hact, hwait⟩ := h
  unfold Machine.guarded
  split
  · exact ⟨hact, hwait⟩
  · exact ⟨.inl rfl, rfl⟩

/-- What the issue of such an op leaves. -/
theorem StorePlan.issue (h : StorePlan a n p) (hs : s.curTile.scratch.wf = true) :
    StoreFrame a n s (s.issue [(k, p)]) := by
  obtain hact | ⟨f, hf, hact⟩ := h.act
  · exact (BankOnly.issue s k p hact fun b => by rw [h.onWait]; rfl).storeFrame
  obtain ⟨j, i, hi⟩ | hi | hi := s.issue_cases k p <;> rw [hi]
  · exact (BankOnly.faultHere s j i).storeFrame
  · exact (BankOnly.of_bare s _ (by rw [h.onWait]; rfl)).storeFrame
  · obtain ⟨hleaf, -, hbank⟩ := hf.onCurTile s
    have hstored : p.act s = s.onCurTile f := congrFun hact s
    rw [State.commit_act (hstored ▸ rfl) (hstored ▸ hleaf) (hstored ▸ hbank), hstored]
    exact (hf.storeFrame hs).trans (BankOnly.commit _ k _ rfl).storeFrame

/-- What such an op by itself leaves, in a state whose memories are in their canonical form (R3). -/
theorem StorePlan.exec {i : Instr} {o : State → SlotPlan} (h : StorePlan a n (o s.settle).2) (hi : planOf i = some o)
    (hinv : s.Inv) (hexec : exec i s = .next t) : StoreFrame a n s.settle t := by
  obtain ⟨⟨-, -, -, hwf, -, -⟩, -⟩ := hinv
  rw [exec_planOf hi, issueOne, Host.Outcome.next.injEq] at hexec
  have hs : s.settle.curTile.scratch.wf = true := by rw [s.curTile_settle]; exact hwf s.cur.tile
  exact hexec ▸ h.issue (k := (o s.settle).1) hs

/-- A push stores nothing when its range is empty (R95). -/
theorem Tile.StoresAt.of_range {m : Nat} {act : State → State} (hf : Tile.StoresAt a n f)
    (hact : act = if m = 0 then id else fun x => x.onCurTile f) :
    act = id ∨ ∃ f, Tile.StoresAt a n f ∧ act = fun x => x.onCurTile f := by
  rw [hact]
  split
  · exact .inl rfl
  · exact .inr ⟨f, hf, rfl⟩

end

/-- Settles O12: each op is a `StorePlan` at its address, on the state in which the due writes have landed; and the landing
changes the context of the issuing bank only. -/
theorem scratchStoreFrame : Obligations.ScratchStoreFrame := by
  intro s t g d u v r b e imm s0 k line word keeps
  have keeps_of {i : Instr} {a n : Nat} {o : State → SlotPlan} (hi : planOf i = some o) (ho : StorePlan a n (o s0).2) :
      keeps i a n := by
    intro hinv hexec
    have h := ho.exec hi hinv hexec
    have htile := s.curTile_settle
    exact ⟨fun x hx => (h.scratch x hx).trans (by rw [htile]; rfl), h.apart,
      fun w hw => (h.tiles w hw).trans (s.tile_onCtx_ne _ _ _ _ hw), h.scalars, h.vectors, h.preds, h.batts, h.inp, h.outp,
      h.prog.trans (by rw [htile]; rfl), h.latches.trans (by rw [htile]; rfl)⟩
  exact ⟨keeps_of rfl (.guarded ⟨.inr ⟨_, Tile.storesAt_storeScratch _ _ _ _ _, rfl⟩, rfl⟩),
    keeps_of rfl (.guarded ⟨.inr ⟨_, Tile.storesAt_storeScratch _ _ _ _ _, rfl⟩, rfl⟩),
    keeps_of rfl (.guarded ⟨.inr ⟨_, Tile.storesAt_putScratch _ _ _, rfl⟩, rfl⟩),
    keeps_of rfl (.guarded ⟨(Tile.storesAt_putScratch _ _ _).of_range rfl, rfl⟩),
    keeps_of rfl (.guarded ⟨(Tile.storesAt_putScratch _ _ _).of_range rfl, rfl⟩)⟩

end Sys2Proof.Machine
end

section
/-!
SUPPORT. Scratch loads and stores (R63, R226, R227), and the state registers (R77, R98-R101).
-/
namespace Sys2Proof.Machine

/-- An aligned access inside the share passes the checks of scratch (R227). -/
theorem scratchCheck_eq_none {c : LeafCtx} {a n align : Nat} (ha : a % align = 0) (hs : c.outside a n = none) :
    scratchCheck c a n align = none := by
  simp [scratchCheck, ha, hs]

/-- A scratch load of lines without an uncorrectable error is free of ECC (R227). -/
theorem loadEcc_eq_none {s : State} {ea : W32} {n : Nat} (h : s.scratchEcc ea.toNat n = none) : loadEcc s ea n = none := by
  simp [loadEcc, h]

/-- Settles O28: an aligned access inside the share passes every check, so that the op takes effect. -/
theorem scratchIssues : Obligations.ScratchIssues := by
  intro s g d r b imm s0 k x line word own
  refine ⟨fun ha hs => ⟨fun he h hclear => ?_, fun h hclear => ?_⟩,
    fun ha hs => ⟨fun he h hclear => ?_, fun h hclear => ?_⟩⟩
  · exact issueOne_commit h hclear rfl rfl (scratchCheck_eq_none ha hs) rfl (loadEcc_eq_none he) rfl rfl rfl
  · exact issueOne_commit h hclear rfl rfl (scratchCheck_eq_none ha hs) rfl rfl rfl rfl rfl
  · exact issueOne_commit h hclear rfl rfl (scratchCheck_eq_none ha hs) rfl (loadEcc_eq_none he) rfl rfl rfl
  · exact issueOne_commit h hclear rfl rfl (scratchCheck_eq_none ha hs) rfl rfl rfl rfl rfl

/-! ## State registers -/

/-- The key that a bank holds in a slot shows in UMBH (R292). -/
theorem Bank.getLsbD_heldBits (k : Bank) (j : Fin 4) : k.heldBits.getLsbD j.val = k.held[j].valid := by
  fin_cases j <;> simp [Bank.heldBits, ofFields]

/-- The bits of UMBH: HELD, PSN, WAIT, and zeros (R292). -/
theorem Bank.getLsbD_umbh (k : Bank) (i : Nat) : k.umbh.getLsbD i =
    if i < 4 then k.heldBits.getLsbD i else if i < 8 then k.psn.getLsbD (i - 4)
      else if i = 8 then k.umWait.isSome else false := by
  have happend : k.umbh.getLsbD i = if i < 4 then k.heldBits.getLsbD i
      else (0#23 ++ BitVec.ofBool k.umWait.isSome ++ k.psn).getLsbD (i - 4) := BitVec.getLsbD_append
  rw [happend]
  simp only [BitVec.getLsbD_append, BitVec.getLsbD_ofBool, BitVec.getLsbD_zero]
  grind

theorem Bank.umbh_wait (k : Bank) : k.umbh.getLsbD 8 = k.umWait.isSome := k.getLsbD_umbh 8

theorem Bank.umbh_zeros (k : Bank) : k.umbh.extractLsb' 9 23 = 0 := by
  ext i hi
  rw [BitVec.getElem_extractLsb', k.getLsbD_umbh, if_neg (by omega), if_neg (by omega), if_neg (by omega)]
  simp

theorem Bank.umbh_held (k : Bank) (j : Fin 4) : k.umbh.getLsbD j.val = k.held[j].valid := by
  rw [k.getLsbD_umbh, if_pos j.isLt, k.getLsbD_heldBits]

theorem Bank.umbh_psn (k : Bank) (j : Fin 4) : k.umbh.getLsbD (4 + j.val) = k.psn.getLsbD j.val := by
  rw [k.getLsbD_umbh, if_neg (by omega), if_pos (by omega), Nat.add_sub_cancel_left]

/-- The slots that hold a token of an input channel, as `rdsr` reads them (R77). -/
theorem State.readSr_inp (s : State) (ch : Fin 8) :
    s.readSr (BitVec.ofNat 12 (0x020 + ch.val)) = BitVec.ofNat 32 s.curCtx.inp[ch].f := by
  fin_cases ch <;> simp [State.readSr]

/-- The free slots of an output channel, as `rdsr` reads them (R77). -/
theorem State.readSr_outp (s : State) (ch : Fin 8) :
    s.readSr (BitVec.ofNat 12 (0x028 + ch.val)) = BitVec.ofNat 32 s.curCtx.outp[ch].e := by
  fin_cases ch <;> simp [State.readSr]

/-- Settles O19: each op takes effect, as it has no check and waits for nothing; and what `rdsr` reads, register by register. -/
theorem stateOps : Obligations.StateOps := by
  refine ⟨fun s g d a num code => ?_, fun s => ?_⟩
  · intro s0 x
    refine ⟨fun h => ?_, fun h hclear => ?_, fun hn h hclear => ?_, fun h hclear => ?_, fun h6 h7 hE h10 h hclear => ?_,
      fun h hclear => ?_, fun h hclear => ?_, fun h hclear => ?_⟩
    · exact congrArg _ (issue_commit (p := {}) rfl rfl rfl rfl h)
    · exact issueOne_commit h hclear rfl rfl rfl rfl rfl rfl rfl rfl
    · obtain rfl | rfl | rfl := hn <;> exact issueOne_commit h hclear rfl rfl rfl rfl rfl rfl rfl rfl
    · exact issueOne_commit h hclear rfl rfl rfl rfl rfl rfl rfl rfl
    · refine issueOne_commit h hclear rfl rfl rfl rfl rfl ?_ ?_ rfl
      · exact (if_neg h10).trans (if_neg (by simpa [srWritable] using ⟨⟨⟨h6, h7⟩, hE⟩, h10⟩))
      · exact if_neg h10
    all_goals exact issueOne_commit h hclear rfl rfl rfl rfl rfl rfl rfl rfl
  · intro t c k
    have hcycle : s.readSr 0x005 = (s.dies[siteDie t].cycle).setWidth 32 := BitVec.ofNat_toNat _ _
    exact ⟨rfl, rfl, rfl, rfl, rfl, hcycle, rfl, rfl, rfl, rfl, rfl, rfl, rfl, k.umbh_wait, k.umbh_zeros,
      fun j => ⟨k.umbh_held j, k.umbh_psn j⟩, rfl, rfl, rfl, rfl, rfl, rfl,
      fun ch => ⟨s.readSr_inp ch, s.readSr_outp ch⟩⟩

end Sys2Proof.Machine
end

section
/-!
SUPPORT. Where issue goes after a bundle, and what becomes of the loop stack (R64, R88, R92-R94, R100, R101).
-/
namespace Sys2Proof.Machine

/-! ## FLTB of a synchronous fault in slot 0 -/

/-- FLTB names the leaf and the bundle; ASYNC, MORE and SLOT are clear (R364). -/
theorem fltbWord_sync (l : Leaf) (pc : Nat) :
    fltbWord false l 0 pc = 0#16 ++ BitVec.ofNat 1 l.val ++ 0#3 ++ BitVec.ofNat 12 pc := by
  have hslot (v : BitVec 17) : v ++ 0#1 ++ 0#2 = v ++ 0#3 := BitVec.append_assoc
  exact congrArg (· ++ BitVec.ofNat 12 pc) (hslot (0#16 ++ BitVec.ofNat 1 l.val))

/-! ## The loop stack of a bank -/

section
variable {x target : Nat} {e : LoopEntry} {r : List LoopEntry}

@[simp] theorem loopBack_nil : loopBack x [] = (x + 1, []) := rfl

/-- Inside the innermost loop issue goes to the next bundle (R94). -/
theorem loopBack_inside (h : x ≠ e.last) : loopBack x (e :: r) = (x + 1, e :: r) := if_neg h

/-- At the end of a loop with turns left issue goes back to its start (R94). -/
theorem loopBack_again (h : x = e.last) (hl : e.left ≠ 0) :
    loopBack x (e :: r) = (e.start, { e with left := e.left - 1 } :: r) := (if_pos h).trans (if_neg hl)

/-- At the end of a loop without turns left the outer loop decides (R94). -/
theorem loopBack_leave (h : x = e.last) (hl : e.left = 0) : loopBack x (e :: r) = loopBack x r :=
  (if_pos h).trans (if_pos hl)

/-- A branch within the innermost loop leaves the stack (R94). -/
theorem loopExit_inside (hs : e.start ≤ x) (hl : x ≤ e.last) (hs' : e.start ≤ target) (hl' : target ≤ e.last) :
    loopExit x target (e :: r) = e :: r := (if_pos ⟨hs, hl⟩).trans (if_pos ⟨hs', hl'⟩)

/-- A branch from outside the innermost loop leaves the stack (R94). -/
theorem loopExit_outside (h : x < e.start ∨ e.last < x) : loopExit x target (e :: r) = e :: r := if_neg (by omega)

/-- A branch out of the innermost of two loops leaves it, and the outer one when its target lies outside that too (R94). -/
theorem loopExit_leave {o : LoopEntry} (hs : e.start ≤ x) (hl : x ≤ e.last) (h : target < e.start ∨ e.last < target) :
    loopExit x target [e, o] = if o.start ≤ target ∧ target ≤ o.last then [o] else [] :=
  (if_pos ⟨hs, hl⟩).trans (if_neg (by omega))

end

section
variable (k : Bank) {n len : Nat} {ls : List LoopEntry} {count : W32}

/-- A bundle without a flow of its own goes where its loops send it (R88, R94). -/
theorem Bank.next_seq (h : loopBack k.pc k.loops = (n, ls)) : (k.next .seq).pc = n ∧ (k.next .seq).loops = ls := by
  simp [Bank.next, h]

/-- A `loop` of no turns is passed over (R92). -/
theorem Bank.next_loopIn_zero (h : count = 0) : k.next (.loopIn len count) =
    { k.advance with wait := 0, checked := false, pc := k.pc + len + 1, emptyStep := true } := if_pos h

/-- A `loop` of some turns is entered (R92). -/
theorem Bank.next_loopIn_turns (h : count ≠ 0) : k.next (.loopIn len count) =
    { k.advance with wait := 0, checked := false, pc := k.pc + 1,
                     loops := ⟨k.pc + 1, k.pc + len, count - 1⟩ :: k.loops } := if_neg h

end

/-! ## The bank after a bundle that stops it -/

section
variable (s : State) (p : Plan)

/-- The issuing bank, once an op alone in its bundle has taken effect. -/
theorem State.curBank_effected (ha : p.act = id) : (s.effected .s p).curBank =
    ({ s.curBank with pending := s.curBank.pending ++ p.created .s } : Bank).next p.flow := by
  rw [State.effected, ha]
  exact s.curBank_onCurBank _

theorem State.curLeaf_effected (ha : p.act = id) : (s.effected .s p).curLeaf = s.curLeaf := by
  rw [State.effected, ha]
  exact s.curLeaf_onCurBank _

/-- A `trap` stops the bank at the bundle that would follow (R101). -/
theorem State.curBank_commit_trap (code : BitVec 12) : (s.commit [(.s, { flow := .trap code })]).curBank =
    (s.effected .s { flow := .trap code }).curBank.fault (fltbWord false s.curLeaf 0 s.curBank.pc)
      (faultOf .trap (code.setWidth 32)) := by
  rw [← State.curBank_takeFault, State.curLeaf_effected s _ rfl]
  rfl

/-- Past the last bundle of its leaf a bank stops with BRANGE (R88). -/
theorem State.curBank_pastEnd : s.pastEnd.curBank =
    s.curBank.fault (fltbWord false s.curLeaf 0 0xFFF) (faultOf .brange 0x1000) :=
  s.curBank_takeFault _ _

/-- The last bundle of the leaf is followed by no other (R88). -/
theorem State.commit_last (h : (s.effected .s {}).curBank.pc = 0x1000) :
    s.commit [(.s, {})] = (s.effected .s {}).pastEnd :=
  if_pos h

end

/-- Settles O17: the stops by `Bank.fault_first`, the bundle that follows and the loop stack by the equations of `loopBack` and
`loopExit`. -/
theorem flowEffects : Obligations.FlowEffects := by
  constructor
  · intro s code k stops hk
    refine ⟨?_, ?_, ?_⟩
    · intro u
      have hbank := s.curBank_commit_trap code
      rw [State.curBank_effected s _ rfl, Bank.fault_first (by simpa using hk), fltbWord_sync] at hbank
      simp only [stops]
      rw [show u.curBank = _ from hbank]
      exact ⟨⟨rfl, rfl, rfl, rfl⟩, rfl, rfl, rfl⟩
    · intro hpc hnext u
      have hlast : (s.effected .s {}).curBank.pc = 0x1000 := by rw [State.curBank_effected s _ rfl]; exact hnext
      have hbank := (s.effected .s {}).curBank_pastEnd
      rw [← s.commit_last hlast, State.curLeaf_effected s _ rfl, State.curBank_effected s _ rfl,
        Bank.fault_first (by simpa using hk), fltbWord_sync] at hbank
      simp only [stops]
      rw [show u.curBank = _ from hbank, hpc]
      exact ⟨⟨rfl, rfl, rfl, rfl⟩, hnext, rfl⟩
    · intro hpc hk u
      have hissue : s.issueBundle = s.settle.pastEnd := if_pos (Nat.le_of_eq hpc.symm)
      have hbank := s.settle.curBank_pastEnd
      rw [← hissue, Bank.fault_first hk, fltbWord_sync, s.curLeaf_settle] at hbank
      rw [show u.curBank = _ from hbank]
      exact ⟨rfl, rfl, rfl, rfl, rfl⟩
  · intro k e o target len count x
    exact ⟨⟨rfl, rfl, rfl⟩, ⟨rfl, rfl⟩,
      fun hk hs hl hs' hl' => (congrArg _ hk).trans (loopExit_inside hs hl hs' hl'),
      fun hk hs hl h => (congrArg _ hk).trans (loopExit_leave hs hl h),
      fun hk h => (congrArg _ hk).trans (loopExit_outside h),
      fun h => by rw [k.next_loopIn_zero h]; exact ⟨rfl, rfl, rfl⟩,
      fun h => by rw [k.next_loopIn_turns h]; exact ⟨rfl, rfl⟩,
      fun hk => (k.next_seq ((congrArg _ hk).trans loopBack_nil)).1,
      fun hk h => k.next_seq (hk ▸ loopBack_inside h),
      fun hk h hl => k.next_seq (hk ▸ loopBack_again h hl),
      fun hk h hl => k.next_seq (hk ▸ loopBack_leave h hl),
      fun hk h hl h' hl' => k.next_seq (hk ▸ (loopBack_leave h hl).trans (loopBack_again h' hl')),
      fun hk h hl h' hl' => k.next_seq (hk ▸ (loopBack_leave h hl).trans (loopBack_leave h' hl')),
      fun hk h hl h' => k.next_seq (hk ▸ (loopBack_leave h hl).trans (loopBack_inside h')),
      fun hk h hl => k.next_seq (hk ▸ loopBack_again h hl),
      fun hk h => k.next_seq (hk ▸ loopBack_inside h),
      ⟨rfl, rfl, rfl⟩, ⟨rfl, rfl⟩, ⟨rfl, rfl⟩⟩

end Sys2Proof.Machine
end

section
/-!
SUPPORT. An op by itself that issues, faults or waits, from its plan: what every statement about one op rests on (R59-R61).
-/
namespace Sys2Proof.Machine

section
variable {i : Instr} {s : State} {k : Slot} {g : Pg} {on : State → Plan} {p q : Plan} {rs : List RegRef}
  {ws : List (Nat × PVal)}

/-- An op whose plan passes its checks and waits for nothing issues. -/
theorem issues_of_plan (hi : planOf i = some (guarded k g on nothing)) (hp : on s.settle = p) (hrs : p.reads = rs)
    (hb : p.brange = none) (hc : p.check = none) (hr : p.ready = true) (hl : p.late = none) (hw : p.writes = q.writes)
    (ha : p.act = q.act) (hf : p.flow = q.flow) : Issues i s k g rs q := by
  subst hp
  intro he hclear
  rw [exec_planOf hi]
  exact issueOne_commit he hclear hrs hb hc hr hl hw ha hf

/-- An op that only reads and writes registers issues. -/
theorem issues_of_writes (hi : planOf i = some (guarded k g on nothing))
    (hp : on s.settle = { reads := rs, writes := ws }) : Issues i s k g rs { writes := ws } :=
  issues_of_plan hi hp rfl rfl rfl rfl rfl rfl rfl rfl

/-- An op whose plan fails a check of phase 1 faults. -/
theorem faults_of_plan {f : FaultInfo} (hi : planOf i = some (guarded k g on nothing)) (hp : on s.settle = p)
    (hrs : p.reads = rs) (hb : p.brange = none) (hc : p.check = some f) (hw : List.Forall₂ SameShape p.writes ws) :
    Faults i s k g rs ws f := by
  subst hp
  intro he hk hclear
  rw [exec_planOf hi]
  exact issueOne_fault he hk hclear hrs hb hc hw

/-- An op whose plan passes its checks and is not ready waits. -/
theorem waits_of_plan {c : BitVec 4} (hi : planOf i = some (guarded k g on nothing)) (hp : on s.settle = p)
    (hrs : p.reads = rs) (hb : p.brange = none) (hc : p.check = none) (hr : p.ready = false) (ho : p.onWait = id)
    (hw : List.Forall₂ SameShape p.writes ws) (hcode : p.wait = c) : Waits i s k g rs ws c := by
  subst hp
  intro he hclear
  rw [exec_planOf hi]
  exact issueOne_wait he hclear hrs hb hc hr ho hw hcode

/-- An op that branches outside the leaf faults BRANGE, whatever else holds (R59). -/
theorem exec_brange {a : W32} (hi : planOf i = some (guarded k g on nothing)) (he : s.settle.curBank.enabled g = true)
    (hb : (on s.settle).brange = some a) : exec i s = .next (s.settle.faultHere k (faultOf .brange a)) := by
  rw [exec_planOf hi]
  exact issueOne_brange he hb

end

/-! ## Writes of one shape -/

section
variable (n : Nat)

/-- Two values of one scalar register have one shape, and so for the other kinds of registers. -/
theorem SameShape.scalar (r : BitVec 5) (x y : W32) : SameShape (n, .scalar r x) (n, .scalar r y) := ⟨rfl, rfl, rfl⟩
theorem SameShape.vec (r : BitVec 4) (x y : Vec) : SameShape (n, .vec r x) (n, .vec r y) := ⟨rfl, rfl, rfl⟩
theorem SameShape.sreg (r : BitVec 12) (x y : W32) : SameShape (n, .sreg r x) (n, .sreg r y) := ⟨rfl, rfl, rfl⟩
theorem SameShape.batt (r : BitVec 2) (x y : Batt) : SameShape (n, .batt r x) (n, .batt r y) := ⟨rfl, rfl, rfl⟩

end

/-- An op with one write. -/
theorem SameShape.singleton {a b : Nat × PVal} (h : SameShape a b) : List.Forall₂ SameShape [a] [b] := .cons h .nil

/-- Writes of one shape for each register of a range. -/
theorem SameShape.map {α : Type} {f g : α → Nat × PVal} (h : ∀ x, SameShape (f x) (g x)) (l : List α) :
    List.Forall₂ SameShape (l.map f) (l.map g) :=
  List.forall₂_map_left_iff.2 (List.forall₂_map_right_iff.2 (List.forall₂_same.2 fun x _ => h x))

/-! ## The first check that fails -/

@[simp] theorem firstFault_nil : firstFault [] = none := rfl
@[simp] theorem firstFault_none (l : List (Option FaultInfo)) : firstFault (none :: l) = firstFault l := rfl
@[simp] theorem firstFault_some (f : FaultInfo) (l : List (Option FaultInfo)) : firstFault (some f :: l) = some f := rfl

end Sys2Proof.Machine
end

section
/-!
SUPPORT. The results of the integer ops of the S slot, and of compares and predicate logic (R82-R87).
-/
namespace Sys2Proof.Machine

/-! ## The model's arithmetic, as the spec writes it -/

section
variable (x y : W32)

/-- The high half of the signed product (R82). -/
theorem ofInt_mul_div_eq_extract : BitVec.ofInt 32 (x.toInt * y.toInt / 4294967296) =
    (x.signExtend 64 * y.signExtend 64).extractLsb' 32 32 := by
  have hprod : x.signExtend 64 * y.signExtend 64 = BitVec.ofInt 64 (x.toInt * y.toInt) := (BitVec.ofInt_mul _ _).symm
  rw [hprod]
  generalize x.toInt * y.toInt = z
  apply BitVec.eq_of_toNat_eq
  rw [BitVec.extractLsb'_toNat, BitVec.toNat_ofInt, BitVec.toNat_ofInt, Nat.shiftRight_eq_div_pow]
  omega

/-- The high half of the unsigned product (R82). -/
theorem ofNat_mul_div_eq_extract : BitVec.ofNat 32 (x.toNat * y.toNat / 4294967296) =
    (x.setWidth 64 * y.setWidth 64).extractLsb' 32 32 := by
  have hprod : x.setWidth 64 * y.setWidth 64 = BitVec.ofNat 64 (x.toNat * y.toNat) := by
    rw [BitVec.ofNat_mul, BitVec.ofNat_toNat, BitVec.ofNat_toNat]
  rw [hprod]
  apply BitVec.eq_of_toNat_eq
  rw [BitVec.extractLsb'_toNat, BitVec.toNat_ofNat, BitVec.toNat_ofNat, Nat.shiftRight_eq_div_pow]
  omega

theorem ite_slt_eq_min : (if x.slt y then x else y) = BitVec.ofInt 32 (min x.toInt y.toInt) := by
  rw [min_def_lt, apply_ite (BitVec.ofInt 32), BitVec.ofInt_toInt, BitVec.ofInt_toInt]
  simp only [BitVec.slt_iff_toInt_lt]

theorem ite_slt_eq_max : (if x.slt y then y else x) = BitVec.ofInt 32 (max x.toInt y.toInt) := by
  rw [max_def_lt, apply_ite (BitVec.ofInt 32), BitVec.ofInt_toInt, BitVec.ofInt_toInt]
  simp only [BitVec.slt_iff_toInt_lt]

theorem ite_ult_eq_min : (if x.ult y then x else y) = BitVec.ofNat 32 (min x.toNat y.toNat) := by
  rw [min_def_lt, apply_ite (BitVec.ofNat 32), BitVec.ofNat_toNat, BitVec.ofNat_toNat]
  simp only [BitVec.ult_iff_lt, BitVec.lt_def, BitVec.setWidth_eq]

theorem ite_ult_eq_max : (if x.ult y then y else x) = BitVec.ofNat 32 (max x.toNat y.toNat) := by
  rw [max_def_lt, apply_ite (BitVec.ofNat 32), BitVec.ofNat_toNat, BitVec.ofNat_toNat]
  simp only [BitVec.ult_iff_lt, BitVec.lt_def, BitVec.setWidth_eq]

/-- The signed quotient, truncated toward zero (R87): −2^31 by −1 is 2^31 modulo 2^32. -/
theorem divS_eq : divS x y = if y = 0 then 0xFFFFFFFF else BitVec.ofInt 32 (x.toInt.tdiv y.toInt) :=
  congrArg (ite (y = 0) _) (BitVec.eq_of_toInt_eq ((BitVec.toInt_sdiv x y).trans (BitVec.toInt_ofInt _).symm))

theorem divU_eq : divU x y = if y = 0 then 0xFFFFFFFF else BitVec.ofNat 32 (x.toNat / y.toNat) :=
  congrArg (ite (y = 0) _) BitVec.udiv_def

/-- The signed remainder has the sign of the dividend (R87). -/
theorem remS_eq : remS x y = if y = 0 then x else BitVec.ofInt 32 (x.toInt.tmod y.toInt) := by
  rw [← BitVec.toInt_srem, BitVec.ofInt_toInt]
  rfl

theorem remU_eq : remU x y = if y = 0 then x else BitVec.ofNat 32 (x.toNat % y.toNat) :=
  congrArg (ite (y = 0) _) BitVec.umod_def

end

/-- `lui` moves its immediate above fifteen zeros (R84). -/
theorem append_zeros_eq_shiftLeft (x : BitVec 17) : x ++ 0#15 = x.setWidth 32 <<< 15 := by
  apply BitVec.eq_of_toNat_eq
  rw [BitVec.toNat_append, BitVec.toNat_shiftLeft, BitVec.toNat_setWidth]
  simp only [Nat.shiftLeft_eq, BitVec.toNat_ofNat, Nat.zero_mod, Nat.or_zero]
  omega

/-! ## Ops that write one scalar register -/

section
variable {i : Instr} {s : State} {g : Pg} {d a b : BitVec 5} {v : W32}

/-- An op on two registers, by the value that it gives for them. -/
theorem issues_planScalar {lat : Nat} {f : W32 → W32 → W32} (hi : planOf i = some (planScalar lat f g d a b))
    (hv : f (s.settle.curBank.rs a) (s.settle.curBank.rs b) = v) :
    Issues i s .s g (readsS [a, b]) { writes := [(lat, .scalar d v)] } :=
  issues_of_writes hi (by rw [hv])

/-- An op on one register, by the value that it gives for it. -/
theorem issues_planScalarImm {f : W32 → W32} (hi : planOf i = some (planScalarImm f g d a))
    (hv : f (s.settle.curBank.rs a) = v) : Issues i s .s g (readsS [a]) { writes := [(1, .scalar d v)] } :=
  issues_of_writes hi (by rw [hv])

end

/-- Settles O14: each op writes the value of its plan, which the lemmas above turn into that of the spec. -/
theorem integerResults : Obligations.IntegerResults := by
  refine ⟨?alu, ?immediates, ?division⟩
  case alu =>
    intro s g d a b k x y n does
    exact ⟨issues_planScalar rfl rfl, issues_planScalar rfl rfl, issues_planScalar rfl rfl, issues_planScalar rfl rfl,
      issues_planScalar rfl rfl, issues_planScalar rfl rfl, issues_planScalar rfl rfl, issues_planScalar rfl rfl,
      issues_planScalar rfl rfl, issues_planScalar rfl (ofInt_mul_div_eq_extract x y),
      issues_planScalar rfl (ofNat_mul_div_eq_extract x y), issues_planScalar rfl (ite_slt_eq_min x y),
      issues_planScalar rfl (ite_slt_eq_max x y), issues_planScalar rfl (ite_ult_eq_min x y),
      issues_planScalar rfl (ite_ult_eq_max x y), issues_planScalarImm rfl rfl⟩
  case immediates =>
    intro s g d a imm n wide x k does
    exact ⟨issues_planScalarImm rfl rfl, issues_planScalarImm rfl rfl, issues_planScalarImm rfl rfl,
      issues_planScalarImm rfl rfl, issues_planScalarImm rfl rfl, issues_planScalarImm rfl rfl,
      issues_planScalarImm rfl rfl, issues_of_writes rfl rfl,
      issues_of_writes rfl (by rw [append_zeros_eq_shiftLeft])⟩
  case division =>
    intro s g d a b x y does
    exact ⟨issues_planScalar rfl (divS_eq x y), issues_planScalar rfl (divU_eq x y), issues_planScalar rfl (remS_eq x y),
      issues_planScalar rfl (remU_eq x y)⟩

/-! ## Compares and predicate logic (R85, R86) -/

section
variable (x y : W32)

theorem condHolds_lt : condHolds 2 x y = decide (x.toInt < y.toInt) := BitVec.slt_eq_decide

theorem condHolds_ge : condHolds 3 x y = decide (y.toInt ≤ x.toInt) := by
  show (!x.slt y) = _
  rw [BitVec.slt_eq_decide, ← decide_not, decide_eq_decide, not_lt]

theorem condHolds_ltn : condHolds 4 x y = decide (x.toNat < y.toNat) := BitVec.ult_eq_decide

theorem condHolds_gen : condHolds 5 x y = decide (y.toNat ≤ x.toNat) := by
  show (!x.ult y) = _
  rw [BitVec.ult_eq_decide, ← decide_not, decide_eq_decide, not_lt]

end

section
variable {s : State} {g : Pg} {d : BitVec 3} {a b : BitVec 5} {v : Bool}

/-- A compare of two registers, by what its condition says of them. -/
theorem issues_cmp {cond : BitVec 3} (hv : condHolds cond (s.settle.curBank.rs a) (s.settle.curBank.rs b) = v) :
    Issues (.cmp g d a b cond) s .s g (readsS [a, b]) { writes := [(1, .pred d v)] } :=
  issues_of_writes rfl (by rw [hv])

/-- A compare with an immediate, by what its condition says. -/
theorem issues_cmpi {cond : BitVec 2} {imm : BitVec 12}
    (hv : condHolds (0#1 ++ cond) (s.settle.curBank.rs a) (imm.signExtend 32) = v) :
    Issues (.cmpi g d cond a imm) s .s g (readsS [a]) { writes := [(1, .pred d v)] } :=
  issues_of_writes rfl (by rw [← hv]; rfl)

end

/-- Settles O15: each op writes the value of its plan; the conditions by `condHolds_lt` and its companions. -/
theorem predicateResults : Obligations.PredicateResults := by
  intro s g d a b p q imm k x y c cmps cmpis logic
  exact ⟨rfl, rfl, issues_cmp rfl, issues_cmp rfl, issues_cmp (condHolds_lt x y), issues_cmp (condHolds_ge x y),
    issues_cmp (condHolds_ltn x y), issues_cmp (condHolds_gen x y), issues_cmpi rfl, issues_cmpi rfl,
    issues_cmpi (condHolds_lt x c), issues_cmpi (condHolds_ge x c), issues_of_writes rfl rfl, issues_of_writes rfl rfl,
    issues_of_writes rfl rfl, issues_of_writes rfl rfl⟩

end Sys2Proof.Machine
end

section
/-!
SUPPORT. The S-slot ops that direct issue (R89-R93): where they issue and where they fault BRANGE.
-/
namespace Sys2Proof.Machine

section
variable {target : Int}

/-- A target inside the leaf (R89). -/
theorem targetFault_inside (h0 : 0 ≤ target) (h1 : target < 0x1000) : targetFault target = none := if_pos ⟨h0, h1⟩

/-- A target outside the leaf (R89). -/
theorem targetFault_outside (h : target < 0 ∨ 0x1000 ≤ target) : targetFault target = some (BitVec.ofInt 32 target) :=
  if_neg (by omega)

end

section
variable {pc len : Nat} {ls : List LoopEntry}

/-- A `loop` of no bundles (R93). -/
theorem loopFault_empty : loopFault pc 0 ls = some (BitVec.ofNat 32 pc) := rfl

/-- A `loop` that ends outside the leaf (R93). -/
theorem loopFault_pastLeaf (h0 : len ≠ 0) (h : 0xFFF < pc + len) : loopFault pc len ls = some (BitVec.ofNat 32 (pc + len)) :=
  (if_neg h0).trans (if_pos h)

/-- A third `loop` (R93). -/
theorem loopFault_full (h0 : len ≠ 0) (h : pc + len ≤ 0xFFF) (hls : 2 ≤ ls.length) : loopFault pc len ls = some 0xFFFFFFFF :=
  (if_neg h0).trans ((if_neg h.not_gt).trans (if_pos hls))

/-- An inner `loop` that ends behind the outer one (R93). -/
theorem loopFault_pastOuter {e : LoopEntry} (h0 : len ≠ 0) (h : pc + len ≤ 0xFFF) (he : e.last < pc + len) :
    loopFault pc len [e] = some (BitVec.ofNat 32 (pc + len)) :=
  (if_neg h0).trans ((if_neg h.not_gt).trans (if_pos he))

/-- A `loop` that fits (R92, R93). -/
theorem loopFault_fits (h0 : len ≠ 0) (h : pc + len ≤ 0xFFF) (hls : ls.length < 2)
    (he : ∀ e ∈ ls.head?, pc + len ≤ e.last) : loopFault pc len ls = none := by
  refine (if_neg h0).trans ((if_neg h.not_gt).trans ((if_neg hls.not_ge).trans ?_))
  cases ls with
  | nil => rfl
  | cons e r => exact if_neg (he e rfl).not_gt

end

/-- Settles O16: an op issues where its plan has no BRANGE, by `targetFault_inside` and `loopFault_fits`, and faults where it
has one. -/
theorem flowOps : Obligations.FlowOps := by
  constructor
  · intro s g off a len k target last
    refine ⟨fun h0 h1 => ⟨?_, ?_⟩, fun h => ?_, fun hlen hlast hls he => ?_⟩
    · exact issues_of_plan rfl rfl rfl (targetFault_inside h0 h1) rfl rfl rfl rfl rfl rfl
    · exact issues_of_plan rfl rfl rfl (targetFault_inside h0 h1) rfl rfl rfl rfl rfl rfl
    · exact issues_of_plan rfl rfl rfl (if_pos (BitVec.ult_iff_lt.2 h)) rfl rfl rfl rfl rfl rfl
    · exact issues_of_plan rfl rfl rfl (loopFault_fits (BitVec.toNat_ne.1 hlen) hlast hls he) rfl rfl rfl rfl rfl rfl
  · intro s g off a len k target last faults hen
    refine ⟨fun h => ⟨?_, ?_⟩, fun h => ?_, fun h => ?_, fun hlen h => ?_, fun hlen hlast h => ?_,
      fun hlen hlast e hloops h => ?_⟩
    · exact exec_brange rfl hen (targetFault_outside h)
    · exact exec_brange rfl hen (targetFault_outside h)
    · exact exec_brange rfl hen (if_neg (BitVec.ult_iff_lt.not.2 (BitVec.not_lt.2 h)))
    · subst h
      exact exec_brange rfl hen (loopFault_empty (ls := k.loops))
    · exact exec_brange rfl hen (loopFault_pastLeaf (BitVec.toNat_ne.1 hlen) h)
    · exact exec_brange rfl hen (loopFault_full (BitVec.toNat_ne.1 hlen) hlast h)
    · exact exec_brange rfl hen ((congrArg _ hloops).trans (loopFault_pastOuter (BitVec.toNat_ne.1 hlen) hlast h))

end Sys2Proof.Machine
end

section
/-!
SUPPORT. The four stack ops (R95-R97): what they check, and where they issue.
-/
namespace Sys2Proof.Machine

/-! ## The checks of a push and of a pop -/

section
variable {c : LeafCtx} {k : Bank} {bytes : Nat} {vector : Bool}

/-- An aligned stack pointer, or a scalar form, passes the alignment check (R97). -/
theorem stackAlign_eq_none {sp : Nat} {f : FaultInfo} (ha : vector = true → sp % 64 = 0) :
    (if vector && sp % 64 != 0 then some f else none) = none :=
  if_neg (by simpa using ha)

/-- A vector form at an unaligned stack pointer fails it. -/
theorem stackAlign_unaligned {sp : Nat} {f : FaultInfo} (h : sp % 64 ≠ 0) :
    (if true && sp % 64 != 0 then some f else none) = some f :=
  if_pos (by simpa using h)

theorem pushCheck_unaligned (h0 : bytes ≠ 0) (h : k.sp.toNat % 64 ≠ 0) :
    pushCheck c k bytes true = some (faultOf .align k.sp) := by
  rw [pushCheck, if_neg h0, stackAlign_unaligned h, firstFault_some]

theorem popCheck_unaligned (h0 : bytes ≠ 0) (h : k.sp.toNat % 64 ≠ 0) :
    popCheck c k bytes true = some (faultOf .align k.sp) := by
  rw [popCheck, if_neg h0, stackAlign_unaligned h, firstFault_some]

/-- A push that starts below the stack or ends above it (R97). -/
theorem pushCheck_spill (h0 : bytes ≠ 0) (ha : vector = true → k.sp.toNat % 64 = 0)
    (h : k.splim.toNat < k.sp.toNat + bytes ∨ k.sp.toNat < k.spbase.toNat) :
    pushCheck c k bytes vector = some (faultOf .spill k.sp) := by
  rw [pushCheck, if_neg h0, stackAlign_eq_none ha, firstFault_none, if_pos h, firstFault_some]

/-- A pop that ends below the stack or starts above it (R97). -/
theorem popCheck_spill (h0 : bytes ≠ 0) (ha : vector = true → k.sp.toNat % 64 = 0)
    (h : k.sp.toNat < k.spbase.toNat + bytes ∨ k.splim.toNat < k.sp.toNat) :
    popCheck c k bytes vector = some (faultOf .spill k.sp) := by
  rw [popCheck, if_neg h0, stackAlign_eq_none ha, firstFault_none, if_pos h, firstFault_some]

/-- A push inside the stack and the share (R97). -/
theorem pushCheck_eq_none (ha : vector = true → k.sp.toNat % 64 = 0) (hbase : k.spbase.toNat ≤ k.sp.toNat)
    (hlim : k.sp.toNat + bytes ≤ k.splim.toNat) (hs : c.outside k.sp.toNat bytes = none) :
    pushCheck c k bytes vector = none := by
  rw [pushCheck, stackAlign_eq_none ha, if_neg (c := _ ∨ _) (by omega), hs]
  exact ite_self _

/-- A pop inside the stack and the share (R97). -/
theorem popCheck_eq_none (ha : vector = true → k.sp.toNat % 64 = 0) (hbase : k.spbase.toNat + bytes ≤ k.sp.toNat)
    (hlim : k.sp.toNat ≤ k.splim.toNat) (hs : c.outside (k.sp.toNat - bytes) bytes = none) :
    popCheck c k bytes vector = none := by
  rw [popCheck, stackAlign_eq_none ha, if_neg (c := _ ∨ _) (by omega), hs]
  exact ite_self _

end

/-- A pop of lines without an uncorrectable error is free of ECC (R97). -/
theorem popEcc_eq_none {s : State} {base bytes : Nat} (h : s.scratchEcc base bytes = none) : popEcc s base bytes = none := by
  simp [popEcc, h]

/-- A stack op with a range writes SP (R95). -/
theorem spWrite_of_ne {n : Nat} (h : n ≠ 0) (sp : Nat) : spWrite n sp = [(1, .sreg 0x007 (BitVec.ofNat 32 sp))] := if_neg h

/-! ## An empty range (R95) -/

section
variable {g : Pg}

theorem planPushm_empty {a b : BitVec 5} (h : rangeLen a.toNat b.toNat = 0) :
    planPushm g a b = guarded .s g nothing nothing := by
  simp only [planPushm, h]
  rfl

theorem planPopm_empty {a b : BitVec 5} (h : rangeLen a.toNat b.toNat = 0) :
    planPopm g a b = guarded .s g nothing nothing := by
  simp only [planPopm, h]
  rfl

theorem planVpushm_empty {a b : BitVec 4} (h : rangeLen a.toNat b.toNat = 0) :
    planVpushm g a b = guarded .s g nothing nothing := by
  simp only [planVpushm, h]
  rfl

theorem planVpopm_empty {a b : BitVec 4} (h : rangeLen a.toNat b.toNat = 0) :
    planVpopm g a b = guarded .s g nothing nothing := by
  simp only [planVpopm, h]
  rfl

end

/-- Settles O18: a range inside the stack and the share passes every check, and an empty one asks for nothing. -/
theorem spillIssues : Obligations.SpillIssues := by
  intro s g a b u v s0 k c sp n m regs vregs
  refine ⟨fun hn hbase hlim hs => ?_, fun hn hbase hlim hs he => ?_, fun hm ha hbase hlim hs => ?_,
    fun hm ha hbase hlim hs he => ?_, fun hn => ⟨?_, ?_⟩, fun hm => ⟨?_, ?_⟩⟩
  · exact issues_of_plan rfl rfl rfl rfl (pushCheck_eq_none nofun hbase hlim hs) rfl rfl (spWrite_of_ne hn _) (if_neg hn) rfl
  · exact issues_of_plan rfl rfl rfl rfl (popCheck_eq_none nofun hbase hlim hs) rfl (popEcc_eq_none he)
      (congrArg (_ ++ ·) (spWrite_of_ne hn _)) rfl rfl
  · exact issues_of_plan rfl rfl rfl rfl (pushCheck_eq_none (fun _ => ha) hbase hlim hs) rfl rfl (spWrite_of_ne hm _)
      (if_neg hm) rfl
  · exact issues_of_plan rfl rfl rfl rfl (popCheck_eq_none (fun _ => ha) hbase hlim hs) rfl (popEcc_eq_none he)
      (congrArg (_ ++ ·) (spWrite_of_ne hm _)) rfl rfl
  · exact issues_of_writes (congrArg some (planPushm_empty hn)) rfl
  · exact issues_of_writes (congrArg some (planPopm_empty hn)) rfl
  · exact issues_of_writes (congrArg some (planVpushm_empty hm)) rfl
  · exact issues_of_writes (congrArg some (planVpopm_empty hm)) rfl

end Sys2Proof.Machine
end

section
/-!
SUPPORT. Where a scratch, stack or global access faults or waits (R97, R204, R211, R227, R234, R236, R243, R367).
-/
namespace Sys2Proof.Machine

/-! ## What the checks of an access find -/

section
variable {c : LeafCtx} {x : W32} {n align first : Nat}

/-- An unaligned access of scratch (R211, R227). -/
theorem scratchCheck_unaligned (h : x.toNat % align ≠ 0) : scratchCheck c x.toNat n align = some (faultOf .align x) := by
  rw [scratchCheck, if_pos h, BitVec.ofNat_toNat, BitVec.setWidth_eq]

/-- An access outside the share, with the first address outside (R224, R227). -/
theorem scratchCheck_outside {a : Nat} (h : a % align = 0) (hs : c.outside a n = some first) :
    scratchCheck c a n align = some (faultOf .srange (BitVec.ofNat 32 first)) := by
  rw [scratchCheck, if_neg (not_not.2 h), hs]
  rfl

/-- An unaligned base of the lines that a macro op reads or writes (R204). -/
theorem linesCheck_unaligned {lines : List Nat} (h : x.toNat % 64 ≠ 0) :
    linesCheck c x.toNat lines n = some (faultOf .align x) := by
  rw [linesCheck, if_pos h, BitVec.ofNat_toNat, BitVec.setWidth_eq]

end

section
variable {ea : W64} {align : Nat} {c : LeafCtx} {ch : BitVec 3} {l : List (Option FaultInfo)}

/-- The ALIGN of a global access (R234, R367). -/
theorem globalAlign_unaligned (h : ea.toNat % align ≠ 0) :
    globalAlign ea align = some { code := 0x07, flta := ea.extractLsb' 0 32, fltx := ea } := if_pos h

theorem globalAlign_eq_none (h : ea.toNat % align = 0) : globalAlign ea align = none := if_neg (not_not.2 h)

/-- A channel that RESPMASK does not mark (R243). -/
theorem respCheck_shut (h : c.respmask.getLsbD ch.toNat = false) :
    respCheck c ch = some (faultOf .chproto (BitVec.ofNat 32 (ch.toNat * 256 + 8))) := if_neg (ne_true_of_eq_false h)

theorem respCheck_opened (h : c.respmask.getLsbD ch.toNat = true) : respCheck c ch = none := if_pos h

/-- The alignment is checked before all else (R234). -/
theorem firstFault_unaligned (h : ea.toNat % align ≠ 0) : firstFault (globalAlign ea align :: l) =
    some { code := 0x07, flta := ea.extractLsb' 0 32, fltx := ea } := by
  rw [globalAlign_unaligned h, firstFault_some]

/-- An aligned access for a channel that RESPMASK does not mark (R234, R243). -/
theorem firstFault_shut (h : ea.toNat % align = 0) (hch : c.respmask.getLsbD ch.toNat = false) :
    firstFault [globalAlign ea align, respCheck c ch] =
      some (faultOf .chproto (BitVec.ofNat 32 (ch.toNat * 256 + 8))) := by
  rw [globalAlign_eq_none h, firstFault_none, respCheck_shut hch, firstFault_some]

/-- An aligned access for a channel that RESPMASK marks (R234, R243). -/
theorem firstFault_opened (h : ea.toNat % align = 0) (hch : c.respmask.getLsbD ch.toNat = true) :
    firstFault [globalAlign ea align, respCheck c ch] = none := by
  rw [globalAlign_eq_none h, firstFault_none, respCheck_opened hch, firstFault_none, firstFault_nil]

end

/-- The checks of `ldw`, in the order in which `planLdw` makes them (R236, R243). -/
def ldwCheck (c : LeafCtx) (off : W32) (ch : BitVec 3) : Option FaultInfo :=
  firstFault [if off.toNat % 64 ≠ 0 then some (faultOf .align off) else none,
    if c.wsSize ≤ off.toNat then some (faultOf .srange off) else none, respCheck c ch]

section
variable {c : LeafCtx} {off : W32} {ch : BitVec 3}

theorem ldwCheck_unaligned (h : off.toNat % 64 ≠ 0) : ldwCheck c off ch = some (faultOf .align off) := by
  rw [ldwCheck, if_pos h, firstFault_some]

/-- An offset behind the window of the weight store (R236). -/
theorem ldwCheck_outside (h : off.toNat % 64 = 0) (hs : c.wsSize ≤ off.toNat) :
    ldwCheck c off ch = some (faultOf .srange off) := by
  rw [ldwCheck, if_neg (not_not.2 h), firstFault_none, if_pos hs, firstFault_some]

/-- An offset inside the window leaves the check of the channel. -/
theorem ldwCheck_inside (h : off.toNat % 64 = 0) (hs : off.toNat < c.wsSize) : ldwCheck c off ch = respCheck c ch := by
  rw [ldwCheck, if_neg (not_not.2 h), firstFault_none, if_neg hs.not_ge, firstFault_none]
  cases respCheck c ch <;> rfl

end

/-- An aligned `arm` whose selector names a template (R316). -/
theorem armCheck_eq_none {pair : W64} {x : W32} (h : pair.toNat % 128 = 0) (hx : x.toNat < 2 ^ 11)
    (hm : (x.extractLsb' 2 7).toNat ≤ 95) : firstFault [globalAlign pair 128, selectorCheck x] = none := by
  have hsel : selectorCheck x = none := if_neg (by omega)
  rw [globalAlign_eq_none h, hsel, firstFault_none, firstFault_none, firstFault_nil]

/-! ## A full port (R228, R367; log 16) -/

section
variable {s : State} (h : 16 ≤ s.curTile.port.length)
include h

theorem portFree_of_full : s.portFree = false := decide_eq_false h.not_gt

theorem canLoad_of_full (ch : BitVec 3) : s.canLoad ch = false := by rw [State.canLoad, portFree_of_full h, Bool.false_and]

theorem loadWait_of_full : s.loadWait = 5 := by rw [State.loadWait, portFree_of_full h]; rfl

end

/-! ## The stack ops -/

/-- The writes of a pop, whatever it reads: one for each register of its range, and that of SP (R95). -/
theorem popWrites_sameShape {n : Nat} (hn : n ≠ 0) (sp : Nat) {f w : Nat → Nat × PVal} (h : ∀ i, SameShape (f i) (w i)) :
    List.Forall₂ SameShape ((List.range n).map f ++ spWrite n sp) ((List.range n).map w ++ [(1, .sreg 0x007 0)]) := by
  rw [spWrite_of_ne hn]
  exact List.rel_append (SameShape.map h _) (SameShape.sreg ..).singleton

/-- The write of a push, whatever SP is. -/
theorem pushWrites_sameShape {n : Nat} (hn : n ≠ 0) (sp : Nat) :
    List.Forall₂ SameShape (spWrite n sp) [(1, .sreg 0x007 0)] := by
  rw [spWrite_of_ne hn]
  exact (SameShape.sreg ..).singleton

section
variable {s : State} {g : Pg} {f : FaultInfo}

/-- A `pushm` with a range faults as its check says. -/
theorem pushm_faults {a b : BitVec 5} {n : Nat} (hlen : rangeLen a.toNat b.toNat = n) (hn : n ≠ 0)
    (hc : pushCheck s.settle.curCtx s.settle.curBank (4 * n) false = some f) :
    Faults (.pushm g a b) s .s g (readsS ((List.range n).map (fun i => BitVec.ofNat 5 (a.toNat + i))))
      [(1, .sreg 0x007 0)] f := by
  subst hlen
  exact faults_of_plan rfl rfl rfl rfl hc (pushWrites_sameShape hn _)

/-- A `vpushm` with a range faults as its check says. -/
theorem vpushm_faults {a b : BitVec 4} {n : Nat} (hlen : rangeLen a.toNat b.toNat = n) (hn : n ≠ 0)
    (hc : pushCheck s.settle.curCtx s.settle.curBank (64 * n) true = some f) :
    Faults (.vpushm g a b) s .s g (readsV ((List.range n).map (fun i => BitVec.ofNat 4 (a.toNat + i))))
      [(1, .sreg 0x007 0)] f := by
  subst hlen
  exact faults_of_plan rfl rfl rfl rfl hc (pushWrites_sameShape hn _)

/-- A `popm` with a range faults as its check says. -/
theorem popm_faults {a b : BitVec 5} {n : Nat} (hlen : rangeLen a.toNat b.toNat = n) (hn : n ≠ 0)
    (hc : popCheck s.settle.curCtx s.settle.curBank (4 * n) false = some f) :
    Faults (.popm g a b) s .s g []
      ((List.range n).map (fun i => (1, .scalar (BitVec.ofNat 5 (a.toNat + i)) 0)) ++ [(1, .sreg 0x007 0)]) f := by
  subst hlen
  exact faults_of_plan rfl rfl rfl rfl hc (popWrites_sameShape hn _ fun _ => .scalar ..)

/-- A `vpopm` with a range faults as its check says. -/
theorem vpopm_faults {a b : BitVec 4} {n : Nat} (hlen : rangeLen a.toNat b.toNat = n) (hn : n ≠ 0)
    (hc : popCheck s.settle.curCtx s.settle.curBank (64 * n) true = some f) :
    Faults (.vpopm g a b) s .s g []
      ((List.range n).map (fun i => (1, .vec (BitVec.ofNat 4 (a.toNat + i)) 0)) ++ [(1, .sreg 0x007 0)]) f := by
  subst hlen
  exact faults_of_plan rfl rfl rfl rfl hc (popWrites_sameShape hn _ fun _ => .vec ..)

end

/-- Settles O34: each op faults with the failure that its checks find before any other (`scratchCheck`, `linesCheck`, `pushCheck`,
`popCheck`, `globalAlign`, `respCheck`), and an access that passes them waits at a full port. -/
theorem accessFaults : Obligations.AccessFaults := by
  refine ⟨?mSlot, ?stack, ?scratch, ?global⟩
  case mSlot =>
    intro s g a t k latch d h sc r x faults hx
    have hlines {lines n} : linesCheck s.settle.curCtx x.toNat lines n = some (faultOf .align x) := linesCheck_unaligned hx
    have hline {n} : scratchCheck s.settle.curCtx x.toNat n 64 = some (faultOf .align x) := scratchCheck_unaligned hx
    exact ⟨faults_of_plan rfl rfl rfl rfl hlines .nil, fun v => faults_of_plan rfl rfl rfl rfl hlines .nil,
      faults_of_plan rfl rfl rfl rfl hlines .nil, faults_of_plan rfl rfl rfl rfl hlines .nil,
      faults_of_plan rfl rfl rfl rfl hline .nil, faults_of_plan rfl rfl rfl rfl hline .nil,
      faults_of_plan rfl rfl rfl rfl hline .nil, faults_of_plan rfl rfl rfl rfl hline .nil,
      faults_of_plan rfl rfl rfl rfl hline (SameShape.batt ..).singleton⟩
  case stack =>
    intro s g a b u v k sp n m regs vregs pops vpops push pop vpush vpop
    have hwords (hn : n ≠ 0) : 4 * n ≠ 0 := by omega
    have hlines (hm : m ≠ 0) : 64 * m ≠ 0 := by omega
    exact ⟨fun hn h => pushm_faults rfl hn (pushCheck_spill (hwords hn) nofun h),
      fun hn h => popm_faults rfl hn (popCheck_spill (hwords hn) nofun h),
      fun hm ha => ⟨vpushm_faults rfl hm (pushCheck_unaligned (hlines hm) ha),
        vpopm_faults rfl hm (popCheck_unaligned (hlines hm) ha)⟩,
      fun hm ha h => vpushm_faults rfl hm (pushCheck_spill (hlines hm) (fun _ => ha) h),
      fun hm ha h => vpopm_faults rfl hm (popCheck_spill (hlines hm) (fun _ => ha) h)⟩
  case scratch =>
    intro s g d r b imm n s0 line word steps
    refine ⟨fun h => ⟨?_, ?_⟩, fun h => ⟨?_, ?_⟩, fun h hs => ⟨?_, ?_⟩, fun h hs => ⟨?_, ?_⟩⟩
    · exact faults_of_plan rfl rfl rfl rfl (scratchCheck_unaligned h) (SameShape.vec ..).singleton
    · exact faults_of_plan rfl rfl rfl rfl (scratchCheck_unaligned h) .nil
    · exact faults_of_plan rfl rfl rfl rfl (scratchCheck_unaligned h) (SameShape.scalar ..).singleton
    · exact faults_of_plan rfl rfl rfl rfl (scratchCheck_unaligned h) .nil
    · exact faults_of_plan rfl rfl rfl rfl (scratchCheck_outside h hs) (SameShape.vec ..).singleton
    · exact faults_of_plan rfl rfl rfl rfl (scratchCheck_outside h hs) .nil
    · exact faults_of_plan rfl rfl rfl rfl (scratchCheck_outside h hs) (SameShape.scalar ..).singleton
    · exact faults_of_plan rfl rfl rfl rfl (scratchCheck_outside h hs) .nil
  case global =>
    intro s g ch d q fn b r imm s0 k pair line word off x nch amoReads align noChannel shut opened full
    refine ⟨fun h => ⟨?_, ?_, ?_⟩, fun h => ?_, fun h hsize => ?_, fun h ret => ?_, fun h => ?_, fun h => ?_,
      fun hshut => ⟨fun h => ?_, fun h hsize => ?_, fun h => ?_⟩, fun hshut h hch => ?_, fun hfull => ?_⟩
    · exact faults_of_plan rfl rfl rfl rfl (firstFault_unaligned h) .nil
    · exact faults_of_plan rfl rfl rfl rfl (globalAlign_unaligned h) .nil
    · exact faults_of_plan rfl rfl rfl rfl (globalAlign_unaligned h) .nil
    · exact faults_of_plan rfl rfl rfl rfl (ldwCheck_unaligned h) .nil
    · exact faults_of_plan rfl rfl rfl rfl (ldwCheck_outside h hsize) .nil
    · cases ret with
      | none => exact faults_of_plan rfl rfl rfl rfl (globalAlign_unaligned h) .nil
      | some ch => exact faults_of_plan rfl rfl rfl rfl (firstFault_unaligned h) .nil
    · cases hch : x.getLsbD 31 with
      | false => exact faults_of_plan rfl (if_neg (ne_true_of_eq_false hch)) rfl rfl (globalAlign_unaligned h) .nil
      | true => exact faults_of_plan rfl (if_pos hch) rfl rfl (firstFault_unaligned h) .nil
    · exact faults_of_plan rfl rfl rfl rfl (firstFault_unaligned h) .nil
    · exact faults_of_plan rfl rfl rfl rfl (firstFault_shut h hshut) .nil
    · exact faults_of_plan rfl rfl rfl rfl ((ldwCheck_inside h hsize).trans (respCheck_shut hshut)) .nil
    · exact faults_of_plan rfl rfl rfl rfl (firstFault_shut h hshut) .nil
    · exact faults_of_plan rfl (if_pos hch) rfl rfl (firstFault_shut h hshut) .nil
    · have hport := portFree_of_full hfull
      have hload (ch : BitVec 3) := canLoad_of_full hfull ch
      have hcode := loadWait_of_full hfull
      refine ⟨fun h => ⟨fun hch => ?_, ?_, ?_⟩, fun hch h hsize => ?_, fun h => ⟨fun hch => ?_, ?_⟩, fun h hch => ?_,
        fun h hx hm => ?_⟩
      · exact waits_of_plan rfl rfl rfl rfl (firstFault_opened h hch) (hload ch) rfl .nil hcode
      · exact waits_of_plan rfl rfl rfl rfl (globalAlign_eq_none h) hport rfl .nil rfl
      · exact waits_of_plan rfl rfl rfl rfl (globalAlign_eq_none h) hport rfl .nil rfl
      · exact waits_of_plan rfl rfl rfl rfl ((ldwCheck_inside h hsize).trans (respCheck_opened hch)) (hload ch) rfl
          .nil hcode
      · exact waits_of_plan rfl rfl rfl rfl (firstFault_opened h hch) (hload ch) rfl .nil hcode
      · exact waits_of_plan rfl rfl rfl rfl (globalAlign_eq_none h) hport rfl .nil rfl
      · cases hbit : x.getLsbD 31 with
        | false =>
          exact waits_of_plan rfl (if_neg (ne_true_of_eq_false hbit)) rfl rfl (globalAlign_eq_none h) hport rfl .nil rfl
        | true => exact waits_of_plan rfl (if_pos hbit) rfl rfl (firstFault_opened h (hch hbit)) (hload _) rfl .nil hcode
      · exact waits_of_plan rfl rfl rfl rfl (armCheck_eq_none h hx hm) hport rfl .nil rfl

end Sys2Proof.Machine
end

section
/-!
SUPPORT. The results of the V slot lane by lane: arithmetic (R131-R133, R147), and the moving of elements, reductions, scans and
functions (R140-R145).
-/
namespace Sys2Proof.Machine

section
variable {i : Instr} {s : State} {g : Pg} {d : BitVec 4} {lat : Nat} {rs : List (BitVec 4)} {f : Bank → Vec} {v : Vec}

/-- An op on vector registers, by the value that it gives for the bank. -/
theorem issues_planVec (hi : planOf i = some (planVec lat rs d f g)) (hv : f s.settle.curBank = v) :
    Issues i s .v g (readsV rs) { writes := [(lat, .vec d v)] } :=
  issues_of_writes hi (by rw [hv])

end

/-- Settles O20: the lane functions of the plans (`laneArith`, `laneFma`, `laneMin`, `laneMax`, `laneSign`, `laneDot`) are the
lanes of the statement, for every type and mode. -/
theorem vectorArithmetic : Obligations.VectorArithmetic := by
  intro s g d a b t m sat k x y z md floats ints lanes does
  exact ⟨issues_planVec rfl rfl, issues_planVec rfl rfl, issues_planVec rfl rfl, issues_planVec rfl rfl,
    issues_planVec rfl rfl, issues_planVec rfl rfl, issues_planVec rfl rfl, issues_planVec rfl rfl,
    issues_planVec rfl rfl⟩

/-- Settles O22: an op on vector registers alone is a `planVec`, one that reads scalar registers too only writes as
well; the values are those of `extValue`, `insElem`, `lanePerm`, `redTree`, `scanTree` and `vfnLane`. -/
theorem vectorElements : Obligations.VectorElements := by
  intro s g d a b t e f fn rnd k x j ops elems does
  exact ⟨issues_of_writes rfl rfl, issues_of_writes rfl rfl, issues_of_writes rfl rfl, issues_planVec rfl rfl,
    issues_planVec rfl rfl, issues_planVec rfl rfl, issues_planVec rfl rfl⟩

end Sys2Proof.Machine
end

section
/-!
SUPPORT. What a consumer op checks of its channel and of the slot that it reads (R118, R154, R170, R375), and where it issues
(R157, R158).
-/
namespace Sys2Proof.Machine

/-- A check by itself. -/
theorem firstFault_singleton (o : Option FaultInfo) : firstFault [o] = o := by cases o <;> rfl

/-! ## The check of the channel (R170) -/

section
variable {c : LeafCtx} {ch : BitVec 3} {beyond : Bool} {p : Prop} [Decidable p]

theorem consumerCheck_unbound (h : (c.inCh ch).bound = false) :
    consumerCheck c ch beyond = some (faultOf .chproto (chWord ch.toNat 0x01)) := by simp [consumerCheck, h]

theorem consumerCheck_bound (h : (c.inCh ch).bound = true) : consumerCheck c ch false = none := by simp [consumerCheck, h]

/-- A count or an index beyond the depth. -/
theorem consumerCheck_beyond (h : (c.inCh ch).bound = true) (hp : p) :
    consumerCheck c ch (decide p) = some (faultOf .chproto (chWord ch.toNat 0x02)) := by simp [consumerCheck, h, hp]

/-- A count or an index within the depth. -/
theorem consumerCheck_within (h : (c.inCh ch).bound = true) (hp : ¬ p) : consumerCheck c ch (decide p) = none := by
  rw [decide_eq_false hp, consumerCheck_bound h]

end

/-! ## The checks of a filled slot (R118, R170, R375; log 52) -/

section
variable {c : LeafCtx} {ch : BitVec 3} {i : InCh} {j : Nat} (hi : c.inCh ch = i)
include hi

theorem slotCheck_badParity {hdr : Bool} (hp : (i.info (i.slot j)).parity = true) :
    slotCheck c ch j hdr = some (faultOf .ecc (chWord ch.toNat (i.slot j))) := by
  subst hi
  exact if_pos hp

/-- `hdr` looks at the parity alone. -/
theorem slotCheck_hdr (hp : (i.info (i.slot j)).parity = false) : slotCheck c ch j true = none := by
  subst hi
  exact if_neg (ne_true_of_eq_false hp)

/-- A config token, or one of the reserved KIND (R149, R170). -/
theorem slotCheck_control (hp : (i.info (i.slot j)).parity = false)
    (hk : (i.info (i.slot j)).side.kind = 4 ∨ (i.info (i.slot j)).side.kind = 7) :
    slotCheck c ch j false = some (faultOf .chproto (chWord ch.toNat 0x03)) := by
  subst hi
  exact (if_neg (ne_true_of_eq_false hp)).trans (if_pos hk)

section
variable (hp : (i.info (i.slot j)).parity = false) (h4 : (i.info (i.slot j)).side.kind ≠ 4)
  (h7 : (i.info (i.slot j)).side.kind ≠ 7)
include hp h4 h7

/-- A token that its input port has marked (R118). -/
theorem slotCheck_marked {low : BitVec 8} (hm : (i.info (i.slot j)).mark = some low) :
    slotCheck c ch j false = some (faultOf .conv (chWord ch.toNat low.toNat)) := by
  subst hi
  simp only [slotCheck, hp, h4, h7, hm, Bool.false_eq_true, or_self, if_false]

/-- The head of a bit-plane burst whose AUX is out of range (R118). -/
theorem slotCheck_badPlanes (hm : (i.info (i.slot j)).mark = none) (hb : (i.info (i.slot j)).side.badPlanes = true) :
    slotCheck c ch j false =
      some (faultOf .conv (chWord ch.toNat ((i.info (i.slot j)).side.fmt ++ i.fmt).toNat)) := by
  subst hi
  simp only [slotCheck, hp, h4, h7, hm, hb, Bool.false_eq_true, or_self, if_false, if_true]

theorem slotCheck_sound (hm : (i.info (i.slot j)).mark = none) (hb : (i.info (i.slot j)).side.badPlanes = false) :
    slotCheck c ch j false = none := by
  subst hi
  simp only [slotCheck, hp, h4, h7, hm, hb, Bool.false_eq_true, or_self, if_false]

end

end

section
variable {s : State} {ch : BitVec 3} {i : InCh} {j : Nat} (hi : s.curCtx.inCh ch = i)
include hi

/-- A payload in a damaged scratch line. -/
theorem slotFault_damaged (h : s.ecc.contains (.scratch s.cur.tile (i.slotAddr (i.slot j))) = true) :
    s.slotFault ch j = some (faultOf .ecc (chWord ch.toNat (i.slot j))) := by
  subst hi
  have hline : s.slotLine s.cur.tile s.curLeaf ch j = some _ := if_pos h
  rw [State.slotFault, hline, firstFault_some]
  rfl

/-- A payload in a sound line leaves the checks of the slot. -/
theorem slotFault_whole (h : s.ecc.contains (.scratch s.cur.tile (i.slotAddr (i.slot j))) = false) :
    s.slotFault ch j = slotCheck s.curCtx ch j false := by
  subst hi
  have hline : s.slotLine s.cur.tile s.curLeaf ch j = none := if_neg (ne_true_of_eq_false h)
  rw [State.slotFault, hline, firstFault_none, firstFault_singleton]

end

/-! ## The advance of a channel (R154) -/

/-- The producer slots that go back, and what is counted towards the next one, make up the count and the slots consumed. -/
theorem InCh.advance_passed (c : InCh) (n : Nat) :
    (c.advance n).1.passed + c.ratio * (c.advance n).2 = c.passed + n := Nat.mod_add_div _ _

/-- Settles O26: a bound channel passes `consumerCheck`, a sound slot `slotCheck`, and a whole line leaves no other fault; the
advance is a division of the consumed slots by the ratio. -/
theorem consumerIssues : Obligations.ConsumerIssues := by
  refine ⟨?issues, ?advance⟩
  case issues =>
    intro s g ch d e r k n p s0 i info payload sound whole round moves hb
    have hslot {j : Nat} (hs : sound j) (hw : whole j) : s0.slotFault ch j = none := by
      obtain ⟨hparity, h4, h7, hmark, hplanes⟩ := hs
      exact (slotFault_whole rfl hw).trans (slotCheck_sound rfl hparity h4 h7 hmark hplanes)
    have hbound : consumerCheck s0.curCtx ch false = none := consumerCheck_bound hb
    refine ⟨fun hf hs hw => ?head, fun hk hf hs hw => ?peeks, fun hf hparity => ?header, fun hd hf => ?counts⟩
    case head =>
      have hready := decide_eq_true hf
      exact ⟨issues_of_plan rfl rfl rfl rfl hbound hready (hslot hs hw) rfl rfl rfl,
        issues_of_plan rfl rfl rfl rfl hbound hready (hslot hs hw) rfl rfl rfl,
        issues_of_plan rfl rfl rfl rfl hbound hready (hslot hs hw) rfl rfl rfl⟩
    case peeks =>
      have hwithin := consumerCheck_within hb hk.not_ge
      have hready := decide_eq_true hf
      exact ⟨issues_of_plan rfl rfl rfl rfl hwithin hready (hslot hs hw) rfl rfl rfl,
        issues_of_plan rfl rfl rfl rfl hwithin hready (hslot hs hw) rfl rfl rfl⟩
    case header =>
      exact issues_of_plan rfl rfl rfl rfl hbound (decide_eq_true hf) (slotCheck_hdr rfl hparity) rfl rfl rfl
    case counts =>
      have hwithin := consumerCheck_within hb hd.not_gt
      have hready := decide_eq_true hf
      exact ⟨issues_of_plan rfl rfl rfl rfl hwithin hready rfl rfl rfl rfl,
        issues_of_plan rfl rfl rfl rfl hwithin hready rfl rfl rfl rfl⟩
  case advance =>
    intro c n hn hratio
    exact ⟨Nat.sub_add_cancel hn, rfl, rfl, rfl, rfl, c.advance_passed n, Nat.mod_lt _ hratio⟩

end Sys2Proof.Machine
end

section
/-!
SUPPORT. Where channel, umbra, command and conversion ops fault (R118, R137, R170, R185, R293-R295, R316-R319, R347).
-/
namespace Sys2Proof.Machine

/-! ## A fault of one op, whatever it does when its predicate turns it off -/

/-- An op that passes its checks, waits for nothing and fails a check of the issue cycle faults in its slot (R61). -/
theorem issue_late {s : State} {k : Slot} {p : Plan} {f : FaultInfo} (hb : p.brange = none) (hc : p.check = none)
    (hr : p.ready = true) (hl : p.late = some f) (hk : s.curBank.checked = false) (h : s.clear k p.reads p.writes = true) :
    s.issue [(k, p)] = s.faultHere k f := by
  obtain ⟨hclash, herr⟩ := clear_iff.1 h
  obtain ⟨hecc, hparity⟩ := herr.resolve_left (ne_true_of_eq_false hk)
  have hphase : s.phase1 [(k, p)] = none := by rw [phase1_one hecc hparity, hc]; rfl
  rw [← wclash_writes] at hclash
  simp [State.issue, hb, hclash, hk, hphase, hr, hl]

section
variable {i : Instr} {s : State} {k : Slot} {g : Pg} {on off : State → Plan} {rs : List RegRef} {ws : List (Nat × PVal)}
  {f : FaultInfo} (hi : planOf i = some (guarded k g on off)) (hrs : (on s.settle).reads = rs)
  (hb : (on s.settle).brange = none) (hw : List.Forall₂ SameShape (on s.settle).writes ws)
include hi hrs hb hw

/-- A check of phase 1 that fails: `faults_of_plan` for an op that may publish when its predicate turns it off (R46). -/
theorem faults_of_check (hc : (on s.settle).check = some f) : Faults i s k g rs ws f := by
  intro he hk hclear
  rw [exec_planOf hi]
  exact issueOne_fault he hk hclear hrs hb hc hw

/-- A check of the issue cycle that fails. -/
theorem faults_of_late (hc : (on s.settle).check = none) (hr : (on s.settle).ready = true)
    (hl : (on s.settle).late = some f) : Faults i s k g rs ws f := by
  subst hrs
  intro he hk hclear
  obtain ⟨hclash, herr⟩ := clear_iff.1 hclear
  have hon : guarded k g on off s.settle = (k, { on s.settle with reads := ⟨2, g.pr.toNat⟩ :: (on s.settle).reads }) := by
    simp only [guarded, he, if_true]
  rw [exec_planOf hi, issueOne, hon]
  exact congrArg _ (issue_late hb hc hr hl hk (clear_iff.2 ⟨(wclash_shape _ _ hw).trans hclash, herr⟩))

end

/-! ## Writes of one shape -/

theorem SameShape.refl (w : Nat × PVal) : SameShape w w := ⟨rfl, rfl, rfl⟩

theorem SameShape.grant (n : Nat) {i j : Fin 4} (h : i = j) :
    SameShape (n, .grant (BitVec.ofFin i)) (n, .grant (BitVec.ofFin j)) := h ▸ .refl _

/-- The writes of a `pop` or `peek` differ in their values only, whatever token is read (R157). -/
theorem sameShape_popWrites (d : BitVec 4) (cap : Option (BitVec 3)) (v w : Vec) (x y : Sideband) :
    List.Forall₂ SameShape (popWrites d cap v x) (popWrites d cap w y) := by
  cases cap with
  | none => exact (SameShape.vec ..).singleton
  | some p => exact .cons (.vec ..) (SameShape.singleton ⟨rfl, rfl, rfl⟩)

theorem sameShape_roundWrite (x y : Sideband) : SameShape (roundWrite x) (roundWrite y) := .sreg ..

/-! ## Consumer ops (R157, R170) -/

section
variable {s : State} {g : Pg} {ch : BitVec 3} {d e : BitVec 4} {r : BitVec 5} {k : BitVec 6} {cap : Option (BitVec 3)}
  {f : FaultInfo}

/-- The writes of a `pop`, by shape. -/
theorem sameShape_pop (v : Vec) (x : Sideband) :
    List.Forall₂ SameShape (popWrites d cap v x ++ [roundWrite x]) (popWrites d cap 0 {} ++ [roundWrite {}]) :=
  List.rel_append (sameShape_popWrites ..) (sameShape_roundWrite ..).singleton

/-- The writes of a `pops`, by shape. -/
theorem sameShape_pops (v : W32) (x : Sideband) :
    List.Forall₂ SameShape [(1, .scalar r v), roundWrite x] [(1, .scalar r 0), roundWrite {}] :=
  .cons (.scalar ..) (sameShape_roundWrite ..).singleton

section
variable (hc : consumerCheck s.settle.curCtx ch false = some f)
include hc

theorem pop_faults_of_check : Faults (.pop g ch d cap) s .c g [] (popWrites d cap 0 {} ++ [roundWrite {}]) f :=
  faults_of_check rfl rfl rfl (sameShape_pop _ _) hc

theorem pops_faults_of_check : Faults (.pops g ch r e) s .c g [] [(1, .scalar r 0), roundWrite {}] f :=
  faults_of_check rfl rfl rfl (sameShape_pops _ _) hc

end

theorem peek_faults_of_check
    (hc : consumerCheck s.settle.curCtx ch (decide ((s.settle.curCtx.inCh ch).depth ≤ k.toNat)) = some f) :
    Faults (.peek g ch d k cap) s .c g [] (popWrites d cap 0 {}) f :=
  faults_of_check rfl rfl rfl (sameShape_popWrites ..) hc

section
variable (hb : (s.settle.curCtx.inCh ch).bound = true)
include hb

section
variable (hf : 0 < (s.settle.curCtx.inCh ch).f) (hl : s.settle.slotFault ch 0 = some f)
include hf hl

theorem pop_faults_of_slot : Faults (.pop g ch d cap) s .c g [] (popWrites d cap 0 {} ++ [roundWrite {}]) f :=
  faults_of_late rfl rfl rfl (sameShape_pop _ _) (consumerCheck_bound hb) (decide_eq_true hf) hl

theorem pops_faults_of_slot : Faults (.pops g ch r e) s .c g [] [(1, .scalar r 0), roundWrite {}] f :=
  faults_of_late rfl rfl rfl (sameShape_pops _ _) (consumerCheck_bound hb) (decide_eq_true hf) hl

end

theorem peek_faults_of_slot (hk : k.toNat < (s.settle.curCtx.inCh ch).depth) (hf : k.toNat < (s.settle.curCtx.inCh ch).f)
    (hl : s.settle.slotFault ch k.toNat = some f) : Faults (.peek g ch d k cap) s .c g [] (popWrites d cap 0 {}) f :=
  faults_of_late rfl rfl rfl (sameShape_popWrites ..) (consumerCheck_within hb hk.not_ge) (decide_eq_true hf) hl

theorem hdr_faults_of_slot (hf : 0 < (s.settle.curCtx.inCh ch).f) (hl : slotCheck s.settle.curCtx ch 0 true = some f) :
    Faults (.hdr g ch r) s .c g [] [(1, .scalar r 0)] f :=
  faults_of_late rfl rfl rfl (SameShape.scalar ..).singleton (consumerCheck_bound hb) (decide_eq_true hf) hl

end

end

/-! ## Umbra ops (R293-R296) -/

section
variable {s : State} {key : W32}

/-- A key without a host (R293). -/
theorem umbraCheck_unhosted (h : (s.umhostOf s.cur.tile s.curLeaf key).isSome = false) :
    umbraCheck s key = some (faultOf .chproto 0x0A) := by
  rw [umbraCheck, Option.isNone_iff_eq_none.1 (Option.isSome_eq_false_iff.1 h)]

/-- A key with a host (R293). -/
theorem umbraCheck_hosted (h : (s.umhostOf s.cur.tile s.curLeaf key).isSome = true) : umbraCheck s key = none := by
  obtain ⟨e, he⟩ := Option.isSome_iff_exists.1 h
  rw [umbraCheck, he]

end

/-- The checks of `umen`, in the order in which `planUmen` makes them (R293, R294). -/
def umenCheck (s : State) (key seq : W32) : Option FaultInfo :=
  firstFault [umbraCheck s key, if (s.curBank.heldSlot key).isSome then some (umbraFault .umbdead key seq) else none,
    if s.curBank.freeSlot.isNone then some (umbraFault .umbnest key seq) else none]

section
variable {s : State} {key seq : W32}

theorem umenCheck_unhosted (h : (s.umhostOf s.cur.tile s.curLeaf key).isSome = false) :
    umenCheck s key seq = some (faultOf .chproto 0x0A) := by
  rw [umenCheck, umbraCheck_unhosted h, firstFault_some]

/-- A key that the bank holds already (R294). -/
theorem umenCheck_held {i : Fin 4} (h : (s.umhostOf s.cur.tile s.curLeaf key).isSome = true)
    (hheld : s.curBank.heldSlot key = some i) :
    umenCheck s key seq = some (umbraFault .umbdead key seq) := by
  rw [umenCheck, umbraCheck_hosted h, hheld, firstFault_none]
  rfl

/-- A section beyond the four that a bank can hold (R294). -/
theorem umenCheck_full (h : (s.umhostOf s.cur.tile s.curLeaf key).isSome = true) (hheld : s.curBank.heldSlot key = none)
    (hfree : s.curBank.freeSlot = none) :
    umenCheck s key seq = some (umbraFault .umbnest key seq) := by
  rw [umenCheck, umbraCheck_hosted h, hheld, hfree, firstFault_none]
  rfl

end

section
variable {s : State} {a : BitVec 5} {body : W32 → ReqBody}

/-- Whether the key is held or not, such an op reads the key and writes no register. -/
theorem leavePlan_registers :
    (leavePlan a body s).reads = readsS [a] ∧ (leavePlan a body s).writes = [] ∧ (leavePlan a body s).brange = none := by
  cases h : s.curBank.heldSlot (s.curBank.rs a) <;> simp only [leavePlan, h, and_self]

/-- Leaving a key without a host (R293). -/
theorem leavePlan_unhosted (h : (s.umhostOf s.cur.tile s.curLeaf (s.curBank.rs a)).isSome = false) :
    (leavePlan a body s).check = some (faultOf .chproto 0x0A) := by
  cases hheld : s.curBank.heldSlot (s.curBank.rs a) <;>
    simp only [leavePlan, hheld, umbraCheck_unhosted h, firstFault_some]

/-- Leaving a key that the bank does not hold (R295). -/
theorem leavePlan_notHeld (h : (s.umhostOf s.cur.tile s.curLeaf (s.curBank.rs a)).isSome = true)
    (hheld : s.curBank.heldSlot (s.curBank.rs a) = none) :
    (leavePlan a body s).check = some (umbraFault .seq (s.curBank.rs a) 0) := by
  simp only [leavePlan, hheld, umbraCheck_hosted h, firstFault_none, firstFault_some]

/-- An op that leaves a section faults as its check says. -/
theorem leave_faults {i : Instr} {g : Pg} {f : FaultInfo} (hi : planOf i = some (guarded .c g (leavePlan a body) nothing))
    (hc : (leavePlan a body s.settle).check = some f) : Faults i s .c g (readsS [a]) [] f := by
  obtain ⟨hreads, hwrites, hbrange⟩ := leavePlan_registers (s := s.settle) (a := a) (body := body)
  exact faults_of_check hi hreads hbrange (by rw [hwrites]; exact .nil) hc

end

/-! ## Commands and conversion (R137, R316-R319) -/

/-- A template selector with a bit above it, or with M above 95 (R316, R317). -/
theorem selectorCheck_bad {x : W32} (h : 2 ^ 11 ≤ x.toNat ∨ 95 < (x.extractLsb' 2 7).toNat) :
    selectorCheck x = some (faultOf .chproto 0x0C) := if_pos h

/-- An aligned `arm` with a bad selector (R316). -/
theorem armCheck_badSelector {pair : W64} {x : W32} (ha : pair.toNat % 128 = 0)
    (h : 2 ^ 11 ≤ x.toNat ∨ 95 < (x.extractLsb' 2 7).toNat) :
    firstFault [globalAlign pair 128, selectorCheck x] = some (faultOf .chproto 0x0C) := by
  rw [globalAlign_eq_none ha, firstFault_none, selectorCheck_bad h, firstFault_some]

/-- A `cfgt` on an open channel with an index outside 2 to 19 (R319). -/
theorem cfgtCheck_badIndex {s : State} {ch : BitVec 3} {x : W32} (hb : (s.curCtx.outCh ch).bound = true)
    (hc : (s.curCtx.outCh ch).closed = false) (h : x.toNat < 2 ∨ 19 < x.toNat) :
    cfgtCheck s ch x = some (faultOf .chproto (chWord (8 + ch.toNat) 0x0B)) := by
  rw [cfgtCheck, producerCheck_open hb hc, firstFault_none, if_neg (by omega), firstFault_some]

/-- A conversion between RAW or CTL and another code (R137). -/
theorem cvtFault_raw {t u : BitVec 4} (hne : t ≠ u) (h : t = 0x0 ∨ t = 0xF ∨ u = 0x0 ∨ u = 0xF) :
    cvtFault t u = some (faultOf .conv (0#24 ++ t ++ u)) :=
  if_pos (by simpa [hne, or_assoc] using h)

/-! ## The obligation -/

/-- Settles O35: each op faults with the failure that its checks find before any other (`consumerCheck`, `slotFault`,
`slotCheck`, `producerCheck`, `umbraCheck` and those of the commands). -/
theorem opFaults : Obligations.OpFaults := by
  refine ⟨?channels, ?umbra, ?commands, ?conversion⟩
  case channels =>
    intro s g ch p a e r k n low s0 c i o x bad round heads peeks takes damaged
    have heads_of_check {f} (hc : consumerCheck c ch false = some f) : heads f :=
      ⟨pop_faults_of_check hc, pop_faults_of_check hc, pops_faults_of_check hc⟩
    have peeks_of_check {f} (hc : consumerCheck c ch (decide (i.depth ≤ k.toNat)) = some f) : peeks f :=
      ⟨peek_faults_of_check hc, peek_faults_of_check hc⟩
    have takes_of_slot {j f} (hb : i.bound = true) (hj : j < i.f) (hl : s0.slotFault ch j = some f) : takes j f := by
      refine ⟨fun h => ?_, fun h hk => ?_⟩ <;> subst h
      · exact ⟨pop_faults_of_slot hb hj hl, pop_faults_of_slot hb hj hl, pops_faults_of_slot hb hj hl⟩
      · exact ⟨peek_faults_of_slot hb hk hj hl, peek_faults_of_slot hb hk hj hl⟩
    refine ⟨fun hb => ?unbound, fun hb hn => ?count, fun hb hk => ?index, fun j hb hj hd => ?line, fun j hb hj hd => ?slot,
      fun hb => ?outUnbound, fun hb => ⟨fun hn => ?outCount, fun hk => ?outIndex⟩, fun hb hclosed h1 => ?outClosed⟩
    case unbound =>
      have hc {beyond} : consumerCheck c ch beyond = some (bad ch.toNat 1) := consumerCheck_unbound hb
      exact ⟨faults_of_check rfl rfl rfl .nil hc, faults_of_check rfl rfl rfl .nil hc,
        faults_of_check rfl rfl rfl (SameShape.scalar ..).singleton hc, peeks_of_check hc, heads_of_check hc⟩
    case count =>
      have hc := consumerCheck_beyond hb hn
      exact ⟨faults_of_check rfl rfl rfl .nil hc, faults_of_check rfl rfl rfl .nil hc⟩
    case index => exact peeks_of_check (consumerCheck_beyond hb hk)
    case line => exact takes_of_slot hb hj (slotFault_damaged rfl hd)
    case slot =>
      have takes_of_check {f} (hl : slotCheck c ch j false = some f) : takes j f :=
        takes_of_slot hb hj ((slotFault_whole rfl hd).trans hl)
      refine ⟨fun hp => ⟨takes_of_check (slotCheck_badParity rfl hp), fun h => ?_⟩,
        fun hp hk => takes_of_check (slotCheck_control rfl hp hk),
        fun hp h4 h7 hm => takes_of_check (slotCheck_marked rfl hp h4 h7 hm),
        fun hp h4 h7 hm hplanes => takes_of_check (slotCheck_badPlanes rfl hp h4 h7 hm hplanes)⟩
      subst h
      exact hdr_faults_of_slot hb hj (slotCheck_badParity rfl hp)
    case outUnbound =>
      have hc {beyond} : producerCheck c ch beyond = some (bad (8 + ch.toNat) 1) := producerCheck_unbound hb
      exact ⟨faults_of_check rfl rfl rfl .nil hc, faults_of_check rfl rfl rfl .nil hc, faults_of_check rfl rfl rfl .nil hc,
        faults_of_check rfl rfl rfl .nil hc, faults_of_check rfl rfl rfl .nil hc, faults_of_check rfl rfl rfl .nil hc,
        faults_of_check rfl rfl rfl .nil hc, faults_of_check rfl rfl rfl .nil hc⟩
    case outCount =>
      have hc := (congrArg (producerCheck c ch) (decide_eq_true hn)).trans (producerCheck_beyond hb)
      exact ⟨faults_of_check rfl rfl rfl .nil hc, faults_of_check rfl rfl rfl .nil hc⟩
    case outIndex =>
      have hn : o.depth < k.toNat + 1 := Nat.lt_succ_of_le hk
      exact faults_of_check rfl rfl rfl .nil
        ((congrArg (producerCheck c ch) (decide_eq_true hn)).trans (producerCheck_beyond hb))
    case outClosed =>
      have hc {m : Nat} (hm : m ≤ o.depth) : producerCheck c ch (decide (o.depth < m)) = some (bad (8 + ch.toNat) 4) :=
        (congrArg (producerCheck c ch) (decide_eq_false hm.not_gt)).trans (producerCheck_closed hb hclosed)
      exact ⟨faults_of_check rfl rfl rfl .nil (hc h1), faults_of_check rfl rfl rfl .nil (hc h1),
        faults_of_check rfl rfl rfl .nil (hc h1), fun hk => faults_of_check rfl rfl rfl .nil (hc hk),
        fun hn => ⟨faults_of_check rfl rfl rfl .nil (hc hn), faults_of_check rfl rfl rfl .nil (hc hn)⟩,
        faults_of_check rfl rfl rfl .nil (hc h1), faults_of_check rfl rfl rfl .nil (hc h1)⟩
  case umbra =>
    intro s g a b j i s0 k key seq keyed hosted
    refine ⟨fun h => ⟨?_, ?_, ?_, ?_, ?_⟩, fun h hheld hfree => ?_, fun h hheld hfree => ?_, fun h hheld => ⟨?_, ?_⟩⟩
    · exact faults_of_check rfl rfl rfl (SameShape.refl _).singleton (umenCheck_unhosted (seq := seq) h)
    · exact leave_faults rfl (leavePlan_unhosted h)
    · exact leave_faults rfl (leavePlan_unhosted h)
    · exact faults_of_check rfl rfl rfl .nil (umbraCheck_unhosted h)
    · exact faults_of_check rfl rfl rfl .nil (umbraCheck_unhosted h)
    · exact faults_of_check rfl rfl rfl (SameShape.grant 1 (congrArg (Option.getD · 0) hfree)).singleton
        (umenCheck_held (seq := seq) h hheld)
    · exact faults_of_check rfl rfl rfl (SameShape.grant 1 (congrArg (Option.getD · 0) hfree)).singleton
        (umenCheck_full (seq := seq) h hheld hfree)
    · exact leave_faults rfl (leavePlan_notHeld h hheld)
    · exact leave_faults rfl (leavePlan_notHeld h hheld)
  case commands =>
    intro s g ch d a b q v cls tag s0 k x y o badSel
    refine ⟨fun ha h => ?_, fun h => ?_, fun hb hc h => ?_, fun h => ?_, fun h => ?_⟩
    · exact faults_of_check rfl rfl rfl .nil (armCheck_badSelector ha h)
    · exact faults_of_check rfl rfl rfl .nil (selectorCheck_bad h)
    · exact faults_of_check rfl rfl rfl .nil (cfgtCheck_badIndex hb hc h)
    · exact faults_of_check rfl rfl rfl .nil (if_neg (ne_true_of_eq_false h))
    · exact faults_of_check rfl rfl rfl .nil (congrArg (fun f => firstFault [f, none]) (if_pos h))
  case conversion =>
    intro s g d a t u m ovf hne h
    exact faults_of_check rfl rfl rfl (SameShape.vec ..).singleton (cvtFault_raw hne h)

end Sys2Proof.Machine
end

section
/-!
SUPPORT. Logic, shifts, conversion, compares and select of the V slot (R134-R139), and the elements of a packed vector (R105).
-/
namespace Sys2Proof.Machine

/-! ## The elements of a packed vector (R105) -/

/-- Below element `n`, the packed number has fields 0 to n-1 and nothing above. -/
theorem packNat_lt (w : Nat) (f : Nat → Nat) (n : Nat) : packNat w f n < 2 ^ (w * n) := by
  induction n with
  | zero => simp [packNat]
  | succ k ih =>
    have hf : f k % 2 ^ w < 2 ^ w := Nat.mod_lt _ (Nat.two_pow_pos w)
    have hs : (f k % 2 ^ w) <<< (w * k) ≤ (2 ^ w - 1) * 2 ^ (w * k) := by
      rw [Nat.shiftLeft_eq]; exact Nat.mul_le_mul_right _ (by omega)
    have hp : 2 ^ (w * (k + 1)) = (2 ^ w - 1) * 2 ^ (w * k) + 2 ^ (w * k) := by
      rw [Nat.mul_succ, Nat.pow_add, ← Nat.succ_mul, Nat.succ_eq_add_one,
        Nat.sub_add_cancel (Nat.two_pow_pos w), Nat.mul_comm]
    rw [packNat]; omega

/-- Field `i` of a packed number. -/
theorem packNat_field (w : Nat) (f : Nat → Nat) {i n : Nat} (h : i < n) :
    packNat w f n / 2 ^ (w * i) % 2 ^ w = f i % 2 ^ w := by
  induction n with
  | zero => omega
  | succ k ih =>
    rw [packNat, Nat.shiftLeft_eq]
    rcases Nat.lt_succ_iff_lt_or_eq.mp h with hlt | rfl
    · have hk : 2 ^ (w * k) = 2 ^ (w * i) * (2 ^ w * 2 ^ (w * (k - i - 1))) := by
        rw [← Nat.pow_add, ← Nat.pow_add, Nat.add_comm w, ← Nat.mul_succ, ← Nat.mul_add]
        congr 2; omega
      rw [hk, Nat.mul_left_comm, Nat.add_mul_div_left _ _ (Nat.two_pow_pos _), Nat.mul_left_comm,
        Nat.add_mul_mod_self_left, ih hlt]
    · rw [Nat.add_mul_div_right _ _ (Nat.two_pow_pos _), Nat.div_eq_of_lt (packNat_lt w f i), Nat.zero_add,
        Nat.mod_mod]

/-- A packed number fits in a vector that has room for its fields. -/
theorem toNat_ofNat_packNat {w n size : Nat} (f : Nat → Nat) (h : w * n ≤ size) :
    (BitVec.ofNat size (packNat w f n)).toNat = packNat w f n := by
  rw [BitVec.toNat_ofNat, Nat.mod_eq_of_lt ((packNat_lt w f n).trans_le (Nat.pow_le_pow_right Nat.two_pos h))]

/-- Element `i` of a packed vector. -/
theorem getF_packVec {w n i : Nat} (f : Nat → Nat) (h : i < n) (hn : w * n ≤ 512) :
    getF (packVec w n f) w i = BitVec.ofNat w (f i) := by
  apply BitVec.eq_of_toNat_eq
  rw [getF, BitVec.extractLsb'_toNat, packVec, toNat_ofNat_packNat f hn, BitVec.toNat_ofNat, Nat.shiftRight_eq_div_pow,
    packNat_field w f h]

/-! ## I32 lanes (R106, R131) -/

/-- The low bits of an exact integer, as a word. -/
theorem ofNat_wrapW (z : Int) (w : Nat) : BitVec.ofNat w (wrapW z w) = BitVec.ofInt w z := by
  apply BitVec.eq_of_toNat_eq
  rw [BitVec.toNat_ofNat, BitVec.toNat_ofInt, wrapW]
  exact Nat.mod_eq_of_lt (by have := Int.emod_lt_of_pos z (b := (2 ^ w : Nat)) (by positivity); omega)

/-- The value of an I32 pattern is the signed value of its word. -/
theorem intVal_I32 (x : W32) : intVal 0x5 x.toNat = x.toInt := by
  have hlt := x.isLt
  rw [BitVec.toInt_eq_toNat_cond]
  simp only [intVal, signedT, show widthT 0x5 = 32 from rfl, beq_self_eq_true, Bool.or_true, Bool.true_or, Bool.true_and,
    decide_eq_true_eq]
  split <;> split <;> omega

/-- An I32 element is the signed value of its word. -/
theorem elemI_I32 (v : Vec) (i : Nat) : elemI v i 0x5 = (getF v 32 i).toInt := by
  rw [← intVal_I32, getF, BitVec.extractLsb'_toNat]
  rfl

/-- A wrapping op on I32 lanes: lane `i` is the exact result on the signed lanes modulo 2^32 (R106, R131). -/
theorem getF_laneArith_I32 (ff : Mode → FV → FV → FV) (fi : Int → Int → Int) (k : Bank) (a b : BitVec 4) {i : Nat}
    (h : i < 16) :
    getF (laneArith 0x5 0 ff fi k a b) 32 i =
      BitVec.ofInt 32 (fi (getF (k.rv a) 32 i).toInt (getF (k.rv b) 32 i).toInt) := by
  rw [← elemI_I32, ← elemI_I32, ← ofNat_wrapW]
  exact getF_packVec (w := 32) (n := 16) _ h (by decide)

/-- Settles O21: every op is a `planVec`, `vcvt` with its check before it; and the value of an I32 lane is the signed value of
its word, so that a wrapping sum, difference or product is that of the words. -/
theorem vectorLogic : Obligations.VectorLogic := by
  constructor
  · intro s g d a b c t u m cond ovf k x y z does
    exact ⟨issues_planVec rfl rfl, issues_planVec rfl rfl, issues_planVec rfl rfl, issues_planVec rfl rfl,
      issues_planVec rfl rfl, fun h => issues_of_plan rfl rfl rfl rfl h rfl rfl rfl rfl rfl,
      issues_planVec rfl rfl, issues_planVec rfl rfl⟩
  · intro k a b i hi
    simp only [getF_laneArith_I32 _ _ k a b hi, BitVec.ofInt_add, sub_eq_add_neg, BitVec.ofInt_neg,
      BitVec.ofInt_mul, BitVec.ofInt_toInt, and_self]

end Sys2Proof.Machine
end

section
/-!
SUPPORT. The exact values of the model as rational numbers, and what rounding into F32 gives (R107, R111): a number of its
sign within one ulp, and the number itself where that has a pattern.
-/
namespace Sys2Proof.Machine

/-! ## Exact values as rational numbers -/

/-- The rational number that a dyadic number is. -/
def Dy.val (a : Dy) : ℚ := a.m * 2 ^ a.e

/-- The model's 2^k is 1 for a negative k. -/
theorem cast_pow2 (k : Int) : (pow2 k : ℚ) = 2 ^ max k 0 := by
  rw [pow2, Nat.cast_pow, ← zpow_natCast, Int.toNat_eq_max]
  rfl

theorem pow2_pos (k : Int) : 0 < pow2 k := Nat.two_pow_pos _

/-- The two powers by which the model scales a fraction by 2^k. -/
theorem pow2_div_pow2_neg (k : Int) : (pow2 k : ℚ) / pow2 (-k) = 2 ^ k := by
  rw [cast_pow2, cast_pow2, ← zpow_sub₀ two_ne_zero]
  congr 1; omega

theorem Dy.den_pos (a : Dy) : 0 < a.den := pow2_pos _

/-- A dyadic number is the fraction of its numerator and denominator. -/
theorem Dy.num_div_den (a : Dy) : (a.num : ℚ) / a.den = a.val := by
  rw [num, den, val, ← pow2_div_pow2_neg]
  push_cast
  ring

theorem Dy.num_eq_val_mul (a : Dy) : (a.num : ℚ) = a.val * a.den := by
  rw [← a.num_div_den, div_mul_cancel₀ _ (Nat.cast_ne_zero.mpr a.den_pos.ne')]

theorem Dy.natAbs_num_div_den (a : Dy) : (a.num.natAbs : ℚ) / a.den = |a.val| := by
  rw [← a.num_div_den, abs_div, Nat.abs_cast, Nat.cast_natAbs, Int.cast_abs]

/-- A significand moved to a smaller exponent has the same value. -/
theorem Dy.at_mul {a : Dy} {e : Int} (h : e ≤ a.e) : (a.at e : ℚ) * 2 ^ e = a.val := by
  rw [Dy.at, val, Int.cast_mul, Int.cast_natCast, cast_pow2, max_eq_left (by omega), mul_assoc, ← zpow_add₀ two_ne_zero,
    Int.sub_add_cancel]

theorem Dy.val_add (a b : Dy) : (a.add b).val = a.val + b.val := by
  rw [← at_mul (min_le_left a.e b.e), ← at_mul (min_le_right a.e b.e), ← add_mul, ← Int.cast_add]
  rfl

theorem Dy.val_neg (a : Dy) : a.neg.val = -a.val := by simp [Dy.neg, val]

/-- The test of a result against its exact value (R145): it lies within one ulp. -/
theorem withinUlp_iff {v : Dy} {n d : Nat} (hd : 0 < d) :
    withinUlp v n d = true ↔ |v.val - n / d| ≤ 2 ^ ulpExp n d := by
  have hu : (Dy.mk 1 (ulpExp n d)).val = 2 ^ ulpExp n d := by simp [Dy.val]
  have hle (w : Dy) : w.num * d ≤ n * w.den ↔ w.val ≤ n / d := by
    rw [← w.num_div_den, div_le_div_iff₀ (mod_cast w.den_pos) (mod_cast hd)]
    exact_mod_cast Iff.rfl
  have hge (w : Dy) : (n : Int) * w.den ≤ w.num * d ↔ (n : ℚ) / d ≤ w.val := by
    rw [← w.num_div_den, div_le_div_iff₀ (mod_cast hd) (mod_cast w.den_pos)]
    exact_mod_cast Iff.rfl
  rw [withinUlp, Bool.and_eq_true, decide_eq_true_eq, decide_eq_true_eq, hle, hge, Dy.val_add, Dy.val_add, Dy.val_neg, hu,
    abs_le]
  constructor <;> rintro ⟨h1, h2⟩ <;> constructor <;> linarith

/-! ## Rounding (R111) -/

section
variable {n d : Nat}

theorem div_two_zpow_lt_iff (hd : 0 < d) (k : Int) : n * pow2 (-k) < d * pow2 k ↔ (n : ℚ) / d < 2 ^ k := by
  rw [← pow2_div_pow2_neg, div_lt_div_iff₀ (mod_cast hd) (mod_cast pow2_pos _), mul_comm (pow2 k : ℚ)]
  exact_mod_cast Iff.rfl

/-- `log2Frac` is floor(log2) of a positive fraction: the power of two at or below it. -/
theorem log2Frac_bounds (hn : 0 < n) (hd : 0 < d) :
    (2 : ℚ) ^ log2Frac n d ≤ n / d ∧ (n : ℚ) / d < 2 ^ (log2Frac n d + 1) := by
  have hd' : (0 : ℚ) < d := mod_cast hd
  have bounds {x : Nat} (hx : 0 < x) : (2 : ℚ) ^ (Nat.log2 x : Int) ≤ x ∧ (x : ℚ) < 2 ^ ((Nat.log2 x : Int) + 1) := by
    constructor
    · exact_mod_cast Nat.log2_self_le hx.ne'
    · exact_mod_cast Nat.lt_log2_self (n := x)
  obtain ⟨hn1, hn2⟩ := bounds hn
  obtain ⟨hd1, hd2⟩ := bounds hd
  have lower : (2 : ℚ) ^ ((Nat.log2 n : Int) - Nat.log2 d - 1) ≤ n / d := by
    rw [le_div_iff₀ hd']
    calc _ ≤ (2 : ℚ) ^ ((Nat.log2 n : Int) - Nat.log2 d - 1) * 2 ^ ((Nat.log2 d : Int) + 1) := by gcongr
      _ = 2 ^ (Nat.log2 n : Int) := by rw [← zpow_add₀ two_ne_zero]; congr 1; omega
      _ ≤ n := hn1
  have upper : (n : ℚ) / d < 2 ^ ((Nat.log2 n : Int) - Nat.log2 d + 1) := by
    rw [div_lt_iff₀ hd']
    calc (n : ℚ) < 2 ^ ((Nat.log2 n : Int) + 1) := hn2
      _ = (2 : ℚ) ^ ((Nat.log2 n : Int) - Nat.log2 d + 1) * 2 ^ (Nat.log2 d : Int) := by
        rw [← zpow_add₀ two_ne_zero]; congr 1; omega
      _ ≤ _ := by gcongr
  have hiff := div_two_zpow_lt_iff (n := n) hd ((Nat.log2 n : Int) - Nat.log2 d)
  rw [log2Frac]
  split
  case isTrue h => exact ⟨lower, by rw [Int.sub_add_cancel]; exact hiff.mp h⟩
  case isFalse h => exact ⟨not_lt.mp (hiff.not.mp h), upper⟩

/-- The power of two at or below a fraction is the only one. -/
theorem log2Frac_eq {k : Int} (hn : 0 < n) (hd : 0 < d) (h1 : (2 : ℚ) ^ k ≤ n / d) (h2 : (n : ℚ) / d < 2 ^ (k + 1)) :
    log2Frac n d = k := by
  obtain ⟨h3, h4⟩ := log2Frac_bounds hn hd
  have ha := (zpow_lt_zpow_iff_right₀ (one_lt_two (α := ℚ))).mp (h1.trans_lt h4)
  have hb := (zpow_lt_zpow_iff_right₀ (one_lt_two (α := ℚ))).mp (h3.trans_lt h2)
  omega

end

/-- Every mode rounds down, or up where that is not exact. -/
theorem roundInt_cases {n : Int} {d : Nat} (hd : 0 < d) (md : Mode) :
    roundInt n d md = n / (d : Int) ∨ n % (d : Int) ≠ 0 ∧ roundInt n d md = n / (d : Int) + 1 := by
  have hd' : (0 : Int) < d := mod_cast hd
  cases md with
  | rdn => exact .inl rfl
  | rup =>
    by_cases h : n % (d : Int) = 0
    · exact .inl (if_pos h)
    · exact .inr ⟨h, if_neg h⟩
  | rtz =>
    by_cases h : n % (d : Int) = 0
    · exact .inl (if_pos h)
    · by_cases hn : n < 0
      · exact .inr ⟨h, (if_neg h).trans (if_pos hn)⟩
      · exact .inl ((if_neg h).trans (if_neg hn))
  | rne =>
    by_cases h : 2 * (n % (d : Int)) < d
    · exact .inl (if_pos h)
    · have hr : n % (d : Int) ≠ 0 := by omega
      simp only [roundInt, if_neg h]
      split
      · exact .inr ⟨hr, rfl⟩
      · split
        · exact .inl rfl
        · exact .inr ⟨hr, rfl⟩

/-- A fraction is rounded to one of the two integers next to it. -/
theorem roundInt_between (n : Int) {d : Nat} (hd : 0 < d) (md : Mode) :
    ⌊(n : ℚ) / d⌋ ≤ roundInt n d md ∧ roundInt n d md ≤ ⌈(n : ℚ) / d⌉ := by
  have hfloor : ⌊(n : ℚ) / d⌋ = n / (d : Int) := Rat.floor_intCast_div_natCast n d
  rcases roundInt_cases hd md (n := n) with h | ⟨hr, h⟩ <;> rw [h, ← hfloor]
  · exact ⟨le_rfl, Int.floor_le_ceil _⟩
  · refine ⟨by omega, Int.add_one_le_iff.mpr (Int.lt_ceil.mpr ?_)⟩
    rw [hfloor, lt_div_iff₀ (mod_cast hd)]
    have := Int.emod_nonneg n (b := (d : Int)) (by omega)
    have := Int.emod_add_mul_ediv n d
    exact_mod_cast (by rw [mul_comm]; omega : n / (d : Int) * d < n)

section
variable {n : Int} {d : Nat} {md : Mode}

/-- The magnitude of a rounded fraction is within one of that of the fraction. -/
theorem abs_natAbs_roundInt_sub_le (hd : 0 < d) : |((roundInt n d md).natAbs : ℚ) - (|(n : ℚ) / d|)| ≤ 1 := by
  obtain ⟨hfloor, hceil⟩ := roundInt_between n hd md
  have hlow : (n : ℚ) / d - 1 < roundInt n d md := (Int.sub_one_lt_floor _).trans_le (mod_cast hfloor)
  have hup : (roundInt n d md : ℚ) < (n : ℚ) / d + 1 := lt_of_le_of_lt (mod_cast hceil) (Int.ceil_lt_add_one _)
  rw [Nat.cast_natAbs, Int.cast_abs]
  refine (abs_abs_sub_abs_le _ _).trans (abs_le.mpr ⟨?_, ?_⟩) <;> linarith

theorem natAbs_roundInt_le {b : Nat} (hd : 0 < d) (h : |(n : ℚ) / d| ≤ b) : (roundInt n d md).natAbs ≤ b := by
  obtain ⟨hfloor, hceil⟩ := roundInt_between n hd md
  obtain ⟨hl, hu⟩ := abs_le.mp h
  have h1 : -(b : Int) ≤ ⌊(n : ℚ) / d⌋ := Int.le_floor.mpr (by push_cast; exact hl)
  have h2 : ⌈(n : ℚ) / d⌉ ≤ (b : Int) := Int.ceil_le.mpr (mod_cast hu)
  omega

theorem le_natAbs_roundInt {b : Nat} (hd : 0 < d) (h : (b : ℚ) ≤ |(n : ℚ) / d|) : b ≤ (roundInt n d md).natAbs := by
  obtain ⟨hfloor, hceil⟩ := roundInt_between n hd md
  rcases le_abs.mp h with h | h
  · have h1 : (b : Int) ≤ ⌊(n : ℚ) / d⌋ := Int.le_floor.mpr (mod_cast h)
    omega
  · have h2 : ⌈(n : ℚ) / d⌉ ≤ -(b : Int) := Int.ceil_le.mpr (by push_cast; linarith)
    omega

end

/-! ## F32 (R107) -/

/-- The significand of an F32 magnitude, with its hidden bit (R107). -/
def sigField (mag : Nat) : Int :=
  if mag / 2 ^ 23 = 0 then ((mag % 2 ^ 23 : Nat) : Int) else ((mag % 2 ^ 23 : Nat) : Int) + 2 ^ 23

/-- The exponent of the last bit of an F32 magnitude's significand (R107). -/
def expField (mag : Nat) : Int := (if mag / 2 ^ 23 = 0 then 1 else ((mag / 2 ^ 23 : Nat) : Int)) - (127 : Nat) - (23 : Nat)

/-- A finite F32 pattern: its sign, and its value by the fields of its magnitude. -/
theorem decodeF_F32_of_le {mag : Nat} (neg : Bool) (h : mag ≤ 0x7F7FFFFF) :
    decodeF fmtF32 (signBits fmtF32 neg + mag) = .fin neg
      ⟨if neg then -sigField mag else sigField mag, expField mag⟩ := by
  have hsign : (signBits fmtF32 neg + mag) / 2 ^ 31 % 2 = (if neg then 1 else 0) := by
    cases neg <;> simp [signBits, fmtF32] <;> omega
  have hmag : (signBits fmtF32 neg + mag) % 2 ^ 31 = mag := by
    cases neg <;> simp [signBits, fmtF32] <;> omega
  have hneg : decide ((if neg then 1 else 0) = 1) = neg := by cases neg <;> rfl
  simp only [decodeF, show 1 + fmtF32.e + fmtF32.f - 1 = 31 from rfl, hsign, hmag, hneg]
  exact if_neg h.not_gt

/-- The magnitude of a number that is given by its sign and magnitude. -/
theorem Dy.val_signed (neg : Bool) (m e : Int) :
    (if neg then (Dy.mk (if neg then -m else m) e).neg else ⟨if neg then -m else m, e⟩).val = m * 2 ^ e := by
  cases neg <;> simp [Dy.val, Dy.neg]

/-- A pattern whose magnitude is that of a significand `q`, in the place of exponent field `E` (the hidden bit adds one to the
field, and so does a carry out of the significand). -/
theorem decodeF_F32 {E q : Nat} (neg : Bool) (hE : E = 0 ∨ 2 ^ 23 ≤ q) (hq : q ≤ 2 ^ 24)
    (h : E * 2 ^ 23 + q ≤ 0x7F7FFFFF) :
    ∃ y, decodeF fmtF32 (signBits fmtF32 neg + (E * 2 ^ 23 + q)) = .fin neg y ∧
      (if neg then y.neg else y).val = q * 2 ^ ((E : Int) - 149) := by
  refine ⟨_, decodeF_F32_of_le neg h, ?_⟩
  rw [Dy.val_signed, sigField, expField]
  rcases lt_or_ge q (2 ^ 23) with hs | hs
  case inl =>
    obtain rfl : E = 0 := by omega
    rw [Nat.zero_mul, Nat.zero_add, Nat.div_eq_of_lt hs, Nat.mod_eq_of_lt hs]
    norm_num
  case inr =>
    rcases hq.lt_or_eq with hn | rfl
    · have hdiv : (E * 2 ^ 23 + q) / 2 ^ 23 = E + 1 := by omega
      have hmod : (E * 2 ^ 23 + q) % 2 ^ 23 = q - 2 ^ 23 := by omega
      rw [hdiv, hmod, if_neg E.succ_ne_zero, if_neg E.succ_ne_zero]
      congr 1
      · exact_mod_cast Nat.sub_add_cancel hs
      · congr 1; omega
    · have hdiv : (E * 2 ^ 23 + 2 ^ 24) / 2 ^ 23 = E + 2 := by omega
      have hmod : (E * 2 ^ 23 + 2 ^ 24) % 2 ^ 23 = 0 := by omega
      have hexp : ((E + 2 : Nat) : Int) - (127 : Nat) - (23 : Nat) = (E : Int) - 149 + 1 := by omega
      rw [hdiv, hmod, if_neg (by omega), if_neg (by omega), hexp, zpow_add_one₀ two_ne_zero]
      norm_num
      ring

/-- The exponents of F32 begin at -149 (R107). -/
theorem le_exp_of_decodeF_F32 {x : Nat} {n : Bool} {v : Dy} (h : decodeF fmtF32 x = .fin n v) : -149 ≤ v.e := by
  simp only [decodeF] at h
  split at h
  case isTrue => split at h <;> simp at h
  case isFalse =>
    injection h with _ hv
    rw [← hv, show fmtF32.bias = 127 from rfl, show fmtF32.f = 23 from rfl]
    dsimp only
    split <;> omega

/-! ## A fraction rounded into F32 (R111) -/

/-- The significand of a fraction rounded into F32, in units of its ulp. -/
def sigF32 (md : Mode) (n : Int) (d : Nat) : Nat :=
  let k := ulpExp n.natAbs d
  (roundInt (n * (pow2 (-k) : Nat)) (d * pow2 k) md).natAbs

section
variable {md : Mode} {n : Int} {d : Nat}

/-- The fraction as it is rounded: scaled by its ulp. -/
theorem abs_scaled (k : Int) :
    |((n * (pow2 (-k) : Nat) : Int) : ℚ) / ((d * pow2 k : Nat) : ℚ)| = (n.natAbs : ℚ) / d / 2 ^ k := by
  rw [← pow2_div_pow2_neg, Nat.cast_natAbs, Int.cast_abs]
  push_cast
  rw [abs_div, abs_mul, abs_mul, Nat.abs_cast, Nat.abs_cast, Nat.abs_cast, div_div_div_eq]

theorem sigF32_le {b : Nat} (hd : 0 < d) (h : (n.natAbs : ℚ) / d ≤ b * 2 ^ ulpExp n.natAbs d) : sigF32 md n d ≤ b := by
  refine natAbs_roundInt_le (Nat.mul_pos hd (pow2_pos _)) ?_
  rwa [abs_scaled, div_le_iff₀ (by positivity)]

theorem le_sigF32 {b : Nat} (hd : 0 < d) (h : (b : ℚ) * 2 ^ ulpExp n.natAbs d ≤ n.natAbs / d) : b ≤ sigF32 md n d := by
  refine le_natAbs_roundInt (Nat.mul_pos hd (pow2_pos _)) ?_
  rwa [abs_scaled, le_div_iff₀ (by positivity)]

/-- A fraction that is a whole number of ulps is exact. -/
theorem sigF32_eq {q : Nat} (hd : 0 < d) (h : (n.natAbs : ℚ) / d = q * 2 ^ ulpExp n.natAbs d) : sigF32 md n d = q :=
  (sigF32_le hd h.le).antisymm (le_sigF32 hd h.ge)

/-- A rounded fraction is within one ulp. -/
theorem abs_sigF32_sub_le (hd : 0 < d) :
    |(sigF32 md n d : ℚ) * 2 ^ ulpExp n.natAbs d - n.natAbs / d| ≤ 2 ^ ulpExp n.natAbs d := by
  have hu : (0 : ℚ) < 2 ^ ulpExp n.natAbs d := by positivity
  have h := abs_natAbs_roundInt_sub_le (n := n * (pow2 (-ulpExp n.natAbs d) : Nat)) (md := md)
    (Nat.mul_pos hd (pow2_pos (ulpExp n.natAbs d)))
  rw [abs_scaled] at h
  calc _ = |((sigF32 md n d : ℚ) - n.natAbs / d / 2 ^ ulpExp n.natAbs d) * 2 ^ ulpExp n.natAbs d| := by
        rw [sub_mul, div_mul_cancel₀ _ hu.ne']
    _ ≤ _ := by rw [abs_mul, abs_of_pos hu]; exact mul_le_of_le_one_left hu.le h

/-- The ulp of a subnormal number, or of a normal one (R145). -/
theorem ulpExp_cases (n d : Nat) :
    ulpExp n d = -149 ∧ log2Frac n d < -126 ∨ ulpExp n d = log2Frac n d - 23 ∧ -126 ≤ log2Frac n d := by
  rw [ulpExp]; omega

theorem sigF32_le_two_pow (hn : n ≠ 0) (hd : 0 < d) : sigF32 md n d ≤ 2 ^ 24 := by
  refine sigF32_le hd ((log2Frac_bounds (Int.natAbs_pos.mpr hn) hd).2.le.trans ?_)
  rw [Nat.cast_pow, ← zpow_natCast, Nat.cast_two, ← zpow_add₀ two_ne_zero]
  refine zpow_le_zpow_right₀ one_le_two ?_
  have := ulpExp_cases n.natAbs d
  omega

/-- Outside the subnormal numbers the significand has its hidden bit. -/
theorem two_pow_le_sigF32 (hn : n ≠ 0) (hd : 0 < d) : ulpExp n.natAbs d = -149 ∨ 2 ^ 23 ≤ sigF32 md n d := by
  refine (ulpExp_cases n.natAbs d).imp And.left fun ⟨hu, _⟩ => le_sigF32 hd ?_
  refine le_trans (le_of_eq ?_) (log2Frac_bounds (Int.natAbs_pos.mpr hn) hd).1
  rw [Nat.cast_pow, ← zpow_natCast, Nat.cast_two, ← zpow_add₀ two_ne_zero]
  congr 1; omega

/-- The largest finite F32 value (R107). -/
def maxF32 : ℚ := (2 ^ 24 - 1) * 2 ^ 104

/-- The magnitude of a rounded fraction does not overflow where the fraction is at most the largest finite value. -/
theorem magF32_le (hn : n ≠ 0) (hd : 0 < d) (h : (n.natAbs : ℚ) / d ≤ maxF32) :
    (ulpExp n.natAbs d + 149).toNat * 2 ^ 23 + sigF32 md n d ≤ 0x7F7FFFFF := by
  have hlog : log2Frac n.natAbs d < 128 := by
    refine (zpow_lt_zpow_iff_right₀ (one_lt_two (α := ℚ))).mp
      ((log2Frac_bounds (Int.natAbs_pos.mpr hn) hd).1.trans_lt (h.trans_lt ?_))
    norm_num [maxF32]
  have hcases := ulpExp_cases n.natAbs d
  have hsig := sigF32_le_two_pow (md := md) hn hd
  rcases (show ulpExp n.natAbs d ≤ 104 by omega).lt_or_eq with hlt | heq
  · omega
  · have : sigF32 md n d ≤ 2 ^ 24 - 1 := sigF32_le hd (by rw [heq]; refine h.trans_eq ?_; norm_num [maxF32])
    rw [heq]
    omega

/-- A rounded fraction as a pattern: the significand in the place of its exponent. -/
theorem roundFrac_F32 {nsat : Bool} (hn : n ≠ 0) (hd : 0 < d) (h : (n.natAbs : ℚ) / d ≤ maxF32) :
    roundFrac fmtF32 md nsat n d =
      signBits fmtF32 (decide (n < 0)) + ((ulpExp n.natAbs d + 149).toNat * 2 ^ 23 + sigF32 md n d) := by
  have hk : max (log2Frac n.natAbs d) (1 - (127 : Nat)) - (23 : Nat) = ulpExp n.natAbs d := rfl
  have he : max (log2Frac n.natAbs d) (1 - (127 : Nat)) - (1 - (127 : Nat)) = ulpExp n.natAbs d + 149 := by
    rw [← hk]; omega
  have hmax := magF32_le (md := md) hn hd h
  simp only [roundFrac, show fmtF32.bias = 127 from rfl, show fmtF32.f = 23 from rfl,
    show fmtF32.maxBits = 0x7F7FFFFF from rfl, hk, he]
  exact if_neg hmax.not_gt

/-- A rounded fraction is a finite number of its sign. -/
theorem decodeF_roundFrac_F32 {nsat : Bool} (hn : n ≠ 0) (hd : 0 < d) (h : (n.natAbs : ℚ) / d ≤ maxF32) :
    ∃ y, decodeF fmtF32 (roundFrac fmtF32 md nsat n d) = .fin (decide (n < 0)) y ∧
      (if decide (n < 0) then y.neg else y).val = sigF32 md n d * 2 ^ ulpExp n.natAbs d := by
  have hcases := ulpExp_cases n.natAbs d
  have hE : (ulpExp n.natAbs d + 149).toNat = 0 ∨ 2 ^ 23 ≤ sigF32 md n d :=
    (two_pow_le_sigF32 hn hd).imp_left fun h => by omega
  obtain ⟨y, hy, hv⟩ := decodeF_F32 (decide (n < 0)) hE (sigF32_le_two_pow hn hd) (magF32_le hn hd h)
  refine ⟨y, by rw [roundFrac_F32 hn hd h, hy], ?_⟩
  rw [hv, show (((ulpExp n.natAbs d + 149).toNat : Nat) : Int) - 149 = ulpExp n.natAbs d by omega]

end

/-! ## Powers of two in F32 -/

section
variable {md : Mode} {nsat : Bool} {n : Int} {d : Nat} {j : Int}

theorem pos_of_div_eq_two_zpow {n : Nat} (h : (n : ℚ) / d = 2 ^ j) : 0 < n := by
  refine Nat.pos_of_ne_zero fun h0 => zpow_ne_zero j (two_ne_zero (α := ℚ)) ?_
  rw [← h, h0, Nat.cast_zero, zero_div]

theorem log2Frac_two_zpow {n : Nat} (hd : 0 < d) (h : (n : ℚ) / d = 2 ^ j) : log2Frac n d = j :=
  log2Frac_eq (pos_of_div_eq_two_zpow h) hd h.ge (h.trans_lt (zpow_lt_zpow_right₀ one_lt_two (by omega)))

/-- A power of two that is a whole number of ulps is exact. -/
theorem roundFrac_F32_two_zpow {a : Nat} (hd : 0 < d) (h : (n.natAbs : ℚ) / d = 2 ^ j) (hj : j ≤ 127)
    (ha : (a : Int) + ulpExp n.natAbs d = j) :
    roundFrac fmtF32 md nsat n d =
      signBits fmtF32 (decide (n < 0)) + ((ulpExp n.natAbs d + 149).toNat * 2 ^ 23 + 2 ^ a) := by
  have hmax : (n.natAbs : ℚ) / d ≤ maxF32 := by
    rw [h]
    exact (zpow_le_zpow_right₀ one_le_two hj).trans (by norm_num [maxF32])
  rw [roundFrac_F32 (Int.natAbs_pos.mp (pos_of_div_eq_two_zpow h)) hd hmax, sigF32_eq hd]
  rw [h, Nat.cast_pow, Nat.cast_two, ← zpow_natCast, ← zpow_add₀ two_ne_zero, ha]

/-- A normal power of two, with its biased exponent. -/
theorem roundFrac_F32_normal (hd : 0 < d) (h : (n.natAbs : ℚ) / d = 2 ^ j) (h1 : -126 ≤ j) (h2 : j ≤ 127) :
    roundFrac fmtF32 md nsat n d = signBits fmtF32 (decide (n < 0)) + (j + 127).toNat * 2 ^ 23 := by
  have hu : ulpExp n.natAbs d = j - 23 := by rw [ulpExp, log2Frac_two_zpow hd h, max_eq_left h1]
  rw [roundFrac_F32_two_zpow (a := 23) hd h h2 (by omega), hu]
  omega

/-- A subnormal power of two, with one bit. -/
theorem roundFrac_F32_subnormal (hd : 0 < d) (h : (n.natAbs : ℚ) / d = 2 ^ j) (h1 : -149 ≤ j) (h2 : j < -126) :
    roundFrac fmtF32 md nsat n d = signBits fmtF32 (decide (n < 0)) + 2 ^ (j + 149).toNat := by
  have hu : ulpExp n.natAbs d = -149 := by rw [ulpExp, log2Frac_two_zpow hd h, max_eq_right h2.le]; rfl
  rw [roundFrac_F32_two_zpow (a := (j + 149).toNat) hd h (by omega) (by omega), hu]
  simp

/-- A quotient of powers of two that the model writes as numbers. -/
theorem cast_two_pow_div (a b : Nat) : ((2 ^ a : Nat) : ℚ) / ((2 ^ b : Nat) : ℚ) = 2 ^ ((a : Int) - b) := by
  rw [Nat.cast_pow, Nat.cast_pow, Nat.cast_two, ← zpow_natCast, ← zpow_natCast, ← zpow_sub₀ two_ne_zero]

/-- A power of two that is given as a quotient of two. -/
theorem roundFrac_F32_two_pow_div {a b : Nat} (hj : (a : Int) - b = j) (h1 : -126 ≤ j) (h2 : j ≤ 127) :
    roundFrac fmtF32 md nsat (2 ^ a : Nat) (2 ^ b) = (j + 127).toNat * 2 ^ 23 := by
  have hq : (((2 ^ a : Nat) : Int).natAbs : ℚ) / (2 ^ b : Nat) = 2 ^ j := by
    rw [Int.natAbs_natCast, cast_two_pow_div, hj]
  rw [roundFrac_F32_normal (Nat.two_pow_pos b) hq h1 h2, decide_eq_false (Int.natCast_nonneg _).not_gt]
  exact Nat.zero_add _

end

/-- An integer of at most 24 bits is exact. -/
theorem decodeF_roundFrac_F32_int {md : Mode} {nsat : Bool} {k : Int} (hk : k ≠ 0) (h : k.natAbs < 2 ^ 24) :
    ∃ y, decodeF fmtF32 (roundFrac fmtF32 md nsat k 1) = .fin (decide (k < 0)) y ∧ y.val = k := by
  have hpos : 0 < k.natAbs := Int.natAbs_pos.mpr hk
  have hlt : (k.natAbs : ℚ) / (1 : Nat) < 2 ^ 24 := by rw [Nat.cast_one, div_one]; exact_mod_cast h
  have hlog : log2Frac k.natAbs 1 < 24 :=
    (zpow_lt_zpow_iff_right₀ (one_lt_two (α := ℚ))).mp ((log2Frac_bounds hpos Nat.one_pos).1.trans_lt hlt)
  have hu : ulpExp k.natAbs 1 ≤ 0 := by rw [ulpExp]; omega
  obtain ⟨y, hy, hv⟩ := decodeF_roundFrac_F32 (md := md) (nsat := nsat) hk Nat.one_pos (hlt.le.trans (by norm_num [maxF32]))
  refine ⟨y, hy, ?_⟩
  have hq : (k.natAbs : ℚ) / (1 : Nat) =
      (k.natAbs * 2 ^ (-ulpExp k.natAbs 1).toNat : Nat) * 2 ^ ulpExp k.natAbs 1 := by
    rw [Nat.cast_mul, Nat.cast_pow, ← zpow_natCast, mul_assoc, Nat.cast_two, ← zpow_add₀ two_ne_zero,
      show ((-ulpExp k.natAbs 1).toNat : Int) + ulpExp k.natAbs 1 = 0 by omega, zpow_zero, mul_one, Nat.cast_one, div_one]
  rw [sigF32_eq Nat.one_pos hq, ← hq, Nat.cast_one, div_one, Nat.cast_natAbs] at hv
  rcases lt_or_gt_of_ne hk with hneg | hpos
  · rw [decide_eq_true hneg, if_pos rfl, Dy.val_neg, abs_of_neg hneg, Int.cast_neg, neg_inj] at hv
    exact hv
  · rw [decide_eq_false hpos.not_gt, abs_of_pos hpos] at hv
    exact hv

end Sys2Proof.Machine
end

section
/-!
SUPPORT. What `vfn` gives for each class of inputs (R145, R146): the special results, powers of two and integers, and the
bound on `rcp`.
-/
namespace Sys2Proof.Machine

/-! ## The functions, a class of inputs each (R145, R146) -/

section
variable {x : Nat} {n : Bool} {v : Dy}

theorem vfnLane_nan (h : decodeF fmtF32 x = .nan) (fn : BitVec 3) : vfnLane fn x = 0x7FC00000 := by
  rw [vfnLane, h]

theorem vfnLane_rcp (h : decodeF fmtF32 x = .fin n v) :
    vfnLane 0 x = if v.m = 0 then signBits fmtF32 n + 0x7F800000
      else rcpBits (Config.vfnPattern 0 (BitVec.ofNat 32 x)).toNat n v := by
  rw [vfnLane, h]; rfl

theorem vfnLane_rsqrt (h : decodeF fmtF32 x = .fin n v) :
    vfnLane 1 x = if v.m = 0 then signBits fmtF32 n + 0x7F800000
      else if n then 0x7FC00000 else rsqrtBits (Config.vfnPattern 1 (BitVec.ofNat 32 x)).toNat v := by
  rw [vfnLane, h]; rfl

theorem vfnLane_log2_neg (h : decodeF fmtF32 x = .fin true v) (hm : v.m ≠ 0) : vfnLane 3 x = 0x7FC00000 := by
  rw [vfnLane, h]; exact if_neg hm

theorem vfnLane_exp2 (h : decodeF fmtF32 x = .fin n v) :
    vfnLane 2 x =
      let k := v.num / (v.den : Int)
      if v.num % (v.den : Int) = 0 then
        (if 128 ≤ k then 0x7F800000 else if k ≤ -150 then 0
         else roundFrac fmtF32 .rne false (pow2 k : Nat) (pow2 (-k)))
      else if 128 ≤ k then 0x7F800000 else if k < -150 then 0
      else keepNear (fxExp2 (v.add ⟨-k, 0⟩).fx) k ⟨2, max k (-126) - 23⟩
        (Config.vfnPattern 2 (BitVec.ofNat 32 x)).toNat := by
  rw [vfnLane, h]; rfl

theorem vfnLane_log2_pos (h : decodeF fmtF32 x = .fin false v) (hm : v.m ≠ 0) {k : Int}
    (hk : log2Frac v.num.natAbs v.den = k) (hx : v.num * (pow2 (-k) : Nat) = v.den * pow2 k) :
    vfnLane 3 x = if k = 0 then 0 else roundFrac fmtF32 .rne false k 1 := by
  subst hk
  rw [vfnLane, h]
  exact (if_neg hm).trans (if_pos (decide_eq_true hx))

end

/-! ## Powers of two as inputs -/

/-- The number of an F32 pattern with exponent field `e` and fraction 0: ±2^(e - 127). -/
def f32Pow (neg : Bool) (e : Nat) : Dy := ⟨if neg then -2 ^ 23 else 2 ^ 23, e - 150⟩

theorem decodeF_f32Pow (neg : Bool) {e : Nat} (h1 : 1 ≤ e) (h2 : e ≤ 254) :
    decodeF fmtF32 (signBits fmtF32 neg + e * 2 ^ 23) = .fin neg (f32Pow neg e) := by
  have he : e ≠ 0 := by omega
  rw [decodeF_F32_of_le neg (by omega), sigField, expField, Nat.mul_div_cancel _ (by decide), Nat.mul_mod_left, if_neg he,
    if_neg he, Nat.cast_zero, zero_add, show (e : Int) - (127 : Nat) - (23 : Nat) = e - 150 by omega]
  rfl

theorem decodeF_f32Pow_pos {e : Nat} (h1 : 1 ≤ e) (h2 : e ≤ 254) :
    decodeF fmtF32 (e * 2 ^ 23) = .fin false (f32Pow false e) := by
  rw [← decodeF_f32Pow false h1 h2, signBits, if_neg Bool.false_ne_true, Nat.zero_add]

theorem f32Pow_m_ne_zero (neg : Bool) (e : Nat) : (f32Pow neg e).m ≠ 0 := by cases neg <;> simp [f32Pow]

theorem natAbs_num_f32Pow (neg : Bool) (e : Nat) : (f32Pow neg e).num.natAbs = 2 ^ (23 + ((e : Int) - 150).toNat) := by
  cases neg <;> simp [f32Pow, Dy.num, pow2, Nat.pow_add, Int.natAbs_mul, Int.natAbs_pow]

theorem den_f32Pow (neg : Bool) (e : Nat) : (f32Pow neg e).den = 2 ^ (150 - (e : Int)).toNat := by
  rw [f32Pow, Dy.den, pow2, neg_sub]

section
variable {v : Dy} {a b : Nat} {l : Int} (hnum : v.num.natAbs = 2 ^ a) (hden : v.den = 2 ^ b) (hl : (a : Int) - b = l)
include hnum hden hl

/-- The exponent that `rsqrt` and `log2` find of a power of two. -/
theorem log2Frac_of_two_pow : log2Frac v.num.natAbs v.den = l := by
  refine log2Frac_two_zpow v.den_pos ?_
  rw [hnum, hden, cast_two_pow_div, hl]

/-- The test by which `rsqrt` and `log2` find a power of two. -/
theorem scaled_eq_of_two_pow : v.num.natAbs * pow2 (-l) = v.den * pow2 l := by
  rw [hnum, hden, pow2, pow2, ← Nat.pow_add, ← Nat.pow_add]
  refine congrArg (2 ^ ·) ?_
  omega

end

/-! ## `exp2` -/

section
variable {x : Nat} {n : Bool} {v : Dy} {k : Int}

theorem vfnLane_exp2_large (h : decodeF fmtF32 x = .fin n v) (hv : 128 * (v.den : Int) ≤ v.num) :
    vfnLane 2 x = 0x7F800000 := by
  have hk : 128 ≤ v.num / (v.den : Int) := (Int.le_ediv_iff_mul_le (mod_cast v.den_pos)).mpr hv
  rw [vfnLane_exp2 h]
  dsimp only
  rw [if_pos hk, if_pos hk, ite_self]

theorem vfnLane_exp2_small (h : decodeF fmtF32 x = .fin n v) (hv : v.num ≤ -(150 * (v.den : Int))) :
    vfnLane 2 x = 0 := by
  have hd : (0 : Int) < v.den := mod_cast v.den_pos
  have hv' : v.num ≤ -150 * v.den := by omega
  have hk : v.num / (v.den : Int) ≤ -150 := Int.ediv_le_of_le_mul hd hv'
  rw [vfnLane_exp2 h]
  dsimp only
  by_cases hr : v.num % (v.den : Int) = 0
  · rw [if_pos hr, if_neg (by omega), if_pos hk]
  · have hlt : v.num / (v.den : Int) < -150 := by
      refine lt_of_mul_lt_mul_right (lt_of_lt_of_le ?_ hv') hd.le
      have := Int.emod_nonneg v.num hd.ne'
      have := Int.ediv_mul_add_emod v.num v.den
      omega
    rw [if_neg hr, if_neg (by omega), if_pos hlt]

theorem vfnLane_exp2_int (h : decodeF fmtF32 x = .fin n v) (hv : v.num = k * v.den) (h1 : -150 < k) (h2 : k < 128) :
    vfnLane 2 x = roundFrac fmtF32 .rne false (pow2 k : Nat) (pow2 (-k)) := by
  have hd : (v.den : Int) ≠ 0 := mod_cast v.den_pos.ne'
  rw [vfnLane_exp2 h, hv, Int.mul_ediv_cancel _ hd, Int.mul_emod_left]
  dsimp only
  rw [if_pos rfl, if_neg (by omega), if_neg (by omega)]

/-- The fraction that `exp2` of an integer rounds is the power of two itself. -/
theorem natAbs_pow2_div (k : Int) : (((pow2 k : Nat) : Int).natAbs : ℚ) / pow2 (-k) = 2 ^ k := by
  rw [Int.natAbs_natCast, pow2_div_pow2_neg]

/-- `exp2` of an integer with a normal result is exact. -/
theorem vfnLane_exp2_normal (h : decodeF fmtF32 x = .fin n v) (hv : v.num = k * v.den) (h1 : -126 ≤ k) (h2 : k ≤ 127) :
    vfnLane 2 x = (k + 127).toNat * 2 ^ 23 := by
  rw [vfnLane_exp2_int h hv (by omega) (by omega), roundFrac_F32_normal (pow2_pos _) (natAbs_pow2_div k) h1 h2,
    decide_eq_false (Int.natCast_nonneg _).not_gt]
  exact Nat.zero_add _

/-- `exp2` of an integer with a subnormal result is exact. -/
theorem vfnLane_exp2_subnormal (h : decodeF fmtF32 x = .fin n v) (hv : v.num = k * v.den) (h1 : -149 ≤ k) (h2 : k < -126) :
    vfnLane 2 x = 2 ^ (k + 149).toNat := by
  rw [vfnLane_exp2_int h hv (by omega) (by omega), roundFrac_F32_subnormal (pow2_pos _) (natAbs_pow2_div k) h1 h2,
    decide_eq_false (Int.natCast_nonneg _).not_gt]
  exact Nat.zero_add _

end

/-! ## `rcp` -/

section
variable {p : Nat} {neg : Bool} {v : Dy}

/-- 1/x rounded to nearest. -/
def rcpExact (neg : Bool) (v : Dy) : Nat :=
  roundFrac fmtF32 .rne false (if neg then -(v.den : Int) else v.den) v.num.natAbs

/-- The test by which `rcp` finds an infinite result (R146). -/
theorem rcp_overflow_iff (v : Dy) :
    (v.den * 1 : Int) ≥ (v.num.natAbs : Int) * (pow2 128 : Nat) ↔ v.num.natAbs * 2 ^ 128 ≤ v.den := by
  rw [Int.mul_one]
  exact_mod_cast Iff.rfl

theorem rcpBits_overflow (h : v.num.natAbs * 2 ^ 128 ≤ v.den) : rcpBits p neg v = signBits fmtF32 neg + 0x7F800000 :=
  if_pos ((rcp_overflow_iff v).mpr h)

theorem rcpBits_exact (h : v.den < v.num.natAbs * 2 ^ 128) (hnum : v.num.natAbs &&& (v.num.natAbs - 1) = 0)
    (hden : v.den &&& (v.den - 1) = 0) (hnormal : v.num.natAbs ≤ v.den * 2 ^ 126) : rcpBits p neg v = rcpExact neg v :=
  (if_neg ((rcp_overflow_iff v).not.mpr h.not_ge)).trans (if_pos ⟨hnum, hden, hnormal⟩)

/-- Below the overflow the result is the exact one rounded, or the free pattern where that lies within the bound. -/
theorem rcpBits_cases (h : v.den < v.num.natAbs * 2 ^ 128) :
    rcpBits p neg v = rcpExact neg v ∨
      rcpBits p neg v = p ∧ ∃ y, decodeF fmtF32 p = .fin neg y ∧
        withinUlp (if neg then y.neg else y) v.den v.num.natAbs = true := by
  simp only [rcpBits, if_neg ((rcp_overflow_iff v).not.mpr h.not_ge), rcpExact]
  split
  case isTrue => exact .inl rfl
  case isFalse =>
    cases hp : decodeF fmtF32 p with
    | nan => exact .inl rfl
    | inf k => exact .inl rfl
    | fin k y =>
      by_cases hk : k = neg ∧ withinUlp (if neg then y.neg else y) v.den v.num.natAbs = true
      · exact .inr ⟨if_pos hk, y, congrArg (FV.fin · y) hk.1, hk.2⟩
      · exact .inl (if_neg hk)

theorem natAbs_ite_neg (neg : Bool) (n : Nat) : (if neg then -(n : Int) else n).natAbs = n := by
  cases neg <;> simp

theorem ite_neg_lt_zero (neg : Bool) {n : Nat} (h : 0 < n) : decide ((if neg then -(n : Int) else n) < 0) = neg := by
  cases neg <;> simp [h]

/-- 1/|x| as a number. -/
theorem den_div_natAbs_num (v : Dy) : (v.den : ℚ) / v.num.natAbs = |v.val|⁻¹ := by
  rw [← Dy.natAbs_num_div_den, inv_div]

/-- Below the overflow, 1/x is at most the largest finite value: an F32 number is a multiple of 2^-149, so that one above
2^-128 is well above it. -/
theorem den_div_natAbs_num_le (he : -149 ≤ v.e) (h : v.den < v.num.natAbs * 2 ^ 128) :
    (v.den : ℚ) / v.num.natAbs ≤ maxF32 := by
  have hnum : 0 < v.num.natAbs := by omega
  have hpos : 0 < |v.val| := by
    rw [← Dy.natAbs_num_div_den]
    exact div_pos (mod_cast hnum) (mod_cast v.den_pos)
  have hlt : |v.val|⁻¹ < 2 ^ 128 := by
    rw [← den_div_natAbs_num, div_lt_iff₀ (mod_cast hnum), mul_comm]
    exact_mod_cast h
  have hval : |v.val| = (v.m.natAbs * 2 ^ (v.e + 149).toNat : Nat) * (2 : ℚ) ^ (-149 : Int) := by
    rw [Dy.val, abs_mul, abs_of_pos (by positivity : (0 : ℚ) < 2 ^ v.e), Nat.cast_mul, Nat.cast_natAbs, Int.cast_abs,
      Nat.cast_pow, ← zpow_natCast, mul_assoc, Nat.cast_two, ← zpow_add₀ two_ne_zero]
    congr 2; omega
  rw [den_div_natAbs_num, inv_le_comm₀ hpos (by norm_num [maxF32])]
  rw [inv_lt_comm₀ hpos (by norm_num)] at hlt
  generalize v.m.natAbs * 2 ^ (v.e + 149).toNat = z at hval
  rw [hval] at hlt ⊢
  have hz : 2 ^ 21 + 1 ≤ z := by
    have : (2 : ℚ) ^ 21 < z := by
      rw [← div_lt_iff₀ (by positivity)] at hlt
      exact lt_of_eq_of_lt (by norm_num) hlt
    exact_mod_cast this
  calc maxF32⁻¹ ≤ (2 ^ 21 + 1 : Nat) * 2 ^ (-149 : Int) := by norm_num [maxF32]
    _ ≤ z * 2 ^ (-149 : Int) := by gcongr

/-- The result of `rcp` of an F32 number below the overflow has its sign and is within one ulp of 1/x. -/
theorem rcpBits_bound (he : -149 ≤ v.e) (h : v.den < v.num.natAbs * 2 ^ 128) :
    ∃ y, decodeF fmtF32 (rcpBits p neg v) = .fin neg y ∧
      withinUlp (if neg then y.neg else y) v.den v.num.natAbs = true := by
  rcases rcpBits_cases (p := p) (neg := neg) h with hx | ⟨hx, hy⟩
  case inr => rwa [hx]
  case inl =>
    have hd : 0 < v.num.natAbs := by omega
    have habs := natAbs_ite_neg neg v.den
    have hn : (if neg then -(v.den : Int) else v.den) ≠ 0 := Int.natAbs_ne_zero.mp (habs.trans_ne v.den_pos.ne')
    obtain ⟨y, hy, hval⟩ := decodeF_roundFrac_F32 (md := .rne) (nsat := false) hn hd
      (by rw [habs]; exact den_div_natAbs_num_le he h)
    have hnear := abs_sigF32_sub_le (md := .rne) (n := if neg then -(v.den : Int) else v.den) hd
    rw [ite_neg_lt_zero neg v.den_pos] at hy hval
    rw [habs] at hval hnear
    exact ⟨y, by rw [hx, rcpExact, hy], (withinUlp_iff hd).mpr (by rwa [hval])⟩

/-- The test by which `rcp` finds a power of two. -/
theorem two_pow_and_sub_one (a : Nat) : 2 ^ a &&& (2 ^ a - 1) = 0 := by
  rw [Nat.and_two_pow_sub_one_eq_mod, Nat.mod_self]

/-- `rcp` of a power of two whose inverse is normal is exact. -/
theorem rcpBits_two_zpow {a b : Nat} {j : Int} (hnum : v.num.natAbs = 2 ^ a) (hden : v.den = 2 ^ b) (hj : (a : Int) - b = j)
    (h1 : -127 ≤ j) (h2 : j ≤ 126) : rcpBits p neg v = signBits fmtF32 neg + (127 - j).toNat * 2 ^ 23 := by
  have hov : v.den < v.num.natAbs * 2 ^ 128 := by
    rw [hnum, hden, ← Nat.pow_add]
    exact Nat.pow_lt_pow_right Nat.one_lt_two (by omega)
  have hnormal : v.num.natAbs ≤ v.den * 2 ^ 126 := by
    rw [hnum, hden, ← Nat.pow_add]
    exact Nat.pow_le_pow_right Nat.two_pos (by omega)
  have hq : (v.den : ℚ) / v.num.natAbs = 2 ^ (-j) := by
    rw [hnum, hden, cast_two_pow_div]
    congr 1; omega
  rw [rcpBits_exact hov (by rw [hnum, two_pow_and_sub_one]) (by rw [hden, two_pow_and_sub_one]) hnormal, rcpExact,
    roundFrac_F32_normal (j := -j) (by omega) (by rw [natAbs_ite_neg, hq]) (by omega) (by omega),
    ite_neg_lt_zero neg v.den_pos, show -j + 127 = 127 - j by omega]

end

theorem vfnLane_rcp_f32Pow (neg : Bool) {e : Nat} (h1 : 1 ≤ e) (h2 : e ≤ 253) :
    vfnLane 0 (signBits fmtF32 neg + e * 2 ^ 23) = signBits fmtF32 neg + (254 - e) * 2 ^ 23 := by
  rw [vfnLane_rcp (decodeF_f32Pow neg h1 (by omega)), if_neg (f32Pow_m_ne_zero neg e),
    rcpBits_two_zpow (j := e - 127) (natAbs_num_f32Pow neg e) (den_f32Pow neg e) (by omega) (by omega) (by omega)]
  congr 2; omega

/-! ## `rsqrt` -/

/-- The model's root is the integer root, where that has the bits that are looked for. -/
theorem isqrt_eq_sqrt {n : Nat} : ∀ {k r : Nat}, r * r ≤ n → n < (r + 2 ^ k) * (r + 2 ^ k) → isqrt n k r = Nat.sqrt n
  | 0, _, h1, h2 => Nat.eq_sqrt.mpr ⟨h1, h2⟩
  | k + 1, r, h1, h2 => by
    have hk : r + 2 ^ k + 2 ^ k = r + 2 ^ (k + 1) := by rw [Nat.pow_succ]; omega
    rw [isqrt]
    split
    case isTrue h => exact isqrt_eq_sqrt h (by rwa [hk])
    case isFalse h => exact isqrt_eq_sqrt h1 (not_le.mp h)

theorem isqrt_two_pow {m k : Nat} (h : m < k) : isqrt (2 ^ m * 2 ^ m) k 0 = 2 ^ m := by
  have hlt : 2 ^ m < 2 ^ k := Nat.pow_lt_pow_right Nat.one_lt_two h
  rw [isqrt_eq_sqrt (Nat.zero_le _) (by rw [Nat.zero_add]; exact Nat.mul_self_lt_mul_self hlt), Nat.sqrt_eq]

/-- The result of `rsqrt` where log2 of the number is even and exact. -/
theorem rsqrtBits_eq {p : Nat} {v : Dy} {r : Nat} {l : Int} (hr : isqrt (v.den * 2 ^ 600 / v.num.natAbs) 700 0 = r)
    (hl : log2Frac v.num.natAbs v.den = l) (hx : v.num.natAbs * pow2 (-l) = v.den * pow2 l) (heven : l % 2 = 0) :
    rsqrtBits p v = roundFrac fmtF32 .rne false r (2 ^ 300) := by
  subst hr hl
  exact if_pos (Bool.and_eq_true_iff.mpr ⟨decide_eq_true hx, decide_eq_true heven⟩)

/-- `rsqrt` of a power of four is exact. -/
theorem rsqrtBits_four_zpow {p : Nat} {v : Dy} {a b : Nat} {j : Int} (hnum : v.num.natAbs = 2 ^ a) (hden : v.den = 2 ^ b)
    (hj : (a : Int) - b = 2 * j) (h1 : -63 ≤ j) (h2 : j ≤ 63) : rsqrtBits p v = (127 - j).toNat * 2 ^ 23 := by
  have hroot : isqrt (v.den * 2 ^ 600 / v.num.natAbs) 700 0 = 2 ^ (300 - j).toNat := by
    have hdiv : v.den * 2 ^ 600 / v.num.natAbs = 2 ^ (300 - j).toNat * 2 ^ (300 - j).toNat := by
      rw [hnum, hden, ← Nat.pow_add, ← Nat.pow_add, Nat.pow_div (by omega) Nat.two_pos]
      congr 1; omega
    rw [hdiv, isqrt_two_pow (by omega)]
  rw [rsqrtBits_eq hroot (log2Frac_of_two_pow hnum hden hj) (scaled_eq_of_two_pow hnum hden hj) (by omega),
    roundFrac_F32_two_pow_div (a := (300 - j).toNat) (b := 300) (j := -j) (by omega) (by omega) (by omega),
    show -j + 127 = 127 - j by omega]

theorem vfnLane_rsqrt_f32Pow {e : Nat} (h1 : 1 ≤ e) (h2 : e ≤ 254) (hodd : e % 2 = 1) :
    vfnLane 1 (e * 2 ^ 23) = (381 - e) / 2 * 2 ^ 23 := by
  rw [vfnLane_rsqrt (decodeF_f32Pow_pos h1 h2), if_neg (f32Pow_m_ne_zero false e), if_neg Bool.false_ne_true,
    rsqrtBits_four_zpow (j := (e - 127) / 2) (natAbs_num_f32Pow false e) (den_f32Pow false e) (by omega) (by omega)
      (by omega)]
  congr 1; omega

/-! ## `log2` -/

/-- `log2` of a power of two is its exponent, rounded into F32, with +0 for 1. -/
theorem vfnLane_log2_f32Pow {e : Nat} (h1 : 1 ≤ e) (h2 : e ≤ 254) :
    vfnLane 3 (e * 2 ^ 23) = if (e : Int) - 127 = 0 then 0 else roundFrac fmtF32 .rne false ((e : Int) - 127) 1 := by
  have hl : ((23 + ((e : Int) - 150).toNat : Nat) : Int) - (150 - (e : Int)).toNat = e - 127 := by omega
  have hsign : (f32Pow false e).num = (f32Pow false e).num.natAbs :=
    (Int.natAbs_of_nonneg (Int.mul_nonneg (by norm_num [f32Pow]) (Int.natCast_nonneg _))).symm
  refine vfnLane_log2_pos (decodeF_f32Pow_pos h1 h2) (f32Pow_m_ne_zero false e)
    (log2Frac_of_two_pow (natAbs_num_f32Pow false e) (den_f32Pow false e) hl) ?_
  rw [hsign]
  exact_mod_cast scaled_eq_of_two_pow (natAbs_num_f32Pow false e) (den_f32Pow false e) hl

/-- The value that `log2` of a power of two gives. -/
theorem decodeF_vfnLane_log2_f32Pow {e : Nat} (h1 : 1 ≤ e) (h2 : e ≤ 254) :
    ∃ v, decodeF fmtF32 (vfnLane 3 (e * 2 ^ 23)) = .fin (decide (e < 127)) v ∧ v.num = ((e : Int) - 127) * v.den := by
  rw [vfnLane_log2_f32Pow h1 h2]
  by_cases hk : (e : Int) - 127 = 0
  · rw [if_pos hk, hk, decide_eq_false (by omega)]
    exact ⟨_, rfl, (Int.zero_mul _).trans (Int.zero_mul _).symm⟩
  · obtain ⟨y, hy, hv⟩ := decodeF_roundFrac_F32_int (md := .rne) (nsat := false) hk (by omega)
    have hsign : decide ((e : Int) - 127 < 0) = decide (e < 127) := decide_eq_decide.mpr (by omega)
    have hn := y.num_eq_val_mul
    rw [hv] at hn
    exact ⟨y, by rw [if_neg hk, hy, hsign], mod_cast hn⟩

/-! ## The obligation -/

/-- Settles O60: each special result is that of its class of inputs; an exact case is a power of two, which rounding leaves as
it is; and `rcp` gives either a free pattern that was tested against the bound or 1/x rounded to nearest, which meets it. -/
theorem functionResults : Obligations.FunctionResults := by
  refine ⟨fun x h fn _ => vfnLane_nan h fn, rfl, rfl, rfl, rfl, rfl, rfl, fun x v h hm => ⟨?_, vfnLane_log2_neg h hm⟩,
    fun x n v h => ⟨fun hm hlt => ?_, vfnLane_exp2_large h, vfnLane_exp2_small h, fun k => vfnLane_exp2_normal h,
      fun k => vfnLane_exp2_subnormal h, fun hm hlt => ?_⟩,
    fun e h1 h2 => ⟨?_, vfnLane_rcp_f32Pow true h1 h2⟩, fun e => vfnLane_rsqrt_f32Pow,
    fun e => decodeF_vfnLane_log2_f32Pow, rfl⟩
  · rw [vfnLane_rsqrt h, if_neg hm, if_pos rfl]
  · rw [vfnLane_rcp h, if_neg hm, rcpBits_overflow hlt]
    cases n <;> rfl
  · rw [vfnLane_rcp h, if_neg hm]
    exact rcpBits_bound (le_exp_of_decodeF_F32 h) hlt
  · have h := vfnLane_rcp_f32Pow false h1 h2
    rwa [signBits, if_neg Bool.false_ne_true, Nat.zero_add, Nat.zero_add] at h

end Sys2Proof.Machine
end

section
/-!
SUPPORT. Where a producer op, a consumer op and an op of the M slot issue or wait for what they need (R150, R151, R158-R163,
R192-R214).
-/
namespace Sys2Proof.Machine

/-! ## Producer ops (R160, R170) -/

/-- A count within the depth of an open channel passes the check. -/
theorem producerCheck_within {c : LeafCtx} {ch : BitVec 3} {n : Nat} (hb : (c.outCh ch).bound = true)
    (hc : (c.outCh ch).closed = false) (hd : n ≤ (c.outCh ch).depth) :
    producerCheck c ch (decide ((c.outCh ch).depth < n)) = none := by
  rw [decide_eq_false hd.not_gt, producerCheck_open hb hc]

section
variable {i : Instr} {s : State} {g : Pg} {ch : BitVec 3} {n : Nat} {rs : List RegRef} {on off : State → Plan}
  {act : State → State} (hi : planOf i = some (guarded .c g on off))
  (hp : on s.settle = { producerPlan s.settle ch n rs id with act := act })
  (hb : (s.settle.curCtx.outCh ch).bound = true) (hc : (s.settle.curCtx.outCh ch).closed = false)
  (hd : n ≤ (s.settle.curCtx.outCh ch).depth)
include hi hp hb hc hd

/-- A producer op that needs `n` free slots issues when its open channel has them. -/
theorem issues_of_producer (hn : n ≤ (s.settle.curCtx.outCh ch).e) : Issues i s .c g rs { act := act } := by
  intro he hclear
  have hcheck := (congrArg Plan.check hp).trans (producerCheck_within hb hc hd)
  have hready := (congrArg Plan.ready hp).trans (decide_eq_true hn)
  have hwrites : (on s.settle).writes = [] := congrArg Plan.writes hp
  have hact : (on s.settle).act = act := congrArg Plan.act hp
  have hflow : (on s.settle).flow = .seq := congrArg Plan.flow hp
  rw [exec_planOf hi]
  exact issueOne_commit he hclear (congrArg Plan.reads hp) (congrArg Plan.brange hp) hcheck hready (congrArg Plan.late hp)
    hwrites hact hflow

/-- It waits with WAIT 1 when its open channel has fewer. -/
theorem waits_of_producer (hn : (s.settle.curCtx.outCh ch).e < n) : Waits i s .c g rs [] 1 := by
  intro he hclear
  have hcheck := (congrArg Plan.check hp).trans (producerCheck_within hb hc hd)
  have hready := (congrArg Plan.ready hp).trans (decide_eq_false hn.not_ge)
  have hwrites : (on s.settle).writes = [] := congrArg Plan.writes hp
  rw [exec_planOf hi]
  exact issueOne_wait he hclear (congrArg Plan.reads hp) (congrArg Plan.brange hp) hcheck hready (congrArg Plan.onWait hp)
    (by rw [hwrites]; exact .nil) (congrArg Plan.wait hp)

end

/-- Settles O27: every producer op is a `producerPlan` with its own effect, so that `issues_of_producer` gives its issue. -/
theorem producerIssues : Obligations.ProducerIssues := by
  intro s g ch a e r k n s0 o b x on sends publish data mark hb hc
  refine ⟨fun h1 hd => ⟨?push, ?pushs, ?null, ?markRe, ?markEos⟩, fun hd hn => ?poke, fun hd hn => ⟨?pub, ?waite⟩⟩
  case push | pushs | null | markRe | markEos => exact issues_of_producer rfl rfl hb hc hd h1
  case poke | pub | waite => exact issues_of_producer rfl rfl hb hc hd hn

/-! ## Ops that take a queue entry (R192, R193) -/

/-- Lines of an aligned base that lie inside the share pass (R204). -/
theorem linesCheck_eq_none {c : LeafCtx} {base m n : Nat} {line : Nat → Nat} (h : base % 64 = 0)
    (hin : ∀ i < m, c.outside (line i) n = none) : linesCheck c base ((List.range m).map line) n = none := by
  rw [linesCheck, if_neg (not_not.2 h), List.findSome?_eq_none_iff]
  intro a ha
  obtain ⟨i, hi, rfl⟩ := List.mem_map.1 ha
  rw [hin i (List.mem_range.1 hi), Option.map_none]

/-- An op that passes its checks waits with WAIT 6 while the queue is full. -/
theorem waits_of_fullQueue {i : Instr} {s : State} {g : Pg} {on : State → Plan} {rs : List RegRef}
    {check late : Option FaultInfo} {op : MsOp} (hi : planOf i = some (guarded .m g on nothing))
    (hp : on s.settle = entryPlan s.settle rs check late op)
    (hfull : 4 ≤ s.settle.curTile.msq.length + s.settle.curTile.left) (hc : check = none) : Waits i s .m g rs [] 6 :=
  waits_of_plan hi hp rfl rfl hc (decide_eq_false hfull.not_gt) rfl .nil rfl

/-- A half that loads belongs to a running `cact` (R210, R214). -/
theorem Tile.cact_isNone_of_loading {x : Tile} {h : Bool} (hl : x.loading h = true) : x.cact.isNone = false := by
  cases hx : x.cact with
  | none => simp [Tile.loading, hx] at hl
  | some r => rfl

/-- Settles O33: each op passes its checks and finds its queue, its half or its channel not ready. -/
theorem slotWaits : Obligations.SlotWaits := by
  refine ⟨?queue, ?halves, ?channels⟩
  case queue =>
    intro s g t u v d bt sh latch ch a x c k base
    refine ⟨fun hfull => ⟨?mma, ?mzero, ?mdrainHead, fun hvalid => ?mdrainScalar, fun hb => ?mlatc, fun ha hin => ?mlat,
      fun ha hin => ?mlatGather, fun ha hin => ?image⟩, fun hne => ?msync⟩
    case mma | mzero | mdrainHead => exact waits_of_fullQueue rfl rfl hfull rfl
    case mdrainScalar => exact waits_of_fullQueue rfl rfl hfull (if_pos hvalid)
    case mlatc => exact waits_of_fullQueue rfl rfl hfull (consumerCheck_bound hb)
    case mlat => exact waits_of_fullQueue rfl rfl hfull (linesCheck_eq_none ha hin)
    case mlatGather =>
      exact waits_of_fullQueue rfl rfl hfull (linesCheck_eq_none ha hin)
    case image =>
      have hcheck : linesCheck c base [base] 4096 = none :=
        linesCheck_eq_none (m := 1) (line := fun _ => base) ha (fun _ _ => hin)
      exact ⟨waits_of_fullQueue rfl rfl hfull hcheck, waits_of_fullQueue rfl rfl hfull hcheck⟩
    case msync =>
      exact waits_of_plan rfl rfl rfl rfl rfl (List.isEmpty_eq_false_iff.2 hne) rfl .nil rfl
  case halves =>
    intro s g k v t a d h h' hi sc b c m s0 hload
    have hnot : (!s0.curTile.loading h) = false := by rw [hload]; rfl
    refine ⟨fun hcard => ?cstep, ?cout, fun ha hin => ?cact⟩
    case cstep =>
      exact waits_of_plan rfl rfl rfl rfl (if_neg (ne_true_of_eq_false hcard)) hnot rfl
        (SameShape.singleton ⟨rfl, rfl, rfl⟩) rfl
    case cout => exact waits_of_plan rfl rfl rfl rfl rfl hnot rfl (SameShape.vec ..).singleton rfl
    case cact =>
      exact waits_of_plan rfl rfl rfl rfl (scratchCheck_eq_none ha hin) (Tile.cact_isNone_of_loading hload) rfl .nil rfl
  case channels =>
    intro s g ch p a e r n c
    refine ⟨fun hb hd hf => ?filled, fun hb hf => ?head, fun hb hd hf => ?index, fun hb hc hd he => ?poke,
      fun hb hc hd he => ?free, fun hb hc he hd => ?one⟩
    case filled =>
      have hwithin := consumerCheck_within hb hd.not_gt
      have hready := decide_eq_false hf.not_ge
      exact ⟨waits_of_plan rfl rfl rfl rfl hwithin hready rfl .nil rfl,
        waits_of_plan rfl rfl rfl rfl hwithin hready rfl .nil rfl⟩
    case head =>
      have hready : decide (0 < (c.inCh ch).f) = false := decide_eq_false hf.not_gt
      have hbound : consumerCheck c ch false = none := consumerCheck_bound hb
      exact ⟨waits_of_plan rfl rfl rfl rfl hbound hready rfl (sameShape_pop (cap := none) _ _) rfl,
        waits_of_plan rfl rfl rfl rfl hbound hready rfl (sameShape_pop (cap := some p) _ _) rfl,
        waits_of_plan rfl rfl rfl rfl hbound hready rfl (sameShape_pops _ _) rfl,
        waits_of_plan rfl rfl rfl rfl hbound hready rfl (SameShape.scalar ..).singleton rfl⟩
    case index =>
      have hwithin := consumerCheck_within hb hd.not_ge
      have hready := decide_eq_false hf.not_gt
      exact ⟨waits_of_plan rfl rfl rfl rfl hwithin hready rfl (SameShape.vec ..).singleton rfl,
        waits_of_plan rfl rfl rfl rfl hwithin hready rfl (sameShape_popWrites a (some p) _ 0 _ {}) rfl⟩
    case poke => exact waits_of_producer rfl rfl hb hc hd (Nat.lt_succ_of_le he)
    case free => exact ⟨waits_of_producer rfl rfl hb hc hd he, waits_of_producer rfl rfl hb hc hd he⟩
    case one =>
      have hlt : (c.outCh ch).e < 1 := by omega
      exact ⟨waits_of_producer rfl rfl hb hc hd hlt, waits_of_producer rfl rfl hb hc hd hlt,
        waits_of_producer rfl rfl hb hc hd hlt, waits_of_producer rfl rfl hb hc hd hlt,
        waits_of_producer rfl rfl hb hc hd hlt⟩

end Sys2Proof.Machine
end

section
/-!
SUPPORT. Arrivals at an input port, at the inlet of an edge buffer and of slot releases (R154, R166, R177, R178, R246).
-/
namespace Sys2Proof.Machine

/-! ## One channel of a context -/

/-- An input channel of a context changed. -/
def LeafCtx.withIn (c : LeafCtx) (ch : Fin 8) (f : InCh → InCh) : LeafCtx := { c with inp := c.inp.set ch (f c.inp[ch]) }

theorem LeafCtx.inp_withIn (c : LeafCtx) (ch : Fin 8) (f : InCh → InCh) : (c.withIn ch f).inp[ch] = f c.inp[ch] :=
  Vector.getElem_set_self ch.isLt

/-- An update of a channel depends on what it makes of that channel only. -/
theorem LeafCtx.withIn_congr (c : LeafCtx) (ch : Fin 8) {f g : InCh → InCh} (h : f c.inp[ch] = g c.inp[ch]) :
    c.withIn ch f = c.withIn ch g := by
  rw [LeafCtx.withIn, h, LeafCtx.withIn]

/-- A firing that is recorded changes no channel (R355). -/
theorem LeafCtx.inp_noteFiring (c : LeafCtx) : c.noteFiring.inp = c.inp := by
  unfold LeafCtx.noteFiring
  split <;> rfl

section
variable (s : State) (t : Site) (l : Leaf) (ch : Fin 8)

/-- An update of a context depends on what it makes of that context only. -/
theorem State.onCtx_congr {f g : LeafCtx → LeafCtx} (h : f (s.ctx t l) = g (s.ctx t l)) : s.onCtx t l f = s.onCtx t l g := by
  have hctx : f (s.tile t).ctx[l] = g (s.tile t).ctx[l] := h
  simp only [State.onCtx, State.onTile, Tile.onCtx, hctx]

/-- An update of a context leaves the scratch of its tile. -/
theorem State.scratch_onCtx (f : LeafCtx → LeafCtx) : ((s.onCtx t l f).tile t).scratch = (s.tile t).scratch := by
  rw [State.tile_onCtx]
  rfl

/-- The channel after an update of it. -/
theorem State.inp_onCtx_withIn (f : InCh → InCh) :
    ((s.onCtx t l (fun c => c.withIn ch f)).ctx t l).inp[ch] = f (s.ctx t l).inp[ch] := by
  rw [State.ctx_onCtx, LeafCtx.inp_withIn]

/-- An update of a tile that keeps its contexts keeps a context of it. -/
theorem State.ctx_onTile {f : Tile → Tile} (h : (f (s.tile t)).ctx = (s.tile t).ctx) :
    (s.onTile t f).ctx t l = s.ctx t l := by
  simp only [State.ctx, State.tile_onTile, h]

end

/-! ## Lines that an input port stores (R225) -/

section
variable (x : Tile) (a : Nat) (v : Vec)

theorem Tile.scratch_putLine : (x.putLine a v).scratch = x.scratch.writeVec a v := by
  simp only [Tile.putLine, Tile.putScratch, Memory.writeVec]

theorem Tile.ctx_putLine : (x.putLine a v).ctx = x.ctx := by
  simp only [Tile.putLine, Tile.putScratch]

end

/-! ## The conversion of a route that does not split (R166) -/

section
variable {c : InCh} {fmt : BitVec 4}

/-- A payload of the channel's format, or of any format at a raw channel, fills one slot as it is. -/
theorem InCh.convert_same (h : fmt = c.fmt ∨ c.fmt = 0) (v : Vec) : c.convert fmt false v = ([v], none) := by
  have hratio : splitRatio fmt c.fmt = some 1 := if_pos h.symm
  have hpayload : splitPayload fmt c.fmt 1 0 v = v := if_pos ⟨rfl, h.symm⟩
  simp only [InCh.convert, hratio, Bool.false_eq_true, if_false, List.range_one, List.map_cons, List.map_nil, hpayload]

/-- A data token of the channel's format fills one slot as it is; its payload may have landed with its poke (R149, R154). -/
theorem InCh.arriving_same {tok : Token} {poked : Bool} (hkind : tok.side.kind = 0) (hnull : tok.side.null = false)
    (hfmt : tok.side.fmt = c.fmt ∨ c.fmt = 0) (hscale : (tok.side.scaled && tok.side.aux.getLsbD 23) = false) :
    c.arriving tok poked = [({ side := tok.side, parity := tok.bad }, if poked then none else some tok.payload)] := by
  have hdata : ¬ tok.side.kind ≠ 0 := not_not.2 hkind
  have htoken : ¬ tok.side.null = true := ne_true_of_eq_false hnull
  have hstored : (if (none : Option (BitVec 8)).isNone && decide (c.fmt ≠ 0) && !false then c.fmt else tok.side.fmt) =
      tok.side.fmt := by
    obtain h | h := hfmt <;> simp [h]
  dsimp only [InCh.arriving]
  rw [if_neg htoken, if_neg hdata]
  simp only [hscale, InCh.convert_same hfmt, hstored, List.length_singleton, List.range_one, List.map_cons,
    List.map_nil, List.getD_cons_zero, beq_self_eq_true, Bool.and_true, Nat.zero_add]

end

/-! ## A slot that is filled (R154) -/

/-- A channel with one more filled slot. -/
def InCh.fill (c : InCh) (j : Nat) (x : SlotInfo) : InCh := { c with slots := c.slots.set j x, f := c.f + 1 }

section
variable (c : InCh) {j k : Nat} (x : SlotInfo)

theorem InCh.info_fill_same : (c.fill j x).info j = x := c.slots.get_set_same j x {}

theorem InCh.info_fill_ne (h : k ≠ j) : (c.fill j x).info k = c.info k := c.slots.get_set_ne x {} h.symm

end

section
variable {s : State} {t : Site} {l : Leaf} {ch : Fin 8} {n : Nat} {x : SlotInfo} {p : Option Vec}

/-- A slot whose payload has landed already is counted as filled. -/
theorem State.storeSlots_landed : s.storeSlots t l ch n [(x, none)] =
    s.onCtx t l (fun c => c.withIn ch (fun i => i.fill (n % (s.ctx t l).inp[ch].depth) x)) := rfl

/-- A slot takes its payload and is counted as filled. -/
theorem State.storeSlots_stored (v : Vec) : s.storeSlots t l ch n [(x, some v)] =
    (s.onTile t (fun y => y.putLine ((s.ctx t l).inp[ch].slotAddr (n % (s.ctx t l).inp[ch].depth)) v)).onCtx t l
      (fun c => c.withIn ch (fun i => i.fill (n % (s.ctx t l).inp[ch].depth) x)) := rfl

theorem State.inp_storeSlots_singleton :
    ((s.storeSlots t l ch n [(x, p)]).ctx t l).inp[ch] =
      (s.ctx t l).inp[ch].fill (n % (s.ctx t l).inp[ch].depth) x := by
  cases p with
  | none => rw [State.storeSlots_landed, State.inp_onCtx_withIn]
  | some v => rw [State.storeSlots_stored, State.inp_onCtx_withIn, State.ctx_onTile s t l (Tile.ctx_putLine _ _ _)]

/-- The slot holds the payload that was stored, or what it held where none was. -/
theorem State.readVec_storeSlots_singleton (hwf : (s.tile t).scratch.wf = true) {a : Nat}
    (ha : (s.ctx t l).inp[ch].slotAddr (n % (s.ctx t l).inp[ch].depth) = a) :
    ((s.storeSlots t l ch n [(x, p)]).tile t).scratch.readVec a = p.getD ((s.tile t).scratch.readVec a) := by
  subst ha
  cases p with
  | none => rw [State.storeSlots_landed, State.scratch_onCtx, Option.getD_none]
  | some v =>
    rw [State.storeSlots_stored, State.scratch_onCtx, State.tile_onTile, Tile.scratch_putLine,
      Memory.readVec_writeVec hwf, Option.getD_some]

end

/-! ## A token that fills one slot (R154) -/

section
variable {s : State} {t : Site} {l : Leaf} {ch : Fin 8} {c : InCh} {i : Item} {slot : Nat} {tok : Token} {poked : Bool}
  {x : SlotInfo} {p : Option Vec} (hc : (s.ctx t l).inp[ch] = c)
  (h : (c.boundBy i).arriving tok poked = [(x, p)])
include hc h

/-- It is stored behind the filled slots, with a payload of its own or with that of the slot which its producer slot covers. -/
theorem State.publishArrival_single :
    ∃ q, s.publishArrival t l ch i slot tok poked =
        ((s.onCtx t l (fun y => y.withIn ch (fun c => c.boundBy i))).storeSlots t l ch (c.h + c.f) [(x, q)]).onCtx t l
          LeafCtx.noteFiring ∧
      q.getD ((s.tile t).scratch.readVec (c.slotAddr (c.slot c.f))) =
        p.getD ((s.tile t).scratch.readVec (c.slotAddr (i.ratio * slot % c.depth))) := by
  refine ⟨if (c.h + c.f) % c.depth = i.ratio * slot % c.depth then p
    else some (p.getD ((s.tile t).scratch.readVec (c.slotAddr (i.ratio * slot % c.depth)))), ?_, ?_⟩
  · rw [State.publishArrival, hc]
    simp only [h, List.zipIdx_singleton, List.map_cons, List.map_nil, Nat.add_zero]
    exact congrArg (fun q => State.onCtx (State.storeSlots _ t l ch _ [q]) t l LeafCtx.noteFiring)
      (apply_ite (Prod.mk x) _ _ _).symm
  · split
    case isTrue hsame => rw [InCh.slot, hsame]
    case isFalse => rw [Option.getD_some]

theorem State.inp_publishArrival :
    ((s.publishArrival t l ch i slot tok poked).ctx t l).inp[ch] = (c.boundBy i).fill (c.slot c.f) x := by
  obtain ⟨q, hq, -⟩ := State.publishArrival_single (slot := slot) hc h
  rw [hq, State.ctx_onCtx, LeafCtx.inp_noteFiring, State.inp_storeSlots_singleton, State.inp_onCtx_withIn, hc]
  rfl

/-- The slot holds the payload of the token, or where it has none that of the slot which its producer slot covers. -/
theorem State.readVec_publishArrival (hwf : (s.tile t).scratch.wf = true) :
    ((s.publishArrival t l ch i slot tok poked).tile t).scratch.readVec (c.slotAddr (c.slot c.f)) =
      p.getD ((s.tile t).scratch.readVec (c.slotAddr (i.ratio * slot % c.depth))) := by
  obtain ⟨q, hq, hpayload⟩ := State.publishArrival_single (slot := slot) hc h
  rw [hq, State.scratch_onCtx, State.readVec_storeSlots_singleton, State.scratch_onCtx, hpayload]
  · rwa [State.scratch_onCtx]
  · rw [State.inp_onCtx_withIn, hc]
    rfl

end

/-! ## A poke that fills one slot (R154) -/

/-- A poke of the channel's format lands its payload as it is. -/
theorem State.landPoke_same {s : State} {t : Site} {l : Leaf} {ch : Fin 8} {c : InCh} {i : Item} {slot : Nat}
    {fmt : BitVec 4} (hc : (s.ctx t l).inp[ch] = c) (h : fmt = c.fmt ∨ c.fmt = 0) (v : Vec) :
    s.landPoke t l ch i slot fmt v = s.onTile t (fun y => y.putLine (c.slotAddr (i.ratio * slot % c.depth)) v) := by
  have hconv : (c.boundBy i).convert fmt false v = ([v], none) := InCh.convert_same (c := c.boundBy i) h v
  rw [State.landPoke, hc]
  simp only [hconv, List.length_singleton, List.range_one, List.foldl_cons, List.foldl_nil, List.getD_cons_zero, Nat.add_zero]
  rfl

/-! ## The head of an input port (R375) -/

section
variable {s : State} {t : Site} {l : Leaf} {ch : Fin 8} {f : Flight} {rest : List Flight} {slot : Nat}

section
variable (hport : (s.ctx t l).inp[ch].port = f :: rest)
include hport

theorem State.takePort_of_port :
    s.takePort t l ch = s.onCtx t l (fun x => x.withIn ch (fun i => { i with port := rest })) := by
  refine s.onCtx_congr t l ?_
  rw [hport]
  rfl

variable (hdue : f.due ≤ s.cycleAt t) (hreg : s.regBad t l ch.val = false)
include hdue hreg

/-- An item that has arrived, at a port whose ICFG is sound. -/
theorem State.portHead_of_port : s.portHead t l ch = some f.item := by
  simp only [State.portHead, hport, hdue, hreg, Bool.not_false, and_self, if_true]

variable (hmem : isMemory t = false)
include hmem

theorem exec_tokenArrival_publish {tok : Token} {poked : Bool} (hbody : f.item.body = .publish slot tok poked) :
    exec (.tokenArrival t l ch) s = .next ((s.takePort t l ch).publishArrival t l ch f.item slot tok poked) := by
  have hhead := State.portHead_of_port hport hdue hreg
  change execTokenArrival t l ch s = _
  simp only [execTokenArrival, hmem, hhead, hbody, Bool.false_eq_true, if_false]

theorem exec_tokenArrival_poke {fmt : BitVec 4} {v : Vec} (hbody : f.item.body = .poke slot fmt v) :
    exec (.tokenArrival t l ch) s = .next ((s.takePort t l ch).landPoke t l ch f.item slot fmt v) := by
  have hhead := State.portHead_of_port hport hdue hreg
  change execTokenArrival t l ch s = _
  simp only [execTokenArrival, hmem, hhead, hbody, Bool.false_eq_true, if_false]

theorem exec_faultDrainArrival (hbody : f.item.body = .faultDrain) :
    exec (.faultDrainArrival t l ch) s =
      .next ((s.takePort t l ch).advanceIn t l (BitVec.ofFin ch) (s.ctx t l).inp[ch].f) := by
  have hhead := State.portHead_of_port hport hdue hreg
  change execFaultDrainArrival t l ch s = _
  simp only [execFaultDrainArrival, hmem, hhead, hbody, Bool.false_eq_true, if_false, if_true]

/-- A port that is no back-edge of a saved context holds its marker (R149, R354). -/
theorem exec_preEmptMarkerArrival (hbody : f.item.body = .preempt) (hopen : (s.ctx t l).inp[ch].openBack = false) :
    exec (.preEmptMarkerArrival t l ch) s =
      .next ((s.takePort t l ch).onCtx t l (fun c => c.withIn ch (fun i => { i with marker := true }))) := by
  have hhead := State.portHead_of_port hport hdue hreg
  have hstill : ((s.takePort t l ch).ctx t l).inp[ch].openBack = false := by
    rw [State.takePort_of_port hport, State.inp_onCtx_withIn]
    exact hopen
  change execPreEmptMarkerArrival t l ch s = _
  simp only [execPreEmptMarkerArrival, hmem, hhead, hbody, Bool.false_eq_true, if_false, if_true]
  exact congrArg _ (State.onCtx_congr _ t l (LeafCtx.withIn_congr _ ch
    (f := fun i => if i.openBack then { i with openBack := false } else { i with marker := true })
    (if_neg (ne_true_of_eq_false hstill))))

end

/-! ## The inlet of an edge buffer (R246) -/

/-- A storage slot that is free, or of a released buffer, blocks nothing (R247, R317). -/
theorem EdgeBuf.uses_and_not_freed {b : EdgeBuf} (h : b.uses slot = false ∨ b.freed = true) :
    (b.uses slot && !b.freed) = false := by
  obtain h | h := h <;> simp [h]

section
variable (hmem : isMemory t = true) (hport : (s.ebuf t l ch).port = f :: rest) (hdue : f.due ≤ s.cycleAt t)
include hmem hport hdue

/-- A token or poke that nothing blocks joins its edge buffer, whose EBD is sound. -/
theorem exec_tokenArrival_edge (hreg : s.regBad t l (0x10 + ch.val) = false) (htoken : f.item.body.isToken = true)
    (hfree : (s.ebuf t l ch).blocks f.item.body = false) :
    exec (.tokenArrival t l ch) s =
      .next ((s.onEbuf t l ch (fun b => { b with port := rest })).ebufArrival t l ch f.item) := by
  rw [State.ebuf] at hport hfree
  change execTokenArrival t l ch s = _
  simp only [execTokenArrival, execTokenArrival.happens', hmem, hport, hreg, htoken, hfree, hdue, decide_true,
    Bool.and_self, Bool.not_false, Bool.false_eq_true, if_false, if_true]

theorem exec_faultDrainArrival_edge (hbody : f.item.body = .faultDrain) :
    exec (.faultDrainArrival t l ch) s =
      .next ((s.onEbuf t l ch (fun b => { b with port := rest })).ebufArrival t l ch f.item) := by
  rw [State.ebuf] at hport
  change execFaultDrainArrival t l ch s = _
  simp only [execFaultDrainArrival, hmem, hport, hdue, hbody, and_self, if_true]

theorem exec_preEmptMarkerArrival_edge (hbody : f.item.body = .preempt) :
    exec (.preEmptMarkerArrival t l ch) s =
      .next ((s.onEbuf t l ch (fun b => { b with port := rest })).ebufArrival t l ch f.item) := by
  rw [State.ebuf] at hport
  change execPreEmptMarkerArrival t l ch s = _
  simp only [execPreEmptMarkerArrival, hmem, hport, hdue, hbody, and_self, if_true]

end

end

/-! ## Slot releases (R154, R177, R178) -/

section
variable {s : State} {n : Nat} {r : Release} (hr : s.releases[n]? = some r)
include hr

/-- A release that has come its whole way gives its slots back. -/
theorem exec_slotReleaseArrival_tile {t : Site} {l : Leaf} {ch : Fin 8} (hdest : r.dest = .tile t l ch) (hlegs : r.legs = [])
    (hdue : r.due.getD 0 ≤ s.cycleAt t) :
    exec (.slotReleaseArrival n) s = .next ({ s with releases := s.releases.eraseIdx n }.onCtx t l (fun c =>
      { c with outp := c.outp.set ch (c.outp[ch].returned r.n) })) := by
  have harrives : r.arrives (s.cycleAt t) = true := decide_eq_true hdue
  change execSlotReleaseArrival n s = _
  simp only [execSlotReleaseArrival, hr, hdest, hlegs, harrives, Bool.not_true, Bool.false_eq_true, if_false]

/-- A release crosses the next bridge of its way between two dies that are not fenced. -/
theorem exec_slotReleaseArrival_cross {d : DieId} {k : Nat} {legs : List (DieId × Nat)} (hlegs : r.legs = (d, k) :: legs)
    (hdue : r.due.getD 0 ≤ s.dies[r.die].cycle.toNat) (hfrom : s.fenced r.die = false) (hto : s.fenced d = false) :
    exec (.slotReleaseArrival n) s =
      .next { s with releases := s.releases.set n (r.cross d k s.dies[d].cycle.toNat legs) } := by
  have harrives : r.arrives s.dies[r.die].cycle.toNat = true := decide_eq_true hdue
  change execSlotReleaseArrival n s = _
  simp only [execSlotReleaseArrival, hr, hlegs, harrives, hfrom, hto, Bool.not_true, Bool.or_self, Bool.false_eq_true,
    if_false]

end

/-- Settles O46: what each event does with the head of its port, by the lemmas `exec_…` above; a token or poke of a route that
does not split fills one slot (`State.inp_publishArrival`, `State.readVec_publishArrival`, `State.landPoke_same`). -/
theorem tokenArrivals : Obligations.TokenArrivals := by
  intro s t l ch f rest slot n tok poked fmt v rel lb cb leg legs c popped b
  refine ⟨fun hmem hport hdue hreg => ?port, fun hmem hport hdue hreg => ?inlet, fun hr hdest hlegs hdue => ?release,
    fun hr hlegs hdue hfrom hto => exec_slotReleaseArrival_cross hr hlegs hdue hfrom hto⟩
  case port =>
    have hpopped : s.takePort t l ch = popped := State.takePort_of_port hport
    have hchannel : (popped.ctx t l).inp[ch] = { c with port := rest } :=
      s.inp_onCtx_withIn t l ch (fun i => { i with port := rest })
    have hscratch : (popped.tile t).scratch = (s.tile t).scratch := s.scratch_onCtx t l _
    have hpublish (hbody : f.item.body = .publish slot tok poked) := exec_tokenArrival_publish hport hdue hreg hmem hbody
    have hpoke (hbody : f.item.body = .poke slot fmt v) := exec_tokenArrival_poke hport hdue hreg hmem hbody
    rw [hpopped] at hpublish hpoke
    refine ⟨hpublish, hpoke, fun hwf hratio => ⟨fun hbody hkind hnull hfmt hscale => ?token, fun hbody hfmt => ?poked⟩,
      fun hbody => ?drain, fun hbody hopen => ?marker⟩
    case token =>
      have hslot := InCh.arriving_same (c := InCh.boundBy { c with port := rest } f.item) (poked := poked) hkind hnull
        hfmt hscale
      have hinp := State.inp_publishArrival (slot := slot) hchannel hslot
      have hpayload := State.readVec_publishArrival (slot := slot) hchannel hslot (hscratch ▸ hwf)
      rw [hratio, Nat.one_mul, hscratch] at hpayload
      refine ⟨_, hpublish hbody, ?_⟩
      rw [hinp]
      refine ⟨rfl, rfl, rfl, rfl, rfl, ?_, ?_, fun j hj => ?_, fun h => ?_, fun h => ?_⟩
      · exact congrArg SlotInfo.side (InCh.info_fill_same ..)
      · exact congrArg SlotInfo.mark (InCh.info_fill_same ..)
      · exact InCh.info_fill_ne _ _ hj
      · subst h; exact hpayload
      · subst h; exact hpayload
    case poked =>
      have hland := State.landPoke_same (i := f.item) (slot := slot) hchannel hfmt v
      rw [hratio, Nat.one_mul] at hland
      refine ⟨_, hpoke hbody, ?_, ?_⟩
      · rw [hland, State.ctx_onTile popped t l (Tile.ctx_putLine _ _ _), hchannel]
      · rw [hland, State.tile_onTile, Tile.scratch_putLine]
        exact Memory.readVec_writeVec (hscratch ▸ hwf) _ _
    case drain => exact hpopped ▸ exec_faultDrainArrival hport hdue hreg hmem hbody
    case marker => exact hpopped ▸ exec_preEmptMarkerArrival hport hdue hreg hmem hbody hopen
  case inlet =>
    refine ⟨fun hbody hfree => ?_, fun hbody hfree => ?_, fun hbody => ?_, fun hbody => ?_⟩
    · exact exec_tokenArrival_edge hmem hport hdue hreg (hbody ▸ rfl) (hbody ▸ EdgeBuf.uses_and_not_freed hfree)
    · exact exec_tokenArrival_edge hmem hport hdue hreg (hbody ▸ rfl) (hbody ▸ EdgeBuf.uses_and_not_freed hfree)
    · exact exec_faultDrainArrival_edge hmem hport hdue hbody
    · exact exec_preEmptMarkerArrival_edge hmem hport hdue hbody
  case release =>
    refine ⟨_, exec_slotReleaseArrival_tile hr hdest hlegs hdue, rfl, ?_⟩
    rw [State.ctx_onCtx]
    exact Vector.getElem_set_self cb.isLt

end Sys2Proof.Machine
end

section
/-!
SUPPORT. Where the command ops issue (R183-R188, R316-R319, R345-R347).
-/
namespace Sys2Proof.Machine

/-! ## An effect at the state in which its bundle issues -/

/-- What an op leaves depends on its writes, its flow, and its effect at the state in which it issues. -/
theorem commit_congr_at {s : State} {p q : Plan} (hw : p.writes = q.writes) (ha : p.act s = q.act s)
    (hf : p.flow = q.flow) (k : Slot) : s.commit [(k, p)] = s.commit [(k, q)] := by
  simp only [State.commit, Plan.live, flowOf, List.foldl_cons, List.foldl_nil, List.flatMap_cons, List.flatMap_nil, hw, ha,
    List.find?]
  cases k == Slot.s <;> simp only [hf]

/-- An op whose plan passes its checks and waits for nothing issues, where its effect and the given one agree at the settled
state. -/
theorem issues_of_plan_at {i : Instr} {s : State} {k : Slot} {g : Pg} {on : State → Plan} {p q : Plan} {rs : List RegRef}
    (hi : planOf i = some (guarded k g on nothing)) (hp : on s.settle = p) (hrs : p.reads = rs)
    (hb : p.brange = none) (hc : p.check = none) (hr : p.ready = true) (hl : p.late = none) (hw : p.writes = q.writes)
    (ha : p.act s.settle = q.act s.settle) (hf : p.flow = q.flow) : Issues i s k g rs q := by
  intro he hclear
  have hissues : Issues i s k g rs p := issues_of_plan hi hp hrs hb hc hr hl rfl rfl rfl
  rw [hissues he (hw ▸ hclear), commit_congr_at hw ha hf]

/-! ## The checks and waits of commands -/

/-- Two checks that both pass. -/
theorem firstFault_pair {f e : Option FaultInfo} (hf : f = none) (he : e = none) : firstFault [f, e] = none := by
  rw [hf, he, firstFault_none, firstFault_none, firstFault_nil]

/-- A selector that names a template (R316, R317). -/
theorem selectorCheck_eq_none {x : W32} (hx : x.toNat < 2 ^ 11) (hm : (x.extractLsb' 2 7).toNat ≤ 95) :
    selectorCheck x = none := if_neg (by omega)

/-- A `cfgt` on an open channel with an index from 2 to 19 (R319). -/
theorem cfgtCheck_eq_none {s : State} {ch : BitVec 3} {x : W32} (hb : (s.curCtx.outCh ch).bound = true)
    (hc : (s.curCtx.outCh ch).closed = false) (hlow : 2 ≤ x.toNat) (hhigh : x.toNat ≤ 19) : cfgtCheck s ch x = none :=
  firstFault_pair (producerCheck_open hb hc) (if_pos ⟨hlow, hhigh⟩)

/-- A port with a free slot (R228). -/
theorem portFree_of_room {s : State} (h : s.curTile.port.length < 16) : s.portFree = true := decide_eq_true h

/-! ## The obligation -/

/-- Settles O32: each command passes its checks and finds its port, its channel, its outbound buffer or its pool entry. The
token of `cfgt` takes ROUND from the channel of the issuing context, which is the one that its effect finds. -/
theorem commandIssues : Obligations.CommandIssues := by
  intro s g ch d a b q v cls tag range ret n s0 k c x y o sel port mask masked child pr
  refine ⟨fun hport ha hsel => ?arm, fun hport hsel => ?fire, fun hb hc he hlow hhigh => ?cfgt, fun hexit hroom => ?send,
    ?cmask, ?cunm, fun hport hdepth hpool hret => ?lnch⟩
  case arm =>
    exact issues_of_plan rfl rfl rfl rfl (armCheck_eq_none ha hsel.1 hsel.2) (portFree_of_room hport) rfl rfl rfl rfl
  case fire =>
    exact issues_of_plan rfl rfl rfl rfl (selectorCheck_eq_none hsel.1 hsel.2) (portFree_of_room hport) rfl rfl rfl rfl
  case cfgt =>
    exact issues_of_plan_at rfl rfl rfl rfl (cfgtCheck_eq_none hb hc hlow hhigh) (decide_eq_true he) rfl rfl
      (State.onCtx_congr s0 s0.cur.tile s0.curLeaf rfl) rfl
  case send => exact issues_of_plan rfl rfl rfl rfl (if_pos hexit) (decide_eq_true hroom) rfl rfl rfl rfl
  case cmask | cunm => exact issues_of_plan rfl rfl rfl rfl rfl rfl rfl rfl rfl rfl
  case lnch =>
    have hcheck {f : FaultInfo} {e : Option FaultInfo} (he : e = none) :
        firstFault [if k.gdepth = 8 then some f else none, e] = none := firstFault_pair (if_neg hdepth) he
    have hready {b : Bool} (hb : b = true) : ((s0.poolFor k.gdepth).isSome && s0.portFree && b) = true := by
      rw [hpool, portFree_of_room hport, hb]
      rfl
    obtain rfl : (s0.poolFor k.gdepth).getD 0 = n := by rw [hpool, Option.getD_some]
    cases ret with
    | none => cases range <;> exact issues_of_plan rfl rfl rfl rfl (hcheck rfl) (hready rfl) rfl rfl rfl rfl
    | some ch =>
      obtain ⟨hopen, hslot⟩ := hret ch rfl
      cases range <;>
        exact issues_of_plan rfl rfl rfl rfl (hcheck (respCheck_opened hopen)) (hready hslot) rfl rfl rfl rfl

end Sys2Proof.Machine
end

section
/-!
SUPPORT. The hops of tokens and class packets through switch boxes, over bridges and into class buffers (R173, R177-R182,
R186).
-/
namespace Sys2Proof.Machine

/-! ## Hops of tokens (R173, R177, R179-R181) -/

/-- The phase in which an item leaves a box by a word: on a track that of its half of a shared outlet, at a delivery that of
the outlet or its own (R174; log 20). -/
def outletPhase (w : Fin 64) (shared : Option Nat) (ph : Nat) : Nat :=
  if w.val < 56 then shared.getD 0 else shared.getD ph

/-- An item that leaves its box moves on. -/
theorem exec_tokenHop {s u : State} {t : Site} {src : Fin 64} {ph : Fin 2} (h : s.hop t src.val ph.val = some u) :
    exec (.tokenHop t src ph) s = .next u := by
  change execTokenHop t src ph s = _
  rw [execTokenHop, h, Option.getD_some]

section
variable {s s1 : State} {t : Site} {src ph : Nat} {i : Item} {w : Fin 64} {shared : Option Nat}
  (hopen : s.fenced (siteDie t) = false) (hhead : s.sourceHead t src ph = some (i, s1))
  (hout : (s.box t).outlet t src ph = some (w, shared)) (hsound : s.boxHolds t (w.val :: boxWide) i.part = none)
include hopen hhead hout hsound

/-- A guard drops the item (R179-R181). -/
theorem State.hop_guarded (hdrop : (s.box t).drops w.val (outletPhase w shared ph) = true) :
    s.hop t src ph =
      some (s1.guardDrop t false (BitVec.ofNat 6 w.val) (outletPhase w shared ph) i.body.side i.part) := by
  rw [outletPhase] at hdrop ⊢
  simp only [State.hop, hopen, hhead, hout, hsound, hdrop, Option.isSome_none, Bool.false_eq_true, if_false, if_true]

section
variable (hpass : (s.box t).drops w.val (outletPhase w shared ph) = false)
include hpass

/-- The item joins an outgoing track with room, in the cycle of its phase (R173, R177). -/
theorem State.hop_track (hw : w.val < 56) (hroom : s.trackRoom t w.val shared = true)
    (hturn : s.trackTurn t w.val shared = true) :
    s.hop t src ph = some (s1.putTrack t w.val (outletPhase w shared ph) i) := by
  rw [outletPhase, if_pos hw] at hpass ⊢
  simp only [State.hop, hopen, hhead, hout, hsound, hpass, hw, hroom, hturn, Option.isSome_none, Bool.false_eq_true,
    Bool.and_self, if_false, if_true]

/-- The item leaves its last box for the port of a tile or the inlet of an edge buffer (R172, R177; log 20). -/
theorem State.hop_delivery (hw : 56 ≤ w.val) (hsite : isCompute t = true ∨ isMemory t = true)
    (hfree : s.outletFree t w.val shared = true) :
    s.hop t src ph = some ((s1.deliver t (Fin.ofNat 8 (w.val - 56)) (Fin.ofNat 2 (outletPhase w shared ph)) i).onBox t
      (fun b => { b with used := b.used.set (bufKey w.val (shared.getD 0)) (s.cycleAt t + 1) })) := by
  rw [outletPhase, if_neg hw.not_gt] at hpass ⊢
  simp only [State.hop, hopen, hhead, hout, hsound, hpass, hw.not_gt, Bool.or_eq_true_iff.2 hsite, hfree,
    Option.isSome_none, Bool.false_eq_true, if_false, if_true]

end

end

/-! ## Bridges (R178) -/

/-- The item at the head of a bridge track has reached the facing box. -/
def State.overBridge (s : State) (t f : Site) (w : Nat) (i : Item) (rest : List Flight) : State :=
  let src := 14 * opposite (w / 14) + w % 14
  (s.onBox t (fun b => { b with buf := b.buf.set (bufKey w 0) rest })).onBox f (fun b =>
    { b with bridge := b.bridge.set src (b.bridge.get src [] ++ [⟨i.crossed (siteDie t), 0⟩]) })

/-- A crossing between two dies that are not fenced leaves the boxes so; a token is counted besides (R344). -/
theorem exec_bridgeCrossing {s : State} {t f : Site} {w : Fin 64} {fl : Flight} {rest : List Flight}
    (hend : trackEnd t w.val = .bridge f) (hfrom : s.fenced (siteDie t) = false) (hto : s.fenced (siteDie f) = false)
    (hbuf : (s.box t).buf.get (bufKey w.val 0) [] = fl :: rest) :
    ∃ u, exec (.bridgeCrossing t w) s = .next u ∧ u.boxes = (s.overBridge t f w.val fl.item rest).boxes := by
  change ∃ u, execBridgeCrossing t w s = .next u ∧ _
  simp only [execBridgeCrossing, hend, hfrom, hto, hbuf, Bool.false_eq_true, or_self, if_false]
  cases fl.item.body <;> exact ⟨_, rfl, rfl⟩

section
variable (s : State) {t f : Site} (w : Nat) (i : Item) (rest : List Flight)

/-- The track has lost its head. -/
theorem State.buf_overBridge (h : t ≠ f) : ((s.overBridge t f w i rest).box t).buf.get (bufKey w 0) [] = rest := by
  rw [State.overBridge, State.box_onBox_ne _ _ _ _ h, State.box_onBox]
  exact FMap.get_set_same ..

/-- The item stands behind those that crossed before it. -/
theorem State.bridge_overBridge : ((s.overBridge t f w i rest).box f).bridge.get (14 * opposite (w / 14) + w % 14) [] =
    (s.box f).bridge.get (14 * opposite (w / 14) + w % 14) [] ++ [⟨i.crossed (siteDie t), 0⟩] := by
  have hkept : ((s.onBox t (fun b => { b with buf := b.buf.set (bufKey w 0) rest })).box f).bridge = (s.box f).bridge := by
    obtain rfl | h := eq_or_ne f t
    · rw [State.box_onBox]
    · rw [State.box_onBox_ne _ _ _ _ h]
  rw [State.overBridge, State.box_onBox, hkept]
  exact FMap.get_set_same ..

end

/-- A box is the same where the boxes are. -/
theorem State.box_congr {s u : State} (h : u.boxes = s.boxes) (t : Site) : u.box t = s.box t := by
  rw [State.box, State.box, h]

/-! ## Hops of class packets (R179, R182, R186) -/

/-- A packet that leaves its class inlet moves on. -/
theorem exec_classPacketHop {s u : State} {t : Site} {fr : Fin 5} {ph : Fin 2} (h : s.classHop t fr.val ph.val = some u) :
    exec (.classPacketHop t fr ph) s = .next u := by
  change execClassPacketHop t fr ph s = _
  rw [execClassPacketHop, h, Option.getD_some]

theorem ClassPkt.isMarker_eq_false {p : ClassPkt} (h : p.tok.side.kind ≠ 3) : p.isMarker = false := beq_false_of_ne h

section
variable {s s1 : State} {t : Site} {fr : Nat} {ph : Fin 2} {p : ClassPkt} {e : Fin 5}
  (hopen : s.fenced (siteDie t) = false) (hhead : s.classHead t fr ph.val = some (p, s1)) (hkind : p.tok.side.kind ≠ 3)
  (hsound : s.boxHolds t ((0x40 + 16 * ph.val + p.cls.toNat) :: boxWide) p.part = none)
  (hexit : (s.box t).exit (Fin.ofNat 2 ph.val) p.cls = some e)
include hopen hhead hkind hsound hexit

/-- The packet joins a class track that no guard bars and that has room (R179, R182). -/
theorem State.classHop_track (he : e.val < 4)
    (hpass : (s.box t).gcfg.getLsbD (2 * e.val + (s.box t).trackPhase ph.val) = false)
    (hnext : (classNeighbour t e.val).isSome = true) (hroom : s.classRoom t e.val ph.val = true) :
    s.classHop t fr ph.val =
      some (s1.onBox t (fun b => b.pushClass e.val ph.val { p with due := s.cycleAt t + 1 })) := by
  have hlead : (classNeighbour t e.val).isNone = false := Option.isNone_eq_false_iff.2 hnext
  rw [ClassPkt.cls] at hsound hexit
  simp only [State.classHop, hopen, hhead, ClassPkt.isMarker_eq_false hkind, pktClass, Nat.mod_eq_of_lt ph.isLt, hsound,
    hexit, he.ne, hpass, hlead, hroom, Option.isSome_none, Bool.false_eq_true, if_false, if_true]

/-- The packet goes to the class inlet of its tile, which no guard bars and which has room (R179, R186). -/
theorem State.classHop_inlet (he : e.val = 4) (hpass : (s.box t).gcfg.getLsbD (8 + ph.val) = false)
    (hsite : isCompute t = true) (hroom : s.inletRoom t (Fin.ofNat 2 ph.val) = true) :
    s.classHop t fr ph.val = some (s1.onBox t (fun b => b.pushClass 4 ph.val { p with due := s.cycleAt t + 1 })) := by
  rw [ClassPkt.cls] at hsound hexit
  simp only [State.classHop, hopen, hhead, ClassPkt.isMarker_eq_false hkind, pktClass, Nat.mod_eq_of_lt ph.isLt, hsound,
    hexit, he, hpass, hsite, hroom, Option.isSome_none, Bool.not_true, Bool.false_eq_true, if_false, if_true]

end

/-- A change of a context leaves every box. -/
theorem State.box_onCtx (s : State) (t u : Site) (l : Leaf) (f : LeafCtx → LeafCtx) : (s.onCtx t l f).box u = s.box u :=
  State.box_congr (s.onCtx_boxes t l f) u

/-- A class packet at the inlet of a tile joins the class buffer of its leaf (R186). -/
theorem exec_classPacketArrival {s : State} {t : Site} {l : Leaf} {p : ClassPkt} {rest : List ClassPkt}
    (hinlet : (s.box t).clsbuf.get (bufKey 4 l.val) [] = p :: rest) (hdue : p.due ≤ s.cycleAt t)
    (hroom : (s.ctx t l).clsbuf.length < 16) (hin : (s.ctx t l).saved = false) (hkind : p.tok.side.kind ≠ 3) :
    exec (.classPacketArrival t l) s =
      .next ((s.onBox t (fun b => { b with clsbuf := b.clsbuf.set (bufKey 4 l.val) rest })).onCtx t l (fun c =>
        { c with clsbuf := c.clsbuf ++ [p] })) := by
  change execClassPacketArrival t l s = _
  simp only [execClassPacketArrival, hinlet, hdue, hroom, hin, LeafCtx.takeClass, ClassPkt.isMarker_eq_false hkind,
    Bool.false_eq_true, or_true, and_self, if_false, if_true]

/-! ## The obligation -/

/-- Settles O47: a head whose box is sound goes where its outlet or the entry of its class leads (`State.hop_…`,
`State.classHop_…`); a crossing changes the two boxes of its bridge only (`State.overBridge`). -/
theorem fabricHops : Obligations.FabricHops := by
  intro s s1 t f src w ph i shared fl rest fr p e l ps b op
  refine ⟨fun hopen hhead hout hsound => ⟨fun hdrop => ?guarded, fun hpass hw hroom hturn => ?track,
      fun hpass hw hsite hfree => ?delivery⟩,
    fun hend hfrom hto hbuf => ?bridge,
    fun hopen hhead hkind hsound hexit => ⟨fun he hpass hnext hroom => ?classTrack,
      fun he hpass hsite hroom => ?classInlet⟩,
    fun hinlet hdue hroom hin hkind => ?arrival⟩
  case guarded => exact exec_tokenHop (State.hop_guarded hopen hhead hout hsound hdrop)
  case track => exact exec_tokenHop (State.hop_track hopen hhead hout hsound hpass hw hroom hturn)
  case delivery => exact exec_tokenHop (State.hop_delivery hopen hhead hout hsound hpass hw hsite hfree)
  case bridge =>
    obtain ⟨u, hexec, hboxes⟩ := exec_bridgeCrossing hend hfrom hto hbuf
    refine ⟨u, hexec, ?_⟩
    rw [State.box_congr hboxes t, State.box_congr hboxes f]
    exact ⟨s.buf_overBridge w.val fl.item rest, s.bridge_overBridge w.val fl.item rest⟩
  case classTrack => exact exec_classPacketHop (State.classHop_track hopen hhead hkind hsound hexit he hpass hnext hroom)
  case classInlet =>
    have hinlet : s.inletRoom t (Fin.ofNat 2 ph.val) = true := by
      have hleaf : (Fin.ofNat 2 ph.val).val = ph.val := Nat.mod_eq_of_lt ph.isLt
      rw [State.inletRoom, hleaf]
      exact decide_eq_true hroom
    exact exec_classPacketHop (State.classHop_inlet hopen hhead hkind hsound hexit he hpass hsite hinlet)
  case arrival =>
    refine ⟨_, exec_classPacketArrival hinlet hdue hroom hin hkind, ?_, ?_⟩
    · rw [State.ctx_onCtx]
      rfl
    · rw [State.box_onCtx, State.box_onBox]
      exact FMap.get_set_same ..

end Sys2Proof.Machine
end

section
/-!
SUPPORT. Where an M-slot op takes its queue entry (R192, R193, R196-R204).
-/
namespace Sys2Proof.Machine

/-- An op that passes its checks takes an entry while the queue has room (R192, R193). -/
theorem issues_of_queueRoom {i : Instr} {s : State} {g : Pg} {on : State → Plan} {rs : List RegRef}
    {check late : Option FaultInfo} {op : MsOp} (hi : planOf i = some (guarded .m g on nothing))
    (hp : on s.settle = entryPlan s.settle rs check late op)
    (hroom : s.settle.curTile.msq.length + s.settle.curTile.left < 4) (hc : check = none) (hl : late = none) :
    Issues i s .m g rs { act := (entryPlan s.settle rs check late op).act } :=
  issues_of_plan hi hp rfl rfl hc (decide_eq_true hroom) hl rfl rfl rfl

/-- The check of an aligned base passes when every line address lies inside the share (R204). -/
theorem linesCheck_of_mem {c : LeafCtx} {base m n : Nat} {line : Nat → Nat} (h : base % 64 = 0)
    (hin : ∀ a ∈ (List.range m).map line, c.outside a n = none) : linesCheck c base ((List.range m).map line) n = none :=
  linesCheck_eq_none h fun _ hi => hin _ (List.mem_map_of_mem (List.mem_range.2 hi))

/-- Settles O24: every op but `msync` is an `entryPlan` whose check passes, so that `issues_of_queueRoom` gives its issue. -/
theorem matrixIssues : Obligations.MatrixIssues := by
  intro s g a t v u latch d bt sh ch s0 k c base made entry queues linear gathered hroom
  refine ⟨fun ha hin => ?mlat, fun ha hin => ?mlatGather, fun hb => ?mlatc, fun hfits => ?mma, ?mzero,
    fun hvalid => ?mdrainScalar, ?mdrainHead, fun ha hin => ?image, fun hdone => ?msync⟩
  case mlat | mlatGather => exact issues_of_queueRoom rfl rfl hroom (linesCheck_of_mem ha hin) rfl
  case mlatc => exact issues_of_queueRoom rfl rfl hroom (consumerCheck_bound hb) rfl
  case mma => exact issues_of_queueRoom rfl rfl hroom rfl hfits
  case mzero | mdrainHead => exact issues_of_queueRoom rfl rfl hroom rfl rfl
  case mdrainScalar => exact issues_of_queueRoom rfl rfl hroom (if_pos hvalid) rfl
  case image =>
    have hcheck : linesCheck c base [base] 4096 = none :=
      linesCheck_eq_none (m := 1) (line := fun _ => base) ha (fun _ _ => hin)
    exact ⟨issues_of_queueRoom rfl rfl hroom hcheck rfl, issues_of_queueRoom rfl rfl hroom hcheck rfl⟩
  case msync => exact issues_of_plan rfl rfl rfl rfl rfl (List.isEmpty_iff.2 hdone) rfl rfl rfl rfl

end Sys2Proof.Machine
end

section
/-!
SUPPORT. The runs of the sequencer and of a `cact`: what starts, what a token run takes or publishes, and what a run that
is over leaves (R192-R201, R214).
-/
namespace Sys2Proof.Machine

/-! ## Running entries by their number -/

section
variable {s z : State} {t : Site} {n : Nat} {e e' : MsEntry}

theorem State.id_of_entryNo (h : s.entryNo t n = some e) : e.id = n := by
  rw [State.entryNo] at h
  have hid := List.find?_some h
  exact beq_iff_eq.1 hid

theorem State.entryNo_congr (h : (z.tile t).msrun = (s.tile t).msrun) : z.entryNo t n = s.entryNo t n := by
  rw [State.entryNo, State.entryNo, h]

/-- An entry that is replaced by its next form keeps its number. -/
theorem State.entryNo_putEntry (h : s.entryNo t n = some e) (hid : e'.id = e.id) :
    (s.onTile t (fun x => x.putEntry e')).entryNo t n = some e' := by
  have hsame : ((fun q : MsEntry => q.id == n) ∘ fun q => if q.id = e.id then e' else q) = fun q => q.id == n := by
    funext q
    by_cases hq : q.id = e.id <;> simp [hq, hid]
  have hfind : (s.tile t).msrun.find? (fun q => q.id == n) = some e := h
  simp only [State.entryNo, State.tile_onTile, Tile.putEntry, List.find?_map, hsame, hfind, Option.map_some, hid, if_true]

/-- A fault found in a run ends the entry (R195). -/
theorem State.tile_runFault {f : FaultInfo} : (s.runFault t e f).tile t = (s.tile t).dropEntry e.id :=
  s.tile_onTile t (fun x => x.dropEntry e.id)

end

/-! ## The channels of a run -/

section
variable {s : State} {t : Site} {l : Leaf} {ch : Fin 8}

/-- An update of a context leaves the running entries of its tile. -/
theorem State.msrun_onCtx (f : LeafCtx → LeafCtx) : ((s.onCtx t l f).tile t).msrun = (s.tile t).msrun := by
  rw [State.tile_onCtx]
  rfl

/-- What a channel gives back as it advances is no part of its tile (R154). -/
theorem State.tile_advanceIn (k : Nat) : (s.advanceIn t l (BitVec.ofFin ch) k).tile t =
    (s.onCtx t l (fun c => c.withIn ch (fun _ => ((s.ctx t l).inp[ch].advance k).1))).tile t := by
  rw [State.advanceIn]
  split <;> rfl

theorem State.msrun_advanceIn (k : Nat) : ((s.advanceIn t l (BitVec.ofFin ch) k).tile t).msrun = (s.tile t).msrun := by
  rw [State.tile_advanceIn, State.msrun_onCtx]

theorem State.inp_advanceIn (k : Nat) :
    ((s.advanceIn t l (BitVec.ofFin ch) k).ctx t l).inp[ch] = ((s.ctx t l).inp[ch].advance k).1 := by
  rw [State.ctx, State.tile_advanceIn]
  exact State.inp_onCtx_withIn ..

/-- A damaged line behind the head token is found before every other fault of it (R375; log 52). -/
theorem State.firstFault_slotLine (o : Option FaultInfo) :
    firstFault [s.slotLine t l (BitVec.ofFin ch) 0, o] =
      if s.ecc.contains (.scratch t ((s.ctx t l).inp[ch].slotAddr ((s.ctx t l).inp[ch].slot 0)))
      then some (faultOf .ecc (BitVec.ofNat 32 (ch.val * 256 + (s.ctx t l).inp[ch].slot 0))) else o := by
  by_cases h : s.ecc.contains (.scratch t ((s.ctx t l).inp[ch].slotAddr ((s.ctx t l).inp[ch].slot 0))) = true
  · have hline : s.slotLine t l (BitVec.ofFin ch) 0 = some _ := if_pos h
    rw [hline, firstFault_some, if_pos h]
    rfl
  · have hline : s.slotLine t l (BitVec.ofFin ch) 0 = none := if_neg h
    rw [hline, firstFault_none, firstFault_singleton, if_neg h]

/-- An output channel of a context after an update of it. -/
theorem LeafCtx.outp_onOut (c : LeafCtx) (m : Fin 8) (f : OutCh → OutCh) :
    (c.onOut (BitVec.ofFin m) f).outp[m] = f c.outp[m] := Vector.getElem_set_self m.isLt

end

/-! ## Starts and ends (R192) -/

theorem exec_msEntryStart {s : State} {t : Site} {e : MsEntry} {rest : List MsEntry} (hq : (s.tile t).msq = e :: rest)
    (hstart : (s.tile t).canStart e (s.cycleAt t) = true) (hend : s.endDue t = none) (hissued : (s.tile t).issued = false)
    (hopen : s.fenced (siteDie t) = false) :
    exec (.msEntryStart t) s = .next ((s.onTile t (fun x => x.startHead (s.cycleAt t))).msCycle t) := by
  have hdue : s.startDue t = true := by simpa only [State.startDue, hq] using hstart
  change execMsEntryStart t s = _
  simp only [execMsEntryStart, happens, hdue, hend, hissued, hopen, Option.isNone_none, Bool.not_false, Bool.and_self,
    if_true]

theorem Tile.msq_startHead {x : Tile} {e : MsEntry} {rest : List MsEntry} (h : x.msq = e :: rest) (cycle : Nat) :
    (x.startHead cycle).msq = rest := by
  simp only [Tile.startHead, h]
  split <;> rfl

theorem exec_msEntryEnd {s : State} {t : Site} {n : Nat} {e : MsEntry} (he : s.entryNo t n = some e)
    (hover : e.over (s.cycleAt t) = true) :
    exec (.msEntryEnd t n) s = .next (s.onTile t (fun x => x.endEntry e)) := by
  change execMsEntryEnd t n s = _
  simp only [execMsEntryEnd, he, happens, hover, if_true]

section
variable (x : Tile) {e : MsEntry} {ty : BitVec 4}

theorem Tile.msrun_endEntry (e : MsEntry) : (x.endEntry e).msrun = x.msrun.filter (fun q => q.id != e.id) := by
  simp only [Tile.endEntry]
  split <;> rfl

/-- A load of latch A makes the buffer that it has filled current. -/
theorem Tile.endEntry_loadA (h : e.op.load = some (false, ty)) : x.endEntry e =
    { x.dropEntry e.id with latches := x.latches.set (latchIx false (!x.cura)) e.fill, cura := !x.cura } := by
  simp only [Tile.endEntry, h]
  rfl

/-- So does a load of latch B. -/
theorem Tile.endEntry_loadB (h : e.op.load = some (true, ty)) : x.endEntry e =
    { x.dropEntry e.id with latches := x.latches.set (latchIx true (!x.curb)) e.fill, curb := !x.curb } := by
  simp only [Tile.endEntry, h]
  rfl

end

/-! ## The tokens that an `mlatc` takes (R197) -/

section
variable (s : State) (t : Site) (e : MsEntry) (ch : Fin 8) (ty : BitVec 4)

/-- The burst of an `mlatc` opens with scale heads, as its first token tells. -/
def State.mlatcScaled : Bool :=
  let i := (s.ctx t e.leaf).inp[ch]
  if e.done = 0 then (i.info (i.slot 0)).side.scaled else e.scaled

/-- The payload of the token that an `mlatc` takes next. -/
def State.mlatcPayload : Vec :=
  let i := (s.ctx t e.leaf).inp[ch]
  (s.tile t).scratch.readVec (i.slotAddr (i.slot 0))

/-- The fault of the token that an `mlatc` takes next, or of its scratch line. -/
def State.mlatcTokenFault : Option FaultInfo :=
  firstFault [s.slotLine t e.leaf (BitVec.ofFin ch) 0,
    mlatcFault (s.ctx t e.leaf) ch ty (s.mlatcScaled t e ch) e.done (s.mlatcPayload t e ch)]

/-- An `mlatc` that has taken its next token. -/
def State.mlatcNext : MsEntry :=
  let i := (s.ctx t e.leaf).inp[ch]
  { e with
    done := e.done + 1, due := s.cycleAt t + 1, scaled := s.mlatcScaled t e ch,
    fill := mlatcFill e.fill ty (s.mlatcScaled t e ch) e.done (i.info (i.slot 0)).side.null (s.mlatcPayload t e ch) }

variable {s t e ch ty}

theorem State.mlatcTake_fault {f : FaultInfo} (h : s.mlatcTokenFault t e ch ty = some f) :
    s.mlatcTake t e ch ty = s.runFault t e f := by
  rw [State.mlatcTokenFault, State.mlatcScaled, State.mlatcPayload] at h
  simp only [State.mlatcTake, h]

theorem State.mlatcTake_sound (h : s.mlatcTokenFault t e ch ty = none) :
    s.mlatcTake t e ch ty =
      (s.onTile t (fun x => x.putEntry (s.mlatcNext t e ch ty))).advanceIn t e.leaf (BitVec.ofFin ch) 1 := by
  rw [State.mlatcTokenFault, State.mlatcScaled, State.mlatcPayload] at h
  simp only [State.mlatcTake, h]
  rfl

/-- The fill buffer takes the type with every token. -/
theorem mlatcFill_t (f : LatchBuf) (scaled : Bool) (n : Nat) (null : Bool) (payload : Vec) :
    (mlatcFill f ty scaled n null payload).t = ty := by
  simp only [mlatcFill, apply_ite LatchBuf.t, ite_self]

/-- A token behind the scale heads is a line. -/
theorem mlatcFill_line {f : LatchBuf} {scaled : Bool} {n : Nat} {null : Bool} {payload : Vec}
    (h : (if scaled then latchHeads ty else 0) ≤ n) :
    mlatcFill f ty scaled n null payload = { f with
      t := ty, lines := setF f.lines 512 (n - if scaled then latchHeads ty else 0) (if null then 0 else payload) } :=
  if_neg h.not_gt

theorem exec_mlatcTokenTake {n : Nat} {lt : Bool} (he : s.entryNo t n = some e) (hop : e.op = .mlatc lt ty ch)
    (hdue : e.due ≤ s.cycleAt t) (hover : e.over (s.cycleAt t) = false) (hf : 0 < (s.ctx t e.leaf).inp[ch].f) :
    exec (.mlatcTokenTake t n) s = .next (s.mlatcTake t e ch ty) := by
  change execMlatcTokenTake t n s = _
  simp only [execMlatcTokenTake, he, hop, happens, hdue, hover, hf, decide_true, Bool.not_false, Bool.and_self, if_true]

end

/-! ## The tokens that an `mdrain` publishes (R200, R201) -/

section
variable (s : State) (t : Site) (e : MsEntry) (d : Fin 2) (u : BitVec 4) (sh : Bool) (m : Fin 8)

/-- The output channel of an `mdrain` once its next token is published. -/
def State.drainedOut : OutCh :=
  let c := s.ctx t e.leaf
  let k := s.bank t e.leaf e.bank
  let info : SendInfo := { src := .tile t e.leaf m, part := c.part, leaf := e.leaf, graph := c.graph, waits := e.waits,
                           dies := c.spanDies (s.routeScope t e.leaf m), due := s.cycleAt t + 1 }
  c.outp[m].publishAs info (drainSide u sh c.outp[m].rc e.done) (drainPayload k.ak[d] u sh k.acc[d] e.done) false

variable {s t e d u sh m}
variable (hb : (s.ctx t e.leaf).outp[m].bound = true) (hc : (s.ctx t e.leaf).outp[m].closed = false)
include hb hc

/-- An open channel without a free slot holds the run. -/
theorem State.drainPublish_full (he : (s.ctx t e.leaf).outp[m].e = 0) : s.drainPublish t e d u sh m = s := by
  have hcheck : producerCheck (s.ctx t e.leaf) (BitVec.ofFin m) false = none := producerCheck_open hb hc
  simp only [State.drainPublish, hcheck]
  exact if_pos he

/-- An open channel with a free slot takes the next token. -/
theorem State.drainPublish_free (he : 0 < (s.ctx t e.leaf).outp[m].e) : s.drainPublish t e d u sh m =
    (s.onCtx t e.leaf (fun c => c.onOut (BitVec.ofFin m) (fun _ => s.drainedOut t e d u sh m))).onTile t (fun x =>
      x.putEntry { e with done := e.done + 1, due := s.cycleAt t + 1 }) := by
  have hcheck : producerCheck (s.ctx t e.leaf) (BitVec.ofFin m) false = none := producerCheck_open hb hc
  simp only [State.drainPublish, hcheck]
  exact if_neg he.ne'

theorem State.outp_drainPublish (he : 0 < (s.ctx t e.leaf).outp[m].e) :
    ((s.drainPublish t e d u sh m).ctx t e.leaf).outp[m] = s.drainedOut t e d u sh m := by
  rw [State.drainPublish_free hb hc he, State.ctx_onTile, State.ctx_onCtx, LeafCtx.outp_onOut]
  rfl

theorem State.entryNo_drainPublish {n : Nat} (hn : s.entryNo t n = some e) (he : 0 < (s.ctx t e.leaf).outp[m].e) :
    (s.drainPublish t e d u sh m).entryNo t n = some { e with done := e.done + 1, due := s.cycleAt t + 1 } := by
  rw [State.drainPublish_free hb hc he]
  exact State.entryNo_putEntry ((State.entryNo_congr (State.msrun_onCtx _)).trans hn) rfl

end

/-- The scale heads of a drain are marked in AUX. -/
theorem aux_drainSide (u : BitVec 4) (sh : Bool) (rc : BitVec 8) (n : Nat) :
    (drainSide u sh rc n).aux = if sh = true ∧ n < 2 then 0x800000 else 0 := by
  simp only [drainSide, Bool.and_eq_true, decide_eq_true_eq]

section
variable {s s1 : State} {t : Site} {n : Nat} {e : MsEntry} {d : Fin 2} {u : BitVec 4} {sh : Bool} {ch m : Fin 8}
  (he : s.entryNo t n = some e) (hdue : e.due ≤ s.cycleAt t) (hover : e.over (s.cycleAt t) = false)
include he hdue hover

/-- A scalar form publishes on the channel of its sound drain entry. -/
theorem exec_mdrainTokenPublish_scalar (hop : e.op = .mdrain d u sh (some m) ch)
    (hreg : s.regBad t e.leaf (0x18 + ch.val) = false) :
    exec (.mdrainTokenPublish t n) s = .next (s.drainPublish t e d u sh m) := by
  change execMdrainTokenPublish t n s = _
  simp only [execMdrainTokenPublish, he, hop, hover, hdue.not_gt, hreg, Bool.false_eq_true, or_self, if_false]

section
variable (hop : e.op = .mdrain d u sh none ch)
include hop

/-- A steering form publishes on the channel that its head token has named. -/
theorem exec_mdrainTokenPublish_steered (hout : e.out = some m) :
    exec (.mdrainTokenPublish t n) s = .next (s.drainPublish t e d u sh m) := by
  change execMdrainTokenPublish t n s = _
  simp only [execMdrainTokenPublish, he, hop, hover, hdue.not_gt, hout, Bool.false_eq_true, or_self, if_false]

variable (hout : e.out = none)
include hout

/-- Without a head token it waits. -/
theorem exec_mdrainTokenPublish_unfilled (hf : (s.ctx t e.leaf).inp[ch].f = 0) :
    exec (.mdrainTokenPublish t n) s = .next s := by
  have hfault : s.steerFault t e ch = none := if_pos hf
  have hsteer : s.drainSteer t e ch = none := if_pos hf
  change execMdrainTokenPublish t n s = _
  simp only [execMdrainTokenPublish, he, hop, hover, hdue.not_gt, hout, hfault, hsteer, Bool.false_eq_true, or_self, if_false]

/-- A fault of the head token's line ends the run. -/
theorem exec_mdrainTokenPublish_damaged {f : FaultInfo} (hfault : s.steerFault t e ch = some f) :
    exec (.mdrainTokenPublish t n) s = .next (s.runFault t e f) := by
  change execMdrainTokenPublish t n s = _
  simp only [execMdrainTokenPublish, he, hop, hover, hdue.not_gt, hout, hfault, Bool.false_eq_true, or_self, if_false]

/-- A sound head token names the drain entry. -/
theorem exec_mdrainTokenPublish_select (hfault : s.steerFault t e ch = none) (hsteer : s.drainSteer t e ch = some (s1, m))
    (hreg : s.regBad t e.leaf (0x18 + m.val) = false) :
    exec (.mdrainTokenPublish t n) s = .next (s1.drainSelect t e m) := by
  change execMdrainTokenPublish t n s = _
  simp only [execMdrainTokenPublish, he, hop, hover, hdue.not_gt, hout, hfault, hsteer, hreg, Bool.false_eq_true, or_self,
    if_false]

end

end

section
variable {s : State} {t : Site} {e : MsEntry} {m : Fin 8}

/-- A head token in a damaged line ends the run with ECC (R195, R375). -/
theorem State.steerFault_damaged (hf : 0 < (s.ctx t e.leaf).inp[m].f)
    (h : s.ecc.contains (.scratch t ((s.ctx t e.leaf).inp[m].slotAddr ((s.ctx t e.leaf).inp[m].slot 0))) = true) :
    s.steerFault t e m = some (faultOf .ecc (BitVec.ofNat 32 (m.val * 256 + (s.ctx t e.leaf).inp[m].slot 0))) :=
  (if_neg hf.ne').trans (if_pos h)

/-- A line that is sound has no fault, whether or not a token is there. -/
theorem State.steerFault_whole
    (h : s.ecc.contains (.scratch t ((s.ctx t e.leaf).inp[m].slotAddr ((s.ctx t e.leaf).inp[m].slot 0))) = false) :
    s.steerFault t e m = none := by
  have hline : s.slotLine t e.leaf (BitVec.ofFin m) 0 = none := if_neg (ne_true_of_eq_false h)
  rw [State.steerFault, hline, ite_self]

/-- A valid drain entry gives the run its channel. -/
theorem State.drainSelect_valid (h : ((s.ctx t e.leaf).drain[m]).getLsbD 3 = true) :
    s.drainSelect t e m = s.onTile t (fun x => x.putEntry { e with out := some ((s.ctx t e.leaf).drainCh m) }) := by
  have hfault : drainFault (s.ctx t e.leaf) m = none := if_pos h
  simp only [State.drainSelect, hfault]

/-- An invalid one ends it (R201). -/
theorem State.drainSelect_invalid (h : ((s.ctx t e.leaf).drain[m]).getLsbD 3 = false) :
    s.drainSelect t e m = s.runFault t e (faultOf .chproto (BitVec.ofNat 32 (0x806 + 16 * m.val))) := by
  have hword : 0x800 + m.val * 16 + 6 = 0x806 + 16 * m.val := by omega
  have hfault : drainFault (s.ctx t e.leaf) m = some _ := if_neg (ne_true_of_eq_false h)
  simp only [State.drainSelect, hfault, hword]

end

/-! ## The end of a `cact` (R214) -/

theorem exec_cactRunEnd {s : State} {t : Site} {r : CactRun} (hr : (s.tile t).cact = some r) (herr : r.err = none)
    (hdone : cactCycles r.t r.sc ≤ r.done) (hdue : r.start + r.done ≤ s.cycleAt t) :
    exec (.cactRunEnd t) s =
      .next (s.onTile t (fun x => { x with cact := none, halves := x.halves.set r.half r.loaded })) := by
  have hover : r.over (s.cycleAt t) = true := by simp [CactRun.over, hdone, hdue]
  change execCactRunEnd t s = _
  simp only [execCactRunEnd, hr, hover, herr, if_true]

/-- A run without an error leaves its half valid. -/
theorem CactRun.loaded_valid {r : CactRun} (h : r.err = none) : r.loaded = { r.fill with
    t := r.t, valid := true, scales := if r.sc then r.fill.scales else ({} : Half).scales } := by
  simp [CactRun.loaded, h]

/-! ## The obligation -/

/-- Settles O45: each event is its effect where its conditions hold, and the effect of a token run is read off the channel and
the entry that it leaves. Both forms of an `mdrain` publish by `drainPublish`, whose effect is shown once. -/
theorem sequencerRuns : Obligations.SequencerRuns := by
  intro s t n e rest ty u d lt sh ch m r s1 x now
  refine ⟨fun hq hstart hend hissued hopen => ?starts, fun he hover => ?ends, fun he hop hdue hover hf => ?takes,
    fun he hdue hover => ?drains, fun hr herr hdone hdue => ?cact⟩
  case starts => exact ⟨exec_msEntryStart hq hstart hend hissued hopen, Tile.msq_startHead hq _⟩
  case ends =>
    refine ⟨exec_msEntryEnd he hover, x.msrun_endEntry e, fun ty hload => ?_, fun ty hload => ?_⟩
    · simp only [x.endEntry_loadA hload, true_and]
      exact Vector.getElem_set_self _
    · simp only [x.endEntry_loadB hload, true_and]
      exact Vector.getElem_set_self _
  case takes =>
    intro i side payload scaled heads fault
    have hfault : s.mlatcTokenFault t e ch ty = fault := State.firstFault_slotLine _
    refine ⟨_, exec_mlatcTokenTake he hop hdue hover hf, fun hnone => ?sound, fun f hsome => ?faulty⟩
    case sound =>
      have hput : (s.onTile t (fun x => x.putEntry (s.mlatcNext t e ch ty))).ctx t e.leaf = s.ctx t e.leaf :=
        State.ctx_onTile s t e.leaf rfl
      have hnext : (s.onTile t (fun x => x.putEntry (s.mlatcNext t e ch ty))).entryNo t n = some (s.mlatcNext t e ch ty) :=
        State.entryNo_putEntry he rfl
      rw [State.mlatcTake_sound (hfault.trans hnone), State.inp_advanceIn, hput,
        State.entryNo_congr (State.msrun_advanceIn 1), hnext]
      refine ⟨rfl, rfl, _, rfl, rfl, rfl, rfl, mlatcFill_t .., fun hline => ?_⟩
      have hfill : (s.mlatcNext t e ch ty).fill = _ := mlatcFill_line hline
      rw [hfill]
      exact ⟨rfl, rfl⟩
    case faulty =>
      rw [State.mlatcTake_fault (hfault.trans hsome), State.tile_runFault, State.id_of_entryNo he]
      exact ⟨rfl, rfl⟩
  case drains =>
    intro o publishes
    have hpub : publishes (s.drainPublish t e d u sh m) := by
      intro hb hc hfree
      rw [State.outp_drainPublish hb hc hfree, State.entryNo_drainPublish hb hc he hfree]
      -- the item is the one that `publishAs` enqueues, and its token has the sideband of `drainSide`
      exact ⟨rfl, rfl, rfl, _, _, rfl, rfl, rfl, rfl, rfl, rfl, rfl, rfl, rfl, rfl, rfl, rfl, rfl,
        aux_drainSide u sh o.rc e.done⟩
    refine ⟨fun hop hreg => ?scalar, fun hop hout => ?steered, fun hop hout hf => ?unfilled, fun hop hout hf hecc => ?damaged,
      fun hop hout hsteer hecc hreg => ?select⟩
    case scalar => exact ⟨_, exec_mdrainTokenPublish_scalar he hdue hover hop hreg, hpub, State.drainPublish_full⟩
    case steered => exact ⟨_, exec_mdrainTokenPublish_steered he hdue hover hop hout, hpub, State.drainPublish_full⟩
    case unfilled => exact exec_mdrainTokenPublish_unfilled he hdue hover hop hout hf
    case damaged => exact exec_mdrainTokenPublish_damaged he hdue hover hop hout (State.steerFault_damaged hf hecc)
    case select =>
      rw [exec_mdrainTokenPublish_select he hdue hover hop hout (State.steerFault_whole hecc) hsteer hreg]
      exact ⟨fun hvalid => by rw [State.drainSelect_valid hvalid]; rfl,
        fun hinvalid => by rw [State.drainSelect_invalid hinvalid]⟩
  case cact =>
    rw [exec_cactRunEnd hr herr hdone hdue, CactRun.loaded_valid herr]
    rfl

end Sys2Proof.Machine
end

section
/-!
SUPPORT. Where a Carder op issues (R211-R219).
-/
namespace Sys2Proof.Machine

/-- Scratch lines without an uncorrectable error leave a Carder op free of ECC (R211). -/
theorem carderEcc_eq_none {s : State} {a : W32} {n : Nat} (h : s.scratchEcc a.toNat n = none) : carderEcc s a n = none := by
  rw [carderEcc, h, Option.map_none]

/-- A valid half without an uncorrectable error leaves the op that names it free of ECC (R211, R214). -/
theorem halfEcc_eq_none {s : State} {h : Bool} (hvalid : (s.curTile.half h).valid = true)
    (hsound : s.ecc.contains (.half s.cur.tile (halfNum h)) = false) : halfEcc s h = none := by
  simp only [halfEcc, hvalid, hsound, Bool.not_true, Bool.or_false, Bool.false_eq_true, if_false]

/-- A well-formed record in sound lines goes into its card slot (R121, R213). -/
theorem issues_cdif {s : State} {g : Pg} {k : BitVec 4} {a : BitVec 5} {card : Card}
    (hcheck : carderCheck s.settle (s.settle.curBank.rs a) (cdifBytes s.settle (s.settle.curBank.rs a)) = none)
    (hecc : carderEcc s.settle (s.settle.curBank.rs a) (cdifBytes s.settle (s.settle.curBank.rs a)) = none)
    (hcard : dfCard (s.settle.curTile.scratch.readNat (s.settle.curBank.rs a).toNat 66) (s.settle.curTile.card k) = some card) :
    Issues (.cdif g k a) s .m g (readsS [a])
      { act := fun y => y.onCurTile (fun q => q.setCard k { q.card k with base := card.base, diffs := card.diffs }) } := by
  refine issues_of_plan rfl rfl rfl rfl hcheck rfl (firstFault_pair hecc ?late) rfl ?act rfl
  case late => rw [hcard]; rfl
  case act => simp only [hcard]

/-- Settles O25: an aligned range inside the share, sound lines, a valid half that does not load and an idle `cact` pass the
checks and waits of the ops that ask for them; the rest of each issue is the op's plan. -/
theorem carderIssues : Obligations.CarderIssues := by
  intro s g a b kk v t d h hi sc m s0 k x c at_ fits good
  have hcheck {n : Nat} : fits n → carderCheck s0 (k.rs a) n = none := fun ⟨haligned, hinside⟩ =>
    scratchCheck_eq_none haligned hinside
  have hhalf : good → halfEcc s0 h = none := fun ⟨hvalid, hsound⟩ => halfEcc_eq_none hvalid hsound
  have hready (hload : x.loading h = false) : (!x.loading h) = true := by rw [hload]; rfl
  refine ⟨fun hfits hecc => ?cmap, fun hfits hecc card hcard => ?cdif, fun hfits hidle => ?cact,
    fun hslot hload hgood => ?cstep, ?cclr, fun hload hgood => ?cout, fun hfits => ?csav, fun hfits hecc => ?crst⟩
  case cmap => exact issues_of_plan rfl rfl rfl rfl (hcheck hfits) rfl (carderEcc_eq_none hecc) rfl rfl rfl
  case cdif => exact issues_cdif (hcheck hfits) (carderEcc_eq_none hecc) hcard
  case cact => exact issues_of_plan rfl rfl rfl rfl (hcheck hfits) (Option.isNone_iff_eq_none.2 hidle) rfl rfl rfl rfl
  case cstep =>
    exact issues_of_plan rfl rfl rfl rfl (if_neg (ne_true_of_eq_false hslot)) (hready hload) (hhalf hgood) rfl rfl rfl
  case cclr => exact issues_of_writes rfl rfl
  case cout => exact issues_of_plan rfl rfl rfl rfl rfl (hready hload) (hhalf hgood) rfl rfl rfl
  case csav => exact issues_of_plan rfl rfl rfl rfl (hcheck hfits) rfl rfl rfl rfl rfl
  case crst => exact issues_of_plan rfl rfl rfl rfl (hcheck hfits) rfl (carderEcc_eq_none hecc) rfl rfl rfl

end Sys2Proof.Machine
end

section
/-!
SUPPORT. The global accesses of a bank (R228, R232-R236, R273-R281).
-/
namespace Sys2Proof.Machine

/-- Settles O29: an aligned access for a channel with a free slot passes its checks and finds the port free, so that its plan
is the issue. -/
theorem globalIssues : Obligations.GlobalIssues := by
  intro s g ch d q fn b r imm s0 k c pair line word off x nch amo amoReads room hport
  have hfree : s0.portFree = true := portFree_of_room hport
  have hload {ch : BitVec 3} (h : room ch) : s0.canLoad ch = true := by
    rw [State.canLoad, hfree, Bool.true_and]; exact h.2
  refine ⟨fun ha => ⟨fun hr => ?ldg, ?stg, ?redc⟩, fun ha hsize hr => ?ldw, fun ha => ⟨fun hr => ?amoRet, ?amo⟩,
    fun ha => ⟨fun hbit hr => ?fillcNotify, fun hbit => ?fillc⟩⟩
  case ldg => exact issues_of_plan rfl rfl rfl rfl (firstFault_opened ha hr.1) (hload hr) rfl rfl rfl rfl
  case stg => exact issues_of_plan rfl rfl rfl rfl (globalAlign_eq_none ha) hfree rfl rfl rfl rfl
  case redc => exact issues_of_plan rfl rfl rfl rfl (globalAlign_eq_none ha) hfree rfl rfl rfl rfl
  case ldw =>
    exact issues_of_plan rfl rfl rfl rfl ((ldwCheck_inside ha hsize).trans (respCheck_opened hr.1)) (hload hr) rfl rfl
      rfl rfl
  case amoRet => exact issues_of_plan rfl rfl rfl rfl (firstFault_opened ha hr.1) (hload hr) rfl rfl rfl rfl
  case amo => exact issues_of_plan rfl rfl rfl rfl (globalAlign_eq_none ha) hfree rfl rfl rfl rfl
  case fillcNotify =>
    exact issues_of_plan rfl (if_pos hbit) rfl rfl (firstFault_opened ha hr.1) (hload hr) rfl rfl rfl rfl
  case fillc =>
    exact issues_of_plan rfl (if_neg (ne_true_of_eq_false hbit)) rfl rfl (globalAlign_eq_none ha) hfree rfl rfl rfl rfl

end Sys2Proof.Machine
end

section
/-!
SUPPORT. Asynchronous reports, freezes and resumes (R243, R362-R369).
-/
namespace Sys2Proof.Machine

/-- A fault changes its bank and no other part of a tile (R362). -/
theorem State.bank_takeFault (s : State) (t : Site) (l : Leaf) (b : BankId) (w : W32) (f : FaultInfo) :
    (s.takeFault t l b w f).bank t l b = (s.bank t l b).fault w f :=
  State.bank_onBank s t l b (fun k => k.fault w f)

/-- A field put into a gap of two zeros. -/
theorem append_zeros_or_shiftLeft (x : BitVec 18) (slot : BitVec 2) (y : BitVec 12) :
    x ++ 0#2 ++ y ||| slot.setWidth 32 <<< 12 = x ++ slot ++ y := by
  have hshift : slot.setWidth 32 <<< 12 = 0#18 ++ slot ++ 0#12 := by
    revert slot
    decide
  have hhigh : x ++ 0#2 ||| 0#18 ++ slot = x ++ slot := by rw [BitVec.or_append, BitVec.or_zero, BitVec.zero_or]
  calc x ++ 0#2 ++ y ||| slot.setWidth 32 <<< 12
    _ = (x ++ 0#2 ||| 0#18 ++ slot) ++ (y ||| 0#12) := by rw [hshift]; exact BitVec.or_append
    _ = x ++ slot ++ y := by rw [hhigh, BitVec.or_zero]

/-- FLTB of an asynchronous report: the word of its bundle with the slot beside it (R364). -/
theorem fltbWord_async_slot (l : Leaf) (slot : BitVec 2) (bundle : Nat) :
    fltbWord true l 0 bundle ||| slot.setWidth 32 <<< 12 =
      1#1 ++ 0#15 ++ BitVec.ofNat 1 l.val ++ 0#1 ++ slot ++ BitVec.ofNat 12 bundle :=
  append_zeros_or_shiftLeft (1#1 ++ 0#15 ++ BitVec.ofNat 1 l.val ++ 0#1) slot (BitVec.ofNat 12 bundle)

section
variable {s : State} {r : Report} (h : r.refused = false)
include h

/-- A report that refuses nothing changes its bank as a fault does (R362, R365, R366). -/
theorem State.bank_arrive : (s.arrive r).bank r.tile r.leaf r.bank =
    (s.bank r.tile r.leaf r.bank).fault
      (1#1 ++ 0#15 ++ BitVec.ofNat 1 r.leaf.val ++ 0#1 ++ r.slot ++ BitVec.ofNat 12 r.bundle) r.fault := by
  rw [State.arrive, State.bank_takeFault, fltbWord_async_slot, if_neg (ne_true_of_eq_false h)]
  rfl

theorem State.reports_arrive : (s.arrive r).reports = s.reports := by
  rw [State.arrive, State.takeFault_reports, if_neg (ne_true_of_eq_false h)]

/-- The report counts as the acknowledgement of its access (R262). -/
theorem State.acks_arrive : (s.arrive r).acks = s.acks.filter (fun a => a != r.id) := by
  rw [State.arrive, State.takeFault_acks, if_neg (ne_true_of_eq_false h)]

end

/-- A fault of a bank that is faulted already only sets MORE (R364). -/
theorem Bank.fault_more {k : Bank} (h : k.faulted = true) (w : W32) (f : FaultInfo) :
    k.fault w f = { k with fltb := k.fltb ||| 0x40000000 } := if_pos h

/-- A bank whose area nobody has edited keeps its pending writes (R81, R357). -/
theorem Bank.reenter_unedited {k : Bank} (hraw : k.pendRaw = none) (hgrant : k.pending.any PWrite.isGrant = k.umWait.isSome) :
    k.reenter = .ok k := by
  simp only [Bank.reenter, hraw, hgrant, bne_self_eq_false]
  cases k
  cases hraw
  rfl

/-- A resume of a faulted bank whose area nobody has edited (R365, R369). -/
theorem State.bank_resumeBank {s : State} {t : Site} {l : Leaf} {b : BankId} (hf : (s.bank t l b).faulted = true)
    (hraw : (s.bank t l b).pendRaw = none)
    (hgrant : (s.bank t l b).pending.any PWrite.isGrant = (s.bank t l b).umWait.isSome) :
    (s.resumeBank t l b).bank t l b =
      { s.bank t l b with faulted := false, fltb := (s.bank t l b).fltb &&& 0xBFFFFFFF, checked := false } := by
  have hresumed : ({ s.bank t l b with faulted := false, fltb := (s.bank t l b).fltb &&& 0xBFFFFFFF, checked := false }
    : Bank).reenter = .ok _ := Bank.reenter_unedited hraw hgrant
  simp only [State.resumeBank, hf, if_true, State.reenter, State.bank_onBank, hresumed]

/-- Settles O44: a report is a fault of its bank, and a resume re-enters the pending writes of an area that nobody has edited. -/
theorem bankStops : Obligations.BankStops := by
  intro s n r t l b k old
  refine ⟨fun hr haway href => ?report, rfl, fun hf => ?still, fun hf hraw hgrant => ?resume⟩
  case report =>
    have hexec : exec (.asyncReportArrival n) s = .next ({ s with reports := s.reports.eraseIdx n }.arrive r) := by
      change execAsyncReportArrival n s = _
      simp only [execAsyncReportArrival, hr, haway, happens, Bool.not_false, if_true]
    refine ⟨_, hexec, State.reports_arrive href, State.acks_arrive href, fun hk => ?_, fun hk => ?_⟩
    · rw [State.bank_arrive href]
      have hfirst := Bank.fault_first hk
        (1#1 ++ 0#15 ++ BitVec.ofNat 1 r.leaf.val ++ 0#1 ++ r.slot ++ BitVec.ofNat 12 r.bundle) r.fault
      exact ⟨congrArg Bank.faulted hfirst, congrArg Bank.fltc hfirst, congrArg Bank.flta hfirst, congrArg Bank.fltx hfirst,
        congrArg Bank.fltb hfirst⟩
    · exact (State.bank_arrive href).trans (Bank.fault_more hk _ _)
  case still => exact congrArg _ (if_neg (ne_true_of_eq_false hf))
  case resume => exact ⟨_, rfl, State.bank_resumeBank hf hraw hgrant⟩

end Sys2Proof.Machine
end

section
/-!
SUPPORT. Loads and stores of a control core (R237-R241, R388, R389, R391).
-/
namespace Sys2Proof.Machine

variable {s s1 : State} {d a : BitVec 5} {imm : BitVec 16} {n o : Nat}

/-! ## Accesses that wait, and accesses that pass (logs 25, 58) -/

theorem coreWaits_iff : s.coreWaits o = true ↔ s.refreshes o = true ∨ s.pathShut (coreDie s.cur.core) o = true := by
  rw [State.coreWaits, Bool.or_eq_true]

theorem coreWaits_eq_false (h : ¬ (s.refreshes o = true ∨ s.pathShut (coreDie s.cur.core) o = true)) :
    s.coreWaits o = false := eq_false_of_ne_true (mt coreWaits_iff.1 h)

/-- What an access changes on its way is not where the executing core stands. -/
theorem State.Passed.curCore_pc (h : s.Passed s1) : s1.curCore.pc = s.curCore.pc := by
  have hcores := h.2.1 s.cur.core
  have hcur : s1.curCore = s1.cores[s.cur.core] := by simp only [State.curCore, h.cur]
  rw [hcur]
  exact (congrArg Core.pc hcores :)

/-- A write at its home, for an access that its slice lets pass (R238, R240). -/
theorem State.putHome_of_pass {v : Nat} {part : Option (BitVec 6)} (h : s.passSlice o true = some s1) :
    s.putHome o n v part = ({ s1 with mem := s.mem.writeNat o v n } : State).invalidate o none 0 part := by
  have hmem : s1.mem = s.mem := (State.passed_passSlice h).same.1
  rw [State.putHome, State.touch, h, Option.getD_some, State.putPhys, hmem]

/-- A write at its home leaves the executing core where it stands. -/
theorem State.curCore_pc_putHome (v : Nat) (part : Option (BitVec 6)) : (s.putHome o n v part).curCore.pc = s.curCore.pc := by
  obtain ⟨t, hpass, hput⟩ := s.passed_putHome o n v part
  rw [hput]
  exact hpass.curCore_pc

/-! ## Loads (R391) -/

section
variable (hpc : s.curCore.pc ≠ 0x3FFFC)

theorem coreLoad_fault {c : Cause} (h : s.coreAccess false (s.curCore.rx a + imm64 imm) n = .error c) :
    coreLoad n d a imm s = .next (s.coreFault c (s.curCore.rx a + imm64 imm)) := by
  simp only [coreLoad, h]

include hpc in
theorem coreLoad_local (h : s.coreAccess false (s.curCore.rx a + imm64 imm) n = .ok (true, o)) :
    coreLoad n d a imm s = .next (s.onCurCore (fun c =>
      { c.wx d (BitVec.ofNat 64 (s.curCore.lmem.readNat o n)) with pc := c.pc + 4 })) := by
  simp only [coreLoad, h, State.onCurCore_wx_done d _ hpc]

variable (h : s.coreAccess false (s.curCore.rx a + imm64 imm) n = .ok (false, o))
include h

theorem coreLoad_barred (hw : s.coreWaits o = true) : coreLoad n d a imm s = .next s := by
  simp only [coreLoad, h, hw, if_true]

theorem coreLoad_host (hw : s.coreWaits o = false) (hhost : isHost o = true) :
    coreLoad n d a imm s = .next (s.hostLoad n d (s.curCore.rx a + imm64 imm) o) := by
  simp only [coreLoad, h, hw, hhost, Bool.false_eq_true, if_false, if_true]

theorem coreLoad_waits (hw : s.coreWaits o = false) (hhost : isHost o = false) (hp : s.passSlice o false = none) :
    coreLoad n d a imm s = .next s := by
  simp only [coreLoad, h, hw, hhost, hp, Bool.false_eq_true, if_false]

include hpc in
theorem coreLoad_passes (hw : s.coreWaits o = false) (hhost : isHost o = false) (hp : s.passSlice o false = some s1) :
    coreLoad n d a imm s = .next (s1.onCurCore (fun c =>
      { c.wx d (BitVec.ofNat 64 (s.mem.readNat o n)) with pc := c.pc + 4 })) := by
  have hpc1 : s1.curCore.pc ≠ 0x3FFFC := by rwa [(State.passed_passSlice hp).curCore_pc]
  simp only [coreLoad, h, hw, hhost, hp, Bool.false_eq_true, if_false, State.onCurCore_wx_done d _ hpc1]

end

/-! ## Stores (R391) -/

section
variable (hpc : s.curCore.pc ≠ 0x3FFFC)

theorem coreStore_fault {c : Cause} (h : s.coreAccess true (s.curCore.rx a + imm64 imm) n = .error c) :
    coreStore n d a imm s = .next (s.coreFault c (s.curCore.rx a + imm64 imm)) := by
  simp only [coreStore, h]

include hpc in
theorem coreStore_local (h : s.coreAccess true (s.curCore.rx a + imm64 imm) n = .ok (true, o)) :
    coreStore n d a imm s = .next (s.onCurCore (fun c =>
      { c with lmem := c.lmem.writeNat o (s.curCore.rx d).toNat n, pc := c.pc + 4 })) := by
  simp only [coreStore, h]
  exact congrArg _ (State.onCore_done (f := fun c => { c with lmem := c.lmem.writeNat o (s.curCore.rx d).toNat n }) rfl hpc)

variable (h : s.coreAccess true (s.curCore.rx a + imm64 imm) n = .ok (false, o))
include h

theorem coreStore_barred (hw : s.coreWaits o = true ∨ s.passSlice o true = none) : coreStore n d a imm s = .next s := by
  have hbar : (s.coreWaits o || (s.passSlice o true).isNone) = true := by simpa using hw
  simp only [coreStore, h, hbar, if_true]

include hpc in
theorem coreStore_passes (hw : s.coreWaits o = false) (hp : s.passSlice o true = some s1) :
    coreStore n d a imm s = .next ((({ s1 with mem := s.mem.writeNat o (s.curCore.rx d).toNat n } : State).invalidate
      o none 0 none).onCurCore (fun c => { c with pc := c.pc + 4 })) := by
  have hpc1 := (s.curCore_pc_putHome (o := o) (n := n) (s.curCore.rx d).toNat none).trans_ne hpc
  simp only [coreStore, h, hw, hp, Option.isNone_some, Bool.or_self, Bool.false_eq_true, if_false,
    State.onCurCore_done hpc1]
  rw [State.putHome_of_pass hp]

end

/-! ## The addresses that fault (R388, R389, R391) -/

variable {w : Bool} {ea : W64}

theorem coreAccess_unaligned (h : ea.toNat % n ≠ 0) : s.coreAccess w ea n = .error .align := if_pos h

theorem coreAddr_beyondLocal (h : ea.getLsbD 63 = true) (hea : ea.extractLsb' 18 34 ≠ 0) : coreAddr ea = .error .page :=
  (if_pos h).trans (if_neg hea)

theorem coreAddr_beyondPhysical (h : ea.getLsbD 63 = false) (hea : ea.extractLsb' 52 11 ≠ 0) : coreAddr ea = .error .page :=
  (if_neg (ne_true_of_eq_false h)).trans (if_neg hea)

/-- A byte access is never unaligned. -/
theorem coreAccess_byte_nowhere {c : Cause} (h : coreAddr ea = .error c) : s.coreAccess w ea 1 = .error c := by
  rw [State.coreAccess, if_neg (not_not.2 (Nat.mod_one _)), h]

/-- The addresses of local memory: bit 63, and an offset of 18 bits (R389). -/
theorem coreAddr_local (o : BitVec 18) : coreAddr (1#1 ++ 0#45 ++ o) = .ok (true, o.toNat) := by
  have hbit : (1#1 ++ 0#45 ++ o).getLsbD 63 = true := by
    rw [BitVec.getLsbD_append, BitVec.getLsbD_append]; rfl
  have hhigh : (1#1 ++ 0#45 ++ o).extractLsb' 18 34 = 0 := by
    ext i hi
    rw [BitVec.getElem_extractLsb', BitVec.getLsbD_append, if_neg (by omega), BitVec.getLsbD_append, if_pos (by omega)]
    simp
  have hlow : (1#1 ++ 0#45 ++ o).extractLsb' 0 18 = o := by
    ext i hi
    rw [BitVec.getElem_extractLsb', Nat.zero_add, BitVec.getLsbD_append, if_pos hi, BitVec.getLsbD_eq_getElem hi]
  rw [coreAddr, if_pos hbit, if_pos hhigh, hlow]

/-- A store of a byte in local memory has no fault. -/
theorem coreAccess_byte_local (o : BitVec 18) : s.coreAccess true (1#1 ++ 0#45 ++ o) 1 = .ok (true, o.toNat) := by
  rw [State.coreAccess, if_neg (not_not.2 (Nat.mod_one _)), coreAddr_local]
  rfl

/-- Settles O38: every load is `coreLoad` and every store `coreStore`, whose cases are the clauses. -/
theorem coreMemory : Obligations.CoreMemory := by
  refine ⟨?performed, ?faulty⟩
  case performed =>
    intro s s1 d a imm o c ea v barred gives loads stores hpc
    have hload (i : Instr) (n : Nat) (hi : exec i s = coreLoad n d a imm s) : loads i n := by
      refine ⟨fun h => hi.trans (coreLoad_local hpc h), fun h => ⟨fun hb => ?_, fun hb hhost => ?_, fun hb hhost hp => ?_,
        fun hb hhost hp => ?_⟩⟩
      · exact hi.trans (coreLoad_barred h (coreWaits_iff.2 hb))
      · exact ⟨_, rfl, rfl, rfl, hi.trans (coreLoad_host h (coreWaits_eq_false hb) hhost)⟩
      · exact hi.trans (coreLoad_waits h (coreWaits_eq_false hb) hhost hp)
      · exact hi.trans (coreLoad_passes hpc h (coreWaits_eq_false hb) hhost hp)
    have hstore (i : Instr) (n : Nat) (hi : exec i s = coreStore n d a imm s) : stores i n := by
      refine ⟨fun h => hi.trans (coreStore_local hpc h), fun h => ⟨fun hb => ?_, fun hb hp => ?_⟩⟩
      · exact hi.trans (coreStore_barred h (hb.imp_left coreWaits_iff.2))
      · exact hi.trans (coreStore_passes hpc h (coreWaits_eq_false hb) hp)
    exact ⟨hload _ _ rfl, hload _ _ rfl, hload _ _ rfl, hstore _ _ rfl, hstore _ _ rfl, hstore _ _ rfl⟩
  case faulty =>
    intro s d a imm o ea faults
    have hload {n : Nat} {c : Cause} (h : s.coreAccess false ea n = .error c) : coreLoad n d a imm s = _ := coreLoad_fault h
    have hstore {n : Nat} {c : Cause} (h : s.coreAccess true ea n = .error c) : coreStore n d a imm s = _ := coreStore_fault h
    refine ⟨fun h => ⟨hload (coreAccess_unaligned h), hstore (coreAccess_unaligned h)⟩,
      fun h => ⟨hload (coreAccess_unaligned h), hstore (coreAccess_unaligned h)⟩, fun h63 h => ?_, fun h63 h => ?_,
      coreAccess_byte_local o⟩
    · have haddr := coreAddr_beyondLocal h63 h
      exact ⟨hload (coreAccess_byte_nowhere haddr), hstore (coreAccess_byte_nowhere haddr)⟩
    · have haddr := coreAddr_beyondPhysical h63 h
      exact ⟨hload (coreAccess_byte_nowhere haddr), hstore (coreAccess_byte_nowhere haddr)⟩

end Sys2Proof.Machine
end

section
/-!
SUPPORT. What takes effect at the target of a request, and the line that a store writes in two parts (R229, R230, R235-R241).
-/
namespace Sys2Proof.Machine

/-! ## Requests under way -/

/-- A request under way is found by its number. -/
theorem State.id_of_inFlight {s : State} {n : Nat} {f : Flying} (h : s.inFlight n = some f) : f.req.id = n := by
  simpa using List.find?_some h

section
variable {s : State} {f : Flying} {pa : Nat} {ea : W64} {v : Vec}

/-- A read of a sound line is answered with its 64 bytes (R229). -/
theorem State.takeEffect_read (hbody : f.req.body = .read ea) (hline : s.lineBad pa = false) :
    s.takeEffect f pa = (s.land f.req.id).answer f.req (s.mem.readVec pa) := by
  simp only [State.takeEffect, hbody, hline, Bool.false_eq_true, if_false]

/-- A read of a line with an uncorrectable error fails (R375). -/
theorem State.takeEffect_read_bad (hbody : f.req.body = .read ea) (hline : s.lineBad pa = true) :
    s.takeEffect f pa = (s.land f.req.id).failReq f.req .ecc := by
  simp only [State.takeEffect, hbody, hline, if_true]

/-- The first part of a store (R235). -/
theorem State.takeEffect_write_first (hbody : f.req.body = .write ea v) (hhalf : f.half = false) :
    s.takeEffect f pa = (s.putLine pa v f.req.firstWords f.via f.req.id f.req.writer).onFlying f.req.id (fun y =>
      { y with half := true }) := by
  simp only [State.takeEffect, hbody, hhalf, Bool.false_eq_true, if_false]

/-- The second part of a store, which performs it (R235, R256). -/
theorem State.takeEffect_write_second (hbody : f.req.body = .write ea v) (hhalf : f.half = true) :
    s.takeEffect f pa =
      ((s.putLine pa v (~~~f.req.firstWords) f.via f.req.id f.req.writer).land f.req.id).written f.req := by
  simp only [State.takeEffect, hbody, hhalf, if_true]

end

/-! ## Where a request takes effect -/

section
variable {s : State} {n : Nat} {f : Flying} {mt : Site} {d : DieId} {ea : W64} {v : Vec} {evict : Option Nat}
  (hf : s.inFlight n = some f) (hfirst : s.firstOfLine f.req = true)
include hf hfirst

/-- An access of memory-tile SRAM whose way is open (R229). -/
theorem exec_sramBankAccess (htarget : f.target = .sram mt) (hfence : s.fenced (siteDie mt) = false)
    (hpath : s.pathOpen (siteDie f.req.src.tile) (siteDie mt) = true) (hbody : f.req.body.isAmo = false) :
    exec (.sramBankAccess n) s = .next (s.takeEffect f (f.req.pa.getD 0)) := by
  change execSramBankAccess n s = _
  simp [execSramBankAccess, hf, htarget, hfirst, hfence, hpath, hbody]

/-- An access of a bank of the weight store that is not in refresh (R236, R237). -/
theorem exec_weightStoreRead (htarget : f.target = .weight d) (hfence : s.fenced d = false)
    (hpath : s.pathOpen (siteDie f.req.src.tile) d = true) (hrefresh : s.refreshes (f.req.pa.getD 0) = false) :
    exec (.weightStoreRead n) s = .next (s.takeEffect f (f.req.pa.getD 0)) := by
  change execWeightStoreRead n s = _
  simp [execWeightStoreRead, hf, htarget, hfirst, hfence, hpath, hrefresh]

/-- A read of host memory that completes, by the status of its completion (R241). -/
theorem exec_hostReadCompletion_success (htarget : f.target = .host) :
    exec (.hostReadCompletion n .success) s = .next (s.takeEffect f (f.req.pa.getD 0)) := by
  change execHostReadCompletion n .success s = _
  simp [execHostReadCompletion, hf, htarget, hfirst]

theorem exec_hostReadCompletion_unsupported (htarget : f.target = .host) :
    exec (.hostReadCompletion n .unsupportedOrAbort) s = .next (s.hostReadFails f .page) := by
  change execHostReadCompletion n .unsupportedOrAbort s = _
  simp [execHostReadCompletion, hf, htarget, hfirst]

theorem exec_hostReadCompletion_poisoned (htarget : f.target = .host) :
    exec (.hostReadCompletion n .poisoned) s = .next (s.hostReadFails f .ecc) := by
  change execHostReadCompletion n .poisoned s = _
  simp [execHostReadCompletion, hf, htarget, hfirst]

omit hfirst in
theorem exec_hostCompletionTimeout (htarget : f.target = .host) :
    exec (.hostCompletionTimeout n) s = .next (s.hostReadFails f .ecc) := by
  change execHostCompletionTimeout n s = _
  simp [execHostCompletionTimeout, hf, htarget]

variable (htarget : f.target = .slice mt) (hfill : f.fill = false) (hfence : s.fenced (siteDie mt) = false)
  (hheld : (s.slice mt).held.contains (sectorOf (f.req.pa.getD 0)) = true)
include htarget hfill hfence hheld

/-- A read of a held sector that no entry of the pending-write filter bars, without a gateway on its way (R238, R239). -/
theorem exec_l2Request_read (hbody : f.req.body = .read ea) (hhalf : f.half = false)
    (hfilter : s.filters.any (fun e => e.1 == mt && e.2 == sectorOf (f.req.pa.getD 0)) = false) (hvia : f.via = none) :
    exec (.l2Request n evict) s = .next (s.takeEffect f (f.req.pa.getD 0)) := by
  have hbars : (s.filters.filter (fun e => e.1 == mt)).any (fun e => e.2 == sectorOf (f.req.pa.getD 0)) = false := by
    rw [List.any_filter, hfilter]
  have hslice : s.atSlice mt f (f.req.pa.getD 0) true = s.takeEffect f (f.req.pa.getD 0) := by
    simp only [State.atSlice, hbody, State.keepCopy, hvia]
  have hamo : f.req.body.isAmo = false := by rw [hbody]; rfl
  change execL2Request n evict s = _
  simp only [execL2Request, hf, htarget, hfirst, hfill, hfence, hheld, hhalf, hbars, hslice, hamo, Bool.not_true,
    Bool.and_false, Bool.false_eq_true, or_self, if_false, if_true]

/-- A part of a store to a held sector, which makes the sector dirty (R235, R238). -/
theorem exec_l2Request_write (hbody : f.req.body = .write ea v) :
    exec (.l2Request n evict) s = .next ((s.onSlice mt (fun x => { x with
      dirty := if x.dirty.contains (sectorOf (f.req.pa.getD 0)) then x.dirty
        else x.dirty ++ [sectorOf (f.req.pa.getD 0)] })).takeEffect f (f.req.pa.getD 0)) := by
  have hdirty (l : List Nat) (a : Nat) : (if (true && !l.contains a) = true then l ++ [a] else l) =
      if l.contains a then l else l ++ [a] := by
    cases l.contains a <;> rfl
  have hwrite : f.req.body.isWrite = true := by rw [hbody]; rfl
  have hamo : f.req.body.isAmo = false := by rw [hbody]; rfl
  change execL2Request n evict s = _
  simp only [execL2Request, hf, htarget, hfirst, hfill, hfence, hheld, hwrite, hamo, Bool.not_true, Bool.false_and,
    Bool.false_eq_true, or_self, if_false, if_true, ite_self]
  simp only [State.atSlice, hbody, hdirty]

end

/-! ## A line written in two parts (R235) -/

/-- A line has its sixteen words. -/
theorem vec_ext_words {x y : Vec} (h : ∀ i < 16, getF x 32 i = getF y 32 i) : x = y := by
  apply BitVec.eq_of_getLsbD_eq
  intro i hi
  have hword := congrArg (fun w : W32 => w.getLsbD (i % 32)) (h (i / 32) (by omega))
  have hbit : i % 32 < 32 := Nat.mod_lt _ (by omega)
  simpa only [getF, BitVec.getLsbD_extractLsb', hbit, decide_true, Bool.true_and, Nat.div_add_mod] using hword

/-- A word of a line of which some words are replaced (R235). -/
theorem getF_mergeWords (old new : Vec) (m : BitVec 16) {i : Nat} (h : i < 16) :
    getF (mergeWords old new m) 32 i = if m.getLsbD i then getF new 32 i else getF old 32 i := by
  rw [mergeWords, getF_packVec _ h (by decide), BitVec.ofNat_toNat, BitVec.setWidth_eq]

/-- Words that are replaced in two parts are all replaced (R235). -/
theorem mergeWords_complement (old new : Vec) (m : BitVec 16) : mergeWords (mergeWords old new m) new (~~~m) = new := by
  refine vec_ext_words fun i hi => ?_
  rw [getF_mergeWords _ _ _ hi, getF_mergeWords _ _ _ hi, BitVec.getLsbD_not, decide_eq_true hi, Bool.true_and]
  cases m.getLsbD i <;> rfl

section
variable (s : State) (pa : Nat) (v : Vec) (m : BitVec 16) (via : Option Nat) (id : Nat) (part : Option (BitVec 6))

@[simp] theorem State.mem_mergeCopy : (s.mergeCopy via pa v m).mem = s.mem := by
  unfold State.mergeCopy
  split
  · rfl
  · split <;> rfl

@[simp] theorem State.mem_invalidate : (s.invalidate pa via id part).mem = s.mem := by
  unfold State.invalidate
  split <;> rfl

/-- A part of a store changes its words of its line (R235). -/
theorem State.mem_putLine : (s.putLine pa v m via id part).mem = s.mem.writeVec pa (mergeWords (s.mem.readVec pa) v m) := by
  rw [State.putLine, State.mem_invalidate, State.mem_mergeCopy, State.putPhys, Memory.writeVec]

variable (hwf : s.mem.wf = true)
include hwf

theorem State.wf_mem_putLine : (s.putLine pa v m via id part).mem.wf = true := by
  rw [State.mem_putLine]
  exact Memory.wf_writeVec hwf _ _

theorem State.readVec_putLine :
    (s.putLine pa v m via id part).mem.readVec pa = mergeWords (s.mem.readVec pa) v m := by
  rw [State.mem_putLine, Memory.readVec_writeVec hwf]

theorem State.read_putLine_out {a : Nat} (h : a < pa ∨ pa + 64 ≤ a) :
    (s.putLine pa v m via id part).mem.read a = s.mem.read a := by
  rw [State.mem_putLine, Memory.writeVec, Memory.read_writeNat_out hwf _ _ _ _ h]

end

/-- Settles O49: every access of a target comes down to `takeEffect`, whose parts of a store merge to the whole line. -/
theorem targetAccesses : Obligations.TargetAccesses := by
  refine ⟨?performed, ?parts⟩
  case performed =>
    intro s n f mt d ea v evict q pa gone read m part wrote reads failed hf hfirst
    have hreads {i : Instr} (hi : q.body = .read ea → exec i s = .next (s.takeEffect f pa)) : reads i :=
      ⟨fun hbody hline => (hi hbody).trans (congrArg _ (State.takeEffect_read hbody hline)),
        fun hbody hline => (hi hbody).trans (congrArg _ (State.takeEffect_read_bad hbody hline))⟩
    have hwrote {i : Instr} {x : State} (hi : q.body = .write ea v → exec i s = .next (x.takeEffect f pa)) : wrote i x :=
      fun hbody => ⟨fun hhalf => (hi hbody).trans (congrArg _ (State.takeEffect_write_first hbody hhalf)),
        fun hhalf => (hi hbody).trans (congrArg _ (State.takeEffect_write_second hbody hhalf))⟩
    refine ⟨fun hwhy _ => ?answer, fun hwhy x => ?acknowledge, fun htarget hfence hpath => ⟨?sramRead, ?sramWrite⟩,
      fun htarget hfence hpath hrefresh => ?weight, fun htarget => ⟨?hostRead, ?unsupported, ?poisoned, ?timeout⟩,
      fun htarget hfill hfence hheld => ⟨fun hbody hhalf hfilter hvia => ?sliceRead, ?sliceWrite⟩⟩
    case answer =>
      change gone.answer q _ = _
      simp only [State.answer, hwhy]
    case acknowledge => simp only [State.written, hwhy, State.acknowledge]
    case sramRead =>
      exact hreads fun hbody => exec_sramBankAccess hf hfirst htarget hfence hpath (congrArg ReqBody.isAmo hbody)
    case sramWrite =>
      exact hwrote fun hbody => exec_sramBankAccess hf hfirst htarget hfence hpath (congrArg ReqBody.isAmo hbody)
    case weight =>
      have hopen : s.refreshes pa = false := by
        unfold State.refreshes
        split
        next hplace => exact beq_false_of_ne (hrefresh _ _ hplace)
        next => rfl
      exact ⟨hreads fun _ => exec_weightStoreRead hf hfirst htarget hfence hpath hopen,
        fun _ => hwrote fun _ => exec_weightStoreRead hf hfirst htarget hfence hpath hopen⟩
    case hostRead => exact hreads fun _ => exec_hostReadCompletion_success hf hfirst htarget
    case unsupported => exact exec_hostReadCompletion_unsupported hf hfirst htarget
    case poisoned => exact exec_hostReadCompletion_poisoned hf hfirst htarget
    case timeout => exact exec_hostCompletionTimeout hf htarget
    case sliceRead =>
      have hslice := hreads fun hbody => exec_l2Request_read (evict := evict) hf hfirst htarget hfill hfence hheld hbody hhalf hfilter hvia
      exact ⟨hslice.1 hbody, hslice.2 hbody⟩
    case sliceWrite => exact hwrote fun hbody => exec_l2Request_write hf hfirst htarget hfill hfence hheld hbody
  case parts =>
    intro s pa id v m via part i a one both hwf
    have hone := s.wf_mem_putLine pa v m via id part hwf
    refine ⟨fun hi => ?word, ?line, fun ha => ?outside⟩
    case word => rw [s.readVec_putLine _ _ _ _ _ _ hwf, getF_mergeWords _ _ _ hi]
    case line => rw [one.readVec_putLine _ _ _ _ _ _ hone, s.readVec_putLine _ _ _ _ _ _ hwf, mergeWords_complement]
    case outside => rw [one.read_putLine_out _ _ _ _ _ _ hone ha, s.read_putLine_out _ _ _ _ _ _ hwf ha]

end Sys2Proof.Machine
end

section
/-!
SUPPORT. L2 slices and gateway caches (R236-R241).
-/
namespace Sys2Proof.Machine

/-! ## Slices -/

@[simp] theorem State.slice_onSlice (s : State) (t : Site) (g : Slice → Slice) : (s.onSlice t g).slice t = g (s.slice t) :=
  FMap.get_set_same _ _ _ _

section
variable {s : State} {n : Nat} {f : Flying} {t : Site} (hf : s.inFlight n = some f) (htarget : f.target = .slice t)
include hf htarget

/-- A miss whose line has a way takes a miss register (R238). -/
theorem exec_l2Request_miss (hfirst : s.firstOfLine f.req = true) (hfill : f.fill = false)
    (hfence : s.fenced (siteDie t) = false) (hhalf : f.half = false)
    (hheld : (s.slice t).held.contains (sectorOf (f.req.pa.getD 0)) = false)
    (hfilter : s.filters.any (fun e => e.1 == t && e.2 == sectorOf (f.req.pa.getD 0)) = false)
    (hmiss : (s.slice t).miss.contains (sectorOf (f.req.pa.getD 0)) = false) (hregs : (s.slice t).miss.length < 64)
    (hroom : (s.slice t).room (sectorOf (f.req.pa.getD 0)) = true) :
    exec (.l2Request n none) s = .next ((s.onSlice t (fun y =>
      { y with miss := y.miss ++ [sectorOf (f.req.pa.getD 0)] })).onFlying n (fun y => { y with fill := true })) := by
  have hbars : (s.filters.filter (fun e => e.1 == t)).any (fun e => e.2 == sectorOf (f.req.pa.getD 0)) = false := by
    rw [List.any_filter, hfilter]
  change execL2Request n none s = _
  simp only [execL2Request, hf, htarget, hfirst, hfill, hfence, hhalf, hbars, hheld, hmiss, hregs, hroom, Bool.not_true,
    Bool.and_false, Bool.false_eq_true, or_self, if_false, if_true]

/-- The fill of a sector in a miss register makes the sector held (R238). -/
theorem exec_l2FillArrival_miss (hfill : f.fill = true)
    (hmiss : (s.slice t).miss.contains (sectorOf (f.req.pa.getD 0)) = true) :
    exec (.l2FillArrival n) s = .next { s.onSlice t (fun y =>
        { y with miss := y.miss.filter (fun a => a != sectorOf (f.req.pa.getD 0)),
                 held := y.held ++ [sectorOf (f.req.pa.getD 0)] }) with
      flight := s.flight.map (fun y =>
        if y.target == .slice t && sectorOf (y.req.pa.getD 0) == sectorOf (f.req.pa.getD 0) then { y with fill := false }
        else y) } := by
  change execL2FillArrival n s = _
  simp only [execL2FillArrival, hf, htarget, hfill, hmiss, Bool.not_true, Bool.false_eq_true, if_false, if_true]
  rfl

end

/-! ## Gateway caches -/

section
variable {s : State} {n g : Nat} {f : Flying} {ea : W64} {v : BitVec 1024} (hf : s.inFlight n = some f)
  (htarget : f.target = .gateway g) (hfirst : s.firstOfLine f.req = true) (hfence : s.targetFenced f.target = false)
  (hhome : s.targetFenced (.slice (sliceSite (f.req.pa.getD 0))) = false)
  (hecc : s.ecc.contains (.gateway g (f.req.pa.getD 0 / 64 * 64)) = false)
include hf htarget hfirst hfence hhome hecc

/-- A read that hits is answered from the copy (R240). -/
theorem exec_gatewayRequest_hit (hbody : f.req.body = .read ea)
    (hcopy : s.copyAt g (sectorOf (f.req.pa.getD 0)) = some v) :
    exec (.gatewayRequest n) s =
      .next ((s.land n).answer f.req (v.extractLsb' (8 * (f.req.pa.getD 0 % 128)) 512)) := by
  rw [htarget] at hfence
  change execGatewayRequest n s = _
  simp only [execGatewayRequest, hf, htarget, hfirst, hfence, hhome, hecc, hcopy, hbody, Bool.not_true, Bool.false_eq_true,
    or_self, if_false]

/-- A request that misses goes on to the home slice (R240). -/
theorem exec_gatewayRequest_miss (hcopy : s.copyAt g (sectorOf (f.req.pa.getD 0)) = none)
    (hpath : s.pathOpen (siteDie f.req.src.tile) (Fin.ofNat 4 (homeDie (f.req.pa.getD 0))) = true)
    (hfree : s.targetBusy (homeMemTile f.req.src.tile) f.req (.slice (sliceSite (f.req.pa.getD 0))) (f.req.pa.getD 0) = false) :
    exec (.gatewayRequest n) s = .next (s.onFlying n (fun y =>
      { y with target := .slice (sliceSite (f.req.pa.getD 0)), via := some g })) := by
  rw [htarget] at hfence
  change execGatewayRequest n s = _
  simp only [execGatewayRequest, hf, htarget, hfirst, hfence, hhome, hecc, hcopy, hpath, hfree, Bool.not_true,
    Bool.or_self, Bool.false_eq_true, or_self, if_false]

end

section
variable {s : State} {n sec : Nat}

/-- A copy that is dropped is gone (R240). -/
theorem State.copyAt_dropCopy_same : (s.dropCopy n sec).copyAt n sec = none := by
  simp [State.copyAt, State.dropCopy, State.gateway, List.find?_filter]

/-- A copy that is gone stays gone when another one is dropped. -/
theorem State.copyAt_dropCopy_none (j : Nat) (h : s.copyAt n sec = none) : (s.dropCopy n j).copyAt n sec = none := by
  simp only [State.copyAt, Option.map_eq_none_iff, List.find?_eq_none, State.dropCopy, State.gateway,
    FMap.get_set_same] at h ⊢
  exact fun c hc => h c (List.mem_filter.1 hc).1

theorem State.dropCopy_mem (s : State) (n sec : Nat) : (s.dropCopy n sec).mem = s.mem := rfl
theorem State.dropCopy_invals (s : State) (n sec : Nat) : (s.dropCopy n sec).invals = s.invals := rfl
theorem State.onSlice_mem (s : State) (t : Site) (g : Slice → Slice) : (s.onSlice t g).mem = s.mem := rfl
theorem State.onSlice_invals (s : State) (t : Site) (g : Slice → Slice) : (s.onSlice t g).invals = s.invals := rfl

theorem State.applyInval_mem (s : State) (v : Inval) : (s.applyInval v).mem = s.mem := by
  simp only [State.applyInval, List.foldl, State.dropCopy_mem, State.onSlice_mem]

theorem State.applyInval_invals (s : State) (v : Inval) : (s.applyInval v).invals = s.invals := by
  simp only [State.applyInval, List.foldl, State.dropCopy_invals, State.onSlice_invals]

/-- A gateway that has applied an invalidation holds no copy of the line's first sector, nor of its last (R240; log 24). -/
theorem State.copyAt_applyInval (v : Inval) : (s.applyInval v).copyAt v.gateway v.sector = none ∧
    (s.applyInval v).copyAt v.gateway (v.sector + 384) = none :=
  ⟨State.copyAt_dropCopy_none _ (State.copyAt_dropCopy_none _ (State.copyAt_dropCopy_none _ State.copyAt_dropCopy_same)),
    State.copyAt_dropCopy_same⟩

/-- Its presence bit at the home slice is cleared (R240; log 55). -/
theorem State.present_applyInval (v : Inval) :
    v.gateway ∉ ((s.applyInval v).slice (sliceSite v.sector)).present.get v.sector [] := by
  rw [State.applyInval, State.slice_onSlice, FMap.get_set_same, List.mem_filter]
  simp

end

/-- Settles O50: a miss, a fill, a hit, a request that goes on, and an invalidation that drops the copies of its line. -/
theorem cacheEvents : Obligations.CacheEvents := by
  intro s n f t g ea v inv d pa sec x
  refine ⟨fun hf htarget hfirst hfill hfence hhalf hheld hfilter hmiss hregs hroom => ?miss,
    fun hf htarget hfill hmiss => ?fill, fun hf htarget hfirst hfence hhome hecc hbody =>
      ⟨fun hcopy => ?hit, fun hcopy hpath hfree => ?goesOn⟩, fun hinv hpath => ?invalidation, rfl, rfl⟩
  case miss => exact exec_l2Request_miss hf htarget hfirst hfill hfence hhalf hheld hfilter hmiss hregs hroom
  case fill =>
    have hslice := s.slice_onSlice t (fun y => { y with miss := y.miss.filter (fun a => a != sec), held := y.held ++ [sec] })
    exact ⟨_, exec_l2FillArrival_miss hf htarget hfill hmiss, congrArg Slice.held hslice, congrArg Slice.miss hslice, rfl, rfl⟩
  case hit => exact exec_gatewayRequest_hit hf htarget hfirst hfence hhome hecc hbody hcopy
  case goesOn => exact exec_gatewayRequest_miss hf htarget hfirst hfence hhome hecc hcopy hpath hfree
  case invalidation =>
    have hexec : exec (.gatewayInvalidation n) s = .next (({ s with invals := s.invals.eraseIdx n } : State).applyInval inv) := by
      change execGatewayInvalidation n s = _
      simp only [execGatewayInvalidation, hinv, hpath, Bool.not_true, Bool.false_eq_true, if_false]
    obtain ⟨hfirst, hlast⟩ := State.copyAt_applyInval (s := { s with invals := s.invals.eraseIdx n }) inv
    exact ⟨_, hexec, State.applyInval_invals _ inv, State.applyInval_mem _ inv, hfirst, hlast, State.present_applyInval inv⟩

end Sys2Proof.Machine
end

section
/-!
SUPPORT. What an access that passes an L2 slice can add to a notice queue and to the events of a core: an eviction tells of a
sector with an uncorrectable error (R375), and nothing else is told.
-/
namespace Sys2Proof.Machine

/-- A notice queue has taken further records, and is otherwise the same. -/
def NoticeQ.Grows (q r : NoticeQ) : Prop :=
  ∃ (more : List (BitVec 512)) (n : W32), r = { q with buffer := q.buffer ++ more, serial := n }

theorem NoticeQ.Grows.refl (q : NoticeQ) : q.Grows q := ⟨[], q.serial, by rw [List.append_nil]⟩

theorem NoticeQ.Grows.trans {q r u : NoticeQ} (h : q.Grows r) (h' : r.Grows u) : q.Grows u := by
  obtain ⟨more, n, rfl⟩ := h
  obtain ⟨more', n', rfl⟩ := h'
  exact ⟨more ++ more', n', by rw [List.append_assoc]⟩

/-- A record that a notice unit takes or drops (R374). -/
theorem NoticeQ.grows_take (q : NoticeQ) (x : Notice) : q.Grows (q.take x) := by
  unfold NoticeQ.take
  extract_lets x'
  by_cases h : q.buffer.length < 32 + q.free
  · exact ⟨[x'], q.serial + 1, by rw [if_pos h]⟩
  · exact ⟨[], q.serial + 1, by rw [if_neg h, List.append_nil]⟩

/-- Records have reached notice queues and events their cores, and of either nothing else has changed. -/
def State.Tells (s t : State) : Prop :=
  (∀ (d : DieId) (p : BitVec 6), (s.noticeQ d p).Grows (t.noticeQ d p)) ∧
  ∀ k : CoreId, t.cores[k].evpend ||| 1 = s.cores[k].evpend ||| 1

theorem State.Tells.refl (s : State) : s.Tells s := ⟨fun _ _ => .refl _, fun _ => rfl⟩

theorem State.Tells.trans {s t u : State} (h : s.Tells t) (h' : t.Tells u) : s.Tells u :=
  ⟨fun d p => (h.1 d p).trans (h'.1 d p), fun k => (h'.2 k).trans (h.2 k)⟩

/-- A change of neither a die nor a core. -/
theorem State.Tells.of_eq {s t : State} (hd : t.dies = s.dies) (hc : t.cores = s.cores) : s.Tells t := by
  refine ⟨fun d p => ?_, fun k => by rw [hc]⟩
  rw [State.noticeQ, State.noticeQ, hd]
  exact .refl _

theorem State.Tells.foldl {α : Type} {f : State → α → State} (hf : ∀ (s : State) (a : α), s.Tells (f s a)) :
    ∀ (l : List α) (s : State), s.Tells (l.foldl f s)
  | [], s => .refl s
  | a :: l, s => (hf s a).trans (State.Tells.foldl hf l (f s a))

/-! ## A record that reaches its queue -/

@[simp] theorem State.noticeQ_onNotice (s : State) (d : DieId) (p : BitVec 6) (f : NoticeQ → NoticeQ) :
    (s.onNotice d p f).noticeQ d p = f (s.noticeQ d p) := by
  simp [State.noticeQ, State.onNotice, State.onDie]

theorem State.noticeQ_onNotice_ne {d e : DieId} {p r : BitVec 6} (s : State) (f : NoticeQ → NoticeQ) (h : e ≠ d ∨ r ≠ p) :
    (s.onNotice d p f).noticeQ e r = s.noticeQ e r := by
  by_cases hd : e = d
  · subst hd
    have hp : p.toNat ≠ r.toNat := fun hp => h.elim (· rfl) (· (BitVec.eq_of_toNat_eq hp.symm))
    simp [State.noticeQ, State.onNotice, State.onDie, FMap.get_set_ne _ _ _ hp]
  · simp only [State.noticeQ, State.onNotice, State.dies_onDie_ne _ _ _ hd]

theorem State.tells_notify (s : State) (d : DieId) (p : BitVec 6) (x : Notice) : s.Tells (s.notify d p x) := by
  refine ⟨fun e r => ?_, fun _ => rfl⟩
  by_cases h : e = d ∧ r = p
  · obtain ⟨rfl, rfl⟩ := h
    rw [State.notify, State.noticeQ_onNotice]
    exact NoticeQ.grows_take _ x
  · rw [State.notify, State.noticeQ_onNotice_ne s _ (by tauto)]
    exact .refl _

/-- An event of a core (R395). -/
theorem State.tells_onCore (s : State) (k : CoreId) {f : Core → Core} (hf : (f s.cores[k]).evpend = s.cores[k].evpend ||| 1) :
    s.Tells (s.onCore k f) := by
  refine ⟨fun _ _ => .refl _, fun j => ?_⟩
  by_cases h : j = k
  · subst h
    have hcore : (s.onCore j f).cores[j] = f s.cores[j] := State.cores_onCore ..
    rw [hcore, hf, BitVec.or_assoc, BitVec.or_self]
  · rw [State.cores_onCore_ne _ _ _ _ h]

/-! ## The operations -/

theorem State.tells_writeBackBad (s : State) (t : Site) (sec : Nat) : s.Tells (s.writeBackBad t sec) := by
  unfold State.writeBackBad
  split
  case isFalse => exact .refl s
  case isTrue =>
    extract_lets s1 ps
    have h1 : s.Tells s1 := .of_eq rfl rfl
    split
    · exact h1.trans (s1.tells_notify _ _ _)
    · exact h1.trans (s1.tells_onCore _ rfl)

theorem State.tells_evict (s : State) (t : Site) (sec : Nat) : s.Tells (s.evict t sec) := by
  simp only [State.evict]
  split
  · exact .refl s
  split
  · split
    · exact .refl s
    · refine State.Tells.trans ?_ (State.tells_writeBackBad _ _ _)
      exact .of_eq rfl rfl
  · exact .of_eq rfl rfl

theorem State.tells_makeRoom {s u : State} {t : Site} {sec : Nat} (h : s.makeRoom t sec = some u) : s.Tells u := by
  have hv : s.Tells (match (s.slice t).victim sec with
      | some l => ((s.slice t).held.filter (fun a => lineOf a == l)).foldl (fun x a => x.evict t a) s
      | none => s) := by
    split
    · exact State.Tells.foldl (fun x a => x.tells_evict t a) _ s
    · exact .refl s
  unfold State.makeRoom at h
  split at h
  · cases h; exact .refl s
  · have e := (Option.ite_none_right_eq_some.mp h).2
    cases e; exact hv

theorem State.tells_passSlice {s u : State} {pa : Nat} {w : Bool} (h : s.passSlice pa w = some u) : s.Tells u := by
  unfold State.passSlice at h
  split at h
  · simp only at h
    split at h
    · cases h
    split at h
    · cases h; exact .of_eq rfl rfl
    split at h
    · cases h
    split at h
    · obtain ⟨x, hx, rfl⟩ := Option.map_eq_some_iff.mp h
      exact (State.tells_makeRoom hx).trans (.of_eq rfl rfl)
    split at h
    · cases h; exact .refl s
    split at h
    · cases h; exact .of_eq rfl rfl
    · cases h
  · cases h; exact .refl s

theorem State.tells_touch (s : State) (pa : Nat) (w : Bool) : s.Tells (s.touch pa w) := by
  unfold State.touch
  cases h : s.passSlice pa w with
  | none => exact .refl s
  | some u => exact State.tells_passSlice h

/-- A write at its home tells of what it evicts, and of nothing else (R238, R375). -/
theorem State.tells_putHome (s : State) (pa n v : Nat) (part : Option (BitVec 6)) : s.Tells (s.putHome pa n v part) := by
  refine (s.tells_touch pa true).trans ?_
  unfold State.putHome State.invalidate
  split <;> exact .of_eq rfl rfl

end Sys2Proof.Machine
end

section
/-!
SUPPORT. Responses, acknowledgements, answers to other modules, ready tokens, increments, notice records and `tinv` (R229, R232,
R256, R282, R371, R374, R383, R385).
-/
namespace Sys2Proof.Machine

/-! ## Slots of response channels (R232, R282) -/

section
variable (s : State) (t : Site) (l : Leaf) (ch : Fin 8) (tok : Token) (g : InCh → InCh)

/-- What the slot that a response fills makes of its channel. -/
def InCh.filled (c : InCh) (tok : Token) : InCh :=
  { c with slots := c.slots.set ((c.h + c.f) % c.depth) { side := { tok.side with fmt := c.fmt } }, f := c.f + 1 }

theorem Tile.ctx_putScratch (x : Tile) (a n v : Nat) : (x.putScratch a n v).ctx = x.ctx := rfl

theorem State.inp_fillResponse : ((s.fillResponse t l ch tok g).ctx t l).inp[ch] = g ((s.ctx t l).inp[ch].filled tok) := by
  rw [State.fillResponse, State.ctx_onCtx, State.ctx_onTile s t l (Tile.ctx_putScratch ..)]
  exact Vector.getElem_set_self _

end

/-- A ready token whose tile takes it (R282, R344). -/
theorem exec_readyTokenDelivery {s : State} {n : Nat} {r : Ready} (hr : s.ready[n]? = some r) (hheld : r.held = false)
    (haway : s.away r.tile r.leaf = false) (hrec : s.recordsNow r.tile r.leaf = false) :
    exec (.readyTokenDelivery n) s = .next ((({ s with ready := s.ready.eraseIdx n } : State).fillResponse r.tile r.leaf r.ch r.tok
      (fun c => { c with rn := c.rn - 1 })).withdrawReport (s.ctx r.tile r.leaf).graph (siteDie r.tile)) := by
  change execReadyTokenDelivery n s = _
  simp only [execReadyTokenDelivery, hr, hheld, haway, hrec, Bool.false_eq_true, or_self, if_false]

/-! ## Answers to other modules (R403, R404) -/

section
variable (s : State) (p : Fin 18) (part : BitVec 6)

/-- A message leaves through its port with the next serial of its source (R403). -/
theorem State.out_sendLink (dest : BitVec 8) (unit : Nat) (body : LinkBody) :
    (s.sendLink p dest unit part body).links[p].out = s.links[p].out ++ [⟨s.module, linkUnit part unit, dest, part,
      s.links[p].serials.get (linkSource (linkUnit part unit) dest) 0, body⟩] := by
  simp only [State.sendLink, Fin.getElem_fin, Vector.getElem_set_self]

/-- The answer to a request of another module leaves through its port (R404). -/
theorem State.out_respondTo (m : LinkMsg) (data : Vec) (code : BitVec 8) : ∃ msg,
    (s.respondTo p m part data code).links[p].out = s.links[p].out ++ [msg] ∧ msg.dest = m.module ∧
      msg.body = .response m.unit m.serial data code := by
  refine ⟨_, Eq.trans ?_ (s.out_sendLink p part m.module 8192 (.response m.unit m.serial data code)), rfl, rfl⟩
  simp only [State.respondTo, State.onLink, Fin.getElem_fin, Vector.getElem_set_self]

end

/-! ## Counters (R385, R428) -/

/-- A counter saturates (R385). -/
theorem toNat_saturated (x : W16) : (if x = 0xFFFF then x else x + 1).toNat = min (x.toNat + 1) 0xFFFF := by
  have hx := x.isLt
  by_cases h : x = 0xFFFF
  · rw [if_pos h, h]; rfl
  · have hne : x.toNat ≠ 0xFFFF := fun e => h (BitVec.eq_of_toNat_eq e)
    have hone : (1 : W16).toNat = 1 := rfl
    rw [if_neg h, BitVec.toNat_add, hone]
    omega

section
variable (s : State) (pa n v : Nat) (part : Option (BitVec 6))

theorem State.mem_putHome : (s.putHome pa n v part).mem = s.mem.writeNat pa v n := by
  obtain ⟨t, -, h⟩ := s.passed_putHome pa n v part
  rw [h]

/-- A read and then a write at one home change the bytes written and no increment under way (R385). -/
theorem State.touch_putHome : ((s.touch pa false).putHome pa n v part).mem = s.mem.writeNat pa v n ∧
    ((s.touch pa false).putHome pa n v part).incs = s.incs := by
  have hread := s.passed_touch pa false
  obtain ⟨t, hwrite, h⟩ := (s.touch pa false).passed_putHome pa n v part
  rw [h]
  exact ⟨congrArg (Memory.writeNat · pa v n) hread.same.1, (congrArg State.incs (hread.trans hwrite).1 :)⟩

end

/-- An increment of a counter that can be reached, whose slice lets the read and the write pass (R385). -/
theorem exec_counterIncrement {s s1 : State} {n : Nat} {i : Increment} (hi : s.incs[n]? = some i)
    (hfirst : (s.incs.take n).any (fun j => j.mt == i.mt && lineOf j.addr == lineOf i.addr) = false)
    (hfence : s.fenced (siteDie (sliceSite i.addr)) = false) (hline : s.lineBad i.addr = false)
    (hpath : s.pathShut (siteDie i.mt) i.addr = false) (hread : s.passSlice i.addr false = some s1)
    (hwrite : (s1.passSlice i.addr true).isSome = true) :
    ∃ u, exec (.counterIncrement n) s = .next u ∧ u.incs = s.incs.eraseIdx n ∧
      u.mem = s.mem.writeNat i.addr (min ((BitVec.ofNat 16 (s.mem.readNat i.addr 2)).toNat + 1) 0xFFFF) 2 := by
  obtain ⟨s2, hs2⟩ := Option.isSome_iff_exists.1 hwrite
  have hpass : (s.passSlice i.addr false).bind (fun x => x.passSlice i.addr true) = some s2 := by
    rw [hread, Option.bind_some, hs2]
  have hexec : exec (.counterIncrement n) s = execCounterIncrement n s := rfl
  rw [hexec, ← toNat_saturated]
  simp only [execCounterIncrement, hi, hfirst, hfence, hline, hpath, hpass, Bool.or_self, Bool.false_eq_true, if_false]
  generalize (if (BitVec.ofNat 16 (s.mem.readNat i.addr 2) : W16) = 0xFFFF then (BitVec.ofNat 16 (s.mem.readNat i.addr 2) : W16)
    else BitVec.ofNat 16 (s.mem.readNat i.addr 2) + 1) = new
  obtain ⟨hmem, hincs⟩ := State.touch_putHome { s with incs := s.incs.eraseIdx n } i.addr 2 new.toNat (some i.part)
  split
  · exact ⟨_, rfl, hincs, hmem⟩
  · exact ⟨_, rfl, hincs, hmem⟩

/-! ## Notice records (R371, R374) -/

/-- A ring of `n` places whose tail is not just before its head has a free one. -/
theorem ring_free_ne_zero {n head tail : Nat} (hh : head < n) (ht : tail < n) (h : (tail + 1) % n ≠ head) :
    (head + n - tail - 1) % n ≠ 0 := by
  by_cases hlast : tail + 1 = n
  · have hhead : head + n - tail - 1 = head := by omega
    rw [hlast, Nat.mod_self] at h
    rw [hhead, Nat.mod_eq_of_lt hh]
    exact h.symm
  rw [Nat.mod_eq_of_lt (by omega : tail + 1 < n)] at h
  by_cases hlt : tail < head
  · have hsplit : head + n - tail - 1 = head - tail - 1 + n := by omega
    rw [hsplit, Nat.add_mod_right, Nat.mod_eq_of_lt (by omega)]
    omega
  · rw [Nat.mod_eq_of_lt (by omega)]
    omega

/-- The queue in memory has a free place (R374). -/
theorem NoticeQ.free_ne_zero {q : NoticeQ} (h6 : 6 ≤ q.nqsize.toNat) (h16 : q.nqsize.toNat ≤ 16)
    (hroom : (q.nqtail.toNat + 1) % 2 ^ q.nqsize.toNat ≠ q.nqhead.toNat % 2 ^ q.nqsize.toNat) : q.free ≠ 0 := by
  have hpos : 0 < 2 ^ q.nqsize.toNat := Nat.two_pow_pos _
  rw [NoticeQ.free, if_neg (by omega)]
  exact ring_free_ne_zero (Nat.mod_lt _ hpos) (Nat.mod_lt _ hpos) (by rwa [Nat.mod_add_mod])

/-- The record at the head of a buffer whose queue has a free place and whose line can be written (R371, R374). -/
theorem exec_noticeRecordWrite {s : State} {d : DieId} {p : BitVec 6} {rec : Notice} {rest : List Notice} {pa : Nat}
    (hpa : pa = (s.noticeQ d p).nqbase.toNat + 64 * ((s.noticeQ d p).nqtail.toNat % 2 ^ (s.noticeQ d p).nqsize.toNat))
    (hbuffer : (s.noticeQ d p).buffer = rec :: rest) (hfree : (s.noticeQ d p).free ≠ 0) (hopen : s.lineShut d pa = false) :
    exec (.noticeRecordWrite d p) s = .next (((s.putHome pa 64 rec.toNat none).onNotice d p (fun q =>
      { q with buffer := q.buffer.drop 1,
               nqtail := BitVec.ofNat 16 ((q.nqtail.toNat + 1) % 2 ^ (s.noticeQ d p).nqsize.toNat) })).onCore
        (coreOf d (s.noticeQ d p).pcc.toFin) (fun c => c.raise 0)) := by
  have hexec : exec (.noticeRecordWrite d p) s = execNoticeRecordWrite d p s := rfl
  rw [hexec]
  simp only [execNoticeRecordWrite, hbuffer, ← hpa, hfree, hopen, Bool.false_eq_true, or_self, if_false]

/-- What the write of a record leaves: its bytes in memory, the rest of the buffer with what the write itself has told, the next
place of the queue, and an event of the core (R371). -/
theorem State.noticeRecordWritten {s : State} {d : DieId} {p : BitVec 6} {rec : Notice} {rest : List Notice} (pa n size : Nat)
    (k : CoreId) (hbuffer : (s.noticeQ d p).buffer = rec :: rest) :
    let u := ((s.putHome pa n rec.toNat none).onNotice d p (fun q =>
      { q with buffer := q.buffer.drop 1, nqtail := BitVec.ofNat 16 ((q.nqtail.toNat + 1) % size) })).onCore k (fun c => c.raise 0)
    u.mem = s.mem.writeNat pa rec.toNat n ∧ (u.noticeQ d p).buffer.take rest.length = rest ∧
      (s.ecc = [] → (u.noticeQ d p).buffer = rest) ∧
      (u.noticeQ d p).nqtail = BitVec.ofNat 16 (((s.noticeQ d p).nqtail.toNat + 1) % size) ∧
      (u.cores[k]).evpend = s.cores[k].evpend ||| 1 := by
  intro u
  obtain ⟨hgrows, hevents⟩ := s.tells_putHome pa n rec.toNat none
  obtain ⟨t, hpass, hput⟩ := s.passed_putHome pa n rec.toNat none
  have hmem : (s.putHome pa n rec.toNat none).mem = s.mem.writeNat pa rec.toNat n := s.mem_putHome pa n rec.toNat none
  have hdies : s.ecc = [] → (s.putHome pa n rec.toNat none).dies = s.dies := fun hecc => by
    rw [hput]; exact (hpass.2.2 hecc).2.1
  obtain ⟨more, serial, hq⟩ := hgrows d p
  revert u
  generalize s.putHome pa n rec.toNat none = w at hmem hdies hq hevents
  intro u
  have hqueue : u.noticeQ d p = { w.noticeQ d p with
      buffer := (w.noticeQ d p).buffer.drop 1, nqtail := BitVec.ofNat 16 (((w.noticeQ d p).nqtail.toNat + 1) % size) } :=
    State.noticeQ_onNotice w d p (fun q =>
      { q with buffer := q.buffer.drop 1, nqtail := BitVec.ofNat 16 ((q.nqtail.toNat + 1) % size) })
  have hrest : (u.noticeQ d p).buffer = rest ++ more := by rw [hqueue, hq, hbuffer]; rfl
  have hcore : u.cores[k] = (w.cores[k]).raise 0 := State.cores_onCore ..
  refine ⟨hmem, ?kept, fun hecc => ?sound, ?tail, ?event⟩
  case kept => rw [hrest, List.take_left']; rfl
  case sound =>
    have hsame : w.noticeQ d p = s.noticeQ d p := by rw [State.noticeQ, State.noticeQ, hdies hecc]
    rw [hqueue, hsame, hbuffer]
    rfl
  case tail => rw [hqueue, hq]
  case event =>
    rw [hcore]
    exact hevents k

/-! ## `tinv` (R383) -/

/-- A `tinv` whose conditions hold completes at its core (R383, R394). -/
theorem exec_tinvAcknowledgement {s : State} {k : CoreId} {t : Tinv} (ht : s.tinvs.find? (fun t => t.core == k) = some t)
    (hdone : s.tinvDone t = true) (hbusy : s.cores[k].busy = .tinv) (hpc : s.cores[k].pc ≠ 0x3FFFC) :
    exec (.tinvAcknowledgement k) s = .next (({ s with tinvs := s.tinvs.filter (fun u => u.core != k) } : State).onCore k
      (fun c => { c with busy := .none, pc := c.pc + 4 })) := by
  have hexec : exec (.tinvAcknowledgement k) s = execTinvAcknowledgement k s := rfl
  rw [hexec]
  simp only [execTinvAcknowledgement, ht, hdone, if_true]
  refine congrArg _ (State.onCore_congr ?_)
  have hcompletes : (if s.cores[k].busy = .tinv then ({ s.cores[k] with busy := .none } : Core).done else s.cores[k]) =
      { s.cores[k] with busy := .none, pc := s.cores[k].pc + 4 } := (if_pos hbusy).trans (Core.done_eq hpc)
  exact hcompletes

/-- Settles O51: each delivery under its conditions, and what it leaves. -/
theorem deliveries : Obligations.Deliveries := by
  intro s mt n key a e tok ch r i d p rec rest k t reply s1 taken old q size
  refine ⟨fun hrob hchan => ?response, fun ha hr => ?acknowledged, fun ha hr => ⟨fun hinv => ?replyWaits, fun hinv => ?replies⟩,
    fun hr hheld haway hrec => ?ready, fun hi hfirst hfence hline hpath hread hwrite => ?increment,
    fun hbuffer h6 h16 hroom => ?notice, fun ht hdone hbusy hpc => ?tinv⟩
  case response =>
    have hexec : exec (.responseDelivery mt n) s = execResponseDelivery mt n s := rfl
    rw [hexec]
    simp only [execResponseDelivery, hrob, hchan]
    rfl
  case acknowledged =>
    have hexec : exec (.writeAcknowledgement n) s = execWriteAcknowledgement n s := rfl
    rw [hexec]
    simp only [execWriteAcknowledgement, ha, hr]
    rfl
  case replyWaits =>
    have hexec : exec (.writeAcknowledgement n) s = execWriteAcknowledgement n s := rfl
    rw [hexec]
    simp only [execWriteAcknowledgement, ha, hr, hinv, if_true]
  case replies =>
    have hexec : exec (.writeAcknowledgement n) s = execWriteAcknowledgement n s := rfl
    rw [hexec]
    simp only [execWriteAcknowledgement, ha, hr, hinv, Bool.false_eq_true, if_false]
    exact ⟨_, rfl, rfl, rfl, State.out_respondTo _ _ _ _ _ _⟩
  case ready =>
    intro u
    have hexec := exec_readyTokenDelivery hr hheld haway hrec
    have hinp := State.inp_fillResponse { s with ready := s.ready.eraseIdx n } r.tile r.leaf r.ch r.tok
      (fun c => { c with rn := c.rn - 1 })
    exact ⟨hexec, hexec, congrArg InCh.f hinp, congrArg InCh.rn hinp⟩
  case increment => exact exec_counterIncrement hi hfirst hfence hline hpath hread hwrite
  case notice =>
    intro pa hfence hshut hslice
    have hopen : s.lineShut d pa = false := by rw [State.lineShut, hfence, hshut, Option.isNone_eq_false_iff.2 hslice]; rfl
    exact ⟨_, exec_noticeRecordWrite rfl hbuffer (NoticeQ.free_ne_zero h6 h16 hroom) hopen,
      State.noticeRecordWritten pa 64 size _ hbuffer⟩
  case tinv => exact exec_tinvAcknowledgement ht hdone hbusy hpc

end Sys2Proof.Machine
end

section
/-!
SUPPORT. The port queues of a home memory tile, page walks and held requests (R228, R229, R377-R386).
-/
namespace Sys2Proof.Machine

/-! ## A memory tile whose queues and walks change -/

/-- Of a memory tile, no more changes than its port queues and its walks. -/
def MemTile.OnlyQueues (g : MemTile → MemTile) : Prop :=
  ∀ m, g m = { m with queues := (g m).queues, walks := (g m).walks }

section
variable {g : MemTile → MemTile} (hg : MemTile.OnlyQueues g) (s : State) (mt : Site)
include hg

theorem MemTile.OnlyQueues.inWindow (m : MemTile) : (g m).inWindow = m.inWindow := by rw [hg m]; rfl

theorem State.sramOpen_onMt (u : Site) (off n : Nat) : (s.onMt mt g).sramOpen u off n = s.sramOpen u off n := by
  have hwindow : ((s.onMt mt g).mt u).inWindow = (s.mt u).inWindow := by
    by_cases h : u = mt
    · rw [h, State.mt_onMt, hg.inWindow]
    · rw [State.mt_onMt_ne _ _ _ _ h]
  rw [State.sramOpen, State.sramOpen, hwindow]

/-- The checks of an access ask nothing of a queue or a walk (R381). -/
theorem State.accessCheck_onMt (part : BitVec 6) (d : DieId) (k : AccessKind) (e : W64) (pa n : Nat) :
    (s.onMt mt g).accessCheck part d k e pa n = s.accessCheck part d k e pa n := by
  have hplace : (s.onMt mt g).placeCheck k d (e.getLsbD 5) pa n = s.placeCheck k d (e.getLsbD 5) pa n := by
    simp only [State.placeCheck, s.sramOpen_onMt hg]
    rfl
  rw [State.accessCheck, State.accessCheck, hplace]
  rfl

theorem State.trcfg_onMt (l : Leaf) : (s.onMt mt g).trcfg mt l = s.trcfg mt l := by
  rw [State.trcfg, State.mt_onMt, hg]; rfl

theorem State.tlbHit_onMt (l : Leaf) (va : Nat) : (s.onMt mt g).tlbHit mt l va = s.tlbHit mt l va := by
  rw [State.tlbHit, s.trcfg_onMt hg, State.mt_onMt, hg]; rfl

theorem State.lf_onMt : ((s.onMt mt g).mt mt).lf = (s.mt mt).lf := by rw [State.mt_onMt, hg]

theorem State.moduleOf_onMt (q : Req) : (s.onMt mt g).moduleOf mt q = s.moduleOf mt q := by
  simp only [State.moduleOf, s.lf_onMt hg]

theorem State.hold_onMt : ((s.onMt mt g).mt mt).hold = (s.mt mt).hold := by rw [State.mt_onMt, hg]

end

theorem MemTile.onlyQueues_endWalk (q : Req) : MemTile.OnlyQueues (fun m => m.endWalk q) := fun _ => rfl

/-- A place in the reorder buffer changes no hold buffer. -/
theorem State.hold_takeRob (s : State) (q : Req) (mt : Site) : ((s.takeRob q).mt mt).hold = (s.mt mt).hold := by
  unfold State.takeRob
  extract_lets t rob
  split
  · by_cases h : mt = homeMemTile q.src.tile
    · rw [h, State.mt_onMt]
    · rw [State.mt_onMt_ne _ _ _ _ h]
  · rfl

/-! ## A translated request (R381, R386) -/

/-- A request with the physical address that an entry gives. -/
def Req.through (q : Req) (e : TlbEntry) : Req := { q with pa := some (e.pa (q.body.va.getD 0).toNat), xlat := none }

/-- A request that is no `amo` and that counts nowhere takes a place in the reorder buffer, and no serial and no increment. -/
theorem State.count_enlist {q : Req} {e : TlbEntry} (hamo : q.body.isAmo = false) (hcount : e.pte.getLsbD 6 = false) (s : State)
    (mt : Site) (pa : Nat) : (s.enlist q).1.count mt (s.enlist q).2 e pa = (s.takeRob q, q) := by
  have hserial : s.takeSerial q = (s, q) := by rw [State.takeSerial, hamo, Bool.false_and, if_neg Bool.false_ne_true]
  rw [State.enlist, hserial, State.count, hcount, Bool.false_and, Bool.false_and, if_neg Bool.false_ne_true]

section
variable {s : State} {mt : Site} {q : Req} {e : TlbEntry} (hamo : q.body.isAmo = false) (hcount : e.pte.getLsbD 6 = false)
  (hcheck : s.accessCheck q.src.part (siteDie mt) q.kind e.pte (e.pa (q.body.va.getD 0).toNat) q.body.size = none)
include hamo hcount hcheck

/-- A request that nothing holds sets out for its target (R229). -/
theorem State.routeTranslated_goes {tgt : Target} (htgt : tgt = targetOf (siteDie mt) false (e.pa (q.body.va.getD 0).toNat))
    (howner : q.body.ownerOnly = false) (hpass : (q.kind.writes && e.pte.getLsbD 7) = false)
    (hline : (s.mt mt).holdsLine (q.through e) = false) (hbusy : s.targetBusy mt q tgt (e.pa (q.body.va.getD 0).toNat) = false)
    (hhost : ¬ (tgt = .host ∧ q.kind.writes = true)) :
    s.routeTranslated mt q e = .goes (((s.takeRob (q.through e)).unhold mt q).fly (q.through e) tgt) := by
  have hroom : s.amoRoom q = true := by rw [State.amoRoom, hamo]; rfl
  have henlist := State.count_enlist (q := q.through e) hamo hcount s mt (e.pa (q.body.va.getD 0).toNat)
  simp only [Req.through] at henlist hline ⊢
  simp only [State.routeTranslated, hcheck, henlist, hroom, hamo, ← htgt, howner, hpass, hline, hbusy, hhost, Bool.or_self,
    Bool.not_true, Bool.false_and, Bool.false_eq_true, if_false]

/-- A held write whose new entry holds it takes its old place in the hold buffer (R386). -/
theorem State.routeTranslated_held (hheld : (q.kind.writes && e.pte.getLsbD 7) = true) (hin : q ∈ (s.mt mt).hold) :
    s.routeTranslated mt q e = .goes ((s.takeRob (q.through e)).onMt mt (fun m =>
      { m with hold := m.hold.map (fun h => if h.id = q.id then { q.through e with xlat := some e } else h) })) := by
  have hroom : s.amoRoom q = true := by rw [State.amoRoom, hamo]; rfl
  have henlist := State.count_enlist (q := q.through e) hamo hcount s mt (e.pa (q.body.va.getD 0).toNat)
  have hany : ((s.takeRob (q.through e)).mt mt).hold.any (fun x => x.id == q.id) = true := by
    rw [State.hold_takeRob, List.any_eq_true]
    exact ⟨q, hin, beq_self_eq_true q.id⟩
  simp only [Req.through] at henlist hany ⊢
  simp only [State.routeTranslated, hcheck, henlist, hroom, hheld, State.holdReq, hany, Bool.not_true, Bool.true_or,
    Bool.false_eq_true, if_false, if_true]

end

/-- The checks that a bank's write passes, the write of a control core's copy run passes too (R318, R381). -/
theorem State.accessCheck_of_write {s : State} {part : BitVec 6} {d : DieId} {e : W64} {pa n : Nat}
    (h : s.accessCheck part d .write e pa n = none) : s.accessCheck part d .coreWrite e pa n = none := by
  by_cases hp : s.permits part .write e = true
  · have hplace : s.placeCheck .write d (e.getLsbD 5) pa n = none := by simpa [State.accessCheck, hp] using h
    have hp' : s.permits part .coreWrite e = true := hp
    have hplace' : s.placeCheck .coreWrite d (e.getLsbD 5) pa n = none := by
      rw [← hplace]
      unfold State.placeCheck at hplace ⊢
      split at hplace
      case h_5 => split at hplace <;> simp at hplace
      all_goals rfl
    rw [State.accessCheck, hp', hplace']
    rfl
  · simp [State.accessCheck, hp] at h

/-- A store is checked as what it is: the write of a bank or of a control core's copy run (R318). -/
theorem Req.kind_of_write {q : Req} {ea : W64} {v : Vec} (h : q.body = .write ea v) : q.kind = .write ∨ q.kind = .coreWrite := by
  unfold Req.kind
  rw [h]
  dsimp only
  split
  · exact .inr rfl
  · exact .inl rfl

/-! ## The port and its queue (R228, R229) -/

/-- The oldest request of a port, when nothing keeps it (R228). -/
theorem exec_memoryPortSend {s : State} {t : Site} {q : Req} {r : List Req} (hport : (s.tile t).port = q :: r)
    (hroom : ((s.mt (homeMemTile t)).queues.get t.toNat []).length < 32) (hsettled : s.settled q.waits q.dies = true)
    (hfence : s.fenced (siteDie t) = false) (hsent : (s.tile t).sent = false) :
    let q1 := { q with due := s.cycleAt t + Config.accessCycles 0 }
    exec (.memoryPortSend t) s = .next ((s.onTile t (fun x => { x with port := r, sent := true })).onMt (homeMemTile t) (fun m =>
      { m with queues := m.queues.set t.toNat ((s.mt (homeMemTile t)).queues.get t.toNat [] ++ [q1]) })) := by
  change execMemoryPortSend t s = _
  simp only [execMemoryPortSend, hport, hroom, hsettled, hfence, hsent, Bool.not_false, and_self, if_true]

section
variable {s : State} {mt t : Site} {q : Req} {r : List Req} {ea : W64} {e : TlbEntry}

/-- The head of a port queue where no damaged register and no full buffer keeps it (R229, R382). -/
theorem exec_portQueueDispatch (hqueue : (s.mt mt).queues.get t.toNat [] = q :: r)
    (hrob : ((s.mt mt).rob.get t.toNat []).length < 64) (hfence : s.fenced (siteDie mt) = false)
    (hregs : ∀ n ∈ s.routingRegs mt q, s.regBad mt q.src.leaf n = false) :
    exec (.portQueueDispatch mt t) s = if s.needsWalk mt q = true then .next (s.startWalk mt q)
      else .next (((s.onMt mt (fun m => { m.endWalk q with queues := m.queues.set t.toNat r })).route mt q).getD s) := by
  have hfind : (s.routingRegs mt q).find? (fun n => s.regBad mt q.src.leaf n) = none := by simpa using hregs
  change execPortQueueDispatch mt t s = _
  simp only [execPortQueueDispatch, hqueue, hfence, hfind, decide_eq_true_eq, Nat.not_le.2 hrob, Bool.false_eq_true, or_self,
    if_false]

/-- A load whose translation is cached needs no walk (R382). -/
theorem State.needsWalk_of_tlbHit (hbody : q.body = .read ea) (hhit : s.tlbHit mt q.src.leaf ea.toNat = some e) :
    s.needsWalk mt q = false := by
  simp [State.needsWalk, State.needsWalk.walks, hbody, hhit]

/-- An access that no owner and no module takes goes by its cached translation (R270, R382, R404). -/
theorem State.routeAccess_of_tlbHit (hva : q.body.va.getD 0 = ea)
    (hown : ((s.mt mt).lf[q.src.leaf]).ownrOf ea.toNat = none) (hmodule : s.moduleOf mt q = none) (hea : ea.toNat < 2 ^ 54)
    (hen : trEn (s.trcfg mt q.src.leaf) = true) (hhit : s.tlbHit mt q.src.leaf ea.toNat = some e) :
    s.routeAccess mt q = s.routeTranslated mt q e := by
  simp only [State.routeAccess, hva, hown, hmodule, hen, hhit, Nat.not_le.2 hea, Bool.not_true, Bool.false_eq_true, or_self,
    if_false]

theorem Req.through_of_va (h : q.body.va.getD 0 = ea) : q.through e = { q with pa := some (e.pa ea.toNat), xlat := none } := by
  rw [Req.through, h]

/-- A load goes to its target by its cached translation (R229). -/
theorem State.route_read {tgt : Target} (hbody : q.body = .read ea)
    (hown : ((s.mt mt).lf[q.src.leaf]).ownrOf ea.toNat = none) (hmodule : s.moduleOf mt q = none) (hea : ea.toNat < 2 ^ 54)
    (hen : trEn (s.trcfg mt q.src.leaf) = true) (hhit : s.tlbHit mt q.src.leaf ea.toNat = some e)
    (hcount : e.pte.getLsbD 6 = false) (htgt : tgt = targetOf (siteDie mt) false (e.pa ea.toNat))
    (hcheck : s.accessCheck q.src.part (siteDie mt) .read e.pte (e.pa ea.toNat) 64 = none)
    (hline : (s.mt mt).holdsLine { q with pa := some (e.pa ea.toNat), xlat := none } = false)
    (hbusy : s.targetBusy mt q tgt (e.pa ea.toNat) = false) :
    s.route mt q = some (((s.takeRob { q with pa := some (e.pa ea.toNat), xlat := none }).unhold mt q).fly
      { q with pa := some (e.pa ea.toNat), xlat := none } tgt) := by
  have hva : q.body.va.getD 0 = ea := by rw [hbody]; rfl
  have hkind : q.kind = .read := by rw [Req.kind, hbody]
  rw [← Req.through_of_va hva] at hline ⊢
  have hroute : s.route mt q = (s.routeAccess mt q).settle mt := by rw [State.route, hbody]
  rw [hroute, State.routeAccess_of_tlbHit hva hown hmodule hea hen hhit,
    State.routeTranslated_goes (tgt := tgt) (by rw [hbody]; rfl) hcount (by rw [hva, hkind, hbody]; exact hcheck)
      (by rw [hva]; exact htgt) (by rw [hbody]; rfl) (by rw [hkind]; rfl) hline (by rw [hva]; exact hbusy)
      (by rw [hkind]; simp [AccessKind.writes])]
  rfl

end

/-! ## Page walks (R380-R383) -/

/-- A table read through its slice finds what the table holds, or waits (R238, R380). -/
theorem State.walkVia_fst (s : State) (die : DieId) (base va lv : Nat) :
    (s.walkVia die base va lv).1 = .wait ∨ (s.walkVia die base va lv).1 = s.walkStep die base va lv := by
  unfold State.walkVia
  split
  · split
    · exact .inr rfl
    · exact .inl rfl
  · exact .inr rfl

section
variable {s u : State} {mt : Site} {n : Nat} {w : Walk} {l : Leaf} {va : Nat}
  (hw : (s.mt mt).walks[n]? = some w) (hl : l = w.req.src.leaf) (hva : va = (w.req.body.va.getD 0).toNat)
include hw hl hva

theorem exec_pageWalk {r : WalkStep} (hstep : s.walkVia (siteDie mt) w.base va w.level = (r, u)) :
    let drop := u.onMt mt (fun m => { m with walks := m.walks.eraseIdx n })
    exec (.pageWalk mt n) s = .next (match r with
      | .wait => s
      | .table b => u.onMt mt (fun m => { m with walks := m.walks.set n { w with level := w.level - 1, base := b } })
      | .leaf e pbase size =>
        if w.stale (va / size * size) size then drop
        else drop.onMt mt (fun m => m.fillTlb ⟨trAsid (s.trcfg mt l), va / size * size, size, e, pbase⟩)
      | .fault f =>
        if w.stale va 1 then drop
        else ((drop.onMt mt (fun m => m.dropReq w.req)).takeRob w.req).failReq w.req f.cause) := by
  intro drop
  change execPageWalk mt n s = _
  simp only [execPageWalk, hw, ← hva, ← hl, hstep]
  cases r with
  | wait => rfl
  | table b => rfl
  | leaf e pbase size => exact (apply_ite _ _ _ _).symm
  | fault f => exact (apply_ite _ _ _ _).symm

end

/-! ## Held requests (R386) -/

section
variable {s y u : State} {mt : Site} {q : Req} {e : TlbEntry} {ea : W64} {v : Vec}

/-- The entry by which a held request goes, and the state in which it does: the one that it has kept, or a new one, which ends its
walk. -/
def State.HeldEntry (s : State) (mt : Site) (q : Req) (va : Nat) (e : TlbEntry) (y : State) : Prop :=
  q.xlat = some e ∧ y = s ∨ q.xlat = none ∧ s.tlbHit mt q.src.leaf va = some e ∧ y = s.onMt mt (fun m => m.endWalk q)

theorem exec_heldWriteRetranslate (hfind : (s.mt mt).hold.find? (s.heldMoves mt) = some q)
    (hentry : s.HeldEntry mt q (q.body.va.getD 0).toNat e y) (hroute : (y.routeTranslated mt q e).settle mt = some u) :
    exec (.heldWriteRetranslate mt) s = .next u := by
  change execHeldWriteRetranslate mt s = _
  obtain ⟨hx, rfl⟩ | ⟨hx, hhit, rfl⟩ := hentry
  · simp only [execHeldWriteRetranslate, hfind, hx, hroute, Option.getD_some]
  · simp only [execHeldWriteRetranslate, hfind, hx, hhit, hroute, Option.getD_some]

/-- A held request that has lost its translation, and that the cache misses, walks (R382, R386). -/
theorem exec_heldWriteRetranslate_miss (hfind : (s.mt mt).hold.find? (s.heldMoves mt) = some q) (hx : q.xlat = none)
    (hmiss : s.tlbHit mt q.src.leaf (q.body.va.getD 0).toNat = none) :
    exec (.heldWriteRetranslate mt) s = .next (s.startWalk mt q) := by
  change execHeldWriteRetranslate mt s = _
  simp only [execHeldWriteRetranslate, hfind, hx, hmiss]

/-- A held write (R386): held again where its entry holds it, and otherwise on its way. -/
theorem State.heldWrite (hentry : s.HeldEntry mt q ea.toNat e y) (hbody : q.body = .write ea v) (hin : q ∈ (s.mt mt).hold)
    (hcount : e.pte.getLsbD 6 = false)
    (hcheck : s.accessCheck q.src.part (siteDie mt) .write e.pte (e.pa ea.toNat) 64 = none) :
    let q1 := { q with pa := some (e.pa ea.toNat), xlat := none }
    let tgt := targetOf (siteDie mt) false (e.pa ea.toNat)
    (e.pte.getLsbD 7 = true → y.routeTranslated mt q e = .goes ((y.takeRob q1).onMt mt (fun m =>
      { m with hold := m.hold.map (fun h => if h.id = q.id then { q1 with xlat := some e } else h) }))) ∧
    (e.pte.getLsbD 7 = false → (s.mt mt).holdsLine q1 = false → s.targetBusy mt q tgt (e.pa ea.toNat) = false → tgt ≠ .host →
      y.routeTranslated mt q e = .goes (((y.takeRob q1).unhold mt q).fly q1 tgt)) := by
  intro q1 tgt
  have hva : q.body.va.getD 0 = ea := by rw [hbody]; rfl
  have hq1 : q.through e = q1 := Req.through_of_va hva
  have hsame : y.accessCheck = s.accessCheck ∧ (y.mt mt).hold = (s.mt mt).hold ∧ y.targetBusy = s.targetBusy := by
    obtain ⟨-, rfl⟩ | ⟨-, -, rfl⟩ := hentry
    · exact ⟨rfl, rfl, rfl⟩
    · have hg := MemTile.onlyQueues_endWalk q
      exact ⟨by funext part d k e pa n; exact s.accessCheck_onMt hg mt part d k e pa n, s.hold_onMt hg mt, rfl⟩
  obtain ⟨hchecks, hhold, htargets⟩ := hsame
  have hkind : q.kind.writes = true ∧ s.accessCheck q.src.part (siteDie mt) q.kind e.pte (e.pa ea.toNat) 64 = none := by
    obtain hk | hk := Req.kind_of_write hbody
    · exact ⟨by rw [hk]; rfl, by rw [hk]; exact hcheck⟩
    · exact ⟨by rw [hk]; rfl, by rw [hk]; exact State.accessCheck_of_write hcheck⟩
  obtain ⟨hwrites, hpasses⟩ := hkind
  have hamo : q.body.isAmo = false := by rw [hbody]; rfl
  have hcheckY : y.accessCheck q.src.part (siteDie mt) q.kind e.pte (e.pa (q.body.va.getD 0).toNat) q.body.size = none := by
    rw [hchecks, hva, hbody]; exact hpasses
  rw [← hq1]
  refine ⟨fun hholds => ?held, fun hholds hline hbusy hhost => ?goes⟩
  case held => exact State.routeTranslated_held hamo hcount hcheckY (by rw [hwrites, hholds]; rfl) (by rw [hhold]; exact hin)
  case goes =>
    refine State.routeTranslated_goes hamo hcount hcheckY (by rw [hva]) (by rw [hbody]; rfl) (by rw [hholds, Bool.and_false])
      ?_ ?_ (fun h => hhost h.1)
    · rw [MemTile.holdsLine, hhold]; exact hline
    · rw [hva, htargets]; exact hbusy

end

/-- Settles O48: the port, the head of a port queue, one table read of a walk, and the held requests, by the equation of each
event under the conditions named. -/
theorem requestDispatch : Obligations.RequestDispatch := by
  intro s u y t mt q r n b w e pte pbase size ea f off x en rg dp prio ps nt v m queue endWalk s1 lf dropped l va home
  refine ⟨fun hport hroom hsettled hfence hsent => exec_memoryPortSend hport hroom hsettled hfence hsent,
    fun hqueue hrob hfence hregs => ?dispatch, fun hw => ?walk, fun hfind => ?held⟩
  case dispatch =>
    have hexec := exec_portQueueDispatch hqueue hrob hfence hregs
    have hset : ∀ u : State, s.needsWalk mt q = false → s1.route mt q = some u → exec (.portQueueDispatch mt t) s = .next u :=
      fun u hwalk hroute => by
        rw [hexec, if_neg (by rw [hwalk]; exact Bool.false_ne_true)]
        exact congrArg (fun o => Host.Outcome.next (Option.getD o s)) hroute
    refine ⟨fun hwalk => by rw [hexec, if_pos hwalk], hset u, fun hbody => ?launch, fun hbody => ?weight, ?load⟩
    case launch =>
      exact hset _ (by rw [State.needsWalk, hbody]) (by rw [State.route, hbody])
    case weight =>
      exact hset _ (by rw [State.needsWalk, hbody]) (by rw [State.route, hbody])
    case load =>
      intro hbody hown hmodule hea hen hhit hcount q1 tgt hcheck hline hbusy
      have hg : MemTile.OnlyQueues (fun m : MemTile => { endWalk m with queues := m.queues.set t.toNat r }) := fun _ => rfl
      refine hset _ (State.needsWalk_of_tlbHit hbody hhit) (State.route_read hbody ?_ ?_ hea ?_ ?_ hcount rfl hcheck hline hbusy)
      · simpa only [s1, s.lf_onMt hg] using hown
      · rw [s.moduleOf_onMt hg]; exact hmodule
      · rw [s.trcfg_onMt hg]; exact hen
      · rw [s.tlbHit_onMt hg]; exact hhit
  case walk =>
    have hexec := fun r u => exec_pageWalk (u := u) (r := r) hw rfl rfl
    refine ⟨s.walkVia_fst _ _ _ _, (s.passed_walkVia _ _ _ _).same.1, fun h => hexec _ _ h, fun h => hexec _ _ h,
      fun h hfresh => ?leaf, fun h hstale => ?stale, fun h hfresh => ?fault⟩
    case leaf => exact (hexec _ _ h).trans (congrArg _ (if_neg (by rw [hfresh]; exact Bool.false_ne_true)))
    case stale => exact (hexec _ _ h).trans (congrArg _ (if_pos hstale))
    case fault => exact (hexec _ _ h).trans (congrArg _ (if_neg (by rw [hfresh]; exact Bool.false_ne_true)))
  case held =>
    refine ⟨fun hx hmiss => exec_heldWriteRetranslate_miss hfind hx hmiss, fun hentry hroute => exec_heldWriteRetranslate hfind hentry hroute, ?_⟩
    intro hentry hbody hcount q1 tgt hcheck
    have hva : q.body.va.getD 0 = ea := by rw [hbody]; rfl
    obtain ⟨hheld, hgoes⟩ := State.heldWrite hentry hbody (List.mem_of_find?_eq_some hfind) hcount hcheck
    have hset : ∀ u, y.routeTranslated mt q e = .goes u → exec (.heldWriteRetranslate mt) s = .next u := fun u h =>
      exec_heldWriteRetranslate hfind (by rw [hva]; exact hentry) (by rw [h]; rfl)
    exact ⟨fun hholds => hset _ (hheld hholds), fun hholds hline hbusy hhost => hset _ (hgoes hholds hline hbusy hhost)⟩

end Sys2Proof.Machine
end

section
/-!
SUPPORT. A destination beat whose home is host memory (R241, R306): the write is posted, so that the times of its acknowledgements
are set as the beat is sent.
-/
namespace Sys2Proof.Machine

section
variable {s : State} {mt : Site} {q : Req} {e : TlbEntry} {ea : W64} {v : Vec}

/-- A store to host memory that nothing holds is posted (R241). -/
theorem State.routeTranslated_posted (hcount : e.pte.getLsbD 6 = false)
    (hcheck : s.accessCheck q.src.part (siteDie mt) q.kind e.pte (e.pa (q.body.va.getD 0).toNat) q.body.size = none)
    (hhost : targetOf (siteDie mt) false (e.pa (q.body.va.getD 0).toNat) = .host) (hbody : q.body = .write ea v)
    (hpass : e.pte.getLsbD 7 = false) (hline : (s.mt mt).holdsLine (q.through e) = false)
    (halone : s.flight.any (fun f => sameLine f.req (q.through e)) = false) :
    s.routeTranslated mt q e = .goes (((s.takeRob (q.through e)).unhold mt q).postHost (q.through e)
      (e.pa (q.body.va.getD 0).toNat)) := by
  have hamo : q.body.isAmo = false := by rw [hbody]; rfl
  have howner : q.body.ownerOnly = false := by rw [hbody]; rfl
  have hwrites : q.kind.writes = true := by
    obtain hk | hk := Req.kind_of_write hbody <;> rw [hk] <;> rfl
  have hroom : s.amoRoom q = true := by rw [State.amoRoom, hamo]; rfl
  have henlist := State.count_enlist (q := q.through e) hamo hcount s mt (e.pa (q.body.va.getD 0).toNat)
  have hbusy : s.targetBusy mt q .host (e.pa (q.body.va.getD 0).toNat) = false := rfl
  simp only [Req.through] at henlist hline halone ⊢
  simp only [State.routeTranslated, hcheck, henlist, hroom, hamo, hhost, howner, hpass, hline, hbusy, hwrites, halone, Bool.or_self,
    Bool.not_true, Bool.and_false, Bool.false_and, Bool.false_eq_true, and_self, if_false, if_true]

/-- A posted beat leaves its chunks with the time of their acknowledgements (R241, R321). -/
theorem State.chunks_postHost {byCore : Bool} {tag : Option (Fin 16)} (hbody : q.body = .write ea v) (hwhy : q.why = .chunk byCore tag)
    (pa : Nat) : (s.postHost q pa).chunks = s.chunks.map (fun c =>
      if c.req = q.id then { c with due := s.cycleAt q.src.tile + Config.accessCycles 3 } else c) := by
  simp only [State.postHost, hbody, State.written, hwhy, State.putPhys, State.cycleAt]

end

/-! ## A destination beat (R306) -/

section
variable (s : State) (mt : Site) (l : Leaf) (u : Fin 4) (run : Nat) (byCore : Bool) (va : W64) (v : Vec)

/-- The request of a destination beat. -/
def State.beatReq : Req := s.unitReq mt l u (.chunk byCore ((s.tpl mt l u).countTag byCore)) (.write va v)

/-- The state in which the request of a beat is routed: its two chunks are listed. -/
def State.listBeat : State :=
  let c := fun (i : Nat) => Chunk.mk mt l u run byCore ((s.tpl mt l u).countTag byCore) (va.toNat + 32 * i) s.nextId
    (s.tpl mt l u).reads false 0
  { s.takeId.onTpl mt l u (fun t => { t with held := false }) with chunks := s.chunks ++ [c 0, c 1] }

variable {s mt l u run byCore va v}

theorem State.sendBeat_of_goes {w : State}
    (h : (s.listBeat mt l u run byCore va).routeNow mt (s.beatReq mt l u byCore va v) = .goes w) :
    s.sendBeat mt l u run byCore va v = .sent w := by
  have hmatch : s.sendBeat mt l u run byCore va v =
      match (s.listBeat mt l u run byCore va).routeNow mt (s.beatReq mt l u byCore va v) with
      | .fault _ _ e => .fault e
      | .waits => .waits (s.onTpl mt l u (fun t => { t with held := s.holdFull mt l va.toNat }))
      | .goes s2 => .sent s2 := rfl
  rw [hmatch, h]

end

/-! ## A package whose copy engine is to send its one beat to host memory -/

/-- A page of host memory that may be written. -/
def hostPage : TlbEntry := ⟨0, 0, 4096, 0x27, 0x8000000000000⟩

/-- In cycle 1, a run of one beat that it has read, and a page of host memory that its memory tile has cached. -/
def postingS : State :=
  ((State.reset.onDie (siteDie 0x0C0) (fun d => { d with cycle := 1 })).onMt 0x0C0 (fun m =>
    { m with trcfg := m.trcfg.set 0 1, tlb := [hostPage] })).onTpl 0x0C0 0 0 (fun t =>
      { t with state := 1, run := some { id := 1, soff := 0, doff := 0, input := [7] } })

/-- The request of its beat, and the state in which that is routed. -/
def postedReq : Req := postingS.beatReq 0x0C0 0 0 false 0 7
def listedS : State := postingS.listBeat 0x0C0 0 0 1 false 0
/-- The state in which the write is posted. -/
def openS : State := (listedS.takeRob (postedReq.through hostPage)).unhold 0x0C0 postedReq
/-- The first chunk of the beat, as it is listed. -/
def firstChunk : Chunk := { mt := 0x0C0, leaf := 0, unit := 0, run := 1, tag := none, va := 0, req := postingS.nextId,
                             reads := (postingS.tpl 0x0C0 0 0).reads }

theorem postingS_routeNow : listedS.routeNow 0x0C0 postedReq =
    .goes (openS.postHost (postedReq.through hostPage) (hostPage.pa 0)) := by
  have hbody : postedReq.body = .write 0 7 := rfl
  have hwalk : listedS.needsWalk 0x0C0 postedReq = false := by decide +kernel
  have haccess : listedS.routeAccess 0x0C0 postedReq = listedS.routeTranslated 0x0C0 postedReq hostPage :=
    State.routeAccess_of_tlbHit (ea := 0) rfl (by decide +kernel) (by decide +kernel) (by decide +kernel) (by decide +kernel)
      (by decide +kernel)
  rw [State.routeNow, hwalk, if_neg Bool.false_ne_true, haccess]
  exact State.routeTranslated_posted (by decide +kernel) (by decide +kernel) (by decide +kernel) hbody (by decide +kernel)
    (by decide +kernel) (by decide +kernel)

/-- The beat is sent, with a time of its acknowledgements. -/
theorem postingS_sendBeat : ∃ w, postingS.sendBeat 0x0C0 0 0 1 false 0 7 = .sent w ∧ ∃ c ∈ w.chunks, c.due ≠ 0 := by
  refine ⟨_, State.sendBeat_of_goes postingS_routeNow, ?_⟩
  have hlisted : firstChunk ∈ openS.chunks := by decide +kernel
  have hcycle : openS.cycleAt 0x0C0 = 1 := by decide +kernel
  have hown : firstChunk.req = (postedReq.through hostPage).id := by decide +kernel
  rw [State.chunks_postHost (ea := 0) (v := 7) (byCore := false) (tag := none) rfl (by decide +kernel)]
  refine ⟨_, List.mem_map_of_mem hlisted, ?_⟩
  rw [if_pos hown]
  change openS.cycleAt 0x0C0 + _ ≠ 0
  omega

/-- The unit can move its beat. -/
theorem postingS_unitBeat : (postingS.unitBeat 0x0C0 0 0).isSome = true := by decide +kernel

/-- Refutes O54: a destination beat to host memory is posted, so that its chunks come with a time of their acknowledgements other
than the 0 that the statement gives each chunk of a beat sent. -/
theorem not_copyEvents : ¬ Obligations.CopyEvents := by
  intro h
  obtain ⟨w, hsent, c, hc, hdue⟩ := postingS_sendBeat
  obtain ⟨z, hunit⟩ := Option.isSome_iff_exists.1 postingS_unitBeat
  obtain ⟨-, -, -, hbeat, -⟩ := h.2 postingS w z 0x0C0 0 0 { id := 1, soff := 0, doff := 0, input := [7] } default 0 c .page 0
  obtain ⟨-, hsend, -⟩ := hbeat hunit (by decide +kernel)
  obtain ⟨-, hchunks⟩ := hsend (by decide +kernel) (by decide +kernel) hsent
  have hnone : postingS.chunks = [] := rfl
  rw [hchunks, hnone, List.nil_append, List.mem_map] at hc
  obtain ⟨o, -, rfl⟩ := hc
  exact hdue rfl

end Sys2Proof.Machine
end

section
/-!
SUPPORT. Control cores: the integer instructions, the registers and exceptions, the branches and jumps, and the CSRs
(R343, R371, R388, R390, R392-R396).
-/
namespace Sys2Proof.Machine

/-! ## Integer instructions (R390) -/

section
variable {s : State}

/-- An instruction that gives its register a value goes on to the next word (R390). -/
theorem coreWrite_eq {d : BitVec 5} {f : Core → W64} {v : W64} (hpc : s.curCore.pc ≠ 0x3FFFC) (hv : f s.curCore = v) :
    coreWrite d f s = .next (s.onCurCore (fun c => { c.wx d v with pc := c.pc + 4 })) := by
  rw [← State.onCurCore_wx_done d v hpc]
  refine congrArg Host.Outcome.next (State.onCore_congr ?_)
  rw [← hv]
  rfl

/-- Settles O36: every integer instruction is a `coreWrite` of its value. -/
theorem coreIntegerResults : Obligations.CoreIntegerResults := by
  intro s d a b imm n c x y k sh flag does hpc
  have hdoes {i : Instr} {v : W64} (f : Core → W64) (hi : exec i s = coreWrite d f s) (hv : f s.curCore = v) : does i v :=
    hi.trans (coreWrite_eq hpc hv)
  exact ⟨hdoes _ rfl rfl, hdoes _ rfl rfl, hdoes _ rfl rfl, hdoes _ rfl rfl, hdoes _ rfl rfl, hdoes _ rfl rfl,
    hdoes _ rfl rfl, hdoes _ rfl rfl, hdoes _ rfl rfl, hdoes _ rfl rfl, hdoes _ rfl rfl, hdoes _ rfl rfl,
    hdoes _ rfl rfl, hdoes _ rfl rfl, hdoes _ rfl rfl, hdoes _ rfl rfl, hdoes _ rfl rfl, hdoes _ rfl rfl,
    hdoes _ rfl rfl, hdoes _ rfl rfl⟩

end

/-! ## Registers and exceptions (R388, R394, R396) -/

section
variable (c : Core) (r q : BitVec 5) (v : W64)

@[simp] theorem Core.rx_zero : c.rx 0 = 0 := if_pos rfl

@[simp] theorem Core.wx_zero : c.wx 0 v = c := if_pos rfl

theorem Core.rx_wx_same {r : BitVec 5} (h : r ≠ 0) : (c.wx r v).rx r = v := by
  rw [Core.rx, Core.wx, if_neg h, if_neg h]
  exact Vector.getElem_set_self _

theorem Core.rx_wx_ne {r q : BitVec 5} (h : q ≠ r) : (c.wx r v).rx q = c.rx q := by
  have hne : r.toNat ≠ q.toNat := fun e => h (BitVec.eq_of_toNat_eq e.symm)
  unfold Core.rx Core.wx
  split
  · rfl
  · split
    · rfl
    · exact Vector.getElem_set_ne (Fin.isLt r.toFin) (Fin.isLt q.toFin) hne

@[simp] theorem Core.wx_inExc : (c.wx r v).inExc = c.inExc := by
  unfold Core.wx; split <;> rfl

/-- A word address has no low bits to lose (R388). -/
theorem and_wordMask_eq_self {p : BitVec 18} (h : p &&& 3 = 0) : p &&& 0x3FFFC = p := by
  have hall : (0x3FFFC ||| 3 : BitVec 18) = BitVec.allOnes 18 := rfl
  calc p &&& 0x3FFFC = p &&& 0x3FFFC ||| p &&& 3 := by rw [h]; exact BitVec.or_zero.symm
    _ = p := by rw [← BitVec.and_or_distrib_left, hall, BitVec.and_allOnes]

/-- The instruction in the last word of local memory is followed by a BRANGE exception (R388). -/
theorem Core.done_last (hpc : c.pc = 0x3FFFC) (hin : c.inExc = false) : c.done =
    { c with epc := 0x3FFFC, ecause := 0x02, eaddr := 0x40000, inExc := true, pc := c.evec } := by
  rw [Core.done, if_pos hpc, Core.exception, hpc, hin, Bool.or_false]
  rfl

/-- An exception that is taken inside another halts the core (R396). -/
theorem Core.exception_nested (f : Cause) (a : W64) (hin : c.inExc = true) : c.exception f a =
    { c with epc := c.pc &&& 0x3FFFC, ecause := f.code, eaddr := a, pc := c.evec, halted := true } := by
  rw [Core.exception, hin, Bool.or_true, ← hin]

/-- An exception saves the address of its instruction (R396). -/
theorem Core.epc_exception (f : Cause) (a : W64) (hpc : c.pc &&& 3 = 0) : (c.exception f a).epc = c.pc :=
  and_wordMask_eq_self hpc

end

/-- Settles O37: the registers by the equations of `Core.rx` and `Core.wx`, the exceptions by those of `Core.exception`. -/
theorem coreState : Obligations.CoreState := by
  refine ⟨fun c r q v => ⟨c.rx_zero, c.wx_zero v, c.rx_wx_same v, c.rx_wx_ne v, c.wx_pc r v, c.wx_lmem r v,
    c.wx_inExc r v, Core.done_eq,
    c.done_last⟩, fun c f a => ⟨fun hin hpc => ?_, c.exception_nested f a⟩⟩
  have hepc := c.epc_exception f a hpc
  have hhalted : (c.exception f a).halted = c.halted := by rw [Core.exception, hin, Bool.or_false]
  exact ⟨hepc, rfl, rfl, rfl, rfl, rfl, rfl, hhalted, hepc, rfl⟩

/-! ## Branches and jumps (R392) -/

section
variable {s : State} {t : W64}

theorem toNat_lowBits (t : W64) : (t.extractLsb' 0 2).toNat = t.toNat % 4 := by
  rw [BitVec.extractLsb'_toNat, Nat.shiftRight_zero]

theorem jumpFault_inside (hword : t.toNat % 4 = 0) (hin : t.toNat < 0x40000) : jumpFault t = none := by
  have hlow : t.extractLsb' 0 2 = 0 := BitVec.eq_of_toNat_eq ((toNat_lowBits t).trans hword)
  rw [jumpFault, if_neg (not_not.2 hlow), if_neg (Nat.not_le.2 hin)]

theorem jumpFault_unaligned (h : t.toNat % 4 ≠ 0) : jumpFault t = some .align := by
  refine if_pos fun hlow => h ?_
  rw [← toNat_lowBits, hlow]
  rfl

theorem jumpFault_beyond (hword : t.toNat % 4 = 0) (hout : 0x40000 ≤ t.toNat) : jumpFault t = some .brange := by
  have hlow : t.extractLsb' 0 2 = 0 := BitVec.eq_of_toNat_eq ((toNat_lowBits t).trans hword)
  rw [jumpFault, if_neg (not_not.2 hlow), if_pos hout]

/-- A jump to a target that faults has no other effect (R392). -/
theorem coreJump_fault {f : Cause} (link : Option (BitVec 5)) (h : jumpFault t = some f) :
    coreJump link t s = s.onCurCore (fun q => q.exception f t) := by
  rw [coreJump, h]
  rfl

theorem coreJump_inside (h : jumpFault t = none) :
    coreJump none t s = s.onCurCore (fun c => { c with pc := t.setWidth 18 }) := by
  rw [coreJump, h]

/-- A jump that links leaves the address of the next word in its register (R392). -/
theorem coreJump_link {d : BitVec 5} (h : jumpFault t = none) : coreJump (some d) t s =
    s.onCurCore (fun c => { c.wx d (s.curCore.pc.setWidth 64 + 4) with pc := t.setWidth 18 }) := by
  rw [coreJump, h]
  exact State.onCore_congr rfl

variable {a b : BitVec 5} {off : BitVec 16} {f : W64 → W64 → Bool}

theorem coreBranch_taken (h : f (s.curCore.rx a) (s.curCore.rx b) = true) :
    coreBranch a b off f s = .next (coreJump none (s.curCore.pc.setWidth 64 + imm64 off * 4) s) := if_pos h

theorem coreBranch_notTaken (h : f (s.curCore.rx a) (s.curCore.rx b) = false) (hpc : s.curCore.pc ≠ 0x3FFFC) :
    coreBranch a b off f s = .next (s.onCurCore (fun c => { c with pc := c.pc + 4 })) := by
  rw [← State.onCurCore_done hpc]
  exact if_neg (by simp [h])

end

/-- The signed order, read off `slt` (R390, R392). -/
theorem decide_toInt_le_eq_not_slt (x y : W64) : decide (y.toInt ≤ x.toInt) = !x.slt y := by
  rw [BitVec.slt, ← decide_not, decide_eq_decide, Int.not_lt]

/-- The unsigned order, read off `ult` (R390, R392). -/
theorem decide_toNat_le_eq_not_ult (x y : W64) : decide (y.toNat ≤ x.toNat) = !x.ult y := by
  rw [BitVec.ult, ← decide_not, decide_eq_decide, Nat.not_lt]

/-- Settles O39: every branch is `coreBranch` under its condition and every jump `coreJump`, whose faults are `jumpFault`'s. -/
theorem coreBranches : Obligations.CoreBranches := by
  refine ⟨?performed, ?faulty⟩
  case performed =>
    intro s d a b off imm far c x y near jump reg inside link branch
    have hbranch {i : Instr} {taken : Bool} (f : W64 → W64 → Bool) (hi : exec i s = coreBranch a b off f s)
        (hf : taken = f x y) : branch i taken := by
      refine ⟨fun ht hin => ?_, fun ht hpc => hi.trans (coreBranch_notTaken (hf.symm.trans ht) hpc)⟩
      exact hi.trans ((coreBranch_taken (hf.symm.trans ht)).trans
        (congrArg _ (coreJump_inside (jumpFault_inside hin.1 hin.2))))
    exact ⟨hbranch _ rfl rfl, hbranch _ rfl rfl, hbranch _ rfl rfl, hbranch (fun x y => !x.slt y) rfl (decide_toInt_le_eq_not_slt x y),
      hbranch _ rfl rfl, hbranch (fun x y => !x.ult y) rfl (decide_toNat_le_eq_not_ult x y),
      fun hin => congrArg Host.Outcome.next (coreJump_link (jumpFault_inside hin.1 hin.2)),
      fun hin => congrArg Host.Outcome.next (coreJump_link (jumpFault_inside hin.1 hin.2))⟩
  case faulty =>
    intro s d a b off imm far c x y near jump reg takes faults
    have hfaults {i : Instr} {t : W64} (link : Option (BitVec 5)) (hi : exec i s = .next (coreJump link t s)) :
        faults i t :=
      ⟨fun h => hi.trans (congrArg _ (coreJump_fault link (jumpFault_unaligned h))),
        fun h hout => hi.trans (congrArg _ (coreJump_fault link (jumpFault_beyond h hout)))⟩
    have hbranch {i : Instr} (f : W64 → W64 → Bool) (hi : exec i s = coreBranch a b off f s) (hf : f x y = true) :
        faults i near := hfaults none (hi.trans (coreBranch_taken hf))
    exact ⟨hfaults (some d) rfl, hfaults (some d) rfl, fun h => hbranch _ rfl (beq_iff_eq.2 h),
      fun h => hbranch _ rfl (bne_iff_ne.2 h), fun h => hbranch _ rfl (decide_eq_true h),
      fun h => hbranch (fun x y => !x.slt y) rfl ((decide_toInt_le_eq_not_slt x y).symm.trans (decide_eq_true h)),
      fun h => hbranch _ rfl (decide_eq_true h),
      fun h => hbranch (fun x y => !x.ult y) rfl ((decide_toNat_le_eq_not_ult x y).symm.trans (decide_eq_true h))⟩

/-! ## CSRs, `eret` and `wfe` (R343, R371, R393-R395) -/

section
variable {s : State} {k : CoreId} {num : BitVec 12} {d a : BitVec 5}

theorem exec_csrr {v : W64} (h : s.csr s.cur.core num = some v) (hpc : s.curCore.pc ≠ 0x3FFFC) :
    exec (.csrr d num) s = .next (s.onCurCore (fun c => { c.wx d v with pc := c.pc + 4 })) := by
  change execCsrr d num s = _
  simp only [execCsrr, h, State.onCurCore_wx_done d v hpc]

theorem exec_csrr_unassigned (h : s.csr s.cur.core num = none) :
    exec (.csrr d num) s = .next (s.coreFault .illop 0) := by
  change execCsrr d num s = _
  simp only [execCsrr, h]

theorem exec_csrw (h : (s.csr s.cur.core num).isSome = true)
    (hpc : (s.setCsr s.cur.core num (s.curCore.rx a)).curCore.pc ≠ 0x3FFFC) :
    exec (.csrw a num) s =
      .next ((s.setCsr s.cur.core num (s.curCore.rx a)).onCurCore (fun c => { c with pc := c.pc + 4 })) := by
  obtain ⟨v, hv⟩ := Option.isSome_iff_exists.1 h
  change execCsrw a num s = _
  simp only [execCsrw, hv, State.onCurCore_done hpc]

theorem exec_csrw_unassigned (h : s.csr s.cur.core num = none) :
    exec (.csrw a num) s = .next (s.coreFault .illop 0) := by
  change execCsrw a num s = _
  simp only [execCsrw, h]

/-- An unmasked event bit is pending (R394). -/
theorem Core.event_iff {c : Core} : c.event = true ↔ c.evpend &&& c.evmask ≠ 0 := bne_iff_ne

theorem Core.event_eq_false {c : Core} (h : c.evpend &&& c.evmask = 0) : c.event = false :=
  eq_false_of_ne_true fun e => Core.event_iff.1 e h

theorem exec_wfeEnd (hbusy : s.cores[k].busy = .wfe) (hevent : s.cores[k].event = true)
    (hpc : s.cores[k].pc ≠ 0x3FFFC) :
    exec (.wfeEnd k) s = .next (s.onCore k (fun c => { c with busy := .none, pc := c.pc + 4 })) := by
  refine (if_pos ⟨hbusy, hevent⟩ : execWfeEnd k s = _).trans (congrArg _ ?_)
  exact State.onCore_done (f := fun c => { c with busy := .none }) rfl hpc

/-! ### The registers of a partition (R371, R395) -/

variable {p : BitVec 6} {j : Fin 16}

/-- The number of a partition's register in the space of the CSRs. -/
theorem toNat_noticeCsr (p : BitVec 6) (j : Fin 16) :
    (BitVec.ofNat 12 (0x100 + 16 * p.toNat + j.val)).toNat = 0x100 + 16 * p.toNat + j.val := by
  have := p.isLt
  have := j.isLt
  rw [BitVec.toNat_ofNat]
  omega

theorem noticeCsr_part (p : BitVec 6) (j : Fin 16) : BitVec.ofNat 6 ((0x100 + 16 * p.toNat + j.val - 0x100) / 16) = p := by
  have := j.isLt
  have hdiv : (0x100 + 16 * p.toNat + j.val - 0x100) / 16 = p.toNat := by omega
  rw [hdiv, BitVec.ofNat_toNat, BitVec.setWidth_eq]

theorem noticeCsr_reg (p : BitVec 6) (j : Fin 16) : (0x100 + 16 * p.toNat + j.val - 0x100) % 16 = j.val := by
  have := j.isLt
  omega

theorem State.csr_notice : s.csr k (BitVec.ofNat 12 (0x100 + 16 * p.toNat + j.val)) =
    some ((s.noticeQ (coreDie k) p).reg j.val) := by
  have hp := p.isLt
  have hj := j.isLt
  have hrange : 0x100 ≤ 0x100 + 16 * p.toNat + j.val ∧ 0x100 + 16 * p.toNat + j.val < 0x500 := by omega
  have hne {n : Nat} (h : n < 0x100) : ¬ 0x100 + 16 * p.toNat + j.val = n := by omega
  simp only [State.csr, toNat_noticeCsr, noticeCsr_part, noticeCsr_reg, if_pos hrange, hne (by decide : 0x000 < 0x100),
    hne (by decide : 0x001 < 0x100), hne (by decide : 0x008 < 0x100), hne (by decide : 0x009 < 0x100),
    hne (by decide : 0x00A < 0x100), hne (by decide : 0x00B < 0x100), hne (by decide : 0x00C < 0x100),
    hne (by decide : 0x010 < 0x100), hne (by decide : 0x011 < 0x100), hne (by decide : 0x012 < 0x100),
    hne (by decide : 0x013 < 0x100), hne (by decide : 0x020 < 0x100), hne (by decide : 0x021 < 0x100), if_false]

theorem State.setCsr_notice (v : W64) : s.setCsr k (BitVec.ofNat 12 (0x100 + 16 * p.toNat + j.val)) v =
    s.onNotice (coreDie k) p (fun q => q.setReg j.val v) := by
  have hp := p.isLt
  have hj := j.isLt
  have hrange : 0x100 ≤ 0x100 + 16 * p.toNat + j.val ∧ 0x100 + 16 * p.toNat + j.val < 0x500 := by omega
  have hne {n : Nat} (h : n < 0x100) : ¬ 0x100 + 16 * p.toNat + j.val = n := by omega
  simp only [State.setCsr, toNat_noticeCsr, noticeCsr_part, noticeCsr_reg, if_pos hrange,
    hne (by decide : 0x008 < 0x100), hne (by decide : 0x009 < 0x100), hne (by decide : 0x010 < 0x100),
    hne (by decide : 0x011 < 0x100), hne (by decide : 0x012 < 0x100), hne (by decide : 0x013 < 0x100),
    hne (by decide : 0x020 < 0x100), if_false]

/-- The numbers past CNTBASE read 0 (R395). -/
theorem NoticeQ.reg_reserved (q : NoticeQ) {n : Nat} (h : 7 ≤ n) : q.reg n = 0 := by
  have hne {m : Nat} (hm : m < 7) : ¬ n = m := by omega
  simp only [NoticeQ.reg, hne (by decide : 0 < 7), hne (by decide : 1 < 7), hne (by decide : 2 < 7),
    hne (by decide : 3 < 7), hne (by decide : 4 < 7), hne (by decide : 5 < 7), hne (by decide : 6 < 7), if_false]

/-- The numbers past CNTBASE take no write (R395). -/
theorem NoticeQ.setReg_reserved (q : NoticeQ) (v : W64) {n : Nat} (h : 7 ≤ n) : q.setReg n v = q := by
  have hne {m : Nat} (hm : m < 7) : ¬ n = m := by omega
  simp only [NoticeQ.setReg, hne (by decide : 0 < 7), hne (by decide : 1 < 7), hne (by decide : 2 < 7),
    hne (by decide : 4 < 7), hne (by decide : 5 < 7), hne (by decide : 6 < 7), if_false]

/-- DISTCFG, with its upper half 0 (R343). -/
theorem Die.distcfg_eq (d : Die) : d.distcfg = 0#32 ++ (d.master ++ 0#2 ++ d.live ++ 0#8 ++ d.gran) := by
  apply BitVec.eq_of_toNat_eq
  rw [Die.distcfg, BitVec.toNat_setWidth, Nat.mod_eq_of_lt ((BitVec.isLt _).trans (by decide)), BitVec.toNat_append 0#32]
  simp

end

/-- Settles O40: the instructions by their cases, each CSR by the row of its table, and the registers of a partition by
`State.csr_notice` and `State.setCsr_notice`. -/
theorem coreSystem : Obligations.CoreSystem := by
  refine ⟨?instructions, ?registers, ?partition⟩
  case instructions =>
    intro s d a num v c k next
    refine ⟨exec_csrr, fun h => ⟨exec_csrr_unassigned h, exec_csrw_unassigned h⟩, exec_csrw, fun hin => if_pos hin,
      fun hin => if_neg (ne_true_of_eq_false hin), fun hev hpc => ?_, fun hev => ?_,
      fun hbusy hev hpc => exec_wfeEnd hbusy (Core.event_iff.2 hev) hpc⟩
    · exact (if_pos (Core.event_iff.2 hev) : execWfe s = _).trans (congrArg _ (State.onCurCore_done hpc))
    · exact if_neg (ne_true_of_eq_false (Core.event_eq_false hev))
  case registers =>
    intro s k v c
    exact ⟨rfl, rfl, rfl, rfl, rfl, rfl, rfl, rfl, rfl, rfl, rfl, rfl, rfl, rfl, rfl, rfl, rfl, rfl, rfl, rfl, rfl, rfl,
      rfl, rfl, rfl, rfl⟩
  case partition =>
    intro s k p j v d g q num reads writes
    have hread : s.csr k num = some (q.reg j.val) := State.csr_notice
    have hwrite : s.setCsr k num v = s.onNotice d p (fun q => q.setReg j.val v) := State.setCsr_notice v
    have hreads {n : Fin 16} {w : W64} (h : q.reg n.val = w) : reads n w := fun hj => hread.trans (by rw [hj, h])
    have hwrites {n : Fin 16} {f : NoticeQ → NoticeQ} (h : (fun q : NoticeQ => q.setReg n.val v) = f) : writes n f :=
      fun hj => hwrite.trans (by rw [hj, h])
    exact ⟨congrArg some g.distcfg_eq, rfl, hreads rfl, hreads rfl, hreads rfl, hreads rfl, hreads rfl, hreads rfl,
      hreads rfl, fun h => hreads (q.reg_reserved h), hwrites rfl, hwrites rfl, hwrites rfl, hwrites rfl, hwrites rfl,
      hwrites rfl, hwrites rfl, fun h => hwrites (funext fun q => q.setReg_reserved v h)⟩

end Sys2Proof.Machine
end

section
/-!
SUPPORT. What the kill of a graph leaves of the launch table and of the banks, and the commands of `frz` and `thw` (R302, R353,
R358, R359, R368, R370, R399, R406).
-/
namespace Sys2Proof.Machine

/-- A part of the state that each step of a fold leaves as it is, the fold leaves as it is. -/
theorem State.foldl_keeps {α γ : Type} {f : State → α → State} (part : State → γ) (h : ∀ x a, part (f x a) = part x) :
    ∀ (l : List α) (s : State), part (l.foldl f s) = part s
  | [], _ => rfl
  | a :: l, s => (State.foldl_keeps part h l (f s a)).trans (h s a)

/-! ## The launch table and the tiles (R271, R293, R370) -/

/-- The launch table and the tiles are none of what an access changes on its way. -/
theorem State.Passed.table {s t : State} (h : s.Passed t) : t.launch = s.launch ∧ t.tiles = s.tiles := by
  obtain ⟨hbeside, -⟩ := h
  exact ⟨(congrArg State.launch hbeside :), (congrArg State.tiles hbeside :)⟩

section
variable (s : State)

@[simp] theorem State.launch_invalidate (pa : Nat) (via : Option Nat) (id : Nat) (part : Option (BitVec 6)) :
    (s.invalidate pa via id part).launch = s.launch := (s.passed_invalidate pa via id part).table.1

@[simp] theorem State.launch_touchPage (pa : Nat) (write : Bool) : (s.touchPage pa write).launch = s.launch := by
  unfold State.touchPage
  exact State.foldl_keeps State.launch (fun x _ => (x.passed_touch _ _).table.1) _ s

@[simp] theorem State.launch_backPage (mt : Site) (f : MtLeaf) (ct : BitVec 2) (va : Nat) :
    (s.backPage mt f ct va).launch = s.launch := by
  unfold State.backPage
  split
  · rfl
  · split
    · rfl
    · rw [State.foldl_keeps State.launch fun x _ => x.launch_invalidate _ _ _ _]
      dsimp only
      rw [State.launch_touchPage]

@[simp] theorem State.launch_backOwners (g : Graph) : (s.backOwners g).launch = s.launch := by
  unfold State.backOwners
  refine State.foldl_keeps State.launch (fun x m => ?_) g.mts s
  refine State.foldl_keeps State.launch (fun y e => ?_) _ x
  exact State.foldl_keeps State.launch (fun z va => z.launch_backPage _ _ _ _) _ y

section
variable (part : BitVec 6) (mt : Site) (l : Leaf)

@[simp] theorem State.launch_onLeafFor (f : MtLeaf → MtLeaf) : (s.onLeafFor part mt l f).launch = s.launch := by
  unfold State.onLeafFor; split <;> rfl

@[simp] theorem State.tiles_onLeafFor (f : MtLeaf → MtLeaf) : (s.onLeafFor part mt l f).tiles = s.tiles := by
  unfold State.onLeafFor; split <;> rfl

@[simp] theorem State.launch_grantTo (src : Sender) (key seq : W32) (p : Bool) :
    (s.grantTo mt l src key seq p).launch = s.launch := by
  unfold State.grantTo; extract_lets; split <;> rfl

@[simp] theorem State.tiles_grantTo (src : Sender) (key seq : W32) (p : Bool) :
    (s.grantTo mt l src key seq p).tiles = s.tiles := by
  unfold State.grantTo; extract_lets; split <;> rfl

/-- A key that moves on grants a waiter, but touches no launch and no tile (R293). -/
@[simp] theorem State.launch_advanceKey (r : KeyRec) : (s.advanceKey part mt l r).launch = s.launch := by
  dsimp only [State.advanceKey]
  split
  · exact s.launch_onLeafFor part mt l _
  · exact (State.launch_grantTo _ _ _ _ _ _ _).trans (s.launch_onLeafFor part mt l _)

@[simp] theorem State.tiles_advanceKey (r : KeyRec) : (s.advanceKey part mt l r).tiles = s.tiles := by
  dsimp only [State.advanceKey]
  split
  · exact s.tiles_onLeafFor part mt l _
  · exact (State.tiles_grantTo _ _ _ _ _ _ _).trans (s.tiles_onLeafFor part mt l _)

@[simp] theorem State.launch_leaveKey (key : W32) (p : Bool) : (s.leaveKey part mt l key p).launch = s.launch :=
  s.launch_advanceKey _ _ _ _

@[simp] theorem State.tiles_leaveKey (key : W32) (p : Bool) : (s.leaveKey part mt l key p).tiles = s.tiles :=
  s.tiles_advanceKey _ _ _ _

end

variable (t : Site) (l : Leaf)

@[simp] theorem State.launch_leaveSections : (s.leaveSections t l).launch = s.launch := by
  unfold State.leaveSections
  refine State.foldl_keeps State.launch (fun y b => State.foldl_keeps State.launch (fun z j => ?_) _ y) _ s
  dsimp only
  split
  · split
    · exact State.launch_leaveKey _ _ _ _ _ _
    · rfl
  · rfl

@[simp] theorem State.launch_killCtx (lost : Fin 8 → Nat) : (s.killCtx t l lost).launch = s.launch := by
  rw [State.killCtx, State.onTile_launch, State.launch_leaveSections]

end

section
variable (s : State) (gi : Nat) (g : Graph)

@[simp] theorem State.tiles_killTemplates : (s.killTemplates gi g).tiles = s.tiles := by
  unfold State.killTemplates
  refine State.foldl_keeps State.tiles (fun _ _ => ?_) _ s
  rfl

@[simp] theorem State.launch_killTemplates : (s.killTemplates gi g).launch = s.launch := by
  unfold State.killTemplates
  refine State.foldl_keeps State.launch (fun _ _ => ?_) _ s
  rfl

@[simp] theorem State.tiles_releaseEdges : (s.releaseEdges gi g).tiles = s.tiles := by
  unfold State.releaseEdges
  refine State.foldl_keeps State.tiles (fun _ _ => ?_) _ s
  rfl

@[simp] theorem State.launch_releaseEdges : (s.releaseEdges gi g).launch = s.launch := by
  unfold State.releaseEdges
  refine State.foldl_keeps State.launch (fun _ _ => ?_) _ s
  rfl

end

section
variable (s : State) (n : Nat) (status : W32)

@[simp] theorem State.tiles_sendReady (d : Option DieId) (part : BitVec 6) (t : Site) (l : Leaf) (ch : Fin 8) (tok : Token) :
    (s.sendReady d part t l ch tok).tiles = s.tiles := by
  unfold State.sendReady; extract_lets; split <;> rfl

@[simp] theorem State.launches_sendReady (d : Option DieId) (part : BitVec 6) (t : Site) (l : Leaf) (ch : Fin 8) (tok : Token) :
    (s.sendReady d part t l ch tok).launches = s.launches := by
  unfold State.sendReady; extract_lets; split <;> rfl

@[simp] theorem State.tiles_endPool : (s.endPool n status).tiles = s.tiles := by
  unfold State.endPool
  split
  · rfl
  · extract_lets
    split
    · exact State.tiles_sendReady _ _ _ _ _ _ _
    · rfl

@[simp] theorem State.launches_endPool : (s.endPool n status).launches = s.launches := by
  unfold State.endPool
  split
  · rfl
  · extract_lets
    split
    · exact State.launches_sendReady _ _ _ _ _ _ _
    · rfl

/-- A launch that ends without its successors touches no tile and no launch that runs (R341, R348). -/
theorem State.tiles_finish_killed : (s.finish n false status).tiles = s.tiles := by
  unfold State.finish
  split
  · rfl
  · exact s.tiles_endPool _ _

theorem State.launches_finish_killed : (s.finish n false status).launches = s.launches := by
  unfold State.finish
  split
  · rfl
  · exact s.launches_endPool _ _

theorem State.entry_onEntry (f : LaunchEntry → LaunchEntry) : (s.onEntry n f).entry n = f (s.entry n) :=
  FMap.get_set_same _ _ _ _

theorem State.entry_finish_killed (h : n < 65536) : (s.finish n false status).entry n = (s.entry n).setState 3 := by
  rw [State.finish, if_pos h, if_neg Bool.false_ne_true]
  exact s.entry_onEntry n _

end

/-! ## The banks of a killed graph (R370) -/

/-- A bank is idle, neither faulted nor frozen, with nothing pending and no grant to wait for (R370). -/
def Bank.Cleared (k : Bank) : Prop :=
  k.life = .idle ∧ k.faulted = false ∧ k.frozen = false ∧ k.pending = [] ∧ k.umWait = none

theorem State.bank_of_tiles {s u : State} (h : u.tiles = s.tiles) (t : Site) (l : Leaf) (b : BankId) :
    u.bank t l b = s.bank t l b := by
  simp only [State.bank, State.ctx, State.tile, h]

section
variable {s : State} {t u : Site} {l m : Leaf} {b e : BankId}

theorem State.bank_onCtx_ne (f : LeafCtx → LeafCtx) (h : ¬ (u = t ∧ m = l)) : (s.onCtx t l f).bank u m e = s.bank u m e := by
  by_cases hu : u = t
  · subst hu
    have hm : m ≠ l := fun hm => h ⟨rfl, hm⟩
    simp only [State.bank, s.ctx_onCtx_ne u l m f hm]
  · simp only [State.bank, s.ctx_onCtx_ne_tile t u l m f hu]

/-- A change that keeps cleared banks cleared, at whatever bank it is made. -/
theorem State.cleared_onBank {f : Bank → Bank} (hf : ∀ k : Bank, k.Cleared → (f k).Cleared) (h : (s.bank u m e).Cleared) :
    ((s.onBank t l b f).bank u m e).Cleared := by
  by_cases hctx : u = t ∧ m = l
  · obtain ⟨rfl, rfl⟩ := hctx
    by_cases hb : e = b
    · subst hb
      rw [State.bank_onBank]
      exact hf _ h
    · rwa [State.bank_onBank_ne _ _ _ _ _ _ hb]
  · rwa [State.onBank, State.bank_onCtx_ne _ hctx]

/-- Sections that are left leave cleared banks cleared (R302). -/
theorem State.cleared_leaveSections (h : (s.bank u m e).Cleared) : ((s.leaveSections t l).bank u m e).Cleared := by
  refine List.foldlRecOn (motive := fun y : State => (y.bank u m e).Cleared) _ _ h fun y hy b _ =>
    List.foldlRecOn (motive := fun y : State => (y.bank u m e).Cleared) _ _ hy fun z hz j _ => ?_
  dsimp only
  have hfree : ((z.onBank t l b (fun k => k.freeHeld j)).bank u m e).Cleared := State.cleared_onBank (fun _ hk => hk) hz
  split
  · split
    · rwa [State.bank_of_tiles (State.tiles_leaveKey _ _ _ _ _ _)]
    · exact hfree
  · exact hz

theorem Bank.cleared_kill (k : Bank) : k.kill.Cleared := ⟨rfl, rfl, rfl, rfl, rfl⟩

theorem LeafCtx.banks_kill (c : LeafCtx) (due : Nat) (lost : Fin 8 → Nat) : (c.kill l due lost).banks[b] = c.banks[b].kill :=
  Vector.getElem_map _ _

theorem State.ctx_killLeaf (due : Nat) (lost : Fin 8 → Nat) :
    (s.onTile t (fun x => x.killLeaf l due lost)).ctx u m = (s.onCtx t l (fun c => c.kill l due lost)).ctx u m := by
  by_cases hu : u = t
  · subst hu
    simp only [State.ctx, State.tile_onTile, State.tile_onCtx]
    rfl
  · simp only [State.ctx, State.tile_onTile_ne _ _ _ _ hu, State.tile_onCtx_ne _ _ _ _ _ hu]

theorem State.bank_killLeaf (due : Nat) (lost : Fin 8 → Nat) :
    (s.onTile t (fun x => x.killLeaf l due lost)).bank u m e = (s.onCtx t l (fun c => c.kill l due lost)).bank u m e :=
  congrArg (fun c : LeafCtx => c.banks[e]) (State.ctx_killLeaf due lost)

/-- The banks of a killed context are cleared (R370). -/
theorem State.cleared_killCtx_self (lost : Fin 8 → Nat) : ((s.killCtx t l lost).bank t l b).Cleared := by
  rw [State.killCtx, State.bank_killLeaf, State.bank, State.ctx_onCtx, LeafCtx.banks_kill]
  exact Bank.cleared_kill _

/-- A context that is killed leaves cleared banks cleared. -/
theorem State.cleared_killCtx (lost : Fin 8 → Nat) (h : (s.bank u m e).Cleared) : ((s.killCtx t l lost).bank u m e).Cleared := by
  by_cases hctx : u = t ∧ m = l
  · obtain ⟨rfl, rfl⟩ := hctx
    exact State.cleared_killCtx_self lost
  · rw [State.killCtx, State.bank_killLeaf, State.bank_onCtx_ne _ hctx]
    exact State.cleared_leaveSections h

/-- Once the contexts of a list are killed, all their banks are cleared. -/
theorem State.cleared_killAll (lost : Site × Leaf → Fin 8 → Nat) (tiles : List (Site × Leaf)) (s : State) :
    ∀ q ∈ tiles, ∀ b, ((tiles.foldl (fun y t => y.killCtx t.1 t.2 (lost t)) s).bank q.1 q.2 b).Cleared := by
  induction tiles generalizing s with
  | nil => exact fun q hq => nomatch hq
  | cons t tiles ih =>
    rintro q hq b
    rw [List.foldl_cons]
    obtain rfl | hq := List.mem_cons.1 hq
    · exact List.foldlRecOn (motive := fun y : State => (y.bank q.1 q.2 b).Cleared) tiles _ (State.cleared_killCtx_self _)
        fun y hy v _ => State.cleared_killCtx _ hy
    · exact ih _ q hq b

end

/-! ## The kill of a launch (R370) -/

section
variable (s : State) (l : Launch) (g : Graph)

/-- The slot of a killed launch runs no more. -/
theorem State.launches_kill : ∀ q ∈ (s.kill l g).launches, q.slot ≠ l.slot := by
  intro q hq
  unfold State.kill at hq
  extract_lets at hq
  rw [State.launches_finish_killed] at hq
  simpa using (List.mem_filter.1 hq).2

/-- A table entry whose launch is killed is DONE, and nothing else of it changes. -/
theorem State.entry_kill (h : l.slot < 65536) : (s.kill l g).entry l.slot = (s.entry l.slot).setState 3 := by
  unfold State.kill
  extract_lets here hit s1 s2 s3 s4
  have h3 : s3.launch = s2.launch := State.foldl_keeps State.launch (fun y _ => y.launch_killCtx _ _ _) _ s2
  have hlaunch : s4.launch = s.launch := by
    calc s4.launch = s3.launch := by rw [State.launch_releaseEdges, State.launch_killTemplates]
      _ = s.launch := h3.trans (s.launch_backOwners g)
  rw [State.entry_finish_killed _ _ _ h]
  exact congrArg (fun m : FMap LaunchEntry => (m.get l.slot {}).setState 3) hlaunch

/-- The banks of a killed graph whose contexts are in place are cleared. -/
theorem State.cleared_kill : ∀ q ∈ s.inPlace g.part g.tiles, ∀ b, ((s.kill l g).bank q.1 q.2 b).Cleared := by
  intro q hq b
  unfold State.kill
  extract_lets here hit s1 s2 s3 s4
  have hend : (((s4.clearFabric l.graph).dropLaunch l.slot).finish l.slot false 2).tiles = s3.tiles := by
    rw [State.tiles_finish_killed]
    change s4.tiles = _
    rw [State.tiles_releaseEdges, State.tiles_killTemplates]
  rw [State.bank_of_tiles hend]
  exact State.cleared_killAll (fun t => s.underWay t.1 t.2) here.tiles s2 q hq b

end

/-! ## The commands (R399) -/

section
variable {s : State} {p : BitVec 6} {a d b : BitVec 5} {pa : Nat}

theorem State.swapCmd_memory (h : s.imageFenced p pa = false) (restore : Bool) :
    s.swapCmd p (some pa) restore = s.beginSwap p s.cur.core (some pa) restore := if_neg (ne_true_of_eq_false h)

theorem State.swapCmd_fenced (h : s.imageFenced p pa = true) (restore : Bool) :
    s.swapCmd p (some pa) restore = s.coreFault .page (BitVec.ofNat 64 pa) := if_pos h

theorem State.swapOutCmd_resident (h : s.resident (s.cmdPart a) = true) (memory : Option Nat) :
    s.swapOutCmd a memory = s.swapCmd (s.cmdPart a) memory false := if_pos h

theorem State.swapOutCmd_refused (h : s.resident (s.cmdPart a) = false) (memory : Option Nat) :
    s.swapOutCmd a memory = s.coreFault .perm 0 := if_neg (ne_true_of_eq_false h)

theorem State.restoreCmd_good {memory : Option Nat} (h : s.restoreBad (s.cmdPart a) memory.isSome = false) :
    s.restoreCmd a memory = s.swapCmd (s.cmdPart a) memory true := if_neg (ne_true_of_eq_false h)

theorem State.restoreCmd_refused {memory : Option Nat} (h : s.restoreBad (s.cmdPart a) memory.isSome = true) :
    s.restoreCmd a memory = s.coreFault .perm 0 := if_pos h

/-- The slot of the launch that a kill names: a table entry, or a pool entry by bit 12 (R399). -/
def killSlot (x : W64) : Nat :=
  if x.getLsbD 12 then poolSlot (x.extractLsb' 0 12).toNat else (x.extractLsb' 0 12).toNat

/-- A kill of an entry that is not RUNNING changes nothing (R399). -/
theorem exec_frzKill_idle (h : s.launches.find? (fun l => l.slot == killSlot (s.curCore.rx a)) = none)
    (hpc : s.curCore.pc ≠ 0x3FFFC) :
    exec (.frzKill d a b) s = .next (s.onCurCore (fun c => { c with pc := c.pc + 4 })) := by
  change execFrzKill d a b s = _
  unfold killSlot at h
  simp only [execFrzKill, h, State.onCurCore_done hpc]

theorem exec_frzKill {l : Launch} {g : Graph} (h : s.launches.find? (fun l => l.slot == killSlot (s.curCore.rx a)) = some l)
    (hg : s.graph l.graph = some g) (hpc : (s.kill l g).curCore.pc ≠ 0x3FFFC) :
    exec (.frzKill d a b) s = .next ((s.kill l g).onCurCore (fun c => { c with pc := c.pc + 4 })) := by
  change execFrzKill d a b s = _
  unfold killSlot at h
  simp only [execFrzKill, h, hg, State.onCurCore_done hpc]

end

/-- Settles O42: a freeze or thaw goes by `State.onSite`, a swap by `State.swapCmd`, and what a kill leaves is that of
`State.launches_kill`, `State.entry_kill` and `State.cleared_kill`. -/
theorem coreCommands : Obligations.CoreCommands := by
  intro s d a b l g c x t p slot next refused lost begins addr frozen thawed
  have hword : BitVec.ofNat 64 (c.rx d).toNat = c.rx d := by rw [BitVec.ofNat_toNat, BitVec.setWidth_eq]
  have hlost : s.coreFault .page (BitVec.ofNat 64 (c.rx d).toNat) = s.onCurCore (fun q => q.exception .page (c.rx d)) := by
    rw [hword]; rfl
  refine ⟨fun hopen => ⟨fun hpc => ?freeze, fun hpc => ?thaw⟩, fun hwaits => ⟨State.onSite_waits hwaits, State.onSite_waits hwaits⟩,
    fun hfenced => ⟨State.onSite_lost hfenced, State.onSite_lost hfenced⟩, fun hres => ⟨?out, fun hf => ?outMemory, fun hf => ?outLost⟩,
    fun hres => ⟨?_, ?_⟩, fun hbad => ?restore, fun hbad hf => ?restoreMemory, fun hbad hf => ?restoreLost,
    fun hbad => congrArg Host.Outcome.next (State.restoreCmd_refused hbad),
    fun hbad => congrArg Host.Outcome.next (State.restoreCmd_refused hbad),
    exec_frzKill_idle, fun hfind hg => ?kill⟩
  case freeze => exact (State.onSite_open hopen).trans (congrArg _ (State.onCurCore_done hpc))
  case thaw => exact (State.onSite_open hopen).trans (congrArg _ (State.onCurCore_done hpc))
  case out => exact ⟨_, congrArg Host.Outcome.next (State.swapOutCmd_resident hres none), rfl⟩
  case outMemory =>
    exact ⟨_, congrArg Host.Outcome.next ((State.swapOutCmd_resident hres addr).trans (State.swapCmd_memory hf false)), rfl⟩
  case outLost =>
    exact congrArg Host.Outcome.next
      ((State.swapOutCmd_resident hres addr).trans ((State.swapCmd_fenced hf false).trans hlost))
  · exact congrArg Host.Outcome.next (State.swapOutCmd_refused hres none)
  · exact congrArg Host.Outcome.next (State.swapOutCmd_refused hres addr)
  case restore => exact ⟨_, congrArg Host.Outcome.next (State.restoreCmd_good (memory := none) hbad), rfl⟩
  case restoreMemory =>
    exact ⟨_, congrArg Host.Outcome.next ((State.restoreCmd_good (memory := addr) hbad).trans (State.swapCmd_memory hf true)), rfl⟩
  case restoreLost =>
    exact congrArg Host.Outcome.next
      ((State.restoreCmd_good (memory := addr) hbad).trans ((State.swapCmd_fenced hf true).trans hlost))
  case kill =>
    have hslot : l.slot = slot := by simpa using List.find?_some hfind
    exact ⟨exec_frzKill hfind hg, hslot ▸ s.launches_kill l g, hslot ▸ s.entry_kill l g, s.cleared_kill l g⟩

end Sys2Proof.Machine
end

section
/-!
SUPPORT. A fault of a bank and what it leaves alone (R362, R365, R374), and what an instruction of a control core leaves alone
(R238, R389-R393, R396).
-/
namespace Sys2Proof.Machine

/-! ## A fault of a bank (R362, R365, R372, R374) -/

section
variable (s : State) (t : Site) (l : Leaf) (b : BankId) (w : W32) (f : FaultInfo)

theorem Tile.bare_onCtx (x : Tile) (g : LeafCtx → LeafCtx) : (x.onCtx l g).bare = x.bare := rfl

theorem LeafCtx.onBank_onBank (c : LeafCtx) (g h : Bank → Bank) :
    (c.onBank b g).onBank b h = c.onBank b (fun k => h (g k)) := by
  simp [LeafCtx.onBank]

theorem State.ctx_takeFault : (s.takeFault t l b w f).ctx t l = (s.ctx t l).onBank b (fun k => k.fault w f) :=
  s.ctx_onCtx t l _

/-- The record of a fault goes to the queue of the bank's partition on its die (R371, R372). -/
theorem State.noticeQ_takeFault : (s.takeFault t l b w f).noticeQ (siteDie t) (s.ctx t l).part =
    (s.noticeQ (siteDie t) (s.ctx t l).part).take (faultRecord t l b (s.ctx t l).part (s.asidOf t l) w f) :=
  State.noticeQ_onNotice _ _ _ _

theorem State.apart_takeFault : (s.takeFault t l b w f).apart = s.apart := by
  obtain ⟨hapart, -⟩ := BankOnly.notify (s.onBank t l b (fun k => k.fault w f)) (siteDie t) (s.ctx t l).part
    (faultRecord t l b (s.ctx t l).part (s.asidOf t l) w f)
  exact hapart

end

/-- Settles O9: the bank is that of `Bank.fault`, the queue that of `NoticeQ.take`, and everything else stands apart from both. -/
theorem faultEntry : Obligations.FaultEntry := by
  intro s t l b fltb f u k part q q1 rec_
  have hbank : u.bank t l b = k.fault fltb f := s.bank_takeFault t l b fltb f
  have hqueue : q1 = q.take (faultRecord t l b part (s.asidOf t l) fltb f) := s.noticeQ_takeFault t l b fltb f
  refine ⟨fun h => hbank.trans (Bank.fault_first h fltb f), fun h => hbank.trans (Bank.fault_more h fltb f), ?serial, fun h => ?taken,
    fun h => ?dropped, ?queue, fun e he => s.bank_onBank_ne t l b e _ he, ?banks, fun m hm => s.ctx_onCtx_ne t l m _ hm, ?bare,
    fun v hv => s.tile_onCtx_ne t v l _ hv, s.apart_takeFault t l b fltb f, fun d p h => State.noticeQ_onNotice_ne _ _ h⟩
  case serial => rw [hqueue]; rfl
  case taken => rw [hqueue]; exact if_pos h
  case dropped => rw [hqueue]; exact if_neg (Nat.not_lt.2 h)
  case queue => rw [hqueue]; rfl
  case banks =>
    exact (congrArg (fun x : LeafCtx => x.onBank b fun _ => {}) (s.ctx_takeFault t l b fltb f)).trans
      ((s.ctx t l).onBank_onBank b _ _)
  case bare => exact (congrArg Tile.bare (s.tile_onCtx t l _)).trans (Tile.bare_onCtx l _ _)

/-! ## What an instruction leaves of its core (R396) -/

/-- The control registers that an instruction writes only by taking an exception: they stay, or hold the exception. -/
def Core.Kept (c u : Core) : Prop :=
  u.evec = c.evec ∧ u.evmask = c.evmask ∧ u.timer = c.timer ∧ u.msg = c.msg ∧ u.swstat = c.swstat ∧
    (u.epc = c.epc ∧ u.ecause = c.ecause ∧ u.eaddr = c.eaddr ∧ u.inExc = c.inExc ∧ u.halted = c.halted ∨
      u.epc = c.pc &&& 0x3FFFC ∧ u.inExc = true ∧ u.halted = (c.halted || c.inExc) ∧ u.pc = c.evec)

/-- Beside those registers, no event, no byte of local memory and no register but those of a list. -/
def Core.Only (dests : List (BitVec 5)) (c u : Core) : Prop :=
  c.Kept u ∧ u.evpend = c.evpend ∧ u.lmem = c.lmem ∧ ∀ r, r ∉ dests → u.rx r = c.rx r

section
variable {c : Core} {dests : List (BitVec 5)}

theorem Core.Only.exception (f : Cause) (a : W64) : c.Only dests (c.exception f a) :=
  ⟨⟨rfl, rfl, rfl, rfl, rfl, .inr ⟨rfl, rfl, rfl, rfl⟩⟩, rfl, rfl, fun _ _ => rfl⟩

/-- A core that goes elsewhere. -/
theorem Core.Only.goto (p : BitVec 18) : c.Only dests { c with pc := p } :=
  ⟨⟨rfl, rfl, rfl, rfl, rfl, .inl ⟨rfl, rfl, rfl, rfl, rfl⟩⟩, rfl, rfl, fun _ _ => rfl⟩

theorem Core.Only.done : c.Only dests c.done := by
  unfold Core.done
  split
  · exact .exception _ _
  · exact .goto _

/-- A register write, and whatever the core does after it that depends on no register. -/
theorem Core.Only.wx {f : Core → Core} (hf : ∀ x : Core, x.Only [] (f x)) (d : BitVec 5) (v : W64) : c.Only [d] (f (c.wx d v)) := by
  obtain ⟨hkept, hev, hmem, hreg⟩ := hf (c.wx d v)
  refine ⟨?_, hev.trans ?_, hmem.trans (c.wx_lmem d v), fun r hr => (hreg r List.not_mem_nil).trans ?_⟩
  · unfold Core.wx at hkept ⊢
    split at hkept
    · rwa [if_pos ‹_›]
    · rwa [if_neg ‹_›]
  · unfold Core.wx; split <;> rfl
  · exact c.rx_wx_ne v (List.ne_of_not_mem_cons hr)

end

section
variable {s t : State} {dests : List (BitVec 5)}

/-- What becomes of the other cores and of everything else when the executing core alone changes. -/
theorem State.others_onCurCore (f : Core → Core) : (s.onCurCore f).withoutCores = s.withoutCores ∧
    ∀ k : CoreId, k ≠ s.cur.core → (s.onCurCore f).cores[k] = s.cores[k] :=
  ⟨rfl, fun k hk => s.cores_onCore_ne s.cur.core k f hk⟩

@[simp] theorem State.curCore_onCurCore (f : Core → Core) : (s.onCurCore f).curCore = f s.curCore :=
  s.cores_onCore s.cur.core f

/-- The instruction changes its core only, and of it only the registers of a list. -/
def CoreOnly (dests : List (BitVec 5)) (s t : State) : Prop := ∃ f, t = s.onCurCore f ∧ s.curCore.Only dests (f s.curCore)

theorem coreWrite_only {d : BitVec 5} {f : Core → W64} (h : coreWrite d f s = .next t) : CoreOnly [d] s t := by
  cases h
  exact ⟨_, rfl, .wx (f := Core.done) (fun _ => .done) _ _⟩

theorem coreJump_only (link : Option (BitVec 5)) (v : W64) : CoreOnly link.toList s (coreJump link v s) := by
  unfold coreJump
  split
  · exact ⟨_, rfl, .exception _ _⟩
  · refine ⟨_, rfl, ?_⟩
    cases link with
    | none => exact .goto _
    | some d => exact .wx (f := fun c => { c with pc := v.setWidth 18 }) (fun _ => .goto _) _ _

theorem coreBranch_only {a b : BitVec 5} {off : BitVec 16} {f : W64 → W64 → Bool} (h : coreBranch a b off f s = .next t) :
    CoreOnly [] s t := by
  unfold coreBranch at h
  extract_lets at h
  split at h
  · cases h; exact coreJump_only none _
  · cases h; exact ⟨_, rfl, .done⟩

theorem execCsrr_only {d : BitVec 5} {num : BitVec 12} (h : execCsrr d num s = .next t) : CoreOnly [d] s t := by
  unfold execCsrr at h
  split at h
  · cases h; exact ⟨_, rfl, .exception _ _⟩
  · cases h; exact ⟨_, rfl, .wx (f := Core.done) (fun _ => .done) _ _⟩

/-- The instructions of `coreDests` change their core only, and of it only their registers. -/
theorem coreOnly_of_coreDests {i : Instr} (hd : coreDests i = some dests) (h : exec i s = .next t) : CoreOnly dests s t := by
  cases i <;> cases hd
  case ccJal d off => cases h; exact coreJump_only (some d) _
  case ccJalr d a imm => cases h; exact coreJump_only (some d) _
  case csrr => exact execCsrr_only h
  case ccBeq => exact coreBranch_only h
  case ccBne => exact coreBranch_only h
  case ccBlt => exact coreBranch_only h
  case ccBge => exact coreBranch_only (f := fun x y => !x.slt y) h
  case ccBltn => exact coreBranch_only h
  case ccBgen => exact coreBranch_only (f := fun x y => !x.ult y) h
  all_goals exact coreWrite_only h

end

/-! ## What a load or a store leaves of the state (R238-R241, R375) -/

/-- Beside memory and the executing core, nothing has changed but what an access may change on its way. -/
def State.PassesBy (s t : State) : Prop :=
  ({ t with mem := [] } : State).beside = ({ s with mem := [] } : State).beside ∧
  (∀ k : CoreId, k ≠ s.cur.core →
    t.cores[k] = { s.cores[k] with evpend := t.cores[k].evpend, records := t.cores[k].records }) ∧
  (s.ecc = [] → t.ecc = [] ∧ t.dies = s.dies ∧ t.curCore.evpend = s.curCore.evpend ∧
    ∀ k : CoreId, k ≠ s.cur.core → t.cores[k] = s.cores[k])

section
variable {s s1 : State} {f : Core → Core}

theorem State.PassesBy.refl : s.PassesBy s := ⟨rfl, fun _ _ => rfl, fun h => ⟨h, rfl, rfl, fun _ _ => rfl⟩⟩

/-- The executing core goes on after an access that has passed, with memory as the access leaves it. -/
theorem State.Passed.passesBy (h : s.Passed s1) (m : Memory) (hf : ∀ c, (f c).evpend = c.evpend) :
    s.PassesBy (({ s1 with mem := m } : State).onCurCore f) := by
  have hcur := h.cur
  obtain ⟨hbeside, hcores, hsound⟩ := h
  have hother (k : CoreId) (hk : k ≠ s.cur.core) : (({ s1 with mem := m } : State).onCurCore f).cores[k] = s1.cores[k] :=
    State.cores_onCore_ne _ _ k f (by rwa [hcur])
  refine ⟨?_, fun k hk => ?_, fun he => ?_⟩
  · have hmem := congrArg (fun x : State => { x with mem := [] }) hbeside
    exact hmem
  · rw [hother k hk]
    exact hcores k
  · obtain ⟨hecc, hdies, hall⟩ := hsound he
    refine ⟨hecc, hdies, ?_, fun k hk => (hother k hk).trans (by rw [hall])⟩
    rw [State.curCore_onCurCore, hf]
    simp only [State.curCore, hcur, hall]

/-- The executing core as an access leaves it on its way. -/
theorem State.Passed.curCore (h : s.Passed s1) :
    s1.curCore = { s.curCore with evpend := s1.curCore.evpend, records := s1.curCore.records } := by
  have hcores := h.2.1 s.cur.core
  have hcur : s1.curCore = s1.cores[s.cur.core] := by simp only [State.curCore, h.cur]
  rw [hcur]
  exact hcores

end

theorem Core.Kept.of_passed {c x u : Core} (h : x.Kept u) (hx : x = { c with evpend := x.evpend, records := x.records }) : c.Kept u := by
  rw [hx] at h
  exact h

@[simp] theorem Core.done_evpend (c : Core) : c.done.evpend = c.evpend := by
  unfold Core.done; split <;> rfl

@[simp] theorem Core.wx_evpend (c : Core) (r : BitVec 5) (v : W64) : (c.wx r v).evpend = c.evpend := by
  unfold Core.wx; split <;> rfl

section
variable {s t : State} {n : Nat} {d a : BitVec 5} {imm : BitVec 16}

/-- What a load leaves alone (R391). -/
def CoreLoadFrame (d : BitVec 5) (s t : State) : Prop :=
  s.curCore.Kept t.curCore ∧ s.PassesBy t ∧ t.mem = s.mem ∧ t.curCore.lmem = s.curCore.lmem ∧
    ∀ r, r ≠ d → t.curCore.rx r = s.curCore.rx r

/-- A load whose access has passed, by what its core does then. -/
theorem State.Passed.loadFrame {s1 : State} {f : Core → Core} (h : s.Passed s1) (hf : ∀ c : Core, c.Only [d] (f c)) :
    CoreLoadFrame d s (s1.onCurCore f) := by
  obtain ⟨hkept, hev, hmem, hreg⟩ := hf s1.curCore
  have hcore := h.curCore
  have hpass := h.passesBy s1.mem (f := f) fun c => (hf c).2.1
  rw [CoreLoadFrame, State.curCore_onCurCore]
  refine ⟨hkept.of_passed hcore, hpass, h.same.1, hmem.trans (by rw [hcore]), fun r hr => ?_⟩
  exact (hreg r (by simpa using hr)).trans (by rw [hcore]; rfl)

theorem loadFrame_refl : CoreLoadFrame d s s :=
  ⟨⟨rfl, rfl, rfl, rfl, rfl, .inl ⟨rfl, rfl, rfl, rfl, rfl⟩⟩, .refl, rfl, rfl, fun _ _ => rfl⟩

/-- A load that asks the host (R241). -/
theorem loadFrame_hostLoad (ea : W64) (o : Nat) : CoreLoadFrame d s (s.hostLoad n d ea o) := by
  refine State.Passed.loadFrame (s1 := s.takeId.fly _ .host) (f := fun c => { c with busy := .load s.nextId })
    ⟨rfl, fun _ => rfl, fun h => ⟨h, rfl, rfl⟩⟩ fun c => ?_
  exact ⟨⟨rfl, rfl, rfl, rfl, rfl, .inl ⟨rfl, rfl, rfl, rfl, rfl⟩⟩, rfl, rfl, fun _ _ => rfl⟩

theorem coreLoad_frame (h : coreLoad n d a imm s = .next t) : CoreLoadFrame d s t := by
  have hload (v : W64) (c : Core) : c.Only [d] (c.wx d v).done := .wx (f := Core.done) (fun _ => .done) d v
  unfold coreLoad at h
  extract_lets ea at h
  split at h
  · cases h; exact (State.Passed.refl s).loadFrame fun _ => .exception _ _
  · cases h; exact (State.Passed.refl s).loadFrame (hload _)
  split at h
  · cases h; exact loadFrame_refl
  split at h
  · cases h; exact loadFrame_hostLoad _ _
  split at h
  · cases h; exact loadFrame_refl
  next hp => cases h; exact (State.passed_passSlice hp).loadFrame (hload _)

/-- What a store leaves alone, by where its address leads (R389, R391). -/
def CoreStoreFrame (n : Nat) (ea : W64) (s t : State) : Prop :=
  s.curCore.Kept t.curCore ∧ s.PassesBy t ∧ t.curCore.x = s.curCore.x ∧
  (∀ o, s.coreAccess true ea n = .ok (true, o) → t.mem = s.mem ∧
    ∀ x, (x < o ∨ o + n ≤ x) → t.curCore.lmem.read x = s.curCore.lmem.read x) ∧
  (∀ o, s.coreAccess true ea n = .ok (false, o) → t.curCore.lmem = s.curCore.lmem ∧
    ∀ x, (x < o ∨ o + n ≤ x) → t.mem.read x = s.mem.read x) ∧
  (∀ f, s.coreAccess true ea n = .error f → t.mem = s.mem ∧ t.curCore.lmem = s.curCore.lmem)

@[simp] theorem Core.done_x (c : Core) : c.done.x = c.x := by
  unfold Core.done; split <;> rfl

@[simp] theorem Core.done_lmem (c : Core) : c.done.lmem = c.lmem := by
  unfold Core.done; split <;> rfl

theorem storeFrame_fault {c : Cause} {ea : W64} (h : s.coreAccess true ea n = .error c) :
    CoreStoreFrame n ea s (s.coreFault c ea) := by
  have hpass : s.PassesBy (s.coreFault c ea) := (State.Passed.refl s).passesBy s.mem fun _ => rfl
  have hcore : (s.coreFault c ea).curCore = s.curCore.exception c ea := State.curCore_onCurCore _
  obtain ⟨hkept, -⟩ := Core.Only.exception (c := s.curCore) (dests := []) c ea
  rw [CoreStoreFrame, hcore, h]
  exact ⟨hkept, hpass, rfl, (nomatch ·, ·), (nomatch ·, ·), fun _ _ => ⟨rfl, rfl⟩⟩

theorem storeFrame_local {ea : W64} {o v : Nat} (hinv : s.Inv) (h : s.coreAccess true ea n = .ok (true, o)) :
    CoreStoreFrame n ea s (s.onCurCore (fun c => ({ c with lmem := c.lmem.writeNat o v n } : Core).done)) := by
  obtain ⟨⟨-, -, hlocal, -⟩, -⟩ := hinv
  have hpass := (State.Passed.refl s).passesBy s.mem (f := fun c => ({ c with lmem := c.lmem.writeNat o v n } : Core).done)
    fun c => Core.done_evpend _
  obtain ⟨hkept, -⟩ := Core.Only.done (c := { s.curCore with lmem := s.curCore.lmem.writeNat o v n }) (dests := [])
  rw [CoreStoreFrame, State.curCore_onCurCore, h, Core.done_x, Core.done_lmem]
  refine ⟨hkept, hpass, rfl, fun o' ho => ?_, (nomatch ·, ·), (nomatch ·, ·)⟩
  cases ho
  exact ⟨rfl, fun x hx => Memory.read_writeNat_out (hlocal s.cur.core) _ _ _ _ hx⟩

theorem storeFrame_memory {ea : W64} {o v : Nat} (hinv : s.Inv) (h : s.coreAccess true ea n = .ok (false, o)) :
    CoreStoreFrame n ea s ((s.putHome o n v none).onCurCore Core.done) := by
  obtain ⟨⟨hwf, -⟩, -⟩ := hinv
  obtain ⟨t, hpassed, hput⟩ := s.passed_putHome o n v none
  have hpass := hpassed.passesBy (s.mem.writeNat o v n) (f := Core.done) Core.done_evpend
  have hcore : ({ t with mem := s.mem.writeNat o v n } : State).curCore = t.curCore := rfl
  obtain ⟨hkept, -⟩ := Core.Only.done (c := t.curCore) (dests := [])
  have hsame := hpassed.curCore
  rw [hput, CoreStoreFrame, State.curCore_onCurCore, hcore, h, Core.done_x, Core.done_lmem]
  refine ⟨hkept.of_passed hsame, hpass, by rw [hsame], (nomatch ·, ·), fun o' ho => ?_, (nomatch ·, ·)⟩
  cases ho
  exact ⟨by rw [hsame], fun x hx => Memory.read_writeNat_out hwf _ _ _ _ hx⟩

theorem storeFrame_refl {ea : W64} : CoreStoreFrame n ea s s :=
  ⟨⟨rfl, rfl, rfl, rfl, rfl, .inl ⟨rfl, rfl, rfl, rfl, rfl⟩⟩, .refl, rfl, fun _ _ => ⟨rfl, fun _ _ => rfl⟩,
    fun _ _ => ⟨rfl, fun _ _ => rfl⟩, fun _ _ => ⟨rfl, rfl⟩⟩

theorem coreStore_frame (hinv : s.Inv) (h : coreStore n d a imm s = .next t) :
    CoreStoreFrame n (s.curCore.rx a + imm64 imm) s t := by
  unfold coreStore at h
  extract_lets ea at h
  split at h
  next he => cases h; exact storeFrame_fault he
  next he => cases h; exact storeFrame_local hinv he
  next he =>
    split at h
    · cases h; exact storeFrame_refl
    · cases h; exact storeFrame_memory hinv he

end

/-- Settles O13: the instructions of `coreDests` by `coreOnly_of_coreDests`, a load by `coreLoad_frame`, and a store by
`coreStore_frame`. -/
theorem coreFrame : Obligations.CoreFrame := by
  intro s t i d a imm c u ea others same passes loads stores
  have hload {i : Instr} (n : Nat) (hi : exec i s = coreLoad n d a imm s) : loads i := fun h => coreLoad_frame (hi.symm.trans h)
  have hstore {i : Instr} (n : Nat) (hi : exec i s = coreStore n d a imm s) : stores i n := fun hinv h =>
    coreStore_frame hinv (hi.symm.trans h)
  refine ⟨fun dests hd h => ?registers, hload 8 rfl, hload 4 rfl, hload 1 rfl, hstore 8 rfl, hstore 4 rfl, hstore 1 rfl⟩
  case registers =>
    obtain ⟨f, ht, hkept, hev, hmem, hreg⟩ := coreOnly_of_coreDests hd h
    have hu : u = f c := by rw [← State.curCore_onCurCore f, ← ht]
    have hothers : others := by
      have := State.others_onCurCore (s := s) f
      rwa [← ht] at this
    rw [← hu] at hkept hev hmem hreg
    exact ⟨hothers, hkept, hev, hmem, hreg⟩

end Sys2Proof.Machine
end

section
/-!
SUPPORT. `fence` and `bar`, and the umbra ops (R261-R267, R293-R298).
-/
namespace Sys2Proof.Machine

/-! ## Fences and barriers (R261-R267) -/

section
variable {s : State} {g : Pg} {scope : BitVec 3}

/-- A member of a scope that is bound passes the check of `bar` (R264, R267). -/
theorem barCheck_member (hmember : (s.curCtx.members scope).getLsbD s.cur.bank.val = true)
    (hbound : scope ≠ 4 ∨ s.curCtx.sysBound = true) : barCheck s scope = none := by
  rw [barCheck, hmember, Bool.not_true, Bool.false_or]
  refine if_neg fun h => ?_
  obtain ⟨hsystem, hunbound⟩ := Bool.and_eq_true_iff.1 h
  obtain hb | hb := hbound
  · exact hb (of_decide_eq_true hsystem)
  · simp [hb] at hunbound

theorem barCheck_stranger (h : (s.curCtx.members scope).getLsbD s.cur.bank.val = false) :
    barCheck s scope = some (faultOf .chproto (BitVec.ofNat 32 (scope.toNat * 256 + 0x09))) := by
  rw [barCheck, h, Bool.not_false, Bool.true_or]
  rfl

theorem barCheck_unbound (h : s.curCtx.sysBound = false) : barCheck s 4 = some (faultOf .chproto 0x409) := by
  rw [barCheck, h, Bool.not_false, Bool.and_true, decide_eq_true rfl, Bool.or_true]
  rfl

/-- A bank that waits for a scope, with what its fence has noted (R261, R263). -/
theorem exec_waits_noting {i : Instr} {on : State → Plan} (hi : planOf i = some (guarded .c g on nothing))
    (hrs : (on s.settle).reads = []) (hb : (on s.settle).brange = none) (hc : (on s.settle).check = none)
    (hr : (on s.settle).ready = false) (hw : (on s.settle).writes = []) (hcode : (on s.settle).wait = 9)
    (ho : (on s.settle).onWait = fun k => { k with fence := s.settle.fenceMark scope })
    (hen : s.settle.curBank.enabled g = true) (hclear : s.settle.clear .c [⟨2, g.pr.toNat⟩] [] = true) :
    exec i s = .next (s.settle.onCurBank (fun b =>
      { b with fence := s.settle.fenceMark scope, wait := 9, checked := true })) := by
  have hshape : List.Forall₂ SameShape (on s.settle).writes [] := by rw [hw]; exact .nil
  rw [exec_planOf hi, issueOne_waits hen hclear hrs hb hc hr hshape hcode, ho]

/-- Settles O30: the plan of `fence` waits for `State.fenceDone` at the scope in effect, and that of `bar` for the same at its own
scope behind `barCheck`. -/
theorem orderingIssues : Obligations.OrderingIssues := by
  intro s g scope s0 c member bound
  refine ⟨fun hdone => issues_of_plan rfl rfl rfl rfl rfl hdone rfl rfl rfl rfl,
    fun hm hb hdone => issues_of_plan rfl rfl rfl rfl (barCheck_member hm hb) hdone rfl rfl rfl rfl,
    fun hdone hen hclear => exec_waits_noting (i := .fence g scope) rfl rfl rfl rfl hdone rfl rfl rfl hen hclear,
    fun hm hb hdone hen hclear =>
      exec_waits_noting (i := .bar g scope) rfl rfl rfl (barCheck_member hm hb) hdone rfl rfl rfl hen hclear,
    fun hm => faults_of_plan rfl rfl rfl rfl (barCheck_stranger hm) .nil,
    fun hb => faults_of_plan rfl rfl rfl rfl (barCheck_unbound hb) .nil⟩

end

/-! ## Umbra ops (R293-R298) -/

section
variable {s : State} {g : Pg} {a : BitVec 5} {body : W32 → ReqBody} {key : W32} {j : Fin 4}

/-- A key with a host, a free slot and no section of it held pass the checks of `umen` (R293, R294). -/
theorem umenCheck_free (h : (s.umhostOf s.cur.tile s.curLeaf key).isSome = true) (hheld : s.curBank.heldSlot key = none)
    (hfree : s.curBank.freeSlot = some j) (seq : W32) : umenCheck s key seq = none := by
  rw [umenCheck, umbraCheck_hosted h, hheld, hfree]
  rfl

/-- The plan of an op that leaves a section which the bank holds (R295, R296). -/
theorem leavePlan_held (hheld : s.curBank.heldSlot (s.curBank.rs a) = some j) : leavePlan a body s =
    { reads := readsS [a], check := umbraCheck s (s.curBank.rs a), ready := s.portFree, wait := 5,
      act := fun x => (x.umbraRelease s (body (s.curBank.rs a))).onCurBank (fun k => k.freeHeld j) } := by
  simp only [leavePlan, hheld]

end

/-- Settles O31: each op passes `umbraCheck` and finds its port free, so that its plan takes effect. -/
theorem umbraIssues : Obligations.UmbraIssues := by
  intro s g a b j s0 k key v release hhost hport
  have hcheck : umbraCheck s0 key = none := umbraCheck_hosted hhost
  have hfree : s0.portFree = true := portFree_of_room hport
  refine ⟨fun hheld hslot => ?enter, fun hheld => ⟨?leave, ?abort⟩,
    issues_of_plan rfl rfl rfl rfl hcheck hfree rfl rfl rfl rfl,
    issues_of_plan rfl rfl rfl rfl hcheck hfree rfl rfl rfl rfl⟩
  case enter =>
    have hslot' : s0.curBank.freeSlot.getD 0 = j := by rw [show s0.curBank.freeSlot = some j from hslot]; rfl
    refine issues_of_plan rfl rfl rfl rfl (umenCheck_free hhost hheld hslot v) hfree rfl ?_ ?_ rfl
    · exact congrArg (fun i : Fin 4 => [(1, PVal.grant (BitVec.ofFin i))]) hslot'
    · exact congrArg (fun (i : Fin 4) (x : State) => (x.toPort (s0.sender none) (.umen key v i k.heldKeys) [] 0).onCurBank
        (fun k => { k with umWait := some ⟨key, v, i⟩ })) hslot'
  case leave => exact issues_of_plan rfl (leavePlan_held hheld) rfl rfl hcheck hfree rfl rfl rfl rfl
  case abort => exact issues_of_plan rfl (leavePlan_held hheld) rfl rfl hcheck hfree rfl rfl rfl rfl

end Sys2Proof.Machine
end

section
/-!
SUPPORT. The graphics ops in the numbers of the lanes: which samples an edge triple takes, the leaders of `vdedup`, the stable
order of `vsort`, and the signature table (R325, R327, R331, R332, R338).
-/
namespace Sys2Proof.Machine

/-! ## Lanes as numbers -/

theorem laneI_eq (v : Vec) (i : Nat) : laneI v i = (getF v 32 i).toInt := elemI_I32 v i

theorem laneN_eq (v : Vec) (i : Nat) : laneN v i = (getF v 32 i).toNat := by
  rw [getF, BitVec.extractLsb'_toNat]
  rfl

/-! ## Coverage (R325) -/

/-- One edge takes a sample, in a triangle of either orientation (R325). -/
theorem edgeTakes_iff {s e dx dy : Int} (hs : s = 1 ∨ s = -1) :
    edgeTakes s e dx dy = true ↔ 0 < s * e ∨ e = 0 ∧ (0 < s * dy ∨ dy = 0 ∧ s * dx < 0) := by
  have hzero (z : Int) : s * z = 0 ↔ z = 0 := by obtain rfl | rfl := hs <;> omega
  simp only [edgeTakes, Bool.or_eq_true, Bool.and_eq_true, decide_eq_true_eq, beq_iff_eq, hzero]

/-- All three edges take a sample (R325). -/
theorem allEdges_iff (p : Nat → Bool) : [0, 1, 2].all p = true ↔ ∀ k < 3, p k = true := by
  simp only [List.all_cons, List.all_nil, Bool.and_true, Bool.and_eq_true]
  refine ⟨fun ⟨h0, h1, h2⟩ k hk => ?_, fun h => ⟨h 0 (by decide), h 1 (by decide), h 2 (by decide)⟩⟩
  interval_cases k <;> assumption

/-- The sum of the edge functions at a sample: twice the area of the triangle, with its orientation (R325). -/
def triangleArea (a b : Vec) (i : Nat) : Int :=
  edgeFn a (sampleAt b i) 0 + edgeFn a (sampleAt b i) 1 + edgeFn a (sampleAt b i) 2

/-- Every edge of a triangle of an orientation takes a sample (R325). -/
def AllEdgesTake (s : Int) (a b : Vec) (i : Nat) : Prop :=
  ∀ k < 3, edgeTakes s (edgeFn a (sampleAt b i) k) (edgeVec a k).1 (edgeVec a k).2 = true

/-- A sample is covered by a front or a back face that is not culled and whose edges all take it (R325). -/
theorem edgeCovered_iff (m : BitVec 3) (a b : Vec) (i : Nat) : edgeCovered m a b i = true ↔
    (0 < triangleArea a b i ∧ m ≠ 2 ∧ AllEdgesTake 1 a b i) ∨
      (triangleArea a b i < 0 ∧ m ≠ 1 ∧ AllEdgesTake (-1) a b i) := by
  generalize harea : triangleArea a b i = area
  have hcovered : edgeCovered m a b i = true ↔ ¬ (area = 0 ∨ m = 1 ∧ area < 0 ∨ m = 2 ∧ 0 < area) ∧
      AllEdgesTake area.sign a b i := by
    rw [← harea, AllEdgesTake, ← allEdges_iff]
    dsimp only [edgeCovered]
    split
    next h => exact ⟨fun hf => absurd hf Bool.false_ne_true, fun hn => absurd h hn.1⟩
    next h => exact ⟨fun hall => ⟨h, hall⟩, And.right⟩
  rw [hcovered]
  rcases lt_trichotomy area 0 with h | h | h
  · have hfront : ¬ 0 < area := h.asymm
    have hzero : area ≠ 0 := h.ne
    by_cases hm : m = 1 <;> simp [h, hfront, hzero, hm, Int.sign_eq_neg_one_of_neg h]
  · simp [h]
  · have hback : ¬ area < 0 := h.asymm
    have hzero : area ≠ 0 := h.ne'
    by_cases hm : m = 2 <;> simp [h, hback, hzero, hm, Int.sign_eq_one_of_pos h]

/-! ## Visibility (R327) -/

section
variable {a b : Vec} {i j : Nat}

theorem dedupLane_invalid (h : laneN b i = 0) : dedupLane a b i = 0xFFFFFFFF := if_pos h

/-- The leader of a lane is the first valid lane with its identifier (R327). -/
theorem dedupLeader_eq (hj : j < 16) (hvalid : laneN b j ≠ 0) (hsame : laneN a j = laneN a i)
    (hfirst : ∀ k < j, laneN b k ≠ 0 → laneN a k ≠ laneN a i) : dedupLeader a b i = j := by
  have hfind : (List.range 16).find? (fun j => laneN b j != 0 && laneN a j == laneN a i) = some j := by
    rw [List.find?_range_eq_some]
    refine ⟨by simp [hvalid, hsame], List.mem_range.2 hj, fun k hk => ?_⟩
    simpa [or_iff_not_imp_left] using hfirst k hk
  rw [dedupLeader, hfind, Option.getD_some]

/-- A valid lane names its leader in its low byte, and its own leadership in its top bit (R327). -/
theorem dedupLane_leader (hi : laneN b i ≠ 0) (hlead : dedupLeader a b i = j) (hj : j < 16) :
    dedupLane a b i % 256 = j ∧ (2 ^ 31 ≤ dedupLane a b i ↔ i = j) := by
  have hrank : ((List.range j).filter (fun k => laneN b k != 0 && dedupLeader a b k == k)).length ≤ j := by
    simpa using List.length_filter_le (fun k => laneN b k != 0 && dedupLeader a b k == k) (List.range j)
  rw [dedupLane, if_neg hi]
  simp only [hlead]
  split
  next h => exact ⟨by omega, ⟨fun _ => h.symm, fun _ => by omega⟩⟩
  next h => exact ⟨by omega, ⟨fun hle => by omega, fun he => absurd he.symm h⟩⟩

end

/-! ## The stable order (R331) -/

/-- A lane stands before another in the stable order of their digits (R331). -/
abbrev SortsBefore (digit : Nat → Nat) (j k : Nat) : Prop := digit j < digit k ∨ digit j = digit k ∧ j < k

/-- The lanes below `n` that stand before a lane. -/
def beforeSet (digit : Nat → Nat) (n k : Nat) : Finset Nat := (Finset.range n).filter (fun j => SortsBefore digit j k)

section
variable {digit : Nat → Nat} {n j k : Nat}

theorem card_beforeSet (digit : Nat → Nat) (n k : Nat) :
    (beforeSet digit n k).card = ((List.range n).filter (fun j => decide (SortsBefore digit j k))).length := rfl

/-- A lane has fewer lanes before it than one that stands behind it. -/
theorem beforeSet_ssubset (hj : j < n) (h : SortsBefore digit j k) : beforeSet digit n j ⊂ beforeSet digit n k := by
  refine Finset.ssubset_iff_subset_ne.2 ⟨fun i hi => ?_, fun he => ?_⟩
  · obtain ⟨hn, hb⟩ := Finset.mem_filter.1 hi
    exact Finset.mem_filter.2 ⟨hn, by omega⟩
  · have hself : j ∈ beforeSet digit n k := Finset.mem_filter.2 ⟨Finset.mem_range.2 hj, h⟩
    rw [← he] at hself
    obtain ⟨-, hb⟩ := Finset.mem_filter.1 hself
    omega

theorem card_beforeSet_lt (hk : k < n) : (beforeSet digit n k).card < n := by
  have hsub : beforeSet digit n k ⊂ Finset.range n := by
    refine Finset.ssubset_iff_subset_ne.2 ⟨Finset.filter_subset _ _, fun he => ?_⟩
    have hself : k ∈ beforeSet digit n k := he ▸ Finset.mem_range.2 hk
    obtain ⟨-, hb⟩ := Finset.mem_filter.1 hself
    omega
  simpa using Finset.card_lt_card hsub

theorem card_beforeSet_injOn (digit : Nat → Nat) (n : Nat) :
    Set.InjOn (fun k => (beforeSet digit n k).card) (Finset.range n : Set Nat) := by
  intro j hj k hk he
  have hj : j < n := by simpa using hj
  have hk : k < n := by simpa using hk
  by_contra hne
  obtain h | h : SortsBefore digit j k ∨ SortsBefore digit k j := by omega
  · exact (Finset.card_lt_card (beforeSet_ssubset hj h)).ne he
  · exact (Finset.card_lt_card (beforeSet_ssubset hk h)).ne' he

/-- Every place of the order is taken by a lane (R331). -/
theorem exists_card_beforeSet (digit : Nat → Nat) {i : Nat} (hi : i < n) : ∃ j < n, (beforeSet digit n j).card = i := by
  have hmaps : Set.MapsTo (fun k => (beforeSet digit n k).card) (Finset.range n : Set Nat) (Finset.range n : Set Nat) :=
    fun k hk => by simpa using card_beforeSet_lt (digit := digit) (by simpa using hk : k < n)
  obtain ⟨j, hj, he⟩ := Finset.surjOn_of_injOn_of_card_le _ hmaps (card_beforeSet_injOn digit n) le_rfl
    (by simpa using hi : i ∈ (Finset.range n : Set Nat))
  exact ⟨j, by simpa using hj, he⟩

end

section
variable {m : BitVec 3} {a b : Vec} {i : Nat}

/-- The place of a lane in the order is the number of valid lanes before it (R331). -/
theorem sortRank_eq (a b : Vec) (i : Nat) :
    sortRank a b i = ((List.range (sortCount b)).filter (fun j => decide (SortsBefore (sortDigit a b) j i))).length := by
  refine congrArg (fun p : Nat → Bool => ((List.range (sortCount b)).filter p).length) (funext fun j => ?_)
  rw [Bool.eq_iff_iff]
  simp only [SortsBefore, Bool.or_eq_true, Bool.and_eq_true, decide_eq_true_eq, beq_iff_eq, and_comm]

/-- The counts of the digits (R331). -/
theorem sortLane_count : sortLane 1 a b i =
    ((List.range (sortCount b)).filter (fun j => decide (sortDigit a b j = i))).length := rfl

/-- The lanes that are not valid stay (R331). -/
theorem sortLane_invalid (h : sortCount b ≤ i) (hm : m ≠ 1) : sortLane m a b i = i := by
  rw [sortLane, if_neg hm, if_pos h]

theorem sortLane_rank (h : i < sortCount b) : sortLane 2 a b i = sortRank a b i := by
  rw [sortLane, if_neg (by decide), if_neg h.not_ge, if_pos rfl]

/-- The lane that stands at a place of the order (R331). -/
theorem sortLane_order (h : i < sortCount b) : ∃ j < sortCount b, sortLane 0 a b i = j ∧ sortRank a b j = i := by
  obtain ⟨k, hk, hrank⟩ := exists_card_beforeSet (sortDigit a b) h
  rw [card_beforeSet, ← sortRank_eq] at hrank
  have hsome : ((List.range (sortCount b)).find? (fun j => sortRank a b j == i)).isSome = true :=
    List.find?_isSome.2 ⟨k, List.mem_range.2 hk, beq_iff_eq.2 hrank⟩
  obtain ⟨j, hj⟩ := Option.isSome_iff_exists.1 hsome
  refine ⟨j, List.mem_range.1 (List.mem_of_find?_eq_some hj), ?_, by simpa using List.find?_some hj⟩
  rw [sortLane, if_neg (by decide), if_neg h.not_ge, if_neg (by decide), hj, Option.getD_some]

end

/-- A splat whose tile is done leaves its lanes (R332). -/
theorem compLane_done {b : Vec} {i : Nat} (h : laneN b (i / 4 * 4) = 0) (md : Mode) (o : W32) (a z : Vec) :
    compLane md o a b z i = laneN z i := if_pos (.inl h)

/-! ## The signature table (R338, R339) -/

section
variable {c : LeafCtx} {e : Nat}

theorem LeafCtx.sigPlace_none (h : c.sigcfg.getLsbD 4 = false) : c.sigPlace e = none := if_neg (ne_true_of_eq_false h)

theorem LeafCtx.sigPlace_some (h : c.sigcfg.getLsbD 4 = true) :
    c.sigPlace e = some ((c.sigcfg.extractLsb' 0 4).toNat * 256 + e % 256) := if_pos h

end

/-- The plan of `vsig.chk`, by the entry that it reads and writes, if the leaf has a slot (R338). -/
def sigChkPlan (s : State) (d a b : BitVec 4) : Option Nat → Plan
  | none => { reads := readsV [a, b], writes := [(3, .vec d 0)] }
  | some n =>
    let die := siteDie s.cur.tile
    let new := sigOf (s.curBank.rv b)
    let bad := s.ecc.contains (.sig die n)
    let old := if bad then none else s.dies[die].sigs.get n none
    let flag : W32 := if old = some new then 0xFFFFFFFF else 0
    { reads := readsV [a, b], writes := [(3, .vec d ((1#32 ++ old.getD 0 ++ flag).setWidth 512))],
      act := fun x => x.putSig die n new bad }

theorem planOf_vsigChk (g : Pg) (d a b : BitVec 4) : planOf (.vsigChk g d a b) =
    some (guarded .v g (fun s => sigChkPlan s d a b (s.curCtx.sigPlace (laneN (s.curBank.rv a) 0))) nothing) := rfl

/-- Settles O23: every op but `vsig.chk` is a `planVec`, and that one reads and writes the entry of `LeafCtx.sigPlace`; the lanes
by `edgeCovered_iff`, `dedupLeader_eq`, `sortLane_order` and their companions. -/
theorem graphicsResults : Obligations.GraphicsResults := by
  refine ⟨?issued, ?lanes⟩
  case issued =>
    intro s g d a b t m s0 k x y z md die does
    refine ⟨issues_planVec rfl rfl, issues_planVec rfl rfl, issues_planVec rfl rfl, issues_planVec rfl rfl,
      issues_planVec rfl rfl, issues_planVec rfl rfl, issues_planVec rfl rfl, issues_planVec rfl rfl, issues_planVec rfl rfl,
      issues_planVec rfl rfl, fun hcfg => ?none, fun hcfg => ?some⟩
    case none =>
      exact issues_of_plan (planOf_vsigChk g d a b) (congrArg (sigChkPlan s0 d a b) (LeafCtx.sigPlace_none hcfg)) rfl rfl rfl rfl
        rfl rfl rfl rfl
    case some =>
      exact issues_of_plan (planOf_vsigChk g d a b) (congrArg (sigChkPlan s0 d a b) (LeafCtx.sigPlace_some hcfg)) rfl rfl rfl rfl
        rfl rfl rfl rfl
  case lanes =>
    intro m x y z i w n px py dx dy e area takes digit count before hi
    have hn (v : Vec) (k : Nat) : laneN v k = n v k := laneN_eq v k
    have hdigit : sortDigit x y = digit := funext fun j => by rw [sortDigit, hn, hn]
    have hcount : sortCount y = count := by rw [sortCount, hn]
    have hrank (k : Nat) : sortRank x y k = ((List.range count).filter (fun j => decide (before j k))).length := by
      rw [sortRank_eq, hdigit, hcount]
    refine ⟨?covered, fun h => dedupLane_invalid ((hn y i).trans h), fun j hj hy hvalid hsame hfirst => ?leader, ?counts, ?invalid,
      ?ranks, ?order, fun h md o => (compLane_done ((hn y _).trans h) md o x z).trans (hn z i)⟩
    case covered =>
      rw [edgeCovered_iff]
      simp only [triangleArea, AllEdgesTake, edgeTakes_iff (Or.inl rfl : (1 : Int) = 1 ∨ (1 : Int) = -1),
        edgeTakes_iff (Or.inr rfl : (-1 : Int) = 1 ∨ (-1 : Int) = -1), edgeFn, edgeVec, sampleAt, laneI_eq]
      rfl
    case leader =>
      refine dedupLane_leader (by rwa [hn]) (dedupLeader_eq hj (by rwa [hn]) (by rwa [hn, hn]) fun k hk => ?_) hj
      rw [hn, hn, hn]
      exact hfirst k hk
    case counts => exact sortLane_count.trans (by rw [hdigit, hcount])
    case invalid => exact fun h => sortLane_invalid (hcount.trans_le h)
    case ranks => exact fun h => (sortLane_rank (h.trans_eq hcount.symm)).trans (hrank i)
    case order =>
      intro h
      obtain ⟨j, hj, hlane, hplace⟩ := sortLane_order (h.trans_eq hcount.symm)
      exact ⟨j, hj.trans_eq hcount, hlane, (hrank j).symm.trans hplace⟩

end Sys2Proof.Machine
end

section
/-!
SUPPORT. Barrier episodes and elastic stages (R264-R268, R350, R351).
-/
namespace Sys2Proof.Machine

/-! ## Barrier episodes (R265, R266, R268) -/

section
variable {s : State} {t : Site} {l : Leaf} {scope : Fin 5}

/-- An episode whose members have all arrived completes; a TILE episode in a cycle without an issue, a SYSTEM episode when every
module has arrived (R265, R266). -/
theorem exec_barrierEpisodeComplete (hdone : s.episodeDone t l scope = true)
    (htile : scope = 0 → (s.tile t).issued = false ∧ (s.tile t).idled = 0)
    (hsys : scope = 4 → (s.ctx t l).sysSent = true ∧ (s.ctx t l).peersArrived = true) :
    exec (.barrierEpisodeComplete t l scope) s = .next (s.completeBarrier t l scope) := by
  have hquiet : ¬ (scope = 0 ∧ ((s.tile t).issued = true ∨ (s.tile t).idled ≠ 0)) := fun ⟨h0, h⟩ => by
    obtain ⟨hissued, hidled⟩ := htile h0
    simp [hissued, hidled] at h
  have hsent : ¬ (scope = 4 ∧ (!(s.ctx t l).sysSent) = true) := fun ⟨h4, h⟩ => by simp [(hsys h4).1] at h
  have hpeers : ¬ (scope = 4 ∧ (!(s.ctx t l).peersArrived) = true) := fun ⟨h4, h⟩ => by simp [(hsys h4).2] at h
  change execBarrierEpisodeComplete t l scope s = _
  simp only [execBarrierEpisodeComplete, hdone, if_neg hquiet, if_neg hsent, if_neg hpeers, Bool.not_true, Bool.false_eq_true,
    if_false]

/-- A SYSTEM episode first tells the other modules (R265). -/
theorem exec_barrierEpisodeComplete_tell (hdone : s.episodeDone t l 4 = true) (hsent : (s.ctx t l).sysSent = false) :
    exec (.barrierEpisodeComplete t l 4) s = .next ((s.onChannel t l 4).foldl
      (fun y u => y.onCtx u.1 u.2 (fun c => { c with sysSent := true })) (s.sendArrivals (s.ctx t l))) := by
  change execBarrierEpisodeComplete t l 4 s = _
  simp only [execBarrierEpisodeComplete, hdone, hsent, Bool.not_true, Bool.not_false, Bool.false_eq_true, if_false,
    show ¬ ((4 : Fin 5) = 0) by decide, false_and, and_self, if_true]

/-- The waiting members of a context that is in place go on (R265). -/
theorem LeafCtx.banks_releaseBarrier_now (c : LeafCtx) (scope : Fin 5) (b : BankId) :
    (c.releaseBarrier scope false).banks[b] =
      if c.banks[b].arrived = some (BitVec.ofNat 3 scope.val) then { c.banks[b] with arrived := none } else c.banks[b] :=
  Vector.getElem_map _ _

/-- A context that a swap has taken notes the episode for its restore (R268). -/
theorem LeafCtx.barDone_releaseBarrier_later (c : LeafCtx) (scope : Fin 5) :
    (c.releaseBarrier scope true).barDone.getLsbD scope.val = true := by
  change (c.barDone ||| (1#5 <<< scope.val)).getLsbD scope.val = true
  simp

end

/-! ## Elastic stages (R350, R351) -/

section
variable {s : State} {d : DieId} {e : Fin 16} {v : Site} {l : Leaf}

theorem exec_tileActivation (h : (s.elastic d e).change = some ⟨v, l, true⟩) : exec (.tileActivation d e) s =
    .next (s.onElastic d e (fun x => { x with active := x.active ++ [v], change := none })) := by
  change execTileActivation d e s = _
  simp only [execTileActivation, h]

theorem exec_tileDeactivation (h : (s.elastic d e).change = some ⟨v, l, false⟩) (hquiet : s.tileQuiet v l = true) :
    exec (.tileDeactivation d e) s =
      .next (s.onElastic d e (fun x => { x with active := x.active.filter (fun u => u != v), change := none })) := by
  change execTileDeactivation d e s = _
  simp only [execTileDeactivation, h, hquiet, if_true]

/-- A sample is due every 4,800 cycles, once, of a stage whose partition runs (R351). -/
theorem State.sampleDue_iff : s.sampleDue d e = true ↔ (s.elastic d e).v = true ∧ s.dies[d].cycle.toNat % 4800 = 0 ∧
    (s.elastic d e).sampled ≠ s.dies[d].cycle.toNat + 1 ∧ s.partAway (s.elastic d e).part = false := by
  simp only [State.sampleDue, Bool.and_eq_true, beq_iff_eq, bne_iff_ne, Bool.not_eq_true', and_assoc]

theorem exec_elasticQueuePass_used
    (h : (s.ebuf ((s.elastic d e).queue d).1 (s.elasticLeaf d (s.elastic d e)) ((s.elastic d e).queue d).2).passed =
      s.cycleAt ((s.elastic d e).queue d).1 + 1) : exec (.elasticQueuePass d e) s = .next s := if_pos (.inr h)

theorem EdgeBuf.atMarker_eq_false {b : EdgeBuf} (h : b.preempt ≠ some 0) : b.atMarker = false := beq_false_of_ne h

/-- The head token of the queue passes to the receiver with the fewest filled slots, against a slot of its channel (R351). -/
theorem exec_elasticQueuePass {x : Elastic} {q : Site × Fin 8} {ql : Leaf} {hd : EdgeTok} {tok : Token} {o : OutCh}
    (hx : s.elastic d e = x) (hq : x.queue d = q) (hl : s.elasticLeaf d x = ql) (ho : x.outs.get v.toNat {} = o)
    (hv : x.v = true) (hmark : (s.ebuf q.1 ql q.2).preempt ≠ some 0) (hhead : s.ebufHead q.1 ql q.2 = some (hd, tok))
    (hunused : (s.ebuf q.1 ql q.2).passed ≠ s.cycleAt q.1 + 1) (hleast : s.leastFilled x.receivers = some (v, l))
    (hslot : o.e ≠ 0) :
    exec (.elasticQueuePass d e) s =
      .next ((((s.ebufTake q.1 ql q.2).onEbuf q.1 ql q.2 (fun y => { y with passed := s.cycleAt q.1 + 1 })).onElastic d e (fun y =>
        { y with outs := y.outs.set v.toNat { o with w := (o.w + 1) % o.depth, e := o.e - 1 } })).toTrigger v l
          (s.ctx v l).trig.toFin
          { src := .elastic d e v, part := x.part, leaf := l, graph := (s.ebuf q.1 ql q.2).graph,
            body := .publish o.w tok false }) := by
  subst hx hq hl ho
  change execElasticQueuePass d e s = _
  simp only [execElasticQueuePass, hv, hunused, EdgeBuf.atMarker_eq_false hmark, hhead, hleast, if_neg hslot, Bool.not_true,
    Bool.false_eq_true, or_self, if_false]

end

/-! ## The counters of a stage (R351) -/

section
variable {x : Elastic} {n : Nat} {t : Site × Leaf} (hstill : x.change = none)
include hstill

theorem Elastic.counted_high (h : x.high < n) : x.counted n = { x with above := min (x.above + 1) 4, below := 0 } := by
  simp only [Elastic.counted, hstill, Option.isSome_none, Bool.false_eq_true, if_false, if_pos h]

theorem Elastic.counted_low (hhigh : n ≤ x.high) (h : n < x.low) :
    x.counted n = { x with below := min (x.below + 1) 8, above := 0 } := by
  simp only [Elastic.counted, hstill, Option.isSome_none, Bool.false_eq_true, if_false, if_neg hhigh.not_gt, if_pos h]

theorem Elastic.counted_between (hhigh : n ≤ x.high) (h : x.low ≤ n) : x.counted n = { x with above := 0, below := 0 } := by
  simp only [Elastic.counted, hstill, Option.isSome_none, Bool.false_eq_true, if_false, if_neg hhigh.not_gt, if_neg h.not_gt]

/-- Four samples above HIGH in a row call for another tile, while the pool has one (R351). -/
theorem Elastic.decide_grow (habove : x.above = 4) (hroom : x.active.length < x.poolSize)
    (hfind : x.pool.find? (fun t => x.active.contains t.1 == false) = some t) :
    x.decide = { x with above := 0, change := some ⟨t.1, t.2, true⟩ } := by
  simp only [Elastic.decide, hstill, habove, hroom, hfind, Option.isSome_none, Bool.false_eq_true, if_false, and_self, if_true]

/-- Eight samples below LOW in a row let a tile go, but for the last (R351). -/
theorem Elastic.decide_shrink (habove : x.above ≠ 4) (hbelow : x.below = 8) (hmore : 1 < x.active.length)
    (hfind : x.pool.reverse.find? (fun t => x.active.contains t.1 == true) = some t) :
    x.decide = { x with below := 0, change := some ⟨t.1, t.2, false⟩ } := by
  simp only [Elastic.decide, hstill, habove, hbelow, hmore, hfind, Option.isSome_none, Bool.false_eq_true, if_false, and_self,
    false_and, if_true]

omit hstill in
theorem Elastic.decide_still (habove : x.above ≠ 4) (hbelow : x.below ≠ 8) : x.decide = x := by
  simp only [Elastic.decide, habove, hbelow, false_and, if_false, ite_self]

end

/-- Settles O56: each event under its conditions, and the counters by the cases of `Elastic.counted` and `Elastic.decide`. -/
theorem episodesAndStages : Obligations.EpisodesAndStages := by
  refine ⟨?events, ?counters⟩
  case events =>
    intro s t v l lv scope e d st h tok c x q ql o
    exact ⟨exec_barrierEpisodeComplete, exec_barrierEpisodeComplete_tell, c.banks_releaseBarrier_now scope, rfl,
      c.barDone_releaseBarrier_later scope,
      fun hv hcycle hnew hpart => if_pos (State.sampleDue_iff.2 ⟨hv, hcycle, hnew, hpart⟩), exec_tileActivation,
      exec_tileDeactivation, exec_elasticQueuePass_used, exec_elasticQueuePass rfl rfl rfl rfl⟩
  case counters =>
    intro x n t l
    refine ⟨fun hstill h => ?high, fun hstill hhigh h => ?low, fun hstill hhigh h => ?between,
      fun hstill habove hroom hfind => ?grow, fun hstill habove hbelow hmore hfind => ?shrink, fun _ habove hbelow => Elastic.decide_still habove hbelow⟩
    case high => rw [Elastic.counted_high hstill h]; exact ⟨rfl, rfl⟩
    case low => rw [Elastic.counted_low hstill hhigh h]; exact ⟨rfl, rfl⟩
    case between => rw [Elastic.counted_between hstill hhigh h]; exact ⟨rfl, rfl⟩
    case grow => rw [Elastic.decide_grow hstill habove hroom hfind]
    case shrink => rw [Elastic.decide_shrink hstill habove hbelow hmore hfind]

end Sys2Proof.Machine
end

section
/-!
SUPPORT. Requests at the owner of a range, and the record of a counter (O52).
-/
namespace Sys2Proof.Machine

/-! ## The queue of an owner -/

section AtOwner
variable {s : State} {n : Nat} {f : Flying} {mt : Site} {l : Leaf} {e : W64} {ok : ReqBody → Bool}
  {g : Flying → Site → Leaf → W64 → State → State}

/-- An owner that has applied a request in this cycle leaves the others where they are. -/
theorem State.atOwner_used (hf : s.inFlight n = some f) (ht : f.target = .owner mt)
    (hfen : s.fenced (siteDie mt) = false) (hu : s.usedNow mt (s.mt mt).last.owner = true) : s.atOwner n ok g = s := by
  simp only [State.atOwner, hf, ht, hfen, hu, Bool.or_true, Bool.false_eq_true, if_true, if_false, ite_self]

/-- The first request in the queue of an owner that is free in this cycle takes effect there. -/
theorem State.atOwner_first (hf : s.inFlight n = some f) (ht : f.target = .owner mt) (hfirst : s.firstAt f = true)
    (hfen : s.fenced (siteDie mt) = false) (hp : s.pathOpen (siteDie f.req.src.tile) (siteDie mt) = true)
    (ho : s.ownerOf f = some (mt, l, e)) (hu : s.usedNow mt (s.mt mt).last.owner = false) (hok : ok f.req.body = true) :
    s.atOwner n ok g = g f mt l e ((s.land n).uses mt (fun y k => { y with owner := k })) := by
  simp only [State.atOwner, hf, ht, hfirst, hfen, hp, ho, hu, hok, Bool.not_true, Bool.or_false, Bool.false_eq_true,
    or_self, if_false]

/-- An `amo` at an owner goes through its queue. -/
theorem execAmoApply_owner (hf : s.inFlight n = some f) (ht : f.target = .owner mt) (hb : f.req.body.isAmo = true) :
    execAmoApply n s = .next (s.atOwner n ReqBody.isAmo (fun f mt l e x =>
      let va := (f.req.body.va.getD 0).toNat
      if ownrType e ≠ 0 then x.failReq f.req .perm
      else if x.ownerEcc mt l va then x.failReq f.req .ecc
      else x.applyAmo f ((x.mtLeaf mt l).ownedWord 0 va) (fun v y => y.onMtLeaf mt l (fun z => z.setOwned 0 va v)))) := by
  simp only [execAmoApply, hf, hb, ht, Bool.not_true, Bool.false_eq_true, if_false]

/-- No request is applied at an owner that has applied one in this cycle. -/
theorem ownerEvents_used (hf : s.inFlight n = some f) (ht : f.target = .owner mt)
    (hfen : s.fenced (siteDie mt) = false) (hu : s.usedNow mt (s.mt mt).last.owner = true) :
    exec (.ownerRequest n) s = .next s ∧ exec (.redcAtOwner n) s = .next s ∧ exec (.fillcAtOwner n) s = .next s ∧
      exec (.amoApply n) s = .next s := by
  have hat := fun ok g => State.atOwner_used (ok := ok) (g := g) hf ht hfen hu
  refine ⟨congrArg _ (hat _ _), congrArg _ (hat _ _), congrArg _ (hat _ _), ?_⟩
  change execAmoApply n s = _
  cases hb : f.req.body.isAmo with
  | true => rw [execAmoApply_owner hf ht hb, hat]
  | false => simp only [execAmoApply, hf, hb, Bool.not_false, if_true]

end AtOwner

/-! ## The record of a counter at its owner -/

/-- The type of a counted range is not that of a plain or a reserved one. -/
theorem counted_not_plain {ct : BitVec 2} (h : ct = 1 ∨ ct = 2) : ¬ (ct = 0 ∨ ct = 3) := by
  rcases h with rfl | rfl <;> decide

section Counter
variable {x : State} {mt : Site} {l : Leaf} {ct : BitVec 2} {va : Nat} {v : Vec} {w : W32} {u : Subscriber}

/-- A contribution that does not complete the count is added and counted. -/
theorem State.addCounter_more (hct : ct = 1 ∨ ct = 2) :
    let r := (x.mtLeaf mt l).record (va / 128 * 128)
    r.timeoutDue = false → r.state ≠ 2 → r.state ≠ 3 → r.rcv ≠ 0xFFFF → (r.exp = 0 ∨ r.rcv + 1 ≠ r.exp) →
    x.addCounter mt l ct va v =
      ((x.onMtLeaf mt l (fun z => z.eachWord (fun u k => u.addOwned ct (va + 4 * k) (getF v 32 k)) 16)).onMtLeaf mt l
        (fun z => z.setRecord (va / 128 * 128) { r with rcv := r.rcv + 1 }), .done) := by
  intro r ht h2 h3 hr hmore
  have hn : ¬ (r.exp ≠ 0 ∧ r.rcv + 1 = r.exp) := fun h => hmore.elim h.1 (· h.2)
  simp only [State.addCounter, if_neg (counted_not_plain hct), r] at *
  simp only [ht, Bool.false_eq_true, if_false, h2, h3, hr, or_self, hn, decide_false]

/-- The contribution that completes the count makes the sector READY and tells its subscribers. -/
theorem State.addCounter_last (hct : ct = 1 ∨ ct = 2) :
    let r := (x.mtLeaf mt l).record (va / 128 * 128)
    let r1 := { r with rcv := r.rcv + 1, state := 2, subs := [] }
    r.timeoutDue = false → r.state ≠ 2 → r.state ≠ 3 → r.rcv ≠ 0xFFFF → r.exp ≠ 0 → r.rcv + 1 = r.exp →
    x.addCounter mt l ct va v =
      (((x.onMtLeaf mt l (fun z => z.eachWord (fun u k => u.addOwned ct (va + 4 * k) (getF v 32 k)) 16)).onMtLeaf mt l
        (fun z => z.setRecord (va / 128 * 128) r1)).tellSubs (some (siteDie mt)) (x.mtLeaf mt l).part r1 (va / 128 * 128)
          r.subs 1, .done) := by
  intro r r1 ht h2 h3 hr h0 h1
  simp only [State.addCounter, if_neg (counted_not_plain hct), r1, r] at *
  simp only [ht, Bool.false_eq_true, if_false, h2, h3, hr, or_self]
  rw [decide_eq_true (p := _ ∧ _) ⟨h0, h1⟩]
  simp only [if_true]

/-- A `fillc` declares the count of a record that has none. -/
theorem State.fillCounter_declare (hct : ct = 1 ∨ ct = 2) :
    let r := (x.mtLeaf mt l).record va
    r.timeoutDue = false → w.getLsbD 31 = false → w.extractLsb' 0 16 ≠ 0 → r.exp = 0 →
    x.fillCounter mt l ct va w u =
      (x.onMtLeaf mt l (fun z => z.setRecord va (r.declare (w.extractLsb' 0 16) (x.mtLeaf mt l).redto)), .done) := by
  intro r ht hn hc h0
  simp only [State.fillCounter, if_neg (counted_not_plain hct), r] at *
  simp only [ht, hn, hc, h0, Bool.false_eq_true, if_false, if_true, ne_eq, not_true_eq_false, false_and]

/-- A `fillc` with COUNT 0 resets the sector and tells its subscribers. -/
theorem State.fillCounter_reset (hct : ct = 1 ∨ ct = 2) :
    let r := (x.mtLeaf mt l).record va
    r.timeoutDue = false → w.extractLsb' 0 16 = 0 →
    x.fillCounter mt l ct va w u =
      ((x.onMtLeaf mt l (fun z => z.resetSector ct va)).tellSubs (some (siteDie mt)) (x.mtLeaf mt l).part {} va r.subs 4,
        .done) := by
  intro r ht hc
  simp only [State.fillCounter, if_neg (counted_not_plain hct), r] at *
  simp only [ht, hc, Bool.false_eq_true, if_false, if_true]

end Counter

/-- The address of a sector is that of its 128 bytes. -/
theorem sector_of_aligned {va : Nat} (h : va % 128 = 0) : va / 128 * 128 = va := by omega

/-! ## An `amo` for the first time -/

/-- An `amo` with a serial that its owner has not seen takes effect, is noted and answered. -/
theorem State.applyAmo_unseen {x : State} {f : Flying} {ea : W64} {fn : BitVec 4} {op nw old : W32} {ret : Bool}
    {write : W32 → State → State} (hb : f.req.body = .amo ea fn op nw ret) (hw : f.req.why = .op)
    (hs : x.amoSeen f.target none f.req.src.tile f.req.src.part (f.req.serial.getD 0) = none) :
    x.applyAmo f old write = ((write (amoWord fn old op nw) x).noteAmo f.target none f.req.src.tile f.req.src.part
      (f.req.serial.getD 0) old).replyAmo f.req ret old := by
  simp only [State.applyAmo, hb, Req.source, hw, hs]

/-! ## The requests, by their bodies -/

section Requests
variable {s : State} {n : Nat} {f : Flying} {mt : Site} {l : Leaf} {e : W64}

/-- A line of a range is read. -/
theorem ownerRequest_read {ea : W64} (hb : f.req.body = .read ea) {x : State}
    (hat : ∀ ok g, ok f.req.body = true → s.atOwner n ok g = g f mt l e x) (hecc : x.ownerEcc mt l ea.toNat = false) :
    exec (.ownerRequest n) s = .next (x.answer f.req ((x.mtLeaf mt l).ownedLine (ownrType e) ea.toNat)) := by
  change execOwnerRequest n s = _
  rw [execOwnerRequest, hat _ _ (by rw [hb]; rfl)]
  simp only [hb, ReqBody.va, Option.getD_some, hecc, Bool.false_eq_true, if_false]

/-- A line of a range is written. -/
theorem ownerRequest_write {ea : W64} {v : Vec} (hb : f.req.body = .write ea v) {x : State}
    (hat : ∀ ok g, ok f.req.body = true → s.atOwner n ok g = g f mt l e x) :
    exec (.ownerRequest n) s =
      .next ((x.onMtLeaf mt l (fun y => y.setLine (ownrType e) ea.toNat v)).written f.req) := by
  change execOwnerRequest n s = _
  rw [execOwnerRequest, hat _ _ (by rw [hb]; rfl)]
  simp only [hb, ReqBody.va, Option.getD_some]

/-- An `amo` of a new serial is applied to a plain range. -/
theorem amoApply_owner {ea : W64} {fn : BitVec 4} {op nw : W32} {ret : Bool} (hb : f.req.body = .amo ea fn op nw ret)
    (hf : s.inFlight n = some f) (ht : f.target = .owner mt) {x : State}
    (hat : ∀ ok g, ok f.req.body = true → s.atOwner n ok g = g f mt l e x) (h0 : ownrType e = 0)
    (hecc : x.ownerEcc mt l ea.toNat = false) (hw : f.req.why = .op)
    (hs : x.amoSeen f.target none f.req.src.tile f.req.src.part (f.req.serial.getD 0) = none) :
    exec (.amoApply n) s = .next (((x.onMtLeaf mt l (fun z =>
      z.setOwned 0 ea.toNat (amoWord fn ((x.mtLeaf mt l).ownedWord 0 ea.toNat) op nw))).noteAmo f.target none f.req.src.tile
        f.req.src.part (f.req.serial.getD 0) ((x.mtLeaf mt l).ownedWord 0 ea.toNat)).replyAmo f.req ret
          ((x.mtLeaf mt l).ownedWord 0 ea.toNat)) := by
  have hva : (f.req.body.va.getD 0).toNat = ea.toNat := by rw [hb]; rfl
  change execAmoApply n s = _
  rw [execAmoApply_owner hf ht (by rw [hb]; rfl), hat _ _ (by rw [hb]; rfl)]
  simp only [hva, h0, hecc, ne_eq, not_true_eq_false, Bool.false_eq_true, if_false, State.applyAmo_unseen hb hw hs]

/-- A `redc` ends as its record lets it. -/
theorem redcAtOwner_of {ea : W64} {v : Vec} (hb : f.req.body = .redc ea v) {x y : State}
    (hat : ∀ ok g, ok f.req.body = true → s.atOwner n ok g = g f mt l e x) (hecc : x.ownerEcc mt l ea.toNat = false)
    (hy : x.addCounter mt l (ownrType e) ea.toNat v = (y, .done)) :
    exec (.redcAtOwner n) s = .next (y.written f.req) := by
  change execRedcAtOwner n s = _
  rw [execRedcAtOwner, hat _ _ (by rw [hb]; rfl)]
  simp only [hb, hecc, Bool.false_eq_true, if_false, hy, State.counted]

/-- A `fillc` ends as its record lets it. -/
theorem fillcAtOwner_of {ea : W64} {w : W32} (hb : f.req.body = .fillc ea w) {x y : State}
    (hat : ∀ ok g, ok f.req.body = true → s.atOwner n ok g = g f mt l e x)
    (hy : x.fillCounter mt l (ownrType e) ea.toNat w f.req.subscriber = (y, .done)) :
    exec (.fillcAtOwner n) s = .next (y.written f.req) := by
  change execFillcAtOwner n s = _
  rw [execFillcAtOwner, hat _ _ (by rw [hb]; rfl)]
  simp only [hb, hy, State.counted]

end Requests

/-! ## What a record and a word hold after a change -/

/-- A declared count makes the record READY at once when enough contributions are in, and ARMED otherwise. -/
theorem CounterRec.declare_state (r : CounterRec) (count : W16) (limit : BitVec 24) :
    (r.declare count limit).state = if count.toNat ≤ r.rcv.toNat then 2 else 1 := rfl

/-- The record that was set is the record that stands. -/
theorem MtLeaf.record_setRecord (f : MtLeaf) (sec : Nat) (r : CounterRec) : (f.setRecord sec r).record sec = r :=
  FMap.get_set_same ..

/-- A contribution is added to the integer word of a range of type 1. -/
theorem MtLeaf.readW32_addOwned (f : MtLeaf) (va : Nat) (x : W32) (h : f.store.wf = true) :
    (f.addOwned 1 va x).store.readW32 va = f.store.readW32 va + x :=
  Memory.readW32_writeW32 h ..

/-- A contribution is added to the exact sum of a lane of a range of type 2. -/
theorem MtLeaf.lane_addOwned (f : MtLeaf) (va : Nat) (x : W32) :
    (f.addOwned 2 va x).lane va = (f.lane va).add (laneOf x) :=
  FMap.get_set_same ..

/-- A word of a plain range reads as it was set. -/
theorem MtLeaf.ownedWord_setOwned (f : MtLeaf) (va : Nat) (x : W32) (h : f.store.wf = true) :
    (f.setOwned 0 va x).ownedWord 0 va = x :=
  Memory.readW32_writeW32 h ..

/-- Settles O52: the first request in the queue of an owner takes effect as its body and the record of its sector say. -/
theorem ownerEvents : Obligations.OwnerEvents := by
  refine ⟨?_, fun r f count limit va sec x => ⟨fun h => ?_, fun h => ?_, rfl, rfl, rfl, rfl, decide_eq_true_iff,
    f.record_setRecord .., fun h => f.readW32_addOwned _ _ h, ?_, fun h => f.ownedWord_setOwned _ _ h⟩⟩
  · intro s n f mt l e ea v fn op nw w ret sec q x own va ct at_ r counted added put due
    refine ⟨fun hf ht hfirst hfen hp ho => ⟨ownerEvents_used hf ht hfen, fun hu => ?_⟩, fun hd => ?_⟩
    · have hat : ∀ ok g, ok f.req.body = true → s.atOwner n ok g = g f mt l e x := fun _ _ =>
        State.atOwner_first hf ht hfirst hfen hp ho hu
      refine ⟨fun hb => ownerRequest_read hb hat, fun hb => ownerRequest_write hb hat,
        fun hb h0 hecc hw hs => amoApply_owner hb hf ht hat h0 hecc hw hs,
        fun hb hc hecc hd h2 h3 hr => ⟨fun hm => ?_, fun h0 h1 => ?_⟩, fun hb hc ha hd hn h0 he => ?_,
        fun hb hc ha hd h0 => ?_⟩
      · exact redcAtOwner_of hb hat hecc (State.addCounter_more hc hd h2 h3 hr hm)
      · exact redcAtOwner_of hb hat hecc (State.addCounter_last hc hd h2 h3 hr h0 h1)
      · have hat_ : at_ = va := sector_of_aligned ha
        simp only [r, put, hat_] at *
        exact fillcAtOwner_of hb hat (State.fillCounter_declare hc hd hn h0 he)
      · have hat_ : at_ = va := sector_of_aligned ha
        simp only [r, hat_] at *
        exact fillcAtOwner_of hb hat (State.fillCounter_reset hc hd h0)
    · exact if_pos hd
  · rw [r.declare_state, if_pos h]
  · rw [r.declare_state, if_neg (by omega)]
  · rw [f.lane_addOwned]
    rfl

end Sys2Proof.Machine
end

section
/-!
SUPPORT. Requests at an umbra host, and how a key advances (O53).
-/
namespace Sys2Proof.Machine

/-! ## The record of a key as EXP advances -/

/-- Passing over skipped sequences changes EXP and Skips only. -/
theorem KeyRec.passSkips_keeps (n : Nat) (r : KeyRec) :
    (r.passSkips n).key = r.key ∧ (r.passSkips n).poison = r.poison ∧ (r.passSkips n).waiters = r.waiters ∧
      (r.passSkips n).holder = r.holder := by
  induction n generalizing r with
  | zero => exact ⟨rfl, rfl, rfl, rfl⟩
  | succ n ih =>
    unfold KeyRec.passSkips
    split
    · exact ih _
    · exact ⟨rfl, rfl, rfl, rfl⟩

/-- EXP moves on by one when nothing is skipped. -/
theorem KeyRec.passSkips_nil (n : Nat) (r : KeyRec) (h : r.skips = []) : r.passSkips n = r := by
  cases n with
  | zero => rfl
  | succ n => rw [KeyRec.passSkips, h, if_neg (by simp)]

/-- The record after an advance, before a waiter is granted. -/
def KeyRec.moved (r : KeyRec) : KeyRec := KeyRec.passSkips { r with exp := r.exp + 1 } r.skips.length

/-- The waiter whose sequence an advance makes come up, if any. -/
def KeyRec.due (r : KeyRec) : Option Waiter := r.waiters.find? (fun w => w.seq == r.moved.exp)

/-- An advance whose sequence nobody waits for moves the record on. -/
theorem KeyRec.advance_of_none {r : KeyRec} (h : r.due = none) : r.advance = (r.moved, none) := by
  obtain ⟨-, -, hw, -⟩ := KeyRec.passSkips_keeps r.skips.length { r with exp := r.exp + 1 }
  unfold KeyRec.due KeyRec.moved at h
  simp only [KeyRec.advance, KeyRec.moved, hw, h]

/-- An advance grants the waiter whose sequence has come up, and takes it out of the list. -/
theorem KeyRec.advance_of_some {r : KeyRec} {w : Waiter} (h : r.due = some w) :
    r.advance = ({ r.moved with waiters := r.waiters.filter (fun x => x.seq != w.seq), holder := some w.src.holder },
      some w) := by
  obtain ⟨-, -, hw, -⟩ := KeyRec.passSkips_keeps r.skips.length { r with exp := r.exp + 1 }
  unfold KeyRec.due KeyRec.moved at h
  simp only [KeyRec.advance, KeyRec.moved, hw, h]

/-- An advance that grants nobody leaves the record as it moved. -/
theorem KeyRec.advance_none {r : KeyRec} (h : r.advance.2 = none) : r.advance.1 = r.moved := by
  cases hd : r.due with
  | none => rw [KeyRec.advance_of_none hd]
  | some w => rw [KeyRec.advance_of_some hd] at h; cases h

/-- An advance that grants a waiter takes it out of the list and makes it the holder. -/
theorem KeyRec.advance_some {r : KeyRec} {w : Waiter} (h : r.advance.2 = some w) :
    r.due = some w ∧ r.advance.1 = { r.moved with
      waiters := r.waiters.filter (fun x => x.seq != w.seq), holder := some w.src.holder } := by
  cases hd : r.due with
  | none => rw [KeyRec.advance_of_none hd] at h; cases h
  | some v =>
    rw [KeyRec.advance_of_some hd] at h ⊢
    obtain rfl := Option.some.inj h
    exact ⟨rfl, rfl⟩

/-- What every advance does to EXP, Skips, poison and the key. -/
theorem KeyRec.advance_fields (r : KeyRec) : r.advance.1.exp = r.moved.exp ∧ r.advance.1.skips = r.moved.skips ∧
    r.advance.1.poison = r.poison ∧ r.advance.1.key = r.key := by
  obtain ⟨hk, hp, -, -⟩ := KeyRec.passSkips_keeps r.skips.length { r with exp := r.exp + 1 }
  cases hd : r.due with
  | none => rw [KeyRec.advance_of_none hd]; exact ⟨rfl, rfl, hp, hk⟩
  | some w => rw [KeyRec.advance_of_some hd]; exact ⟨rfl, rfl, hp, hk⟩

/-- Without skips EXP advances by one. -/
theorem KeyRec.moved_nil {r : KeyRec} (h : r.skips = []) : r.moved = { r with exp := r.exp + 1 } :=
  KeyRec.passSkips_nil _ _ h

/-- A skip of the next sequence is passed over. -/
theorem KeyRec.moved_skip {r : KeyRec} (h : r.skips = [r.exp + 1]) :
    r.moved = { r with exp := r.exp + 2, skips := [] } := by
  simp [KeyRec.moved, h, KeyRec.passSkips, add_assoc]

/-! ## The queue of a host -/

section AtHost
variable {s : State} {n : Nat} {f : Flying} {mt : Site} {l : Leaf} {g : Req → Site → Leaf → State → Option State}

/-- A host that has handled a request in this cycle leaves the others where they are. -/
theorem State.atHost_used (hf : s.inFlight n = some f) (ht : f.target = .umbra mt)
    (hfen : s.fenced (siteDie mt) = false) (hu : s.usedNow mt (s.mt mt).last.host = true) : s.atHost n g = s := by
  simp only [State.atHost, hf, ht, hfen, hu, Bool.or_true, Bool.false_eq_true, if_true, if_false, ite_self]

/-- The first request in the queue of a host that is free in this cycle is handled there. -/
theorem State.atHost_first (hf : s.inFlight n = some f) (ht : f.target = .umbra mt) (hfirst : s.firstAt f = true)
    (hfen : s.fenced (siteDie mt) = false) (hp : s.pathOpen (siteDie f.req.src.tile) (siteDie mt) = true)
    (hl : s.mtLeafOf f.req.src.part mt = some l) (hu : s.usedNow mt (s.mt mt).last.host = false) :
    s.atHost n g = (g f.req mt l ((s.land n).uses mt (fun y k => { y with host := k }))).getD s := by
  simp only [State.atHost, hf, ht, hfirst, hfen, hp, hl, hu, Bool.not_true, Bool.or_false, Bool.false_eq_true, if_false]

end AtHost

/-- A partition whose record does not lie in device memory has its keys in its leaf. -/
theorem State.leafFor_of_not_stashed {s : State} {p : BitVec 6} {mt : Site} {l : Leaf} (h : s.stashed p mt l = false) :
    s.leafFor p mt l = s.mtLeaf mt l := by
  have hn : s.stash.find? (fun x => x.part == p && x.site == mt && x.leaf == l) = none :=
    List.find?_eq_none.2 fun y hy hp => Bool.false_ne_true (h.symm.trans (List.any_eq_true.2 ⟨y, hy, hp⟩))
  rw [State.leafFor, hn]

/-- A leave at a host in service advances its key. -/
theorem State.leaveKey_of_not_stashed {s : State} {p : BitVec 6} {mt : Site} {l : Leaf} (h : s.stashed p mt l = false)
    (key : W32) (b : Bool) :
    s.leaveKey p mt l key b = s.advanceKey p mt l { (s.mtLeaf mt l).keyRec key with
      holder := none, poison := ((s.mtLeaf mt l).keyRec key).poison || b } := by
  rw [State.leaveKey, State.leafFor_of_not_stashed h]

/-- A key that has a record, or for which there is room, needs none that the host cannot give. -/
theorem MtLeaf.no_record_needed {f : MtLeaf} {key : W32} (h : f.hasKey key = true ∨ f.keys.length < 2048) :
    (!f.hasKey key && decide (2048 ≤ f.keys.length)) = false := by
  rcases h with h | h
  · rw [h]; rfl
  · rw [decide_eq_false (by omega), Bool.and_false]

section Requests
variable {s : State} {n : Nat} {q : Req} {mt : Site} {l : Leaf} {x : State}

/-- An enter that the host does not refuse. -/
theorem umbraEnter_of {key seq : W32} {slot : Fin 4} {keys : List W32} (hb : q.body = .umen key seq slot keys)
    (hat : ∀ g, s.atHost n g = (g q mt l x).getD s) (hr : (x.mtLeaf mt l).refuses key seq = false) :
    exec (.umbraEnterAtHost n) s = .next (x.enterKey mt l q key seq keys) := by
  change execUmbraEnterAtHost n s = _
  rw [execUmbraEnterAtHost, hat]
  simp only [hb, hr, Bool.false_eq_true, if_false, Option.getD_some]

/-- An enter that the host refuses. -/
theorem umbraEnter_refused {key seq : W32} {slot : Fin 4} {keys : List W32} (hb : q.body = .umen key seq slot keys)
    (hat : ∀ g, s.atHost n g = (g q mt l x).getD s) (hr : (x.mtLeaf mt l).refuses key seq = true) :
    exec (.umbraEnterAtHost n) s = .next (x.refuse q) := by
  change execUmbraEnterAtHost n s = _
  rw [execUmbraEnterAtHost, hat]
  simp only [hb, hr, if_true, Option.getD_some]

/-- A leave at a host in service. -/
theorem umbraLeave_of {key : W32} {p : Bool} (hb : q.body = if p then .umabt key else .umlv key)
    (hat : ∀ g, s.atHost n g = (g q mt l x).getD s) (hs : x.stashed q.src.part mt l = false)
    (hr : (x.mtLeaf mt l).hasKey key = true ∨ (x.mtLeaf mt l).keys.length < 2048) :
    exec (.umbraLeaveAtHost n) s = .next (x.advanceKey q.src.part mt l { (x.mtLeaf mt l).keyRec key with
      holder := none, poison := ((x.mtLeaf mt l).keyRec key).poison || p }) := by
  change execUmbraLeaveAtHost n s = _
  rw [execUmbraLeaveAtHost, hat]
  cases p <;>
    simp only [hb, Bool.false_eq_true, if_true, if_false, MtLeaf.no_record_needed hr, Option.getD_some,
      State.leaveKey_of_not_stashed hs]

/-- A skip that the host does not refuse. -/
theorem umbraSkip_of {key seq : W32} (hb : q.body = .umsk key seq)
    (hat : ∀ g, s.atHost n g = (g q mt l x).getD s) (hr : (x.mtLeaf mt l).refuses key seq = false) :
    exec (.umbraSkipAtHost n) s = .next (x.skipKey mt l q key seq) := by
  change execUmbraSkipAtHost n s = _
  rw [execUmbraSkipAtHost, hat]
  simp only [hb, hr, Bool.false_eq_true, if_false, Option.getD_some]

/-- An init sets EXP of a key that nobody holds, waits for or has skipped. -/
theorem umbraInit_of {key seq : W32} (hb : q.body = .umini key seq)
    (hat : ∀ g, s.atHost n g = (g q mt l x).getD s)
    (hr : (x.mtLeaf mt l).hasKey key = true ∨ (x.mtLeaf mt l).keys.length < 2048) :
    let r := (x.mtLeaf mt l).keyRec key
    r.holder = none → r.waiters = [] → r.skips = [] →
    exec (.umbraInitAtHost n) s = .next (x.onMtLeaf mt l (fun f => f.setKey { r with exp := seq, poison := false })) := by
  intro r hh hw hs
  have hroom : (!(x.mtLeaf mt l).hasKey key && seq != 0 && decide (2048 ≤ (x.mtLeaf mt l).keys.length)) = false := by
    rw [Bool.and_right_comm, MtLeaf.no_record_needed hr, Bool.false_and]
  have hfree : ¬ (r.holder.isSome ∨ !r.waiters.isEmpty ∨ !r.skips.isEmpty) := by
    simp [hh, hw, hs]
  change execUmbraInitAtHost n s = _
  rw [execUmbraInitAtHost, hat]
  simp only [hb, hroom, Bool.false_eq_true, if_false, Option.getD_some, State.initKey, r] at hfree ⊢
  simp only [hfree, if_false]

end Requests

/-! ## Refused requests, grants, stalls and the marker -/

/-- The head of the first list of a tile that can be sent again is the one that is sent. -/
theorem State.retryHead_of {s : State} {mt t : Site} {l : Leaf} {q0 : Req} {rest : List Req}
    (h : (s.mt mt).refused.get (refusedKey t l) [] = q0 :: rest) (hc : s.canRetry mt q0 = true)
    (hlt : ∀ j < l, ∀ q1 ∈ ((s.mt mt).refused.get (refusedKey t j) []).head?, s.canRetry mt q1 = false) :
    s.retryHead mt t = some (q0, refusedKey t l, rest) := by
  have hfin : List.finRange 2 = [(0 : Leaf), 1] := by decide
  rw [State.retryHead, hfin]
  match l with
  | 0 => simp only [List.findSome?_cons, h, hc, if_true]
  | 1 =>
    have h0 := hlt 0 (by decide)
    cases hz : (s.mt mt).refused.get (refusedKey t 0) [] with
    | nil => simp only [List.findSome?_cons, hz, h, hc, if_true]
    | cons q1 r1 =>
      have h1 := h0 q1 (by rw [hz]; rfl)
      simp only [List.findSome?_cons, hz, h1, h, hc, Bool.false_eq_true, if_true, if_false]

/-- The oldest request of a home memory tile, by the heads of its lists. -/
theorem State.oldestRefused_of {s : State} {mt : Site} {q0 : Req}
    (h : ∀ r ∈ (s.mt mt).refused, ∀ q1 ∈ r.2.head?, q0.id ≤ q1.id ∨ s.canRetry mt q1 = false) :
    s.oldestRefused mt q0 = true := by
  refine List.all_eq_true.2 fun p hp => ?_
  have hq := h p hp
  split
  · rfl
  next x _ hx =>
    rw [hx] at hq
    rcases hq x rfl with hid | hc
    · rw [decide_eq_true hid, Bool.true_or]
    · rw [hc, Bool.not_false, Bool.or_true]

section Retry
variable {s : State} {mt t : Site} {q0 : Req} {kk : Nat} {rest : List Req} {e : W32}

/-- The oldest refused request goes out again, once a cycle. -/
theorem umbraRefusalRetry_sends (hh : s.retryHead mt t = some (q0, kk, rest))
    (he : s.umhostOf t q0.src.leaf q0.body.flta = some e) (ho : s.oldestRefused mt q0 = true)
    (hu : s.usedNow mt (s.mt mt).last.retry = false) :
    exec (.umbraRefusalRetry mt t) s = .next (((s.onMt mt (fun m => { m with refused := m.refused.set kk rest })).uses mt
      (fun y k => { y with retry := k })).fly q0 (.umbra (umhostSite e))) := by
  change execUmbraRefusalRetry mt t s = _
  simp only [execUmbraRefusalRetry, hh, he, ho, hu, Bool.not_true, Bool.or_self, Bool.false_eq_true, if_false]

/-- A younger request waits, as does one behind a request sent in this cycle. -/
theorem umbraRefusalRetry_waits (hh : s.retryHead mt t = some (q0, kk, rest))
    (he : s.umhostOf t q0.src.leaf q0.body.flta = some e)
    (hw : s.oldestRefused mt q0 = false ∨ s.usedNow mt (s.mt mt).last.retry = true) :
    exec (.umbraRefusalRetry mt t) s = .next s := by
  have hc : (!s.oldestRefused mt q0 || s.usedNow mt (s.mt mt).last.retry) = true := by
    rcases hw with h | h <;> simp [h]
  change execUmbraRefusalRetry mt t s = _
  simp only [execUmbraRefusalRetry, hh, he, hc, if_true]

end Retry

/-- A grant reaches the bank that waits for it. -/
theorem umbraGrantArrival_lands {s : State} {n : Nat} {g : Grant} {w : GrantWait} (hg : s.grants[n]? = some g)
    (hh : g.held = false) (ha : s.away g.src.tile g.src.leaf = false) (hr : s.recordsNow g.src.tile g.src.leaf = false)
    (hw : (s.bank g.src.tile g.src.leaf g.src.bank).umWait = some w) (hk : w.key = g.key) (hq : w.seq = g.seq) :
    exec (.umbraGrantArrival n) s = .next (({ s with grants := s.grants.eraseIdx n } : State).onBank g.src.tile g.src.leaf
      g.src.bank (fun k => k.granted w.slot g)) := by
  change execUmbraGrantArrival n s = _
  simp only [execUmbraGrantArrival, hg, hh, ha, hr, hw, hk, hq, Bool.false_eq_true, or_self, and_self, if_true, if_false]

/-- A probe reads whether the holder waits for a key that the new waiter holds. -/
theorem deadlockProbeAnswer_reads {s : State} {n : Nat} {p : Probe} (hp : s.probes[n]? = some p) (ha : p.answer = none) :
    exec (.deadlockProbeAnswer n) s = .next { s with probes := s.probes.set n { p with
      answer := some (match (s.bank p.who.tile p.who.leaf p.who.bank).umWait with
        | some w => p.keys.contains w.key
        | none => false) } } := by
  change execDeadlockProbeAnswer n s = _
  simp only [execDeadlockProbeAnswer, hp, ha] <;> rfl

/-- A host marks its leaf behind every request of the partition. -/
theorem umbraHostMarker_marks {s : State} {mt : Site} {l : Leaf} (ho : s.swappingOut (s.mtLeaf mt l).part = true)
    (hs : s.tilesSaved (s.mtLeaf mt l).part = true)
    (hf : s.flight.any (fun f => f.target == .umbra mt && f.req.src.part == (s.mtLeaf mt l).part) = false)
    (hq : s.memTiles.any (fun m => m.2.queues.any (fun q => q.2.any (fun r => r.src.part == (s.mtLeaf mt l).part))) = false) :
    exec (.umbraHostMarker mt l) s = .next (s.onMtLeaf mt l (fun f => { f with marked := true })) := by
  change execUmbraHostMarker mt l s = _
  simp only [execUmbraHostMarker, ho, hs, hf, hq, Bool.not_false, Bool.and_self, if_true]

/-- A waiter that has waited LIMIT cycles is reported with the next SERIAL. -/
theorem umbstall_reports {s : State} {mt : Site} {l : Leaf} {key seq : W32} {w : Waiter}
    (h0 : (s.mtLeaf mt l).umblim.toNat ≠ 0)
    (hw : ((s.mtLeaf mt l).keyRec key).waiters.find? (fun w => w.seq == seq && !w.reported &&
      decide ((s.mtLeaf mt l).umblim.toNat ≤ w.age)) = some w) :
    ∃ u, exec (.umbstall mt l key seq) s = .next u ∧ u.grants = s.grants ∧ u.tiles = s.tiles ∧ u.mem = s.mem ∧
      (u.noticeQ (siteDie mt) w.src.part).serial = (s.noticeQ (siteDie mt) w.src.part).serial + 1 := by
  have hst : ∀ w : Waiter, (w.seq == seq && w.stalled (s.mtLeaf mt l).umblim.toNat) =
      (w.seq == seq && !w.reported && decide ((s.mtLeaf mt l).umblim.toNat ≤ w.age)) := fun w => by
    rw [Waiter.stalled, bne_iff_ne.2 h0, Bool.and_true, Bool.and_assoc]
  change ∃ u, execUmbstall mt l key seq s = .next u ∧ _
  simp only [execUmbstall, hst, hw]
  refine ⟨_, rfl, rfl, rfl, rfl, ?_⟩
  rw [State.notify, State.noticeQ_onNotice]
  rfl

/-- Settles O53: the queue of a host by the bodies of its requests, and what an advance leaves of the record of a key. -/
theorem umbraHostEvents : Obligations.UmbraHostEvents := by
  refine ⟨?_, ?_⟩
  · intro s n f mt t l key seq slot keys g w q0 rest e v p kk q x host r put waits k k1
    refine ⟨fun hf hfirst ht hfen hp hl => ⟨fun hu => ?_, fun hu hst => ?_⟩,
      fun hg hh ha hr hw hk hq => umbraGrantArrival_lands hg hh ha hr hw hk hq, State.retryHead_of,
      fun hh he => ⟨fun ho hu => umbraRefusalRetry_sends hh he (State.oldestRefused_of ho) hu, umbraRefusalRetry_waits hh he⟩,
      fun hh => if_pos hh, deadlockProbeAnswer_reads, umbraHostMarker_marks⟩
    · have hat := fun g => State.atHost_used (g := g) hf ht hfen hu
      exact ⟨congrArg _ (hat _), congrArg _ (hat _), congrArg _ (hat _), congrArg _ (hat _)⟩
    · have hat : ∀ g, s.atHost n g = (g q mt l x).getD s := fun _ => State.atHost_first hf ht hfirst hfen hp hl hu
      have hx : x.stashed q.src.part mt l = false := hst
      refine ⟨fun hb hr => ⟨fun hpa hta hs => ?_, fun hpa hta hs => ?_, fun hpa => ?_⟩,
        fun hb hr => umbraEnter_refused hb hat hr, fun hb hk => ?_, fun hb hk => ?_, fun hb hr hpa hta hs => ?_,
        fun hb hr hpa hta hs => ?_, fun hb hk hh hw hs => umbraInit_of hb hat hk hh hw hs⟩
      · rw [umbraEnter_of hb hat hr, State.enterKey]
        simp only [r, host] at hpa hta hs
        simp only [hpa, hta, if_pos hs, Bool.false_eq_true, if_false]
        rfl
      · rw [umbraEnter_of hb hat hr, State.enterKey]
        simp only [r, host] at hpa hta hs
        simp only [hpa, hta, hs, Bool.false_eq_true, if_false]
        rfl
      · rw [umbraEnter_of hb hat hr, State.enterKey]
        simp only [r, host] at hpa
        simp only [hpa, if_true]
      · have he := umbraLeave_of (p := false) hb hat hx hk
        rwa [Bool.or_false] at he
      · have he := umbraLeave_of (p := true) hb hat hx hk
        rwa [Bool.or_true] at he
      · rw [umbraSkip_of hb hat hr, State.skipKey]
        simp only [r, host] at hpa hta hs
        simp only [hpa, hta, hs, Bool.false_eq_true, if_false]
        rfl
      · rw [umbraSkip_of hb hat hr, State.skipKey]
        simp only [r, host] at hpa hta hs
        simp only [hpa, hta, if_pos hs, Bool.false_eq_true, if_false]
        rfl
  · intro r k slot g s mt l key seq w limit h
    obtain ⟨hexp, hskips, hpoison, hkey⟩ := r.advance_fields
    obtain ⟨-, -, hw, hh⟩ := KeyRec.passSkips_keeps r.skips.length { r with exp := r.exp + 1 }
    refine ⟨fun hs => ?_, fun hs => ?_, fun hn => ?_, fun hsome => ?_, hpoison, hkey, rfl, ?_, fun hp => ?_,
      umbstall_reports⟩
    · rw [hexp, KeyRec.moved_nil hs]
    · rw [hexp, hskips, KeyRec.moved_skip hs]
      exact ⟨rfl, rfl⟩
    · rw [KeyRec.advance_none hn]
      exact ⟨hw, hh⟩
    · obtain ⟨hfind, heq⟩ := KeyRec.advance_some hsome
      have hseq : w.seq = r.moved.exp := eq_of_beq (List.find?_some (p := fun w : Waiter => w.seq == r.moved.exp) hfind)
      refine ⟨List.mem_of_find?_eq_some hfind, hseq.trans hexp.symm, by rw [heq]; rfl, fun hmem => ?_⟩
      rw [heq] at hmem
      have := (List.mem_filter.1 hmem).2
      simp at this
    · simp [Bank.granted]
    · simp [Bank.granted, hp]

end Sys2Proof.Machine
end

section
/-!
SUPPORT. Register writes of the host and the control cores (O58).
-/
namespace Sys2Proof.Machine

/-! ## The control cores of the dies of a mask -/

/-- The dies of a mask are those of its bits. -/
theorem mem_maskDies {m : BitVec 4} {d : DieId} : d ∈ maskDies m ↔ m.getLsbD d.val = true := by
  simp [maskDies]

/-- One change of the four cores of a die, where a second one adds nothing. -/
theorem State.cores_foldl_coreOf {f : Core → Core} (hf : ∀ c, f (f c) = f c) (d : DieId) (k : CoreId) (s : State) :
    ((List.finRange 4).foldl (fun y j => y.onCore (coreOf d j) f) s).cores[k] =
      if coreDie k = d then f s.cores[k] else s.cores[k] := by
  rw [← List.foldl_map (f := coreOf d) (g := fun (y : State) j => y.onCore j f), State.cores_foldl_onCore hf]
  simp only [mem_coresOf]

/-- A change of the cores of a die leaves another field of the state. -/
theorem State.foldl_onCore_keeps {α : Type} (fld : State → α) (h : ∀ (s : State) j f, fld (s.onCore j f) = fld s)
    (d : DieId) (f : Core → Core) (s : State) :
    fld ((List.finRange 4).foldl (fun y j => y.onCore (coreOf d j) f) s) = fld s :=
  State.foldl_keeps fld (fun _ _ => h _ _ _) _ s

/-! ## FENCE -/

/-- A core that is held for good. -/
def Core.halt (c : Core) : Core := { c with halted := true }

/-- The cores of fenced dies halt, one die after another. -/
theorem State.cores_foldl_halt (k : CoreId) (ds : List DieId) : ∀ s : State,
    (ds.foldl (fun x d => (List.finRange 4).foldl (fun y j => y.onCore (coreOf d j) Core.halt) x) s).cores[k] =
      if coreDie k ∈ ds then s.cores[k].halt else s.cores[k] := by
  induction ds with
  | nil => exact fun s => rfl
  | cons d r ih =>
    intro s
    rw [List.foldl_cons, ih, State.cores_foldl_coreOf (f := Core.halt) (fun _ => rfl)]
    by_cases hd : coreDie k = d <;> by_cases hr : coreDie k ∈ r <;> simp [hd, hr, Core.halt]

/-- The halt of the cores of fenced dies leaves another field of the state. -/
theorem State.foldl_halt_keeps {α : Type} (fld : State → α) (h : ∀ (s : State) j f, fld (s.onCore j f) = fld s)
    (ds : List DieId) (s : State) :
    fld (ds.foldl (fun x d => (List.finRange 4).foldl (fun y j => y.onCore (coreOf d j) Core.halt) x) s) = fld s :=
  State.foldl_keeps fld (fun _ _ => State.foldl_onCore_keeps fld h _ _ _) _ s

/-- The state after new bits of FENCE. -/
theorem State.writeFence_new {s : State} {v : W32} (h : v.extractLsb' 0 4 &&& ~~~s.host.fence ≠ 0) :
    s.writeFence v =
      let new := v.extractLsb' 0 4 &&& ~~~s.host.fence
      let s2 := (maskDies new).foldl (fun x d => (List.finRange 4).foldl (fun y j => y.onCore (coreOf d j) Core.halt) x)
        (s.onHost (fun h => { h with fence := h.fence ||| v.extractLsb' 0 4 }))
      { s2 with election := true, dies := s2.dies.map (fun d => { d with live := d.live &&& ~~~new }) } :=
  if_neg h

/-- Bits that stand already change nothing. -/
theorem fence_or_of_old {a b : BitVec 4} (h : b &&& ~~~a = 0) : a = a ||| b := by
  revert a b; decide

/-- A bit of the new ones is one of the mask on a die that is not fenced. -/
theorem getLsbD_newFence (a : BitVec 4) (v : W32) (d : DieId) :
    (v.extractLsb' 0 4 &&& ~~~a).getLsbD d.val = (v.getLsbD d.val && !a.getLsbD d.val) := by
  have hd : d.val < 4 := d.isLt
  simp [hd]

/-- What a write of FENCE does. -/
theorem State.writeFence_spec (s : State) (v : W32) :
    (s.writeFence v).host.fence = s.host.fence ||| v.extractLsb' 0 4 ∧
      (∀ k : CoreId, (s.writeFence v).cores[k] =
        if v.getLsbD (coreDie k).val = true ∧ s.fenced (coreDie k) = false then s.cores[k].halt else s.cores[k]) ∧
      (s.writeFence v).mem = s.mem ∧ (s.writeFence v).tiles = s.tiles := by
  have hmem : ∀ k : CoreId, coreDie k ∈ maskDies (v.extractLsb' 0 4 &&& ~~~s.host.fence) ↔
      v.getLsbD (coreDie k).val = true ∧ s.fenced (coreDie k) = false := fun k => by
    rw [mem_maskDies, getLsbD_newFence, Bool.and_eq_true_iff, Bool.not_eq_true', State.fenced]
  by_cases h : v.extractLsb' 0 4 &&& ~~~s.host.fence = 0
  · have hs : s.writeFence v = s := if_pos h
    rw [hs]
    refine ⟨fence_or_of_old h, fun k => ?_, rfl, rfl⟩
    rw [if_neg fun hk => ?_]
    have := mem_maskDies.1 ((hmem k).2 hk)
    rw [h] at this
    simp at this
  · rw [State.writeFence_new h]
    refine ⟨congrArg HostRegs.fence (State.foldl_halt_keeps State.host (fun _ _ _ => rfl) _ _), fun k => ?_,
      State.foldl_halt_keeps State.mem (fun _ _ _ => rfl) _ _, State.foldl_halt_keeps State.tiles (fun _ _ _ => rfl) _ _⟩
    refine (State.cores_foldl_halt k _ _).trans ?_
    simp only [hmem]
    rfl

/-! ## DIERST -/

/-- The cores of a die that is reset are as after a reset, the others as they were. -/
theorem State.cores_resetCores (s : State) (d : DieId) (k : CoreId) :
    (s.resetCores d).cores[k] = if coreDie k = d then {} else s.cores[k] :=
  State.cores_foldl_coreOf (f := fun _ => {}) (fun _ => rfl) d k s

/-- A reset of the cores of a die leaves the rest of the machine. -/
theorem State.resetCores_keeps (s : State) (d : DieId) :
    (s.resetCores d).host = s.host ∧ (s.resetCores d).mem = s.mem ∧ (s.resetCores d).tiles = s.tiles ∧
      (s.resetCores d).swaps = s.swaps := by
  simp only [State.resetCores, State.onDie]
  exact ⟨State.foldl_onCore_keeps State.host (fun _ _ _ => rfl) _ _ _,
    State.foldl_onCore_keeps State.mem (fun _ _ _ => rfl) _ _ _,
    State.foldl_onCore_keeps State.tiles (fun _ _ _ => rfl) _ _ _,
    State.foldl_onCore_keeps State.swaps (fun _ _ _ => rfl) _ _ _⟩

/-- The reset of dies, one after another; a fenced one is left out. -/
theorem State.foldl_resetCores (ds : List DieId) : ∀ s : State,
    let u := ds.foldl (fun x d => if x.fenced d then x else x.resetCores d) s
    (∀ k : CoreId, u.cores[k] = if coreDie k ∈ ds ∧ s.fenced (coreDie k) = false then {} else s.cores[k]) ∧
      u.mem = s.mem ∧ u.tiles = s.tiles ∧ u.swaps = s.swaps := by
  induction ds with
  | nil => exact fun s => ⟨fun k => (if_neg (by simp)).symm, rfl, rfl, rfl⟩
  | cons d r ih =>
    intro s
    rw [List.foldl_cons]
    cases hd : s.fenced d with
    | true =>
      obtain ⟨hc, hrest⟩ := ih s
      refine ⟨fun k => ?_, hrest⟩
      rw [if_pos rfl, hc k]
      by_cases hk : coreDie k = d
      · rw [hk, hd]; simp
      · simp [hk]
    | false =>
      obtain ⟨hc, hm, ht, hw⟩ := ih (s.resetCores d)
      obtain ⟨hh, hm1, ht1, hw1⟩ := s.resetCores_keeps d
      have hfen : ∀ e, (s.resetCores d).fenced e = s.fenced e := fun e => by rw [State.fenced, hh, State.fenced]
      rw [if_neg (by simp)]
      refine ⟨fun k => ?_, hm.trans hm1, ht.trans ht1, hw.trans hw1⟩
      rw [hc k, hfen, State.cores_resetCores]
      by_cases hk : coreDie k = d
      · simp [hk, hd]
      · simp [hk]

/-! ## DOORBELL and the launch window -/

/-- A doorbell raises the event bit of the cores that it names. -/
theorem State.cores_foldl_doorbell (v : W32) (k : CoreId) (ks : List CoreId) : ∀ s : State,
    (ks.foldl (fun x j => if v.getLsbD j.val then x.onCore j (fun c => c.raise 1) else x) s).cores[k].evpend =
      s.cores[k].evpend ||| (if k ∈ ks ∧ v.getLsbD k.val = true then 2 else 0) := by
  induction ks with
  | nil => exact fun s => by simp
  | cons j r ih =>
    intro s
    rw [List.foldl_cons, ih]
    by_cases hk : k = j
    · subst hk
      cases hv : v.getLsbD k.val
      · simp
      · by_cases hr : k ∈ r <;> simp [hr, Core.raise, BitVec.or_assoc]
    · cases hv : v.getLsbD j.val
      · simp [hk]
      · simp only [if_true, s.cores_onCore_ne j k _ hk, List.mem_cons, hk, false_or]

/-- The launch window answers with the state after `z` while BAR2 is up and the offset is in it. -/
theorem execLaunchWindowWrite_up {s : State} {off : Nat} {v : W32} (hup : s.barsUp = true) (ho : off < 131072)
    (hj : off % 32 / 4 ≤ 4) :
    exec (.launchWindowWrite off v) s = .next (if s.election then s.onHost (fun h => { h with held := h.held ++ [(off, v)] })
      else s.writeEntry (off / 32) (off % 32 / 4) v) := by
  have hn : ¬ ((!s.barsUp) = true ∨ 131072 ≤ off ∨ 4 < off % 32 / 4) := by
    rw [hup]
    rintro (h | h | h)
    · exact absurd h (by decide)
    · omega
    · omega
  change execLaunchWindowWrite off v s = _
  rw [execLaunchWindowWrite, if_neg hn]
  split <;> rfl

/-- Whether PWR must refuse a target. -/
theorem pwr_refuses_iff (s : State) (t : BitVec 2) :
    (s.host.busy || (decide (2 ≤ t.toNat) && s.anyRunning)) = true ↔
      s.host.busy = true ∨ (2 ≤ t.toNat ∧ s.launches ≠ []) := by
  simp [State.anyRunning]

/-- Settles O58: each write by the table of its register, and the cores of the named dies by induction on the dies. -/
theorem hostRegisterEvents : Obligations.HostRegisterEvents := by
  intro s s1 v64 sel v k d part num off temp w named
  refine ⟨rfl, fun h => if_pos h, rfl, fun h => ?_, rfl, rfl, fun hup he ho hj => ?_, fun hup he ho hj => ?_,
    ⟨_, rfl, fun k => ?_, ?_⟩, fun hb ht => ?_, fun hr => ?_, ⟨_, rfl, ?_⟩, ⟨_, rfl, ?_⟩, fun hb => ?_, fun hb => ?_,
    fun hb => ?_, rfl⟩
  · change execRegisterWrite (.tileState sel) v64 s = _
    simp only [execRegisterWrite, h]
  · rw [execLaunchWindowWrite_up hup ho hj, if_neg (by simp [he])]
  · rw [execLaunchWindowWrite_up hup ho hj, if_pos he]; rfl
  · refine (State.cores_foldl_doorbell v k _ s).trans ?_
    simp only [List.mem_finRange, true_and]
  · exact State.foldl_keeps State.mem (fun x j => by split <;> rfl) _ s
  · refine congrArg _ (if_neg fun h => ?_)
    rcases (pwr_refuses_iff s _).1 h with h | ⟨h2, h0⟩
    · exact Bool.false_ne_true (hb.symm.trans h)
    · exact ht.elim (fun h => by omega) h0
  · exact congrArg _ (if_pos ((pwr_refuses_iff s _).2 hr))
  · obtain ⟨hf, hc, hm, ht⟩ := s.writeFence_spec v
    refine ⟨hf, fun k hk hfen => ?_, fun k hk => ?_, hm, ht⟩
    · rw [hc, if_pos ⟨hk, hfen⟩]; rfl
    · rw [hc, if_neg (by simp [hk])]
  · obtain ⟨hc, hrest⟩ := State.foldl_resetCores (maskDies (v.extractLsb' 0 4)) s
    refine ⟨fun k => (hc k).trans ?_, hrest⟩
    have hd : (coreDie k).val < 4 := (coreDie k).isLt
    have hmem : coreDie k ∈ maskDies (v.extractLsb' 0 4) ↔ v.getLsbD (coreDie k).val = true := by
      rw [mem_maskDies]; simp [hd]
    simp only [hmem]
  · change Host.Outcome.next (s.onHost _) = _
    simp only [State.onHost, hb, Bool.false_eq_true, if_false]
  · change Host.Outcome.next (s.onHost _) = _
    simp only [State.onHost, hb, if_true]
  · refine congrArg _ (if_pos ?_)
    rw [hb]; rfl

end Sys2Proof.Machine
end

section
/-!
SUPPORT. Launches, index tokens, graph starts and ends, and elections (O55).
-/
namespace Sys2Proof.Machine

/-! ## A context after changes of some contexts -/

section Contexts
variable {Q : LeafCtx → Prop} {f : LeafCtx → LeafCtx} {t u : Site} {l m : Leaf}

/-- What a change of a context keeps holds of every context after it. -/
theorem State.keeps_onCtx (s : State) (hf : ∀ c, Q c → Q (f c)) (h : Q (s.ctx u m)) : Q ((s.onCtx t l f).ctx u m) := by
  by_cases hu : u = t
  · subst hu
    by_cases hm : m = l
    · subst hm
      rw [State.ctx_onCtx]
      exact hf _ h
    · rwa [State.ctx_onCtx_ne _ _ _ _ _ hm]
  · rwa [State.ctx_onCtx_ne_tile _ _ _ _ _ _ hu]

/-- What a change of the contexts of a list brings about holds of each of them. -/
theorem State.holds_foldl_onCtx (hf : ∀ c, Q (f c)) {ts : List (Site × Leaf)} {t : Site × Leaf} (ht : t ∈ ts) (s : State) :
    Q ((ts.foldl (fun y t => y.onCtx t.1 t.2 f) s).ctx t.1 t.2) := by
  induction ts generalizing s with
  | nil => cases ht
  | cons a r ih =>
    rw [List.foldl_cons]
    by_cases hr : t ∈ r
    · exact ih hr _
    · obtain rfl := (List.mem_cons.1 ht).resolve_right hr
      refine List.foldlRecOn (motive := fun y : State => Q (y.ctx t.1 t.2)) r _ ?_ (fun y hy p _ => y.keeps_onCtx (fun c _ => hf c) hy)
      rw [State.ctx_onCtx]
      exact hf _

end Contexts

/-! ## The channels of a graph at its start -/

/-- An input channel that no token has come to since its load. -/
def InCh.Loaded (c : InCh) : Prop := c.h = 0 ∧ c.f = 0 ∧ c.q = 0 ∧ c.rn = 0 ∧ c.port = []

/-- An output channel that has all its slots and has published nothing since its load. -/
def OutCh.Loaded (c : OutCh) : Prop := c.w = 0 ∧ c.e = c.depth ∧ c.closed = false ∧ c.outq = []

/-- The channels of a context are at their load values. -/
def LeafCtx.Loaded (c : LeafCtx) : Prop := ∀ ch : Fin 8, c.inp[ch].Loaded ∧ c.outp[ch].Loaded

theorem LeafCtx.loaded_atLoad (c : LeafCtx) :
    ({ c with inp := c.inp.map InCh.atLoad, outp := c.outp.map OutCh.atLoad } : LeafCtx).Loaded := by
  intro ch
  simp only [Fin.getElem_fin, Vector.getElem_map]
  exact ⟨⟨rfl, rfl, rfl, rfl, rfl⟩, rfl, rfl, rfl, rfl⟩

/-- A new producer of an input channel leaves it at its load values. -/
theorem LeafCtx.loaded_bind {c : LeafCtx} (h : c.Loaded) (k : Fin 8) (p : Producer) :
    ({ c with inp := c.inp.set k { c.inp[k] with prod := p } } : LeafCtx).Loaded := by
  intro ch
  refine ⟨?_, (h ch).2⟩
  by_cases hk : k = ch
  · subst hk
    simpa [InCh.Loaded] using (h k).1
  · have hne : k.val ≠ ch.val := fun e => hk (Fin.ext e)
    simpa [Vector.getElem_set_ne, hne] using (h ch).1

theorem LeafCtx.loaded_onIn {c : LeafCtx} (h : c.Loaded) (k : BitVec 3) (p : Producer) :
    (c.onIn k (fun i => { i with prod := p })).Loaded :=
  LeafCtx.loaded_bind h k.toFin p

theorem State.loaded_channelsAtLoad (s : State) (gi : Nat) (g : Graph) {t : Site × Leaf} (ht : t ∈ g.tiles) :
    ((s.channelsAtLoad gi g).ctx t.1 t.2).Loaded := by
  unfold State.channelsAtLoad
  have htiles := State.foldl_keeps State.tiles (f := fun (y : State) (m : Site × Leaf) => y.onMt m.1 (fun z =>
    { z with ebuf := z.ebuf.set m.2 (z.ebuf[m.2].map (fun b => if b.graph = gi then b.atLoad else b)) })) (fun _ _ => rfl) g.mts
  simp only [State.ctx, State.tile, htiles]
  exact State.holds_foldl_onCtx LeafCtx.loaded_atLoad ht s

theorem State.loaded_startElastic {s : State} (g : Graph) {t : Site} {l : Leaf} (h : (s.ctx t l).Loaded) :
    ((s.startElastic g).ctx t l).Loaded := by
  unfold State.startElastic
  refine List.foldlRecOn (motive := fun y : State => (y.ctx t l).Loaded) _ _ h (fun y hy d _ => ?_)
  refine List.foldlRecOn (motive := fun y : State => (y.ctx t l).Loaded) _ _ hy (fun z hz e _ => ?_)
  dsimp only
  split
  · refine List.foldlRecOn (motive := fun y : State => (y.ctx t l).Loaded) _ _ hz (fun w hw p _ => ?_)
    exact w.keeps_onCtx (Q := LeafCtx.Loaded) (fun c hc => LeafCtx.loaded_onIn hc _ _) hw
  · exact hz

/-! ## The start of a graph -/

/-- The launches are none of what an access changes on its way. -/
theorem State.Passed.launches {s t : State} (h : s.Passed t) : t.launches = s.launches := by
  obtain ⟨hbeside, -⟩ := h
  exact (congrArg State.launches hbeside :)

section
variable (s : State)

@[simp] theorem State.onMtLeaf_launches (mt : Site) (l : Leaf) (f : MtLeaf → MtLeaf) :
    (s.onMtLeaf mt l f).launches = s.launches := rfl

theorem State.launches_touchPage (pa : Nat) (write : Bool) : (s.touchPage pa write).launches = s.launches := by
  unfold State.touchPage
  exact State.foldl_keeps State.launches (fun x _ => (x.passed_touch _ _).launches) _ s

theorem State.launches_fillPage (mt : Site) (l : Leaf) (ct : BitVec 2) (va : Nat) :
    (s.fillPage mt l ct va).launches = s.launches := by
  unfold State.fillPage
  split
  · rfl
  · rw [State.onMtLeaf_launches, State.launches_touchPage]

theorem State.launches_fillOwners (g : Graph) : (s.fillOwners g).launches = s.launches := by
  unfold State.fillOwners
  refine State.foldl_keeps State.launches (fun x m => ?_) g.mts s
  refine (State.foldl_keeps State.launches (fun y e => ?_) _ _).trans rfl
  exact State.foldl_keeps State.launches (fun z va => z.launches_fillPage _ _ _ _) _ y

theorem State.launches_channelsAtLoad (gi : Nat) (g : Graph) : (s.channelsAtLoad gi g).launches = s.launches := by
  unfold State.channelsAtLoad
  refine (State.foldl_keeps State.launches (fun _ _ => ?_) _ _).trans
    (State.foldl_keeps State.launches (fun _ _ => ?_) _ _) <;> rfl

theorem State.launches_startElastic (g : Graph) : (s.startElastic g).launches = s.launches := by
  unfold State.startElastic
  refine State.foldl_keeps State.launches (fun y d => State.foldl_keeps State.launches (fun z e => ?_) _ y) _ s
  dsimp only
  split
  · refine (State.foldl_keeps State.launches (fun _ _ => ?_) _ _).trans ?_ <;> rfl
  · rfl

theorem State.launches_bindFeeders (n : Nat) (fs : List Feeder) : (s.bindFeeders n fs).launches = s.launches := by
  unfold State.bindFeeders
  refine State.foldl_keeps State.launches (fun _ _ => ?_) _ s
  rfl

end

/-- The channels of the graph at their load values, before its feeders are bound. -/
def State.atStart (s : State) (x : Start) (gi : Nat) (g : Graph) : State :=
  (((s.fillOwners g).dropReleases gi g x.slot).channelsAtLoad gi g).startElastic g

/-- The banks of the graph with the depth of its launch. -/
def State.atDepth (s : State) (x : Start) (gi : Nat) (g : Graph) : State :=
  g.tiles.foldl (fun y t =>
    y.onCtx t.1 t.2 (fun c => { c with banks := c.banks.map (fun b => { b with gdepth := x.depth }) })) (s.atStart x gi g)

/-- The launch that a start adds. -/
def State.newLaunch (s : State) (x : Start) (gi : Nat) (g : Graph) : Launch :=
  { slot := x.slot, graph := gi, depth := x.depth, feeders := (s.atStart x gi g).feedersOf g x, reports := s.host.fence }

/-- The start of a graph whose owned pages are good. -/
theorem State.startGraph_good {s : State} {x : Start} {gi : Nat} {g : Graph} (h : s.ownersBad g.mts = none) :
    let y := (s.atDepth x gi g).bindFeeders x.slot (s.newLaunch x gi g).feeders
    s.startGraph x gi g = { y with launches := y.launches ++ [s.newLaunch x gi g] } := by
  rw [State.startGraph, h]
  rfl

theorem State.launches_atDepth (s : State) (x : Start) (gi : Nat) (g : Graph) : (s.atDepth x gi g).launches = s.launches := by
  unfold State.atDepth
  refine (State.foldl_keeps State.launches (fun _ _ => ?_) _ _).trans ?_
  · rfl
  · rw [State.atStart, State.launches_startElastic, State.launches_channelsAtLoad, State.dropReleases]
    exact s.launches_fillOwners g

/-- The context of a tile of a graph that starts: its launch depth, and its channels at their load values. -/
theorem State.ctx_atDepth (s : State) (x : Start) (gi : Nat) (g : Graph) {t : Site × Leaf} (ht : t ∈ g.tiles) :
    (∀ b : BankId, ((s.atDepth x gi g).ctx t.1 t.2).banks[b].gdepth = x.depth) ∧ ((s.atDepth x gi g).ctx t.1 t.2).Loaded := by
  constructor
  · refine State.holds_foldl_onCtx (Q := fun c => ∀ b : BankId, c.banks[b].gdepth = x.depth) (fun c b => ?_) ht _
    simp
  · refine List.foldlRecOn (motive := fun y : State => (y.ctx t.1 t.2).Loaded) _ _
      (State.loaded_startElastic g (State.loaded_channelsAtLoad _ gi g ht)) (fun y hy p _ => ?_)
    exact y.keeps_onCtx (Q := LeafCtx.Loaded) (fun c hc => hc) hy

theorem State.ctx_bindFeeders (s : State) (n : Nat) (fs : List Feeder) {t : Site} {l : Leaf} {d : BitVec 4}
    (h : (∀ b : BankId, (s.ctx t l).banks[b].gdepth = d) ∧ (s.ctx t l).Loaded) :
    (∀ b : BankId, ((s.bindFeeders n fs).ctx t l).banks[b].gdepth = d) ∧ ((s.bindFeeders n fs).ctx t l).Loaded := by
  unfold State.bindFeeders
  refine List.foldlRecOn (motive := fun y : State => (∀ b : BankId, (y.ctx t l).banks[b].gdepth = d) ∧ (y.ctx t l).Loaded)
    _ _ h (fun y hy p _ => ?_)
  exact y.keeps_onCtx (Q := fun c => (∀ b : BankId, c.banks[b].gdepth = d) ∧ c.Loaded)
    (fun c hc => ⟨hc.1, LeafCtx.loaded_bind hc.2 _ _⟩) hy

/-- The start of a graph one of whose owned pages fails. -/
theorem State.startGraph_bad {s : State} {x : Start} {gi : Nat} {g : Graph} {mt : Site} {f : XFault} {va : Nat}
    (h : s.ownersBad g.mts = some (mt, f, va)) :
    s.startGraph x gi g = (s.finish x.slot false 8).notify (siteDie mt) g.part
      (refusedRecord g.part mt (s.asidOfPart g.part) f va) := by
  rw [State.startGraph, h]

/-! ## The entries of the launch table -/

/-- A change of one entry leaves another. -/
theorem State.entry_onEntry_ne (s : State) (f : LaunchEntry → LaunchEntry) {n m : Nat} (h : m ≠ n) :
    (s.onEntry n f).entry m = s.entry m :=
  FMap.get_set_ne _ _ _ h.symm

theorem LaunchEntry.state_setState (e : LaunchEntry) (x : BitVec 2) : (e.setState x).state = x := by
  simp only [LaunchEntry.state, LaunchEntry.setState]
  ext i hi
  interval_cases i <;> simp

theorem LaunchEntry.preds_setState (e : LaunchEntry) (x : BitVec 2) : (e.setState x).preds = e.preds := by
  simp only [LaunchEntry.preds, LaunchEntry.setState]
  ext i hi
  interval_cases i <;> simp

theorem LaunchEntry.preds_setPreds (e : LaunchEntry) (x : BitVec 12) : (e.setPreds x).preds = x := by
  simp only [LaunchEntry.preds, LaunchEntry.setPreds]
  ext i hi
  interval_cases i <;> simp

theorem LaunchEntry.state_setPreds (e : LaunchEntry) (x : BitVec 12) : (e.setPreds x).state = e.state := by
  simp only [LaunchEntry.state, LaunchEntry.setPreds]
  ext i hi
  interval_cases i <;> simp

theorem LaunchEntry.v_setPreds (e : LaunchEntry) (x : BitVec 12) : (e.setPreds x).v = e.v := by
  simp [LaunchEntry.v, LaunchEntry.setPreds]

/-- An entry without successors only becomes DONE. -/
theorem State.completeEntry_alone {s : State} {n : Nat} (h1 : (s.entry n).w2.getLsbD 31 = false)
    (h0 : (s.entry n).w2.getLsbD 15 = false) : s.completeEntry n = s.onEntry n (fun e => e.setState 3) := by
  simp only [State.completeEntry, h1, h0, Bool.false_eq_true, if_false]

/-- An entry with one successor counts it down. -/
theorem State.completeEntry_one {s : State} {n : Nat} (h1 : (s.entry n).w2.getLsbD 31 = true)
    (h0 : (s.entry n).w2.getLsbD 15 = false) :
    s.completeEntry n = (s.onEntry n (fun e => e.setState 3)).decrement ((s.entry n).w2.extractLsb' 16 12).toNat s.orders := by
  simp only [State.completeEntry, h1, h0, Bool.false_eq_true, if_false, if_true]

/-- A READY entry takes its place in the order. -/
theorem State.entry_makeReady (s : State) (n o : Nat) :
    (s.makeReady n o).entry n = { (s.entry n).setState 1 with order := o } :=
  FMap.get_set_same _ _ _ _

/-- The last predecessor of a WAITING entry makes it READY. -/
theorem State.entry_decrement_last {s : State} {m o : Nat} (hv : (s.entry m).v = true) (hs : (s.entry m).state = 0)
    (hp : (s.entry m).preds = 1) :
    (s.decrement m o).entry m = { ((s.entry m).setPreds 0).setState 1 with order := o } := by
  have he : (s.onEntry m (fun e => e.setPreds (if e.preds = 0 then 0 else e.preds - 1))).entry m = (s.entry m).setPreds 0 := by
    rw [State.entry_onEntry, hp]
    rfl
  have hready : ((s.entry m).setPreds 0).v && ((s.entry m).setPreds 0).state == 0 && ((s.entry m).setPreds 0).preds == 0 := by
    rw [LaunchEntry.v_setPreds, LaunchEntry.state_setPreds, LaunchEntry.preds_setPreds, hv, hs]
    rfl
  rw [State.decrement, State.readyCheck, he, if_pos hready]
  rw [State.entry_makeReady, he]

/-! ## Feeders -/

section Feeders
variable {f : Feeder} {gran slot : Nat} {depth : BitVec 4} {a b : Nat} {rest : List (Nat × Nat)}

/-- A feeder with more than GRAN indices left in its first range cuts GRAN of them off. -/
theorem Feeder.token_part (h : f.left = (a, b) :: rest) (hg : a + gran < b) :
    ∃ tok, f.token gran slot depth = some (tok, { f with left := (a + gran, b) :: rest, tag := f.tag + 1 }) ∧
      tok.side.kind = 0 ∧ tok.side.bank = f.tag ∧ tok.side.null = false := by
  have hn : min gran (b - a) = gran := by omega
  simp only [Feeder.token, h, hn, if_pos hg]
  exact ⟨_, rfl, rfl, rfl, rfl⟩

/-- A feeder with at most GRAN indices left in its first range takes the rest of it. -/
theorem Feeder.token_last (h : f.left = (a, b) :: rest) (hab : a < b) (hg : b ≤ a + gran) :
    ∃ tok, f.token gran slot depth = some (tok, { f with left := rest, tag := f.tag + 1 }) ∧ tok.side.kind = 0 := by
  have hn : min gran (b - a) = b - a := by omega
  have hend : ¬ a + (b - a) < b := by omega
  simp only [Feeder.token, h, hn, if_neg hend]
  exact ⟨_, rfl, rfl⟩

/-- A feeder without indices publishes the end of its stream once. -/
theorem Feeder.token_eos (h : f.left = []) (he : f.eos = false) :
    ∃ tok, f.token gran slot depth = some (tok, { f with eos := true, tag := f.tag + 1 }) ∧ tok.side.kind = 2 := by
  simp only [Feeder.token, h, he, Bool.false_eq_true, if_false]
  exact ⟨_, rfl, rfl⟩

/-- A feeder that has ended its stream publishes nothing. -/
theorem Feeder.token_none (h : f.left = []) (he : f.eos = true) : f.token gran slot depth = none := by
  simp only [Feeder.token, h, he, if_true]

end Feeders

/-- The shares of `n` dies begin where the range begins and end where it ends. -/
theorem shareOf_ends (first count : W32) {n : Nat} (h : 0 < n) :
    (shareOf first count n 0).1 = first.toNat ∧ (shareOf first count n (n - 1)).2 = first.toNat + count.toNat := by
  have h1 : n - 1 + 1 = n := by omega
  simp only [shareOf, h1, Nat.mul_zero, Nat.zero_div, Nat.add_zero, Nat.mul_div_cancel _ h, and_self]

/-! ## The events -/

section Publish
variable {s : State} {n : Nat} {l : Launch} {f f1 : Feeder} {g : Graph} {tok : Token}

/-- A feeder publishes one token a cycle. -/
theorem indexTokenPublish_published (hl : s.launches.find? (fun l => l.slot == n / 4096) = some l)
    (hf : l.feeders[n % 4096]? = some f) (hg : s.graph l.graph = some g)
    (hp : f.published = s.dies[f.die].cycle.toNat + 1) : exec (.indexTokenPublish n) s = .next s := by
  change execIndexTokenPublish n s = _
  simp only [execIndexTokenPublish, hl, hf, hg, hp, or_true, if_true]

/-- A feeder with a free slot publishes its next token. -/
theorem indexTokenPublish_publishes (hl : s.launches.find? (fun l => l.slot == n / 4096) = some l)
    (hf : l.feeders[n % 4096]? = some f) (hg : s.graph l.graph = some g) (he : s.election = false)
    (hstop : s.partStopped g.part f.die = false) (hfen : s.fenced f.die = false) (hst : l.stranded = false)
    (h0 : f.out.e ≠ 0) (hp : f.published ≠ s.dies[f.die].cycle.toNat + 1)
    (ht : f.token s.dies[f.die].granule l.slot l.depth = some (tok, f1)) :
    let f2 := { f1 with out := { f.out with w := (f.out.w + 1) % f.out.depth, e := f.out.e - 1 },
                        published := s.dies[f.die].cycle.toNat + 1 }
    exec (.indexTokenPublish n) s = .next (({ s with launches := s.launches.map (fun y =>
      if y.slot = l.slot then { y with feeders := y.feeders.set (n % 4096) f2 } else y) } : State).toTrigger f.tile f.leaf f.ch
        { src := .feeder f.die n, part := g.part, leaf := f.leaf, graph := l.graph, body := .publish f.out.w tok false }) := by
  change execIndexTokenPublish n s = _
  simp only [execIndexTokenPublish, hl, hf, hg, he, hstop, hfen, hst, h0, hp, ht, Bool.false_eq_true, or_self, if_false]

/-- What reaches a trigger channel stands last at its port. -/
theorem State.port_toTrigger (s : State) (t : Site) (l : Leaf) (ch : Fin 8) (i : Item) :
    ((s.toTrigger t l ch i).ctx t l).inp[ch].port = (s.ctx t l).inp[ch].port ++ [⟨i, s.cycleAt t + 1⟩] := by
  rw [State.toTrigger, State.ctx_onCtx]
  simp

end Publish

section End
variable {s : State} {n : Nat} {l : Launch} {g : Graph}

/-- A die whose portion is complete reports its share. -/
theorem dieShareReport_reports {d : DieId} (hl : s.launches.find? (fun l => l.slot == n) = some l)
    (hg : s.graph l.graph = some g) (hf : s.fenced d = false) (hp : s.portionDone d l g = true)
    (hh : s.partHeld g.part = false) : exec (.dieShareReport d n) s =
      .next (s.onLaunchOf l.graph (fun y => { y with reports := y.reports ||| (1#4 <<< d.val) })) := by
  change execDieShareReport d n s = _
  simp only [execDieShareReport, hl, hg, hf, hp, hh, Bool.not_false, Bool.and_self, if_true]

/-- A launch is due when every report stands and holds, the totals agree and nothing is left. -/
theorem State.graphDue_of (hr : l.reports = 0xF) (hd : ∀ d : DieId, s.fenced d = true ∨ s.portionDone d l g = true)
    (hs : l.sent.toList.foldl (fun a b => a + b) 0 = l.got.toList.foldl (fun a b => a + b) 0)
    (hc : s.childless l.graph = true) (hst : l.stranded = false) (ha : s.partAway g.part = false) : s.graphDue l g = true := by
  have hall : (List.finRange 4).all (fun d => s.fenced d || s.portionDone d l g) = true :=
    List.all_eq_true.2 fun d _ => Bool.or_eq_true_iff.2 (hd d)
  simp only [State.graphDue, hr, hall, hs, hc, hst, ha, beq_self_eq_true, Bool.not_false, Bool.true_or, Bool.and_self]

/-- The end of a launch that is due: its owners write back when their pages are open, then it ends. -/
theorem graphEnd_of (hl : s.launches.find? (fun l => l.slot == n) = some l) (hg : s.graph l.graph = some g)
    (hdue : s.graphDue l g = true) :
    (l.backed = false → s.backWaits g = true → exec (.graphEnd n) s = .next s) ∧
    (l.backed = false → s.backWaits g = false → exec (.graphEnd n) s =
      .next ((s.backOwners g).onLaunchOf l.graph (fun y => { y with backed := true }))) ∧
    (l.backed = true → s.invals.any (fun v => v.part == some g.part) = false → exec (.graphEnd n) s =
      .next ((((g.tiles.foldl (fun y t => y.leaveSections t.1 t.2) s).settleEnd l.graph g).dropLaunch n).finish n true 1)) := by
  have he : exec (.graphEnd n) s = execGraphEnd n s := rfl
  rw [he]
  refine ⟨fun hb hw => ?_, fun hb hw => ?_, fun hb hi => ?_⟩
  · simp only [execGraphEnd, hl, hg, hdue, hb, hw, Bool.not_true, Bool.not_false, Bool.and_self, Bool.false_eq_true, if_false,
      if_true]
  · simp only [execGraphEnd, hl, hg, hdue, hb, hw, Bool.not_true, Bool.not_false, Bool.and_false, Bool.false_eq_true, if_false,
      if_true]
  · simp only [execGraphEnd, hl, hg, hdue, hb, State.copiesGone, hi, Bool.not_true, Bool.not_false, Bool.false_and,
      Bool.false_eq_true, if_false]

end End

section Master
variable {s : State} {n : Nat} {q : Flying} {entry : BitVec 12} {rg : W32 × W32} {dp : BitVec 4} {prio : BitVec 2} {ps : Nat}
  {nt : Bool}

/-- A launch with a good template becomes READY. -/
theorem launchAtMaster_good (hq : s.inFlight n = some q) (hb : q.req.body = .lnch entry rg dp prio ps nt)
    (hv : (s.entry entry.toNat).v = true) (hp : (s.entry entry.toNat).part = q.req.src.part) :
    exec (.launchAtMaster n) s = .next { s.land n with
      pool := s.pool.set ps ((s.poolEntry ps).map (fun p => { p with ready := true, order := s.orders, range := rg, prio := prio })),
      orders := s.orders + 1 } := by
  change execLaunchAtMaster n s = _
  simp only [execLaunchAtMaster, hq, hb, hv, hp, beq_self_eq_true, Bool.and_self, if_true]
  rfl

/-- A launch with a bad template frees its entry and is reported. -/
theorem launchAtMaster_bad (hq : s.inFlight n = some q) (hb : q.req.body = .lnch entry rg dp prio ps nt)
    (h : (s.entry entry.toNat).v = false ∨ (s.entry entry.toNat).part ≠ q.req.src.part) :
    exec (.launchAtMaster n) s = .next (((s.land n).endPool ps 8).failReq q.req .perm) := by
  have hc : ((s.entry entry.toNat).v && (s.entry entry.toNat).part == q.req.src.part) = false := by
    rcases h with h | h
    · rw [h, Bool.false_and]
    · rw [beq_false_of_ne h, Bool.and_false]
  change execLaunchAtMaster n s = _
  simp only [execLaunchAtMaster, hq, hb, hc, Bool.false_eq_true, if_false]

/-- A write of the launch table leaves the launches, the election and the dies. -/
theorem State.writeEntry_keeps (s : State) (n j : Nat) (v : W32) : (s.writeEntry n j v).launches = s.launches ∧
    (s.writeEntry n j v).election = s.election ∧ (s.writeEntry n j v).dies = s.dies := by
  have hready : ∀ (x : State) (o : Nat), (x.readyCheck n o).launches = x.launches ∧ (x.readyCheck n o).election = x.election ∧
      (x.readyCheck n o).dies = x.dies := fun x o => by
    unfold State.readyCheck
    dsimp only
    split <;> exact ⟨rfl, rfl, rfl⟩
  unfold State.writeEntry
  dsimp only
  split
  · split <;> exact ⟨rfl, rfl, rfl⟩
  · split
    · exact ⟨rfl, rfl, rfl⟩
    · exact hready _ _

/-- A record in a notice buffer leaves the master that each die knows. -/
theorem State.master_notify (s : State) (d e : DieId) (p : BitVec 6) (r : Notice) :
    (s.notify d p r).dies[e].master = s.dies[e].master := by
  by_cases h : e = d
  · subst h
    simp [State.notify, State.onNotice, State.onDie]
  · have hne : d.val ≠ e.val := fun he => h (Fin.ext he.symm)
    simp [State.notify, State.onNotice, State.onDie, Vector.getElem_set_ne, hne]

/-- What an election leaves as it set it: no election, the launches, and the master that each die knows. -/
def State.Elected (m : DieId) (ls : List Launch) (u : State) : Prop :=
  u.election = false ∧ (∀ d : DieId, u.dies[d].master = BitVec.ofNat 2 m.val) ∧ u.launches = ls

/-- The lowest live die becomes master. -/
theorem masterElection_elects {m : DieId} (he : s.election = true) (hm : s.fenced m = false)
    (hlow : ∀ d : DieId, d < m → s.fenced d = true) :
    ∃ u, exec .masterElection s = .next u ∧ u.Elected m (s.launches.map s.reissue) := by
  have hfind : (List.finRange 4).find? (fun d => !s.fenced d) = some m := by
    rw [List.find?_eq_some_iff_getElem]
    refine ⟨by rw [hm]; rfl, m.val, by simp, by simp, fun j hj => ?_⟩
    rw [hlow _ (by simpa [Fin.lt_def] using hj)]
    rfl
  change ∃ u, execMasterElection s = .next u ∧ _
  simp only [execMasterElection, he, hfind, Bool.not_true, Bool.false_eq_true, if_false]
  refine ⟨_, rfl, ?_⟩
  refine List.foldlRecOn (motive := State.Elected m (s.launches.map s.reissue)) _ _ ?_ (fun y hy w _ => ?_)
  · refine List.foldlRecOn (motive := State.Elected m (s.launches.map s.reissue)) _ _ ⟨rfl, fun d => ?_, rfl⟩
      (fun y hy w _ => ?_)
    · simp
    · obtain ⟨h1, h2, h3⟩ := hy
      split
      · split
        · exact ⟨h1, fun d => (y.master_notify _ _ _ _).trans (h2 d), h3⟩
        · exact ⟨h1, h2, h3⟩
      · exact ⟨h1, h2, h3⟩
  · obtain ⟨h1, h2, h3⟩ := hy
    obtain ⟨k1, k2, k3⟩ := y.writeEntry_keeps (w.1 / 32) (w.1 % 32 / 4) w.2
    exact ⟨k2.trans h1, fun d => by rw [k3]; exact h2 d, k1.trans h3⟩

/-- An entry or launch without indices is done at once. -/
theorem entryStart_empty {x : Start} (he : s.election = false) (hb : bestStart s.candidates = some x) (h0 : x.count = 0) :
    exec .entryStart s = .next (s.finish x.slot true 1) := by
  change execEntryStart s = _
  simp only [execEntryStart, he, hb, h0, Bool.false_eq_true, if_false, if_true]

/-- The entry or launch that goes first starts its graph. -/
theorem entryStart_starts {x : Start} {gi : Nat} {g : Graph} (he : s.election = false)
    (hb : bestStart s.candidates = some x) (h0 : x.count ≠ 0) (hgi : s.graphOf (s.entry x.entry) = some gi)
    (hg : s.graph gi = some g) : exec .entryStart s = .next ((s.running x.slot).startGraph x gi g) := by
  change execEntryStart s = _
  simp only [execEntryStart, he, hb, h0, hgi, hg, Bool.false_eq_true, if_false]

end Master

/-- Settles O55: the events under their guards, the tokens of a feeder, and the contexts and entries that a start and an end leave. -/
theorem launchEvents : Obligations.LaunchEvents := by
  refine ⟨?_, ?_, ?_⟩
  · intro s x gi n g l f f1 tok d q entry rg dp prio ps nt m sum e
    refine ⟨entryStart_empty, entryStart_starts,
      fun hl hf hg he hstop hfen hst h0 => ⟨indexTokenPublish_published hl hf hg, fun hp ht => ?_⟩,
      fun hl hg => ⟨dieShareReport_reports hl hg, fun hr hd hs hc hst ha => graphEnd_of hl hg (State.graphDue_of hr hd hs hc hst ha)⟩,
      fun hq hb => ⟨launchAtMaster_good hq hb, launchAtMaster_bad hq hb⟩, masterElection_elects⟩
    exact ⟨_, indexTokenPublish_publishes hl hf hg he hstop hfen hst h0 hp ht, State.port_toTrigger _ _ _ _ _, rfl⟩
  · intro f gran slot depth a b rest first count n i
    exact ⟨Feeder.token_part, Feeder.token_last, Feeder.token_eos, Feeder.token_none, shareOf_ends first count, rfl⟩
  · intro s x gi n m g mt f va t b ch z e c
    refine ⟨fun hgood => ?_, fun hbad => ?_, fun hn => ⟨?_, ?_⟩, fun h1 h0 => State.completeEntry_alone h1 h0,
      fun h1 h0 hm hne hv hs hp => ?_⟩
    · have hz := State.startGraph_good (x := x) (gi := gi) hgood
      dsimp only at hz
      refine ⟨⟨s.newLaunch x gi g, ?_, rfl, rfl, rfl, rfl⟩, fun ht => ?_⟩
      · simp only [z, hz, State.launches_bindFeeders, State.launches_atDepth]
      · obtain ⟨hgd, hload⟩ := State.ctx_bindFeeders _ x.slot (s.newLaunch x gi g).feeders (s.ctx_atDepth x gi g ht)
        have hc : c = ((s.atDepth x gi g).bindFeeders x.slot (s.newLaunch x gi g).feeders).ctx t.1 t.2 := by
          simp only [c, z, hz]
          rfl
        rw [hc]
        obtain ⟨⟨i1, i2, i3, i4, i5⟩, o1, o2, o3, o4⟩ := hload ch
        exact ⟨hgd b, i1, i2, i3, i4, i5, o1, o2, o3, o4⟩
    · have hz : z = _ := State.startGraph_bad hbad
      rw [hz]
      exact ⟨s.launches_finish_killed x.slot 8, fun hx => s.entry_finish_killed x.slot 8 hx⟩
    · exact if_pos hn
    · exact if_pos hn
    · have hm1 : (s.onEntry n (fun e => e.setState 3)).entry m = s.entry m := s.entry_onEntry_ne _ hne
      have hy : (s.completeEntry n).entry m = { ((s.entry m).setPreds 0).setState 1 with order := s.orders } := by
        rw [State.completeEntry_one h1 h0, hm, State.entry_decrement_last (by rw [hm1]; exact hv) (by rw [hm1]; exact hs)
          (by rw [hm1]; exact hp), hm1]
      dsimp only
      rw [hy]
      exact ⟨LaunchEntry.state_setState _ _, (LaunchEntry.preds_setState _ _).trans (LaunchEntry.preds_setPreds _ _), rfl, rfl⟩

end Sys2Proof.Machine
end

section
/-!
SUPPORT. Swap-out and restore of a partition (O57).
-/
namespace Sys2Proof.Machine

/-! ## What the events of a swap leave -/

/-- The partitions, the swaps in progress and the swap bits of the cores are as they were. -/
def State.SwapSame (s u : State) : Prop :=
  u.parts = s.parts ∧ u.swaps = s.swaps ∧ ∀ k : CoreId, u.cores[k].swstat = s.cores[k].swstat

/-- Every tile runs the leaf that it ran, and the saved contexts are the same. -/
def State.StandsAs (s u : State) : Prop :=
  ∀ t, (u.tile t).running = (s.tile t).running ∧ ∀ l, (u.ctx t l).saved = (s.ctx t l).saved

/-- What the delivery of an event to a context leaves as it was. -/
def State.Stays (s u : State) : Prop := s.SwapSame u ∧ s.StandsAs u

theorem State.SwapSame.refl (s : State) : s.SwapSame s := ⟨rfl, rfl, fun _ => rfl⟩

theorem State.SwapSame.trans {s u v : State} (h1 : s.SwapSame u) (h2 : u.SwapSame v) : s.SwapSame v := by
  obtain ⟨a1, a2, a3⟩ := h1
  obtain ⟨b1, b2, b3⟩ := h2
  exact ⟨b1.trans a1, b2.trans a2, fun k => (b3 k).trans (a3 k)⟩

theorem State.SwapSame.foldl {α : Type} {f : State → α → State} (hf : ∀ (s : State) a, s.SwapSame (f s a)) :
    ∀ (l : List α) (s : State), s.SwapSame (l.foldl f s)
  | [], s => .refl s
  | a :: l, s => (hf s a).trans (State.SwapSame.foldl hf l (f s a))

theorem State.StandsAs.refl (s : State) : s.StandsAs s := fun _ => ⟨rfl, fun _ => rfl⟩

theorem State.StandsAs.trans {s u v : State} (h1 : s.StandsAs u) (h2 : u.StandsAs v) : s.StandsAs v :=
  fun t => ⟨(h2 t).1.trans (h1 t).1, fun l => ((h2 t).2 l).trans ((h1 t).2 l)⟩

theorem State.Stays.refl (s : State) : s.Stays s := ⟨.refl s, .refl s⟩

theorem State.Stays.trans {s u v : State} (h1 : s.Stays u) (h2 : u.Stays v) : s.Stays v :=
  ⟨h1.1.trans h2.1, h1.2.trans h2.2⟩

theorem State.Stays.foldl {α : Type} {f : State → α → State} (hf : ∀ (s : State) a, s.Stays (f s a)) :
    ∀ (l : List α) (s : State), s.Stays (l.foldl f s)
  | [], s => .refl s
  | a :: l, s => (hf s a).trans (State.Stays.foldl hf l (f s a))

/-- A change of other fields of the state. -/
theorem State.stays_of {s u : State} (hp : u.parts = s.parts) (hw : u.swaps = s.swaps) (hc : u.cores = s.cores)
    (ht : u.tiles = s.tiles) : s.Stays u :=
  ⟨⟨hp, hw, fun k => by rw [hc]⟩, fun t => ⟨by rw [State.tile, ht]; rfl, fun l => by rw [State.ctx, State.tile, ht]; rfl⟩⟩

section Operations
variable (s : State) (t : Site) (l : Leaf)

theorem State.stays_onTile {f : Tile → Tile} (hr : ∀ x, (f x).running = x.running)
    (hs : ∀ x (l : Leaf), (f x).ctx[l].saved = x.ctx[l].saved) : s.Stays (s.onTile t f) := by
  refine ⟨⟨rfl, rfl, fun _ => rfl⟩, fun u => ?_⟩
  by_cases hu : u = t
  · subst hu
    simp only [State.ctx, State.tile_onTile]
    exact ⟨hr _, hs _⟩
  · simp [State.ctx, s.tile_onTile_ne t u f hu]

theorem State.stays_onCtx {f : LeafCtx → LeafCtx} (hf : ∀ c, (f c).saved = c.saved) : s.Stays (s.onCtx t l f) := by
  refine s.stays_onTile t (fun x => rfl) (fun x m => ?_)
  by_cases h : m = l
  · subst h
    simp [Tile.onCtx, hf]
  · have hne : l.val ≠ m.val := fun e => h (Fin.ext e.symm)
    simp [Tile.onCtx, Vector.getElem_set_ne, hne]

theorem State.stays_onBank (b : BankId) (f : Bank → Bank) : s.Stays (s.onBank t l b f) :=
  s.stays_onCtx t l (fun _ => rfl)

theorem State.stays_takeFault (b : BankId) (w : W32) (f : FaultInfo) : s.Stays (s.takeFault t l b w f) :=
  (s.stays_onBank t l b (fun k => k.fault w f)).trans (State.stays_of rfl rfl rfl rfl)

theorem State.stays_reenter (b : BankId) : s.Stays (s.reenter t l b) := by
  unfold State.reenter
  dsimp only
  split
  · exact s.stays_onBank t l b _
  · exact s.stays_takeFault t l b _ _

theorem State.stays_startBank (b : BankId) (entry : Nat) : s.Stays (s.startBank t b entry) :=
  (s.stays_onBank t _ b _).trans (State.stays_onTile _ t (fun _ => rfl) (fun _ _ => rfl))

/-! ## Umbra keys (R293, R294, R370) -/

theorem State.stays_onLeafFor (part : BitVec 6) (f : MtLeaf → MtLeaf) : s.Stays (s.onLeafFor part t l f) := by
  unfold State.onLeafFor
  split <;> exact State.stays_of rfl rfl rfl rfl

theorem State.stays_grantTo (src : Sender) (key seq : W32) (p : Bool) : s.Stays (s.grantTo t l src key seq p) := by
  unfold State.grantTo
  extract_lets
  split <;> exact State.stays_of rfl rfl rfl rfl

theorem State.stays_leaveKey (part : BitVec 6) (key : W32) (p : Bool) : s.Stays (s.leaveKey part t l key p) := by
  dsimp only [State.leaveKey, State.advanceKey]
  split
  · exact s.stays_onLeafFor t l part _
  · exact (s.stays_onLeafFor t l part _).trans (State.stays_grantTo _ t l _ _ _ _)

theorem State.stays_leaveGrant (g : Grant) : s.Stays (s.leaveGrant g) := by
  unfold State.leaveGrant
  split
  · exact s.stays_leaveKey _ _ _ _ _
  · exact .refl s

theorem State.stays_leaveSections : s.Stays (s.leaveSections t l) := by
  unfold State.leaveSections
  refine State.Stays.foldl (fun y b => State.Stays.foldl (fun z j => ?_) _ y) _ s
  dsimp only
  split
  · split
    · exact (z.stays_onBank t l b _).trans (State.stays_leaveKey _ _ _ _ _ _)
    · exact z.stays_onBank t l b _
  · exact .refl z

theorem State.stays_killCtx (lost : Fin 8 → Nat) : s.Stays (s.killCtx t l lost) := by
  refine (s.stays_leaveSections t l).trans ((s.leaveSections t l).stays_onTile t (fun x => rfl) (fun x m => ?_))
  by_cases h : m = l
  · subst h
    simp [Tile.killLeaf, Tile.onCtx, LeafCtx.kill]
  · have hne : l.val ≠ m.val := fun e => h (Fin.ext e.symm)
    simp [Tile.killLeaf, Tile.onCtx, Vector.getElem_set_ne, hne]

/-! ## The delivery of what was recorded for a context (R355) -/

theorem State.stays_grantArrival (i : Nat) : s.Stays (afterEvent s (execUmbraGrantArrival i s)) := by
  unfold execUmbraGrantArrival
  split
  · exact .refl s
  · dsimp only
    split
    · exact .refl s
    · split
      · exact State.stays_of rfl rfl rfl rfl
      · split
        · split
          · exact (State.stays_of rfl rfl rfl rfl).trans (State.stays_onBank _ _ _ _ _)
          · exact (State.stays_of rfl rfl rfl rfl).trans (State.stays_leaveGrant _ _)
        · exact (State.stays_of rfl rfl rfl rfl).trans (State.stays_leaveGrant _ _)

theorem Tile.running_putScratch (x : Tile) (a n v : Nat) : (x.putScratch a n v).running = x.running := rfl

theorem State.stays_fillResponse (ch : Fin 8) (tok : Token) (f : InCh → InCh) : s.Stays (s.fillResponse t l ch tok f) := by
  unfold State.fillResponse
  dsimp only
  refine State.Stays.trans ?_ (State.stays_onCtx _ t l (fun _ => rfl))
  exact s.stays_onTile t (fun x => Tile.running_putScratch x _ _ _) (fun x l => by rw [Tile.ctx_putScratch])

theorem State.stays_withdrawReport (g : Nat) (d : DieId) : s.Stays (s.withdrawReport g d) := State.stays_of rfl rfl rfl rfl

theorem State.stays_readyDelivery (i : Nat) : s.Stays (afterEvent s (execReadyTokenDelivery i s)) := by
  unfold execReadyTokenDelivery
  split
  · exact .refl s
  · split
    · exact .refl s
    · split
      · exact State.stays_of rfl rfl rfl rfl
      next r _ _ _ =>
        have h1 : s.Stays { s with ready := s.ready.eraseIdx i } := State.stays_of rfl rfl rfl rfl
        exact h1.trans ((State.stays_fillResponse _ r.tile r.leaf r.ch r.tok _).trans (State.stays_withdrawReport _ _ _))

theorem State.stays_arrive (r : Report) : s.Stays (s.arrive r) := by
  unfold State.arrive
  refine State.Stays.trans ?_ (State.stays_takeFault _ _ _ _ _ _)
  split
  · exact (State.stays_of rfl rfl rfl rfl).trans (State.stays_onBank _ _ _ _ _)
  · exact State.stays_of rfl rfl rfl rfl

theorem State.stays_reportArrival (i : Nat) : s.Stays (afterEvent s (execAsyncReportArrival i s)) := by
  unfold execAsyncReportArrival
  split
  · exact .refl s
  next r _ =>
    simp only [happens, afterEvent]
    split
    · exact (State.stays_of rfl rfl rfl rfl : s.Stays { s with reports := s.reports.eraseIdx i }).trans (State.stays_arrive _ r)
    · exact .refl s

theorem State.stays_deliverOne {u : State} (h : s.deliverOne t l = some u) : s.Stays u := by
  unfold State.deliverOne at h
  split at h
  · obtain rfl := Option.some.inj h
    exact s.stays_grantArrival _
  · split at h
    · obtain rfl := Option.some.inj h
      exact s.stays_readyDelivery _
    · split at h
      · obtain rfl := Option.some.inj h
        exact s.stays_reportArrival _
      · cases h

theorem State.stays_deliverPending (n : Nat) : s.Stays (s.deliverPending t l n) := by
  induction n generalizing s with
  | zero => exact .refl s
  | succ n ih =>
    unfold State.deliverPending
    split
    next u hu => exact (s.stays_deliverOne t l hu).trans (ih u)
    · exact .refl s

theorem State.stays_deliverFiring : s.Stays (s.deliverFiring t l) := by
  have h1 : s.Stays (s.onCtx t l (fun c => { c with fireHeld := none })) := s.stays_onCtx t l (fun _ => rfl)
  unfold State.deliverFiring
  dsimp only
  split
  · split
    · exact h1.trans (State.stays_startBank _ _ _ _)
    · exact h1
  · exact h1

/-- The episodes that completed meanwhile let the banks of a context go on, which stays saved or not. -/
theorem LeafCtx.saved_goOns (c : LeafCtx) (ns : List (Fin 5)) :
    (ns.foldl (fun x n => if c.barDone.getLsbD n.val then x.goOn n else x) c).saved = c.saved :=
  List.foldlRecOn (motive := fun x : LeafCtx => x.saved = c.saved) ns _ rfl
    (fun x hx n _ => by split <;> exact hx)

theorem State.stays_deliverAll : s.Stays (s.deliverAll t l) := by
  unfold State.deliverAll
  extract_lets grant token s1 s2
  have h1 : s.Stays s1 := State.stays_of rfl rfl rfl rfl
  have h2 : s1.Stays s2 := s1.stays_deliverPending t l _
  refine ((h1.trans h2).trans ?_).trans (State.stays_deliverFiring _ t l)
  exact s2.stays_onCtx t l (fun c => c.saved_goOns _)

end Operations

/-! ## The command of a swap on a die (R353, R399) -/

section Decision
variable {s : State} {d : DieId} {w : Swap} {p : Partition}

/-- A command comes to a die once. -/
theorem swapDecision_comes {part : BitVec 6} (hw : s.swapOf part = some w) (hp : s.part part = some p)
    (hr : w.reached d = false) (hd : p.dies.contains d = true) : exec (.swapDecision d part) s =
      .next (s.onSwap part (fun w => { w with coming := w.coming ||| (1#4 <<< d.val) })) := by
  change execSwapDecision d part s = _
  simp only [execSwapDecision, hw, hp, hr, hd, Bool.not_true, Bool.false_eq_true, or_self, if_false]

/-- A command that has come takes effect; when it has reached every die, its core goes on. -/
theorem State.decideSwap_eq (hp : s.part w.part = some p) (hr : w.reached d = false)
    (hc : w.coming.getLsbD d.val = true) :
    let w1 := { w with dies := w.dies ||| (1#4 <<< d.val), cycles := w.cycles.set d s.dies[d].cycle.toNat }
    let s1 := (s.onSwap w.part (fun _ => w1)).swapDecided d w p
    s.decideSwap d w = if p.dies.all w1.reached ∧ s1.cores[w.core].busy = .swap w.part then
        s1.onCore w.core (fun c => ({ c with busy := .none } : Core).done)
      else s1 := by
  simp only [State.decideSwap, hp, hr, hc, Bool.not_true, Bool.or_self, Bool.false_eq_true, if_false]

/-- A command that has not come, or has taken effect, does nothing. -/
theorem State.decideSwap_idle (h : w.reached d = true ∨ w.coming.getLsbD d.val = false) : s.decideSwap d w = s := by
  have hc : (w.reached d || !w.coming.getLsbD d.val) = true := by
    rcases h with h | h
    · rw [h, Bool.true_or]
    · rw [h, Bool.not_false, Bool.or_true]
  unfold State.decideSwap
  split
  · rfl
  · rw [if_pos hc]

end Decision

/-! ## The markers of the ingress channels (R248, R353) -/

/-- An input channel as the decision of a swap leaves it. -/
def State.markedAt (s : State) (t : Site) (l : Leaf) (ch : Fin 8) : InCh :=
  let c := s.ctx t l
  let i := c.inp[ch]
  if !i.bound then i
  else if c.respmask.getLsbD ch.val then { i with marker := true }
  else if s.ingress t l ch then
    { i with port := i.port ++
        [⟨{ src := i.prod, part := c.part, leaf := l, graph := c.graph, body := .preempt }, s.cycleAt t + 1⟩] }
  else i

/-- The step of the decision at one input channel. -/
def State.markStep (s : State) (t : Site) (l : Leaf) (x : State) (ch : Fin 8) : State :=
  let c := x.ctx t l
  let i : InCh := c.inp[ch]
  if !i.bound then x
  else if c.respmask.getLsbD ch.val then
    x.onCtx t l (fun c => { c with inp := c.inp.set ch { c.inp[ch] with marker := true } })
  else if s.ingress t l ch then
    x.toTrigger t l ch { src := i.prod, part := c.part, leaf := l, graph := c.graph, body := .preempt }
  else x

theorem State.markIngress_eq (s : State) (t : Site) (l : Leaf) :
    s.markIngress t l = (List.finRange 8).foldl (s.markStep t l) s := rfl

/-- A state in which the decision of a swap has come to some input channels of a context. -/
structure State.Marking (s x : State) (t : Site) (l : Leaf) : Prop where
  part : (x.ctx t l).part = (s.ctx t l).part
  graph : (x.ctx t l).graph = (s.ctx t l).graph
  respmask : (x.ctx t l).respmask = (s.ctx t l).respmask
  dies : x.dies = s.dies

/-- An input channel that is put back as it is. -/
theorem LeafCtx.inp_set_self (c : LeafCtx) (ch : Fin 8) : { c with inp := c.inp.set ch c.inp[ch] } = c := by
  rw [Fin.getElem_fin, Vector.set_getElem_self]

/-- The step at a channel that no step has come to. -/
theorem State.ctx_markStep {s x : State} {t : Site} {l : Leaf} {ch : Fin 8} (hm : s.Marking x t l)
    (hi : (x.ctx t l).inp[ch] = (s.ctx t l).inp[ch]) :
    (s.markStep t l x ch).ctx t l = { x.ctx t l with inp := (x.ctx t l).inp.set ch (s.markedAt t l ch) } ∧
      (s.markStep t l x ch).dies = x.dies := by
  have hcyc : x.cycleAt t = s.cycleAt t := by rw [State.cycleAt, hm.dies]; rfl
  have hself := (x.ctx t l).inp_set_self ch
  simp only [State.markStep, State.markedAt, ← hi, ← hm.respmask, ← hm.part, ← hm.graph, ← hcyc]
  split
  · exact ⟨hself.symm, rfl⟩
  · split
    · exact ⟨State.ctx_onCtx _ _ _ _, rfl⟩
    · split
      · refine ⟨?_, rfl⟩
        rw [State.toTrigger, State.ctx_onCtx]
      · exact ⟨hself.symm, rfl⟩

/-- The decision at the channels of a list, each of which it comes to once. -/
theorem State.inp_foldl_markStep {s : State} {t : Site} {l : Leaf} (ch : Fin 8) :
    ∀ (chs : List (Fin 8)) (x : State), chs.Nodup → s.Marking x t l →
      (∀ k ∈ chs, (x.ctx t l).inp[k] = (s.ctx t l).inp[k]) →
      ((chs.foldl (s.markStep t l) x).ctx t l).inp[ch] = if ch ∈ chs then s.markedAt t l ch else (x.ctx t l).inp[ch] := by
  intro chs
  induction chs with
  | nil => exact fun x _ _ _ => rfl
  | cons k r ih =>
    intro x hnd hm hi
    obtain ⟨hk, hr⟩ := List.nodup_cons.1 hnd
    obtain ⟨hctx, hdies⟩ := State.ctx_markStep hm (hi k List.mem_cons_self)
    have hinp : ∀ j : Fin 8, j ≠ k → ((s.markStep t l x k).ctx t l).inp[j] = (x.ctx t l).inp[j] := fun j hj => by
      have hne : k.val ≠ j.val := fun e => hj (Fin.ext e.symm)
      rw [hctx]
      simp [Vector.getElem_set_ne, hne]
    have hm1 : s.Marking (s.markStep t l x k) t l := by
      refine ⟨?_, ?_, ?_, hdies.trans hm.dies⟩ <;> rw [hctx]
      exacts [hm.part, hm.graph, hm.respmask]
    rw [List.foldl_cons, ih _ hr hm1 fun j hj => (hinp j fun e => hk (e ▸ hj)).trans (hi j (List.mem_cons_of_mem _ hj))]
    by_cases hch : ch = k
    · subst hch
      rw [if_neg hk, if_pos List.mem_cons_self, hctx]
      simp
    · rw [hinp ch hch]
      simp [hch]

/-- What the decision of a swap leaves of each input channel of a context. -/
theorem State.inp_markIngress (s : State) (t : Site) (l : Leaf) (ch : Fin 8) :
    ((s.markIngress t l).ctx t l).inp[ch] = s.markedAt t l ch := by
  rw [State.markIngress_eq, State.inp_foldl_markStep ch _ s (List.nodup_finRange 8) ⟨rfl, rfl, rfl, rfl⟩ (fun _ _ => rfl),
    if_pos (List.mem_finRange ch)]

/-! ## The save of a tile (R205, R354) -/

section Save
variable {s : State} {t : Site} {l : Leaf}

/-- A tile whose markers have come decides to save. -/
theorem tileSave_decides (hs : (s.tile t).saving = none) (hc : s.canSave t l = true) :
    exec (.tileSave t l) s = .next (s.onTile t (fun x => { x with saving := some l, savedAt := s.cycleAt t })) := by
  change execTileSave t l s = _
  rw [execTileSave, if_neg (by rw [hs]; exact nofun), if_pos hc]

/-- The image of a tile is written when it has stopped. -/
theorem tileSave_saves (hs : (s.tile t).saving = some l) (hr : s.atRest t l = true) :
    exec (.tileSave t l) s = .next (s.saveTile t l) := by
  change execTileSave t l s = _
  rw [execTileSave, if_pos hs, if_pos hr]

theorem State.saved_saveTile (s : State) (t : Site) (l : Leaf) :
    ((s.saveTile t l).ctx t l).saved = true ∧ ((s.saveTile t l).tile t).saving = none := by
  unfold State.saveTile
  extract_lets x c0 c out c1 y x1
  have ht : ((s.setTile t { x1 with ctx := x1.ctx.set l c1 }).onSwap c.part
      (fun w => { w with tiles := w.tiles ++ [(t, l)] })).tile t = { x1 with ctx := x1.ctx.set l c1 } := FMap.get_set_same ..
  rw [State.ctx, ht]
  refine ⟨?_, rfl⟩
  rw [Fin.getElem_fin, Vector.getElem_set_self]

end Save

/-! ## The restore of a tile (R355, R357, R359, R362) -/

/-- A loaded tile runs its leaf, which is no longer saved. -/
theorem State.restored_loadTile (s : State) (t : Site) (l : Leaf) :
    ((s.loadTile t l).ctx t l).saved = false ∧ ((s.loadTile t l).tile t).running = l := by
  unfold State.loadTile
  extract_lets cycle x c x1 c1 x2 s1 s2
  have ht : (s.setTile t x2).tile t = x2 := FMap.get_set_same ..
  have h0 : ((s.setTile t x2).ctx t l).saved = false ∧ ((s.setTile t x2).tile t).running = l := by
    rw [State.ctx, ht]
    refine ⟨?_, rfl⟩
    change (x1.ctx.set l c1)[l].saved = false
    rw [Fin.getElem_fin, Vector.getElem_set_self]
  have h1 : (s.setTile t x2).Stays s1 := State.Stays.foldl (fun y b => y.stays_reenter t l b) _ _
  have h2 : (s.setTile t x2).Stays s2 := h1.trans (s1.stays_deliverAll t l)
  have h3 : ∀ u, (s.setTile t x2).Stays u → (u.ctx t l).saved = false ∧ (u.tile t).running = l := fun u hu => by
    obtain ⟨hrun, hsaved⟩ := hu.2 t
    exact ⟨(hsaved l).trans h0.1, hrun.trans h0.2⟩
  split
  · exact h3 _ (h2.trans (s2.stays_killCtx t l _))
  · exact h3 _ h2

/-- A fault of one bank leaves another bank of its context. -/
theorem State.bank_takeFault_ne (s : State) (t : Site) (l : Leaf) {b e : BankId} (w : W32) (f : FaultInfo) (h : e ≠ b) :
    (s.takeFault t l b w f).bank t l e = s.bank t l e :=
  State.bank_onBank_ne s t l b e (fun k => k.fault w f) h

/-- A bank takes the restore fault that it has, if any. -/
def State.restoreFaults (s : State) (t : Site) (l : Leaf) (b : BankId) (f : Option FaultInfo) : State :=
  match f with
  | some f => s.takeFault t l b 0 f
  | none => s

/-- The faults of a restore, one bank after another, each for once. -/
theorem State.bank_foldl_takeFault {t : Site} {l : Leaf} (rf : BankId → Option FaultInfo) {b : BankId} {f : FaultInfo}
    (hf : rf b = some f) : ∀ (bs : List BankId) (s : State), bs.Nodup →
      (bs.foldl (fun (y : State) b => y.restoreFaults t l b (rf b)) s).bank t l b = if b ∈ bs then (s.bank t l b).fault 0 f else s.bank t l b := by
  intro bs
  induction bs with
  | nil => exact fun s _ => rfl
  | cons a r ih =>
    intro s hnd
    obtain ⟨ha, hr⟩ := List.nodup_cons.1 hnd
    rw [List.foldl_cons, ih _ hr]
    by_cases hb : b = a
    · subst hb
      simp only [hf, State.restoreFaults, if_neg ha, List.mem_cons_self, if_true, State.bank_takeFault]
    · have hstep : (s.restoreFaults t l a (rf a)).bank t l b = s.bank t l b := by
        unfold State.restoreFaults
        split
        · exact s.bank_takeFault_ne t l _ _ hb
        · rfl
      rw [hstep]
      simp [hb]

/-- A tile with no restore fault is loaded. -/
theorem State.restoreTile_good {s : State} {t : Site} {l : Leaf} (h : ∀ b, s.restoreFault t l b = none) :
    s.restoreTile t l = s.loadTile t l := by
  rw [State.restoreTile, if_neg (by simp [h])]

/-- A bank with a restore fault is faulted with FLTB 0, and its tile stays unrestored. -/
theorem State.restoreTile_faulted {s : State} {t : Site} {l : Leaf} {b : BankId} {f : FaultInfo}
    (h : s.restoreFault t l b = some f) :
    (s.restoreTile t l).bank t l b = (s.bank t l b).fault 0 f ∧ s.Stays (s.restoreTile t l) := by
  have hany : (List.finRange 4).any (fun b => (s.restoreFault t l b).isSome) = true :=
    List.any_eq_true.2 ⟨b, List.mem_finRange b, by rw [h]; rfl⟩
  have heq : s.restoreTile t l =
      (List.finRange 4).foldl (fun (y : State) b => y.restoreFaults t l b (s.restoreFault t l b)) s := if_pos hany
  rw [heq]
  constructor
  · refine (State.bank_foldl_takeFault (s.restoreFault t l) h _ s (List.nodup_finRange 4)).trans ?_
    rw [if_pos (List.mem_finRange b)]
  · refine State.Stays.foldl (fun y b => ?_) _ s
    unfold State.restoreFaults
    split
    · exact y.stays_takeFault t l b _ _
    · exact .refl y

/-- The restore of a tile is noted in its swap. -/
def State.noteRestored (s : State) (w : Swap) (t : Site) (l : Leaf) : State :=
  s.onSwap w.part (fun w => { w with tiles := w.tiles ++ [(t, l)] })

section Restore
variable {s : State} {t : Site} {l : Leaf} {w : Swap}

/-- A record in place is loaded, when no error stands in it or in its context area. -/
theorem restoreAtTile_loads (hw : s.restoreFor t l = some w) (hs : (s.ctx t l).saved = true) (hm : w.memory = none)
    (hst : s.stashOf w.part t l = none) (hr : s.recordBad t l none = none) (ha : s.areaBad t (s.ctx t l).areaBase = none) :
    exec (.restoreAtTile t l) s = .next ((s.noteRestored w t l).restoreTile t l) := by
  have hs1 : ∀ f, ((s.onSwap w.part f).ctx t l) = s.ctx t l := fun _ => rfl
  change execRestoreAtTile t l s = _
  simp only [State.noteRestored, execRestoreAtTile, hw, hst, hm, Option.map_none, Option.any_none, State.addLate, hs1, hs, hr, ha, Bool.not_true,
    Bool.false_eq_true, if_false]

/-- A record that a fenced die keeps from its tile is waited for. -/
theorem restoreAtTile_waits {p : Partition} {pa : Nat} (hw : s.restoreFor t l = some w) (hp : s.part w.part = some p)
    (hm : w.memory = some pa)
    (h : (placeOf (pa + 65536 * p.tiles.findIdx (fun u => u == (t, l)))).die.any s.fenced = true ∨
      s.pathShut (siteDie t) (pa + 65536 * p.tiles.findIdx (fun u => u == (t, l))) = true) :
    exec (.restoreAtTile t l) s = .next s := by
  have hshut : (s.homeFenced (pa + 65536 * p.tiles.findIdx (fun u => u == (t, l))) ||
      s.pathShut (siteDie t) (pa + 65536 * p.tiles.findIdx (fun u => u == (t, l)))) = true := Bool.or_eq_true_iff.2 h
  change execRestoreAtTile t l s = _
  simp only [execRestoreAtTile, hw, hp, hm, Option.map_some, Option.getD_some, Option.any_some, hshut, if_true]

end Restore

/-! ## The end of a swap (R354, R358, R359, R399) -/

/-- An access on its way leaves the partitions, the swaps and the swap bits. -/
theorem State.Passed.swapSame {s u : State} (h : s.Passed u) : s.SwapSame u := by
  obtain ⟨hbeside, hcores, -⟩ := h
  exact ⟨(congrArg State.parts hbeside :), (congrArg State.swaps hbeside :), fun k => by rw [hcores k]⟩

section EndSwap
variable (s : State)

theorem State.swapSame_putHome (pa n v : Nat) (part : Option (BitVec 6)) : s.SwapSame (s.putHome pa n v part) := by
  obtain ⟨u, hu, heq⟩ := s.passed_putHome pa n v part
  rw [heq]
  exact hu.swapSame.trans ⟨rfl, rfl, fun _ => rfl⟩

theorem State.swapSame_recordOut (t : Site) (l : Leaf) (pa n : Nat) : s.SwapSame (s.recordOut t l pa n) := by
  induction n generalizing s with
  | zero => exact .refl s
  | succ n ih =>
    unfold State.recordOut
    exact (s.swapSame_putHome _ _ _ _).trans (ih _)

theorem State.swapSame_setSigs (t : Site) (c : LeafCtx) (q : FMap (Option W64)) : s.SwapSame (s.setSigs t c q) := by
  unfold State.setSigs
  split <;> exact ⟨rfl, rfl, fun _ => rfl⟩

theorem State.swapSame_sendOut (part : BitVec 6) (pa n : Nat) (t : Site × Leaf) : s.SwapSame (s.sendOut part pa n t) := by
  unfold State.sendOut
  extract_lets s1 c m key grant token report x s2
  have h1 : s.SwapSame s1 := by
    dsimp only [s1]
    split
    · exact .refl s
    · exact s.swapSame_recordOut _ _ _ _
  have h2 : s1.SwapSame s2 := ⟨rfl, rfl, fun _ => rfl⟩
  exact ((h1.trans h2).trans (s2.swapSame_setSigs t.1 c [])).trans ⟨rfl, rfl, fun _ => rfl⟩

/-- The partition that a swap is of, and the swaps, as its end leaves them before it tells its core. -/
def State.swapDone (s : State) (w : Swap) (p : Partition) : State :=
  let left := w.restore && p.tiles.any (fun t => (s.ctx t.1 t.2).saved)
  ({ s with swaps := s.swaps.filter (fun x => x.part != w.part) } : State).onPart w.part
    (fun p => { p with swapped := !w.restore || left, inMemory := (!w.restore || left) && w.memory.isSome })

/-- The end of a swap tells the core that gave the command, after steps that leave the partitions and the swaps. -/
theorem State.endSwap_eq (w : Swap) (p : Partition) :
    ∃ z, (s.swapDone w p).SwapSame z ∧ s.endSwap w p = z.tellSwap w := by
  have hmts : ∀ (y : State), y.SwapSame (p.mts.foldl (fun x m =>
      (x.onMtLeaf m.1 m.2 (fun f => { f with occupied := false })).onMt m.1 (fun y =>
        { y with ebuf := y.ebuf.set m.2 (y.ebuf[m.2].map (fun b => { b with preempt := none })) })) y) := fun y => by
    refine State.SwapSame.foldl (fun x m => ?_) p.mts y
    exact ⟨rfl, rfl, fun _ => rfl⟩
  unfold State.endSwap
  refine ⟨_, ?_, rfl⟩
  dsimp only
  split
  · exact .refl _
  · split
    · split
      · refine State.SwapSame.trans (State.SwapSame.trans (hmts _) (State.SwapSame.foldl (fun x t => ?_) _ _))
          (State.SwapSame.foldl (fun x m => ?_) _ _)
        · exact x.swapSame_sendOut _ _ _ _
        · exact ⟨rfl, rfl, fun _ => rfl⟩
      · exact hmts _
    · refine State.SwapSame.trans ⟨rfl, rfl, fun _ => rfl⟩ (State.SwapSame.foldl (fun x t => ?_) _ _)
      exact (x.stays_deliverAll t.1 t.2).1

theorem State.tellSwap_keeps (w : Swap) : (s.tellSwap w).parts = s.parts ∧ (s.tellSwap w).swaps = s.swaps := by
  unfold State.tellSwap
  split <;> exact ⟨rfl, rfl⟩

/-- The core that commanded a swap learns of its end. -/
theorem State.tellSwap_tells {w : Swap} (h : s.cores[w.core].swstat.getLsbD w.part.toNat = true) :
    (s.tellSwap w).cores[w.core].swstat.getLsbD w.part.toNat = false ∧
      (s.tellSwap w).cores[w.core].evpend.getLsbD 2 = true := by
  have hp := w.part.isLt
  rw [State.tellSwap, if_pos h]
  simp [State.onCore, Core.raise]

end EndSwap

/-- The end of a swap, at its partition, among the swaps and at its core. -/
theorem State.endSwap_spec (s : State) (w : Swap) (p : Partition) :
    (s.endSwap w p).parts = (s.swapDone w p).parts ∧ (s.endSwap w p).swaps = s.swaps.filter (fun x => x.part != w.part) ∧
      (s.cores[w.core].swstat.getLsbD w.part.toNat = true →
        (s.endSwap w p).cores[w.core].swstat.getLsbD w.part.toNat = false ∧
          (s.endSwap w p).cores[w.core].evpend.getLsbD 2 = true) := by
  obtain ⟨z, ⟨hparts, hswaps, hsw⟩, hz⟩ := s.endSwap_eq w p
  obtain ⟨tparts, tswaps⟩ := z.tellSwap_keeps w
  rw [hz]
  refine ⟨tparts.trans hparts, tswaps.trans hswaps, fun h => z.tellSwap_tells ?_⟩
  rw [hsw]
  exact h

/-- The partition after the end of its swap. -/
theorem State.part_endSwap {s : State} {w : Swap} {p : Partition} (h : s.part w.part = some p) :
    let left := w.restore && p.tiles.any (fun t => (s.ctx t.1 t.2).saved)
    (s.endSwap w p).part w.part =
      some { p with swapped := !w.restore || left, inMemory := (!w.restore || left) && w.memory.isSome } := by
  intro left
  obtain ⟨hparts, -, -⟩ := s.endSwap_spec w p
  have hp : ({ s with swaps := s.swaps.filter (fun x => x.part != w.part) } : State).part w.part = some p := h
  rw [State.part, hparts, State.swapDone, State.onPart, FMap.get_set_same, hp]
  rfl

/-- Settles O57: the decision channel by channel, the save and the restore of a tile, and an end that leaves the partition, the swaps
and the swap bits as its first step sets them. -/
theorem swapEvents : Obligations.SwapEvents := by
  intro s d part w p t l ch b pa w1
  refine ⟨swapDecision_comes, fun hp hr hc => ⟨fun hall => ?_, fun hall => ?_⟩, State.decideSwap_idle, ?_, tileSave_decides,
    fun hs hr => ?_, fun hw hs hm hst hr ha => ?_, fun hw hp hm => restoreAtTile_waits hw hp hm, fun hw hp hdone => ?_, ?_⟩
  · rw [State.decideSwap_eq hp hr hc, if_neg (fun h => Bool.false_ne_true (hall.symm.trans h.1))]
  · intro s1 hb hpc
    rw [State.decideSwap_eq hp hr hc, if_pos ⟨hall, hb⟩]
    exact State.onCore_done (f := fun c => { c with busy := .none }) rfl hpc
  · intro c i j marker
    have hj : j = s.markedAt t l ch := s.inp_markIngress t l ch
    refine ⟨fun hb hm => ?_, fun hb hm hi => ?_, fun h => ?_, ?_⟩
    · simp only [hj, State.markedAt, c, i] at *
      simp only [hb, hm, Bool.not_true, Bool.false_eq_true, if_false, if_true]
    · simp only [hj, State.markedAt, c, i] at *
      simp only [hb, hm, hi, Bool.not_true, Bool.false_eq_true, if_false, if_true]
      rfl
    · simp only [hj, State.markedAt, c, i] at *
      rcases h with hb | ⟨hm, hi⟩
      · simp only [hb, Bool.not_false, if_true]
      · simp only [hm, hi, Bool.false_eq_true, if_false, ite_self]
    · rw [State.markClassPort, State.ctx_onCtx]
  · obtain ⟨h1, h2⟩ := s.saved_saveTile t l
    exact ⟨_, tileSave_saves hs hr, h1, h2, rfl, rfl, rfl⟩
  · refine ⟨_, restoreAtTile_loads hw hs hm hst hr ha, fun hf => ?_, fun f hf hb => ?_⟩
    · rw [State.restoreTile_good (s := s.noteRestored w t l) hf]
      exact State.restored_loadTile _ t l
    · obtain ⟨hbank, -, hstands⟩ := State.restoreTile_faulted (s := s.noteRestored w t l) hf
      refine ⟨((hstands t).2 l).trans hs, ?_⟩
      rw [hbank, Bank.fault_first (b := (s.noteRestored w t l).bank t l b) hb]
      exact ⟨rfl, rfl, rfl⟩
  · have he : exec (.swapComplete part) s = happens
        (!(!w.restore && w.memory.any (s.imageShut part)) && (if w.restore then s.restoreDone w p else s.swapOutDone w p)) s
        (s.endSwap w p) := by
      change execSwapComplete part s = _
      simp only [execSwapComplete, hw, hp]
    refine ⟨fun h => ?_, fun hrest h => ?_⟩
    · rw [he, hdone, happens]
      rcases h with h | h <;> simp [h]
    · rw [he, happens, hrest, h]
      rfl
  · intro u
    obtain ⟨-, hswaps, htell⟩ := s.endSwap_spec w p
    refine ⟨fun hp => ⟨fun hr => ?_, fun hr hall => ?_⟩, fun x hx => ?_, htell⟩
    · refine (State.part_endSwap hp).trans ?_
      simp [hr]
    · refine (State.part_endSwap hp).trans ?_
      have hnone : p.tiles.any (fun t => (s.ctx t.1 t.2).saved) = false := by
        rw [← Bool.not_eq_true', List.not_any_eq_all_not]
        exact hall
      simp [hr, hnone]
    · rw [hswaps] at hx
      simpa using (List.mem_filter.1 hx).2

end Sys2Proof.Machine
end
